-- ==== Sys2Proof/Word.lean ====
section
/-!
DEFINITION. The word types of the Ryuno V9: a 32-bit instruction or register word, a byte, and the lanes of a wave.
-/
namespace Sys2Proof

/-- A register or instruction word (R37, R38). -/
abbrev Word := BitVec 32
/-- One byte of memory. -/
abbrev Byte := BitVec 8
/-- A double word: literals (R40), global addresses (R88), keys (R185). -/
abbrev Dword := BitVec 64
/-- One bit per lane of a wave; bit l stands for lane l. -/
abbrev Lanes := BitVec 32
/-- The bits of a hypervector (R173). -/
abbrev Hyper := BitVec 8192

/-- Lanes per wave, W (R1). -/
abbrev lanesPerWave : Nat := 32

end Sys2Proof
end

