-- ==== Sys2Proof/Config.lean ====
section
/-!
DEFINITION. Values the manual leaves open, as constants without a body: nothing can evaluate them, so a statement
holds whatever they are. Each is applied to a counter of the state, so that every use gets a fresh one (log 2).
-/
namespace Sys2Proof.Config

/-- Clocks by which a core's CYCLES advances between two of its issue opportunities (R65: it counts the core's clocks; no
issue time is architected, R8). Free value, log 2. -/
opaque freeClocks : Nat → Nat
/-- The identifier an accepted launch is offered; R65 asks only that it be unique among the partition's unretired
launches, which `uniqueWord` sees to. Free value, log 2. -/
opaque freeLaunchId : Nat → BitVec 32
/-- The handle an issued view is offered; R162 asks only that it be unique among the partition's unlanded views.
Free value, log 2. -/
opaque freeHandle : Nat → BitVec 32
/-- A word of a barrier object after a plain store to the live object: R105 leaves its state undefined.
Free value, log 2. -/
opaque freeBarrierWord : Nat → BitVec 32
/-- A result that is not known while a clause is checked, because its instruction has still to
wait (R58): of a counter, a wave and a place in its clause. Free value, log 2. -/
opaque freeResult : Nat → Nat → Nat → BitVec 32
/-- Whether the fuses make a security alarm erase the identity keys (R217). Free value, log 2. -/
opaque fuseErases : Nat → Bool
/-- Values of a latency or a level that a sounding measures between two readings of it (R216). Free value, log 2. -/
opaque freeSounding : Nat → List Nat
/-- The LMS signature of a digest with the one-time key of a leaf (R217): the key is the part's own. Free value, log 59. -/
opaque lmsSign : Nat → BitVec 256 → List (BitVec 8)
/-- Whether a signature of an image is good under the key that the part was made with (R217). Free value, log 59. -/
opaque lmsVerifies : List (BitVec 8) → List (BitVec 8) → Bool
/-- The number of one-time keys of the part (R217). Free value, log 2. -/
opaque leafCount : Nat → Nat

end Sys2Proof.Config
end

