-- ==== Sys2Proof/Syntax.lean ====
section
/-!
DEFINITION. The steps of the Ryuno V9: one constructor of `Instr` per row of the opcode table, with the records its
constructors carry. Instruction fields keep the manual's names (R38, R39); what a field value may be is said in
WellFormed.lean.
-/
namespace Sys2Proof

/-- Format tags (R54, Table 3.7); code 15 is reserved and has no tag. -/
inductive Tag where
  | raw | i32 | n32 | f32 | f16x2 | bf16x2 | e4m3x4 | e5m2x4 | e2m1x8 | i8x4 | n8x4 | i4x8 | n4x8 | i16x2 | n16x2
deriving DecidableEq, Repr

/-- Word 1 of the extended forms but for SUB (R39, Table 3.3). -/
structure Mods where
  rel : Bool
  acq : Bool
  cu : Bool
  bi : Bool
  bu : Bool
  au : Bool
  fsel : Bool
  ftz : Bool
  sat : Bool
  rnd : BitVec 2
  gen : Bool
  pneg : Bool
  pred : BitVec 3
  c : BitVec 8
deriving DecidableEq, Repr

/-- Word 1 with every field zero: what the base form stands for (R39). -/
def Mods.zero : Mods :=
  { rel := false, acq := false, cu := false, bi := false, bu := false, au := false, fsel := false, ftz := false,
    sat := false, rnd := 0#2, gen := false, pneg := false, pred := 0#3, c := 0#8 }

/-- The operand fields of a base form (LEN 00). -/
structure Base where
  d : BitVec 8
  a : BitVec 8
  b : BitVec 8
deriving DecidableEq, Repr

/-- The fields of an extended form (LEN 01); SUB is fixed by the row. -/
structure Ext where
  d : BitVec 8
  a : BitVec 8
  b : BitVec 8
  m : Mods
  w2 : Word
deriving DecidableEq, Repr

/-- The fields of a base form with literal (LEN 10). -/
structure Lit where
  d : BitVec 8
  a : BitVec 8
  b : BitVec 8
  lit : Dword
deriving DecidableEq, Repr

/-- The fields of an extended form with literal (LEN 11); SUB is fixed by the row. -/
structure ExtLit where
  d : BitVec 8
  a : BitVec 8
  b : BitVec 8
  m : Mods
  w2 : Word
  lit : Dword
deriving DecidableEq, Repr

/-- ATOM and ATOMC with a register operand: SUB carries operation, scope and width (R64). -/
structure AtomF where
  sub : BitVec 8
  e : Ext
deriving DecidableEq, Repr

/-- ATOM and ATOMC with a literal operand. -/
structure AtomLitF where
  sub : BitVec 8
  e : ExtLit
deriving DecidableEq, Repr

/-- Where a page lies once translated (R108, R147, R195). -/
inductive PageTarget where
  | shelf (die : Nat)
  | hbm
  | stack (n : Nat)   -- HBM, mapped as stack-local to stack n
  | host
deriving DecidableEq, Repr

/-- One translation entry of a tenant (R108): a virtual range of shelf die `die` or of global space. -/
structure PageSpec where
  shelfDie : Option Nat
  base : Nat
  size : Nat
  target : PageTarget
  phys : Nat
  dirty : Bool
deriving DecidableEq, Repr

/-- A crew shape: what one material or ordinary crew takes on its core (R31, R166). -/
structure Shape where
  waves : Nat
  nreg : Nat
  ntile : Nat
  nhyp : Nat
  nbun : Nat
  lmem : Nat
deriving DecidableEq, Repr

/-- A fixed range of a resource: a base and a length (R210). -/
structure Range where
  base : Nat
  len : Nat
deriving DecidableEq, Repr

/-- A partition's quotas on a core (Table 12.4). -/
structure CoreQuota where
  crewSlots : Range
  rows : Range        -- in units of 8 rows
  lmem : Range        -- in units of 128 bytes
deriving DecidableEq, Repr

/-- A partition's quotas on one cluster (Table 12.4). Those of cores are uniform, but for what is reserved for views on cores 0
to 11, level by level (R166, R210; log 20). -/
structure ClusterQuota where
  front : List CoreQuota  -- on cores 2L − 2 and 2L − 1, for L from 1 to 6
  back : CoreQuota    -- on each of cores 12 to 15
  views : List Range  -- view slots of levels 1 to 6
  reserved : List (Nat × Nat)  -- reserved crew slots granted: (level, 0 or 1)
  keyed : Range
  accRows : Range     -- on each pair of the cluster
  queue : Range       -- matrix queue entries on each pair of the cluster
deriving DecidableEq, Repr

/-- What system software writes with a quota write (R210, R211, R166). -/
structure QuotaSpec where
  clusters : List ClusterQuota  -- clusters 0 to 15, die × 4 + cluster
  shelf : List Range            -- per die, in units of 2 MiB
  prio : Nat
  minCl : Nat
  minHbm : Nat
  matCrew : List Shape          -- levels 1 to 6
  hostQ : Nat                   -- tagged address of the host queue's header
deriving DecidableEq, Repr

/-- A tenant as system software creates it (R212, R213). -/
structure TenantSpec where
  id : Nat
  slice : Nat
  status : Nat                  -- tagged address of the status word
  shadow : List Range           -- its shadow area on each die, in units of 2 MiB (log 61)
  pages : List PageSpec
  allow : BitVec 1024
deriving DecidableEq, Repr

/-- An object as the loader gives it (R60): code words from a word address on, and the object's code ranges. -/
structure ObjectSpec where
  base : Nat
  words : List Word
  ranges : List Range
deriving DecidableEq, Repr

/-- A command message: one 64-byte flit, byte 0 in bits 7 to 0 (Table 11.1). -/
abbrev Flit := BitVec 512

/-- The two steps of a command message: it arrives at its partition's queue, or the part processes the queue's head (R195). An event
names the slot, or the KIND, that the message carries. -/
inductive MsgStep where
  | arrives (flit : Flit)
  | taken
deriving DecidableEq, Repr

/-- What goes through a peer port (R203): a packet of a copy, from its element `first` on, for an address; the signal of a copy;
and the receiving part's answer, that n elements from `first` on have landed (n is 0 for the signal), or that a page does not
translate there. `copy` is the sender's name of the copy. -/
inductive PeerMsg where
  | data (port copy first : Nat) (addr : Nat) (bytes : List Byte)
  | signal (port copy : Nat) (addr : Nat) (dec : Word)
  | landed (port copy first n : Nat)
  | refused (port copy : Nat) (addr : Nat)
deriving DecidableEq, Repr

/-- An attestation report to be signed, by its SHA-256 digest, and the leaf whose one-time key is to sign it (R217). -/
structure AttestSpec where
  leaf : Nat
  digest : BitVec 256
deriving DecidableEq, Repr

/-- A firmware image and its signature (R217). -/
structure Firmware where
  image : List Byte
  signature : List Byte
deriving DecidableEq, Repr

/-- A telemetry read (R215, R216): a counter, a sounding set up anew with what it records and its bins, or the value of one. -/
inductive TelemetryAsk where
  | counter (n : Nat)
  | sound (what base shift : Nat)
  | sounding (n : Nat)
deriving DecidableEq, Repr

/-- The launch to be accepted: the oldest firing of a slot, or a device LAUNCH (R200). -/
inductive AcceptSrc where
  | slot (part slot : Nat)
  | device (request : Nat)
deriving DecidableEq, Repr

/-- A unit that can be retired (R9, Table 12.6). -/
inductive UnitId where
  | pair (n : Nat)
  | cluster (n : Nat)
  | channel (stack chan : Nat)
  | port (n : Nat)
deriving DecidableEq, Repr

/-- What bring-up finds and sets (R218): the firmware, the units failing self-test, the header of the host queue of the one
partition, and its one tenant. -/
structure BringUpSpec where
  firmware : Firmware
  failed : List UnitId
  hostQ : Nat
  tenant : TenantSpec
  ports : List (Nat × Nat)      -- peer port and the partition it is bound to (R203)
deriving DecidableEq, Repr

/-- Every row of the opcode table: the events of the part, then its instructions, then the events of software and peers. -/
inductive Instr where
  /-- ISSUE_OPPORTUNITY (R18): the core's next issue opportunity. -/
  | issueOpportunity (core : Nat)
  /-- CLAUSE_CONTINUE (R58): the wave's held clause is tried again. -/
  | clauseContinue (wave : Nat)
  /-- LANDING (R53): the operation of that name lands. -/
  | landing (flight : Nat)
  /-- COPY_PACKET (R102): elements first to first + n - 1 of the copy land, at most 64 bytes. -/
  | copyPacket (copy first n : Nat)
  /-- COPY_HOLD_RELEASE (R97): the engine looks again at a copy it holds. -/
  | copyHoldRelease (copy : Nat)
  /-- FAULT_SERVICED (R108): system software maps the pages and services the fault. -/
  | faultServiced (fault : Nat) (pages : List PageSpec)
  /-- FAULT_DECLARED_FATAL (R108). -/
  | faultDeclaredFatal (fault : Nat)
  /-- COPYS_SIGNAL (R104). -/
  | copysSignal (copy : Nat)
  /-- ARM (R196): a command message of KIND 1 of a partition's queue. -/
  | arm (part slot : Nat) (m : MsgStep)
  /-- FIRE (R196): a command message of KIND 2 of a partition's queue. -/
  | fire (part slot : Nat) (m : MsgStep)
  /-- LAUNCH_ACCEPTANCE (R200). -/
  | launchAcceptance (src : AcceptSrc)
  /-- GANG_PLACEMENT (R34): the cluster placer looks at the head of the partition's queue. -/
  | gangPlacement (part cluster : Nat)
  /-- NODE_CREW_PLACEMENT (R182). -/
  | nodeCrewPlacement (node cluster core : Nat)
  /-- GANG_RETIREMENT (R29). -/
  | gangRetirement (gang : Nat)
  /-- LAUNCH_RETIREMENT (R200). -/
  | launchRetirement (launch : Nat)
  /-- FINAL_MERGE (R131). -/
  | finalMerge (launch : Nat)
  /-- DET_MERGE (R128): barrier is the physical address of the object in slack water. -/
  | detMerge (launch barrier : Nat)
  /-- MATRIX_COMMAND_RETIRE (R134): the partition's oldest command on the pair finishes. -/
  | matrixCommandRetire (pair part : Nat)
  /-- SMV_PACKET (R146): elements first to first + n - 1 of y land, at most 16. -/
  | smvPacket (smv first n : Nat)
  /-- ATOMIC_PERFORM (R237): the access performs at its home. -/
  | atomicPerform (access : Nat)
  /-- FENCE_COMPLETE (R119). -/
  | fenceComplete (wave slot : Nat)
  /-- VIEW_TRAVERSAL (R159): the view's traversal and splat passes finish. -/
  | viewTraversal (view : Nat)
  /-- VIEW_LANDING (R151). -/
  | viewLanding (view : Nat)
  /-- RECORD_DELIVERY (R184). -/
  | recordDelivery (node cluster crew : Nat)
  /-- RETIRE_DELIVERY (R187). -/
  | retireDelivery (node cluster crew : Nat)
  /-- CONTEXT_FETCH (R188). -/
  | contextFetch (node : Nat) (key : BitVec 64)
  /-- WORK_ITEM_ASSIGN (R192). -/
  | workItemAssign (request : Nat)
  /-- WQRY_ROUND (R193). -/
  | wqryRound (launch : Nat)
  /-- SLICE_EXPIRY (R212). -/
  | sliceExpiry (part : Nat)
  /-- STOP_REQUEST (R212). -/
  | stopRequest (part tenant : Nat)
  /-- CONTEXT_SAVE (R212). -/
  | contextSave (part : Nat)
  /-- QUOTA_WRITE (R210). -/
  | quotaWrite (part : Nat) (q : QuotaSpec)
  /-- UNIT_RETIREMENT (R9). -/
  | unitRetirement (u : UnitId)
  /-- UNCORRECTABLE_ERROR (R214). -/
  | uncorrectableError (gang code : Nat)
  /-- CORRECTABLE_ERROR (R214). -/
  | correctableError (part counter : Nat)
  /-- TELEMETRY_READ (R215, R216). -/
  | telemetryRead (part tenant : Nat) (ask : TelemetryAsk)
  /-- TELEMETRY_STATUS_CLEAR (R215): the word written to the W1C status word. -/
  | telemetryStatusClear (part : Nat) (ones : Word)
  /-- SECURITY_ALARM (R217). -/
  | securityAlarm
  /-- BRING_UP (R218). -/
  | bringUp (b : BringUpSpec)
  /-- NOP (R296). -/
  | nop
  /-- YIELD (R333). -/
  | yield
  /-- ?p YIELD. -/
  | yieldExt (f : Ext)
  /-- ADD (R233), base form. -/
  | add (f : Base)
  /-- ADD (R233), extended form. -/
  | addExt (f : Ext)
  /-- ADD (R233), base form with literal. -/
  | addLit (f : Lit)
  /-- ADD (R233), extended form with literal. -/
  | addExtLit (f : ExtLit)
  /-- SUB (R320), base form. -/
  | sub (f : Base)
  /-- SUB (R320), extended form. -/
  | subExt (f : Ext)
  /-- SUB (R320), base form with literal. -/
  | subLit (f : Lit)
  /-- SUB (R320), extended form with literal. -/
  | subExtLit (f : ExtLit)
  /-- MUL (R290), base form. -/
  | mul (f : Base)
  /-- MUL (R290), extended form. -/
  | mulExt (f : Ext)
  /-- MUL (R290), base form with literal. -/
  | mulLit (f : Lit)
  /-- MUL (R290), extended form with literal. -/
  | mulExtLit (f : ExtLit)
  /-- MULH (R291), base form. -/
  | mulh (f : Base)
  /-- MULH (R291), extended form. -/
  | mulhExt (f : Ext)
  /-- MULH (R291), base form with literal. -/
  | mulhLit (f : Lit)
  /-- MULH (R291), extended form with literal. -/
  | mulhExtLit (f : ExtLit)
  /-- FMA (R264), base form. -/
  | fma (f : Base)
  /-- FMA (R264), extended form. -/
  | fmaExt (f : Ext)
  /-- FMA (R264), base form with literal. -/
  | fmaLit (f : Lit)
  /-- FMA (R264), extended form with literal. -/
  | fmaExtLit (f : ExtLit)
  /-- FMS (R264), base form. -/
  | fms (f : Base)
  /-- FMS (R264), extended form. -/
  | fmsExt (f : Ext)
  /-- FMS (R264), base form with literal. -/
  | fmsLit (f : Lit)
  /-- FMS (R264), extended form with literal. -/
  | fmsExtLit (f : ExtLit)
  /-- MIN (R283), base form. -/
  | min (f : Base)
  /-- MIN (R283), extended form. -/
  | minExt (f : Ext)
  /-- MIN (R283), base form with literal. -/
  | minLit (f : Lit)
  /-- MIN (R283), extended form with literal. -/
  | minExtLit (f : ExtLit)
  /-- MAX (R283), base form. -/
  | max (f : Base)
  /-- MAX (R283), extended form. -/
  | maxExt (f : Ext)
  /-- MAX (R283), base form with literal. -/
  | maxLit (f : Lit)
  /-- MAX (R283), extended form with literal. -/
  | maxExtLit (f : ExtLit)
  /-- AND (R234), base form. -/
  | and (f : Base)
  /-- AND (R234), extended form. -/
  | andExt (f : Ext)
  /-- AND (R234), base form with literal. -/
  | andLit (f : Lit)
  /-- AND (R234), extended form with literal. -/
  | andExtLit (f : ExtLit)
  /-- OR (R297), base form. -/
  | or (f : Base)
  /-- OR (R297), extended form. -/
  | orExt (f : Ext)
  /-- OR (R297), base form with literal. -/
  | orLit (f : Lit)
  /-- OR (R297), extended form with literal. -/
  | orExtLit (f : ExtLit)
  /-- XOR (R332), base form. -/
  | xor (f : Base)
  /-- XOR (R332), extended form. -/
  | xorExt (f : Ext)
  /-- XOR (R332), base form with literal. -/
  | xorLit (f : Lit)
  /-- XOR (R332), extended form with literal. -/
  | xorExtLit (f : ExtLit)
  /-- ANDN (R234), base form. -/
  | andn (f : Base)
  /-- ANDN (R234), extended form. -/
  | andnExt (f : Ext)
  /-- ANDN (R234), base form with literal. -/
  | andnLit (f : Lit)
  /-- ANDN (R234), extended form with literal. -/
  | andnExtLit (f : ExtLit)
  /-- SHL (R313), base form. -/
  | shl (f : Base)
  /-- SHL (R313), extended form. -/
  | shlExt (f : Ext)
  /-- SHL (R313), base form with literal. -/
  | shlLit (f : Lit)
  /-- SHL (R313), extended form with literal. -/
  | shlExtLit (f : ExtLit)
  /-- SHR (R313), base form. -/
  | shr (f : Base)
  /-- SHR (R313), extended form. -/
  | shrExt (f : Ext)
  /-- SHR (R313), base form with literal. -/
  | shrLit (f : Lit)
  /-- SHR (R313), extended form with literal. -/
  | shrExtLit (f : ExtLit)
  /-- CMPP (R255), base form. -/
  | cmpp (f : Base)
  /-- CMPP (R255), extended form. -/
  | cmppExt (f : Ext)
  /-- CMPP (R255), base form with literal. -/
  | cmppLit (f : Lit)
  /-- CMPP (R255), extended form with literal. -/
  | cmppExtLit (f : ExtLit)
  /-- SEL (R309), base form. -/
  | sel (f : Base)
  /-- SEL (R309), extended form. -/
  | selExt (f : Ext)
  /-- SEL (R309), base form with literal. -/
  | selLit (f : Lit)
  /-- SEL (R309), extended form with literal. -/
  | selExtLit (f : ExtLit)
  /-- MOV (R286). -/
  | mov (f : Base)
  /-- MOV, extended form. -/
  | movExt (f : Ext)
  /-- the wide MOV (R43). -/
  | movWide (f : Ext)
  /-- MOV.TAG vd, value. -/
  | movLit (f : Lit)
  /-- MOV.TAG, extended form with literal. -/
  | movExtLit (f : ExtLit)
  /-- MOVI (R288), base form. -/
  | movi (d : BitVec 8) (imm : BitVec 16)
  /-- MOVI, extended form. -/
  | moviExt (f : Ext)
  /-- CVT (R259), base form. -/
  | cvt (f : Base)
  /-- CVT, extended form. -/
  | cvtExt (f : Ext)
  /-- VTAG (R328), base form. -/
  | vtag (f : Base)
  /-- VTAG, extended form. -/
  | vtagExt (f : Ext)
  /-- SFU (R310), base form. -/
  | sfu (f : Base)
  /-- SFU, extended form. -/
  | sfuExt (f : Ext)
  /-- PERM (R298), base form. -/
  | perm (f : Base)
  /-- PERM, extended form. -/
  | permExt (f : Ext)
  /-- SHFL (R312), base form. -/
  | shfl (f : Base)
  /-- SHFL, extended form. -/
  | shflExt (f : Ext)
  /-- REDUCE (R302), base form. -/
  | reduce (f : Base)
  /-- REDUCE, extended form. -/
  | reduceExt (f : Ext)
  /-- SCAN (R307), base form. -/
  | scan (f : Base)
  /-- SCAN, extended form. -/
  | scanExt (f : Ext)
  /-- WELF (R329), base form. -/
  | welf (f : Base)
  /-- WELF, extended form. -/
  | welfExt (f : Ext)
  /-- LDL (R277), base form. -/
  | ldl (f : Base)
  /-- LDL, extended form. -/
  | ldlExt (f : Ext)
  /-- STL (R318), base form. -/
  | stl (f : Base)
  /-- STL, extended form. -/
  | stlExt (f : Ext)
  /-- LDS (R277), base form. -/
  | lds (f : Base)
  /-- LDS, extended form. -/
  | ldsExt (f : Ext)
  /-- STS (R318), base form. -/
  | sts (f : Base)
  /-- STS, extended form. -/
  | stsExt (f : Ext)
  /-- SPUSH (R315), base form. -/
  | spush (f : Base)
  /-- SPUSH, extended form. -/
  | spushExt (f : Ext)
  /-- SPOP (R315), base form. -/
  | spop (f : Base)
  /-- SPOP, extended form. -/
  | spopExt (f : Ext)
  /-- BRA (R247), base form. -/
  | bra (off : BitVec 24)
  /-- BRA, extended form. -/
  | braExt (f : Ext)
  /-- BRC (R248). -/
  | brc (off : BitVec 20) (neg : Bool) (p : BitVec 3)
  /-- CALL (R253), base form. -/
  | call (off : BitVec 24)
  /-- CALL, extended form. -/
  | callExt (f : Ext)
  /-- RET (R305), base form. -/
  | ret
  /-- RET, extended form. -/
  | retExt (f : Ext)
  /-- FORK (R13), base form. -/
  | fork (pd : BitVec 3) (off : BitVec 16)
  /-- FORK, extended form. -/
  | forkExt (f : Ext)
  /-- FEND (R13), base form. -/
  | fend
  /-- FEND, extended form. -/
  | fendExt (f : Ext)
  /-- ABS (R232). -/
  | abs (f : Ext)
  /-- NEG (R294). -/
  | neg (f : Ext)
  /-- POPC (R300). -/
  | popc (f : Ext)
  /-- CLZ (R254). -/
  | clz (f : Ext)
  /-- BREV (R249). -/
  | brev (f : Ext)
  /-- BFX (R246). -/
  | bfx (f : Ext)
  /-- BFI (R246). -/
  | bfi (f : Ext)
  /-- IDIV (R271). -/
  | idiv (f : Ext)
  /-- DOT4 (R261). -/
  | dot4 (f : Ext)
  /-- WMERGE (R330). -/
  | wmerge (f : Ext)
  /-- ATOM (R235), operand in a register. -/
  | atom (f : AtomF)
  /-- ATOM (R235), literal operand. -/
  | atomLit (f : AtomLitF)
  /-- ATOMC (R235), operand in a register. -/
  | atomc (f : AtomF)
  /-- ATOMC (R235), literal operand. -/
  | atomcLit (f : AtomLitF)
  /-- BARINIT (R239). -/
  | barinit (f : Ext)
  /-- BARARR (R239). -/
  | bararr (f : Ext)
  /-- BAREXP (R239). -/
  | barexp (f : Ext)
  /-- BARWAIT (R239). -/
  | barwait (f : Ext)
  /-- BARTEST (R239). -/
  | bartest (f : Ext)
  /-- COPY (R257). -/
  | copy (f : Ext)
  /-- COPYB (R257). -/
  | copyb (f : Ext)
  /-- COPYG (R257). -/
  | copyg (f : Ext)
  /-- COPYS (R257). -/
  | copys (f : Ext)
  /-- MMA (R138). -/
  | mma (f : Ext)
  /-- MMAQ (R138). -/
  | mmaq (f : Ext)
  /-- MCOMMIT (R140). -/
  | mcommit (f : Ext)
  /-- MWAIT (R140). -/
  | mwait (f : Ext)
  /-- MRD (R289). -/
  | mrd (f : Ext)
  /-- MWR (R293). -/
  | mwr (f : Ext)
  /-- MZERO (R293). -/
  | mzero (f : Ext)
  /-- SMV (R146). -/
  | smv (f : Ext)
  /-- VIEW (R149). -/
  | view (f : Ext)
  /-- VSTAT (R165). -/
  | vstat (f : Ext)
  /-- VPIX (R163). -/
  | vpix (f : Ext)
  /-- RAYQ (R169). -/
  | rayq (f : Ext)
  /-- TLD (R321). -/
  | tld (f : Ext)
  /-- TST (R321). -/
  | tst (f : Ext)
  /-- TRD (R321). -/
  | trd (f : Ext)
  /-- TWR (R321). -/
  | twr (f : Ext)
  /-- BXUNION (R251). -/
  | bxunion (f : Ext)
  /-- SAHCOST (R306). -/
  | sahcost (f : Ext)
  /-- NODEPACK (R295). -/
  | nodepack (f : Ext)
  /-- HLD (R175). -/
  | hld (f : Ext)
  /-- HST (R175). -/
  | hst (f : Ext)
  /-- HBIND (R175). -/
  | hbind (f : Ext)
  /-- HPERM (R175). -/
  | hperm (f : Ext)
  /-- HBUND (R175). -/
  | hbund (f : Ext)
  /-- HCLR (R175). -/
  | hclr (f : Ext)
  /-- HTHR (R175). -/
  | hthr (f : Ext)
  /-- HDIST (R175). -/
  | hdist (f : Ext)
  /-- HNEAR (R175). -/
  | hnear (f : Ext)
  /-- HGEN (R175). -/
  | hgen (f : Ext)
  /-- REMIT (R183). -/
  | remit (f : Ext)
  /-- KSUSP (R186). -/
  | ksusp (f : Ext)
  /-- KRET (R186). -/
  | kret (f : Ext)
  /-- LAUNCH (R274). -/
  | launch (f : Ext)
  /-- TRAP (R209). -/
  | trap (f : Ext)
  /-- SRD (R316). -/
  | srd (f : Ext)
  /-- SWR (R316). -/
  | swr (f : Ext)
  /-- FENCE (R119). -/
  | fence (f : Ext)
  /-- FWAIT (R119). -/
  | fwait (f : Ext)
  /-- WQRY (R191). -/
  | wqry (f : Ext)
  /-- BRX (R250). -/
  | brx (f : Ext)
  /-- LAUNCH_STOP (R145): system software stops a launch. -/
  | launchStop (launch : Nat)
  /-- PEER_PORT_DOWN (R104). -/
  | peerPortDown (port : Nat)
  /-- PEER_COPYS_TRAFFIC (R203): data or a signal arrives at a peer port. -/
  | peerCopysTraffic (m : PeerMsg)
  /-- RESERVED_KIND_MESSAGE (R196). -/
  | reservedKindMessage (part kind : Nat) (m : MsgStep)
  /-- TENANT_CREATION (R213). -/
  | tenantCreation (part : Nat) (t : TenantSpec)
  /-- ALLOW_LIST_LOAD (R215). -/
  | allowListLoad (part tenant : Nat) (bits : BitVec 1024)
  /-- OBJECT_LOAD (R60). -/
  | objectLoad (part : Nat) (o : ObjectSpec)
  /-- ATTESTATION_REPORT (R217). -/
  | attestationReport (ask : AttestSpec)
deriving DecidableEq, Repr

end Sys2Proof
end

