-- ==== Sys2Proof/WellFormed.lean ====
section
/-!
DEFINITION. Which field values of an instruction the manual admits (R39-R43, R61, Table 3.10 and each reference entry):
`Instr.wf` is the check decoding makes; a pattern that fails it is ILLEGAL. Events are always well formed.
-/
namespace Sys2Proof

/-- The tag of a code (Table 3.7); code 15 has none. -/
def Tag.ofCode (c : BitVec 4) : Option Tag :=
  match c.toNat with
  | 0 => some .raw | 1 => some .i32 | 2 => some .n32 | 3 => some .f32 | 4 => some .f16x2 | 5 => some .bf16x2
  | 6 => some .e4m3x4 | 7 => some .e5m2x4 | 8 => some .e2m1x8 | 9 => some .i8x4 | 10 => some .n8x4
  | 11 => some .i4x8 | 12 => some .n4x8 | 13 => some .i16x2 | 14 => some .n16x2 | _ => none

/-- The code of a tag (Table 3.7). -/
def Tag.code : Tag → BitVec 4
  | .raw => 0#4 | .i32 => 1#4 | .n32 => 2#4 | .f32 => 3#4 | .f16x2 => 4#4 | .bf16x2 => 5#4 | .e4m3x4 => 6#4
  | .e5m2x4 => 7#4 | .e2m1x8 => 8#4 | .i8x4 => 9#4 | .n8x4 => 10#4 | .i4x8 => 11#4 | .n4x8 => 12#4 | .i16x2 => 13#4
  | .n16x2 => 14#4

namespace WellFormed

/-- Word 1 carries nothing but the guard (R39). -/
def guardOnly (m : Mods) : Bool := decide ({ m with gen := false, pneg := false, pred := 0#3 } = Mods.zero)
/-- Word 1 of the two-source frame: guard, AU, BU and BI beside what the entry allowed before (Table 19.1). -/
def frameMods (m : Mods) : Bool := guardOnly { m with au := false, bu := false, bi := false }
/-- Word 1 of SEL: C[3:0] is the selecting predicate (R309). -/
def selMods (m : Mods) : Bool := m.c < 16#8 && frameMods { m with c := 0#8 }
/-- B and word 2 of a form that admits BI: B is zero under BI, word 2 is zero without it (Table 19.1). -/
def immForm (f : Ext) : Bool := if f.m.bi then f.b == 0#8 else f.w2 == 0#32
/-- LEN 11 admits neither BI nor BU (R40). -/
def noImm (m : Mods) : Bool := !m.bi && !m.bu
/-- A 32-bit literal: bits 63 to 32 are zero (R40). -/
def lit32 (l : Dword) : Bool := l.extractLsb' 32 32 == 0#32
/-- The literal of MOV: bits 35 to 32 hold the tag, not 15, and the bits above are zero (R40, R286). -/
def movLitOk (l : Dword) : Bool := l.extractLsb' 36 28 == 0#28 && l.extractLsb' 32 4 != 15#4
/-- D of CMPP: a condition of Table 19.5, bit 3 zero (R255). -/
def condOk (d : BitVec 8) : Bool := d < 96#8 && !d.getLsbD 3
/-- Bits 7 to 4 are zero. -/
def hi4 (b : BitVec 8) : Bool := b < 16#8
/-- Bits 3 to 0 are zero. -/
def lo4 (b : BitVec 8) : Bool := b.extractLsb' 0 4 == 0#4
/-- The tag in B[7:4] is not 15. -/
def tagOk (b : BitVec 8) : Bool := b < 240#8
/-- B of CVT: bit 7 zero, destination tag neither RAW nor 15 (R259). -/
def cvtOk (b : BitVec 8) : Bool := !b.getLsbD 7 && b.extractLsb' 0 4 != 0#4 && b.extractLsb' 0 4 != 15#4
/-- FTZ of a conversion only into F32, F16X2 or BF16X2 (Table 4.3). -/
def ftzTag (m : Mods) (t : BitVec 4) : Bool := !m.ftz || t == 3#4 || t == 4#4 || t == 5#4
/-- Word 2 of the wide MOV (R43). -/
def wideOk (w : Word) : Bool :=
  w.getLsbD 31 && w.extractLsb' 22 9 == 0#9 &&
  (match (w.extractLsb' 20 2).toNat with
   | 0 => true
   | 1 => w.extractLsb' 0 10 < 256#10
   | 2 => w.extractLsb' 10 10 < 256#10
   | _ => false)
/-- Word 2 of BFX and BFI (R246). -/
def bfOk (w : Word) : Bool :=
  w < 8192#32 &&
  (if w.getLsbD 12 then w.extractLsb' 0 11 == 0#11
   else (w.extractLsb' 5 6 != 0#6 && (w.extractLsb' 0 5).toNat + (w.extractLsb' 5 6).toNat ≤ 32))
/-- The operation and width of an atomic are valid together (Table 3.10b). -/
def atomOpOk (sub : BitVec 8) : Bool :=
  match (sub.extractLsb' 0 4).toNat with
  | 1 | 9 | 10 => !sub.getLsbD 7
  | 8 => sub.getLsbD 7
  | n => n < 12
/-- The fields ATOM and ATOMC share (R235, R64). -/
def atomOk (sub d a b : BitVec 8) (m : Mods) (w2 : Word) : Bool :=
  let noret := w2.getLsbD 0
  let glob := w2.getLsbD 1
  let scope := (sub.extractLsb' 4 3).toNat
  let wide := sub.getLsbD 7
  atomOpOk sub && scope < 5 && w2.extractLsb' 2 14 == 0#14 &&
  (!noret || (!m.acq && d == 0#8)) &&
  (!glob || 3 ≤ scope) && (scope != 4 || glob) &&
  (noret || (if wide then d ≤ 250#8 else d < 252#8)) &&
  (!wide || (if m.bu then b ≤ 254#8 else b ≤ 250#8)) &&
  (!glob || (if m.au then a ≤ 254#8 else a ≤ 250#8)) &&
  guardOnly { m with rel := false, acq := false, cu := false, bu := false, au := false, fsel := false, c := 0#8 }
/-- ATOMC: SUB[3:0] is 0, and a 64-bit compare value is a pair (R64, R235). -/
def atomcOk (sub : BitVec 8) (m : Mods) : Bool :=
  sub.extractLsb' 0 4 == 0#4 && (!sub.getLsbD 7 || (if m.cu then m.c ≤ 254#8 else m.c ≤ 250#8))
/-- LEN 11 of an atomic: B zero, no BU, and a 32-bit operand has a 32-bit literal (R40, R235). -/
def atomLitOk (sub : BitVec 8) (e : ExtLit) : Bool :=
  e.b == 0#8 && noImm e.m && (sub.getLsbD 7 || lit32 e.lit)
/-- K must be a multiple of this under a pair of operand tags (Table 7.2); none: no such pair. -/
def kStep (ta tb : Tag) : Option Nat :=
  let fp8 (t : Tag) : Bool := t == .e4m3x4 || t == .e5m2x4
  let i8 (t : Tag) : Bool := t == .i8x4 || t == .n8x4
  let i4 (t : Tag) : Bool := t == .i4x8 || t == .n4x8
  let h (t : Tag) : Bool := t == .f16x2 || t == .bf16x2
  let narrow (t : Tag) : Option Nat :=
    if fp8 t || i8 t then some 16 else if i4 t || t == .e2m1x8 then some 32 else none
  if h ta && ta == tb then some 8
  else if fp8 ta && fp8 tb then some 16
  else if i8 ta && i8 tb then some 16
  else if ta == .e2m1x8 && tb == .e2m1x8 then some 32
  else if i4 ta && i4 tb then some 32
  else if h ta then narrow tb
  else if h tb then narrow ta
  else none
/-- Word 1 and word 2 of MMA and MMAQ (R138, R285, Table 7.3). -/
def mmaOk (m : Mods) (w : Word) : Bool :=
  m.au && m.bu && m.cu && guardOnly { m with au := false, bu := false, cu := false, c := 0#8 } &&
  w.extractLsb' 28 4 == 0#4 && w.extractLsb' 7 10 != 0#10 &&
  (match Tag.ofCode (w.extractLsb' 19 4), Tag.ofCode (w.extractLsb' 23 4) with
   | some ta, some tb =>
     (match kStep ta tb with
      | some k => ((w.extractLsb' 7 10).toNat * 8) % k == 0
      | none => false)
   | _, _ => false)
/-- MRD (R289, Table 7.5). -/
def mrdOk (f : Ext) : Bool :=
  let tag := f.w2.extractLsb' 0 4
  let amx := f.w2.getLsbD 4
  let tile := f.w2.getLsbD 5
  f.w2 < 64#32 && f.m.au && (f.m.bu == amx) && (amx || f.b == 0#8) && ftzTag f.m tag &&
  (if tile then f.d < 16#8 && (tag == 3#4 || tag == 1#4)
   else f.d < 252#8 && (tag == 3#4 || tag == 1#4 || tag == 4#4 || tag == 5#4 || tag == 6#4 || tag == 7#4 || tag == 9#4)) &&
  guardOnly { f.m with au := false, bu := false, rnd := 0#2, sat := false, ftz := false, fsel := false }
/-- Word 2 of VIEW (R149, Table 8.1). -/
def viewOk (w : Word) : Bool :=
  w < 4096#32 && w.extractLsb' 0 4 < 4#4 && w.extractLsb' 4 3 < 5#3 && w.extractLsb' 7 3 < 5#3
/-- Word 2 of TLD and TST (Table 22.6). -/
def tileW2 (w : Word) : Bool := w < 32#32 && w.extractLsb' 0 4 != 15#4
/-- An operand in sb or in word 2, exactly one of BU and BI (R175, Table 22.5). -/
def rowForm (f : Ext) : Bool :=
  (f.m.bu != f.m.bi) && immForm f && guardOnly { f.m with bu := false, bi := false }
/-- FENCE (R119, R263). -/
def fenceOk (f : Ext) : Bool :=
  let scope := f.w2.extractLsb' 0 3
  let range := f.w2.getLsbD 3
  f.w2 < 16#32 && scope < 5#3 && (f.m.acq || f.m.rel) &&
  (if range then f.m.au && f.m.bu && f.a ≤ 254#8 && 2#3 ≤ scope
   else !f.m.au && !f.m.bu && f.a == 0#8 && f.b == 0#8) &&
  guardOnly { f.m with au := false, bu := false, acq := false, rel := false }

end WellFormed

open WellFormed in
/-- The fields of the instruction are ones its entry admits (R39, R61). -/
def Instr.wf : Instr → Bool
  | .issueOpportunity _ => true
  | .clauseContinue _ => true
  | .landing _ => true
  | .copyPacket _ _ _ => true
  | .copyHoldRelease _ => true
  | .faultServiced _ _ => true
  | .faultDeclaredFatal _ => true
  | .copysSignal _ => true
  | .arm _ _ _ => true
  | .fire _ _ _ => true
  | .launchAcceptance _ => true
  | .gangPlacement _ _ => true
  | .nodeCrewPlacement _ _ _ => true
  | .gangRetirement _ => true
  | .launchRetirement _ => true
  | .finalMerge _ => true
  | .detMerge _ _ => true
  | .matrixCommandRetire _ _ => true
  | .smvPacket _ _ _ => true
  | .atomicPerform _ => true
  | .fenceComplete _ _ => true
  | .viewTraversal _ => true
  | .viewLanding _ => true
  | .recordDelivery _ _ _ => true
  | .retireDelivery _ _ _ => true
  | .contextFetch _ _ => true
  | .workItemAssign _ => true
  | .wqryRound _ => true
  | .sliceExpiry _ => true
  | .stopRequest _ _ => true
  | .contextSave _ => true
  | .quotaWrite _ _ => true
  | .unitRetirement _ => true
  | .uncorrectableError _ _ => true
  | .correctableError _ _ => true
  | .telemetryRead _ _ _ => true
  | .telemetryStatusClear _ _ => true
  | .securityAlarm => true
  | .bringUp _ => true
  | .nop => true
  | .yield => true
  | .yieldExt f => f.d == 0#8 && f.a == 0#8 && f.b == 0#8 && f.w2 == 0#32 && guardOnly f.m
  | .add _ => true
  | .addExt f => immForm f && frameMods { f.m with rnd := 0#2, sat := false, ftz := false }
  | .addLit f => f.b == 0#8 && lit32 f.lit
  | .addExtLit f => f.b == 0#8 && f.w2 == 0#32 && lit32 f.lit && noImm f.m && frameMods { f.m with rnd := 0#2, sat := false, ftz := false }
  | .sub _ => true
  | .subExt f => immForm f && frameMods { f.m with rnd := 0#2, sat := false, ftz := false }
  | .subLit f => f.b == 0#8 && lit32 f.lit
  | .subExtLit f => f.b == 0#8 && f.w2 == 0#32 && lit32 f.lit && noImm f.m && frameMods { f.m with rnd := 0#2, sat := false, ftz := false }
  | .mul _ => true
  | .mulExt f => immForm f && frameMods { f.m with rnd := 0#2, sat := false, ftz := false }
  | .mulLit f => f.b == 0#8 && lit32 f.lit
  | .mulExtLit f => f.b == 0#8 && f.w2 == 0#32 && lit32 f.lit && noImm f.m && frameMods { f.m with rnd := 0#2, sat := false, ftz := false }
  | .mulh _ => true
  | .mulhExt f => immForm f && frameMods f.m
  | .mulhLit f => f.b == 0#8 && lit32 f.lit
  | .mulhExtLit f => f.b == 0#8 && f.w2 == 0#32 && lit32 f.lit && noImm f.m && frameMods f.m
  | .fma _ => true
  | .fmaExt f => immForm f && frameMods { f.m with rnd := 0#2, sat := false, ftz := false, c := 0#8, cu := false }
  | .fmaLit f => f.b == 0#8 && lit32 f.lit
  | .fmaExtLit f => f.b == 0#8 && f.w2 == 0#32 && lit32 f.lit && noImm f.m && frameMods { f.m with rnd := 0#2, sat := false, ftz := false, c := 0#8, cu := false }
  | .fms _ => true
  | .fmsExt f => immForm f && frameMods { f.m with rnd := 0#2, sat := false, ftz := false, c := 0#8, cu := false }
  | .fmsLit f => f.b == 0#8 && lit32 f.lit
  | .fmsExtLit f => f.b == 0#8 && f.w2 == 0#32 && lit32 f.lit && noImm f.m && frameMods { f.m with rnd := 0#2, sat := false, ftz := false, c := 0#8, cu := false }
  | .min _ => true
  | .minExt f => immForm f && frameMods { f.m with ftz := false }
  | .minLit f => f.b == 0#8 && lit32 f.lit
  | .minExtLit f => f.b == 0#8 && f.w2 == 0#32 && lit32 f.lit && noImm f.m && frameMods { f.m with ftz := false }
  | .max _ => true
  | .maxExt f => immForm f && frameMods { f.m with ftz := false }
  | .maxLit f => f.b == 0#8 && lit32 f.lit
  | .maxExtLit f => f.b == 0#8 && f.w2 == 0#32 && lit32 f.lit && noImm f.m && frameMods { f.m with ftz := false }
  | .and _ => true
  | .andExt f => immForm f && frameMods f.m
  | .andLit f => f.b == 0#8 && lit32 f.lit
  | .andExtLit f => f.b == 0#8 && f.w2 == 0#32 && lit32 f.lit && noImm f.m && frameMods f.m
  | .or _ => true
  | .orExt f => immForm f && frameMods f.m
  | .orLit f => f.b == 0#8 && lit32 f.lit
  | .orExtLit f => f.b == 0#8 && f.w2 == 0#32 && lit32 f.lit && noImm f.m && frameMods f.m
  | .xor _ => true
  | .xorExt f => immForm f && frameMods f.m
  | .xorLit f => f.b == 0#8 && lit32 f.lit
  | .xorExtLit f => f.b == 0#8 && f.w2 == 0#32 && lit32 f.lit && noImm f.m && frameMods f.m
  | .andn _ => true
  | .andnExt f => immForm f && frameMods f.m
  | .andnLit f => f.b == 0#8 && lit32 f.lit
  | .andnExtLit f => f.b == 0#8 && f.w2 == 0#32 && lit32 f.lit && noImm f.m && frameMods f.m
  | .shl _ => true
  | .shlExt f => immForm f && frameMods f.m
  | .shlLit f => f.b == 0#8 && lit32 f.lit
  | .shlExtLit f => f.b == 0#8 && f.w2 == 0#32 && lit32 f.lit && noImm f.m && frameMods f.m
  | .shr _ => true
  | .shrExt f => immForm f && frameMods f.m
  | .shrLit f => f.b == 0#8 && lit32 f.lit
  | .shrExtLit f => f.b == 0#8 && f.w2 == 0#32 && lit32 f.lit && noImm f.m && frameMods f.m
  | .cmpp f => condOk f.d
  | .cmppExt f => immForm f && frameMods { f.m with ftz := false } && condOk f.d
  | .cmppLit f => f.b == 0#8 && lit32 f.lit && condOk f.d
  | .cmppExtLit f => f.b == 0#8 && f.w2 == 0#32 && lit32 f.lit && noImm f.m && frameMods { f.m with ftz := false } && condOk f.d
  | .sel _ => true
  | .selExt f => immForm f && selMods f.m
  | .selLit f => f.b == 0#8 && lit32 f.lit
  | .selExtLit f => f.b == 0#8 && f.w2 == 0#32 && lit32 f.lit && noImm f.m && selMods f.m
  | .mov f => f.b == 0#8
  | .movExt f => f.b == 0#8 && f.w2 == 0#32 && guardOnly { f.m with au := false }
  | .movWide f => f.d == 0#8 && f.a == 0#8 && f.b == 0#8 && guardOnly f.m && wideOk f.w2
  | .movLit f => f.a == 0#8 && f.b == 0#8 && movLitOk f.lit
  | .movExtLit f => f.a == 0#8 && f.b == 0#8 && f.w2 == 0#32 && movLitOk f.lit && guardOnly { f.m with au := false }
  | .movi _ _ => true
  | .moviExt f => f.a == 0#8 && f.b == 0#8 && f.m.bi && guardOnly { f.m with au := false, bi := false }
  | .cvt f => cvtOk f.b
  | .cvtExt f => cvtOk f.b && f.w2 == 0#32 && ftzTag f.m (f.b.extractLsb' 0 4) && guardOnly { f.m with au := false, rnd := 0#2, sat := false, ftz := false }
  | .vtag f => hi4 f.b && f.b != 15#8
  | .vtagExt f => hi4 f.b && f.b != 15#8 && f.w2 == 0#32 && guardOnly { f.m with au := false }
  | .sfu f => f.b < 8#8 && f.d < 252#8
  | .sfuExt f => f.b < 8#8 && f.d < 252#8 && f.w2 == 0#32 && guardOnly { f.m with au := false, ftz := false, fsel := false }
  | .perm f => f.a ≤ 248#8 || f.a == 252#8
  | .permExt f => (if f.m.au then f.a ≤ 252#8 else f.a ≤ 248#8 || f.a == 252#8) && immForm f && frameMods f.m
  | .shfl _ => true
  | .shflExt f => immForm f && !(f.m.bu && f.m.bi) && !f.m.au && frameMods f.m
  | .reduce f => f.b < 6#8
  | .reduceExt f => f.b < 6#8 && f.w2 == 0#32 && (!f.m.ftz || f.b < 3#8) && guardOnly { f.m with ftz := false }
  | .scan f => f.b < 6#8
  | .scanExt f => f.b < 6#8 && f.w2 == 0#32 && (!f.m.ftz || f.b < 3#8) && guardOnly { f.m with ftz := false }
  | .welf f => f.d ≤ 249#8 && f.b == 0#8
  | .welfExt f => f.d ≤ 249#8 && f.b == 0#8 && f.w2 == 0#32 && guardOnly f.m
  | .ldl f => tagOk f.b && f.d < 252#8
  | .ldlExt f => tagOk f.b && f.d < 252#8 && f.w2 == 0#32 && guardOnly { f.m with au := false, fsel := false }
  | .stl f => tagOk f.b
  | .stlExt f => tagOk f.b && f.w2 == 0#32 && guardOnly { f.m with au := false, fsel := false }
  | .lds f => tagOk f.b && f.d < 252#8
  | .ldsExt f => tagOk f.b && f.d < 252#8 && f.w2 == 0#32 && guardOnly { f.m with au := false, fsel := false }
  | .sts f => tagOk f.b
  | .stsExt f => tagOk f.b && f.w2 == 0#32 && guardOnly { f.m with au := false, fsel := false }
  | .spush f => f.d == 0#8 && f.b == 0#8
  | .spushExt f => f.d == 0#8 && f.b == 0#8 && f.w2 == 0#32 && guardOnly { f.m with au := false }
  | .spop f => f.a == 0#8 && lo4 f.b && tagOk f.b && f.d < 252#8
  | .spopExt f => f.a == 0#8 && lo4 f.b && tagOk f.b && f.d < 252#8 && f.w2 == 0#32 && guardOnly { f.m with fsel := false }
  | .bra _ => true
  | .braExt f => f.d == 0#8 && f.a == 0#8 && f.b == 0#8 && guardOnly f.m
  | .brc _ _ _ => true
  | .call _ => true
  | .callExt f => f.d == 0#8 && f.a == 0#8 && f.b == 0#8 && f.m.c ≤ 248#8 && f.m.c.toNat % 4 == 0 && guardOnly { f.m with c := 0#8 }
  | .ret => true
  | .retExt f => f.d == 0#8 && f.a == 0#8 && f.b == 0#8 && f.w2 == 0#32 && guardOnly f.m
  | .fork _ _ => true
  | .forkExt f => f.d < 8#8 && f.a < 252#8 && f.b == 0#8 && f.m.c ≤ 8#8 && f.a.toNat + f.m.c.toNat ≤ 252 && guardOnly { f.m with c := 0#8 }
  | .fend => true
  | .fendExt f => f.d == 0#8 && f.a == 0#8 && f.b == 0#8 && f.w2 == 0#32 && guardOnly f.m
  | .abs f => f.b == 0#8 && f.w2 == 0#32 && guardOnly { f.m with au := false, ftz := false }
  | .neg f => f.b == 0#8 && f.w2 == 0#32 && guardOnly { f.m with au := false, ftz := false }
  | .popc f => f.b == 0#8 && f.w2 == 0#32 && guardOnly { f.m with au := false }
  | .clz f => f.b == 0#8 && f.w2 == 0#32 && guardOnly { f.m with au := false }
  | .brev f => f.b == 0#8 && f.w2 == 0#32 && guardOnly { f.m with au := false }
  | .bfx f => bfOk f.w2 && (f.w2.getLsbD 12 || f.b == 0#8) && guardOnly { f.m with au := false, bu := false, cu := false }
  | .bfi f => bfOk f.w2 && !f.w2.getLsbD 11 && (f.w2.getLsbD 12 || f.m.c == 0#8) && guardOnly { f.m with au := false, bu := false, cu := false, c := 0#8 }
  | .idiv f => immForm f && frameMods f.m
  | .dot4 f => immForm f && frameMods { f.m with sat := false, cu := false, c := 0#8 }
  | .wmerge f => f.d ≤ 249#8 && f.a ≤ 249#8 && f.b ≤ 249#8 && f.w2 == 0#32 && guardOnly { f.m with au := false, bu := false }
  | .atom f => atomOk f.sub f.e.d f.e.a f.e.b f.e.m f.e.w2 && f.e.m.c == 0#8 && !f.e.m.cu
  | .atomLit f => atomOk f.sub f.e.d f.e.a f.e.b f.e.m f.e.w2 && f.e.m.c == 0#8 && !f.e.m.cu && atomLitOk f.sub f.e
  | .atomc f => atomOk f.sub f.e.d f.e.a f.e.b f.e.m f.e.w2 && atomcOk f.sub f.e.m
  | .atomcLit f => atomOk f.sub f.e.d f.e.a f.e.b f.e.m f.e.w2 && atomcOk f.sub f.e.m && atomLitOk f.sub f.e
  | .barinit f => f.m.au && f.w2.extractLsb' 2 14 == 0#14 && f.d == 0#8 && !f.w2.getLsbD 0 && (if f.m.bu then f.w2.extractLsb' 16 16 == 0#16 else f.b == 0#8) && guardOnly { f.m with au := false, bu := false }
  | .bararr f => f.m.au && f.w2.extractLsb' 2 14 == 0#14 && f.d == 0#8 && f.b == 0#8 && f.w2.extractLsb' 16 16 == 0#16 && guardOnly { f.m with au := false, rel := false }
  | .barexp f => f.m.au && f.w2.extractLsb' 2 14 == 0#14 && f.d == 0#8 && f.m.bu && !f.w2.getLsbD 0 && f.w2.extractLsb' 16 16 == 0#16 && guardOnly { f.m with au := false, bu := false }
  | .barwait f => f.m.au && f.w2.extractLsb' 2 14 == 0#14 && f.d == 0#8 && f.m.bu && !f.w2.getLsbD 0 && f.w2.extractLsb' 16 16 == 0#16 && guardOnly { f.m with au := false, bu := false, acq := false }
  | .bartest f => f.m.au && f.w2.extractLsb' 2 14 == 0#14 && f.d < 8#8 && f.m.bu && !f.w2.getLsbD 0 && f.w2.extractLsb' 16 16 == 0#16 && guardOnly { f.m with au := false, bu := false, acq := false }
  | .copy f => f.m.au && f.a ≤ 254#8 && f.b == 0#8 && f.w2 == 0#32 && guardOnly { f.m with au := false, fsel := false }
  | .copyb f => f.m.au && f.a ≤ 254#8 && f.b == 0#8 && f.w2 == 0#32 && guardOnly { f.m with au := false, fsel := false }
  | .copyg f => f.m.au && f.a ≤ 254#8 && f.b == 0#8 && f.w2 == 0#32 && guardOnly { f.m with au := false, fsel := false }
  | .copys f => f.m.au && f.a ≤ 254#8 && f.b == 0#8 && f.w2 == 0#32 && guardOnly { f.m with au := false, fsel := false }
  | .mma f => f.d == 0#8 && mmaOk f.m f.w2
  | .mmaq f => f.d ≤ 254#8 && mmaOk f.m f.w2
  | .mcommit f => f.a == 0#8 && f.b == 0#8 && f.w2 == 0#32 && guardOnly f.m
  | .mwait f => f.d == 0#8 && f.b == 0#8 && f.w2 == 0#32 && f.m.au && guardOnly { f.m with au := false }
  | .mrd f => mrdOk f
  | .mwr f => f.d == 0#8 && (f.w2 == 0#32 && f.b < 252#8 || f.w2 == 32#32 && hi4 f.b) && f.m.au && guardOnly { f.m with au := false }
  | .mzero f => f.d == 0#8 && f.b == 0#8 && f.w2 != 0#32 && f.w2 ≤ 8192#32 && f.m.au && guardOnly { f.m with au := false }
  | .smv f => f.d == 0#8 && f.b == 0#8 && f.w2 == 0#32 && f.m.au && guardOnly { f.m with au := false }
  | .view f => f.d < 16#8 && f.a ≤ 254#8 && f.b ≤ 254#8 && f.m.au && f.m.bu && viewOk f.w2 && guardOnly { f.m with au := false, bu := false }
  | .vstat f => f.a == 0#8 && f.b == 0#8 && f.w2 < 128#32 && guardOnly f.m
  | .vpix f => f.d == 0#8 && f.w2 == 0#32 && guardOnly { f.m with c := 0#8 }
  | .rayq f => f.d ≤ 250#8 && f.a ≤ 244#8 && f.b ≤ 254#8 && f.m.bu && f.w2 == 0#32 && guardOnly { f.m with bu := false, fsel := false }
  | .tld f => f.d < 16#8 && f.b == 0#8 && tileW2 f.w2 && f.m.au && guardOnly { f.m with au := false }
  | .tst f => f.d == 0#8 && f.b < 16#8 && tileW2 f.w2 && f.m.au && guardOnly { f.m with au := false }
  | .trd f => f.a < 16#8 && rowForm f
  | .twr f => f.d < 16#8 && rowForm f
  | .bxunion f => f.d ≤ 246#8 && f.a ≤ 246#8 && f.b ≤ 246#8 && f.w2 == 0#32 && guardOnly f.m
  | .sahcost f => f.d < 252#8 && f.a ≤ 246#8 && f.w2 == 0#32 && guardOnly f.m
  | .nodepack f => f.d == 0#8 && f.b ≤ 245#8 && f.m.cu && f.m.c ≤ 252#8 && f.w2 == 0#32 && guardOnly { f.m with cu := false, c := 0#8 }
  | .hld f => f.d < 8#8 && f.b == 0#8 && f.w2 < 2#32 && f.m.au && guardOnly { f.m with au := false }
  | .hst f => f.d == 0#8 && f.b < 8#8 && f.w2 < 2#32 && f.m.au && guardOnly { f.m with au := false }
  | .hbind f => f.d < 8#8 && f.a < 8#8 && f.b < 8#8 && f.w2 == 0#32 && guardOnly f.m
  | .hperm f => f.d < 8#8 && f.a < 8#8 && rowForm f
  | .hbund f => f.d < 4#8 && f.a < 8#8 && f.b == 0#8 && f.w2 != 0#32 && f.w2 < 16#32 && guardOnly f.m
  | .hclr f => f.d < 4#8 && f.a == 0#8 && f.b == 0#8 && f.w2 == 0#32 && guardOnly f.m
  | .hthr f => f.d < 8#8 && f.a < 4#8 && f.b < 8#8 && f.w2 == 0#32 && guardOnly f.m
  | .hdist f => f.a < 8#8 && f.b < 8#8 && f.w2 == 0#32 && guardOnly { f.m with fsel := false }
  | .hnear f => f.d ≤ 254#8 && f.a < 8#8 && f.m.bu && f.w2 == 0#32 && guardOnly { f.m with bu := false, fsel := false }
  | .hgen f => f.d < 8#8 && f.a ≤ 254#8 && f.m.au && f.m.bu && f.w2 == 0#32 && guardOnly { f.m with au := false, bu := false }
  | .remit f => f.d == 0#8 && f.m.bu && f.w2 == 0#32 && guardOnly { f.m with bu := false }
  | .ksusp f => f.d == 0#8 && f.a == 0#8 && f.b == 0#8 && f.w2 == 0#32 && guardOnly f.m
  | .kret f => f.d == 0#8 && f.a == 0#8 && f.b == 0#8 && f.w2 == 0#32 && guardOnly f.m
  | .launch f => f.d ≤ 254#8 && f.a ≤ 254#8 && f.b == 0#8 && f.w2 == 0#32 && f.m.au && guardOnly { f.m with au := false }
  | .trap f => f.d == 0#8 && f.b == 0#8 && f.w2 < 512#32 && (f.w2.getLsbD 8 || f.a == 0#8) && guardOnly f.m
  | .srd f => f.a == 0#8 && f.b == 0#8 && f.w2 < 512#32 && f.w2.extractLsb' 6 2 == 0#2 && guardOnly f.m
  | .swr f => f.d == 0#8 && f.b == 0#8 && f.w2 < 64#32 && guardOnly { f.m with au := false }
  | .fence f => fenceOk f
  | .fwait f => f.d == 0#8 && f.b == 0#8 && f.w2 == 0#32 && f.m.au && guardOnly { f.m with au := false }
  | .wqry f => f.d == 0#8 && f.b == 0#8 && f.w2 == 0#32 && f.m.au && guardOnly { f.m with au := false, fsel := false }
  | .brx f => f.d == 0#8 && f.b == 0#8 && f.w2 == 0#32 && guardOnly { f.m with au := false }
  | .launchStop _ => true
  | .peerPortDown _ => true
  | .peerCopysTraffic _ => true
  | .reservedKindMessage _ _ _ => true
  | .tenantCreation _ _ => true
  | .allowListLoad _ _ _ => true
  | .objectLoad _ _ => true
  | .attestationReport _ => true

end Sys2Proof
end

