-- ==== Sys2Proof/Decode.lean ====
section
/-!
DEFINITION. Instruction words (R37-R46): the fields of an instruction, the decoder (total on any bytes) and the encoder, both
written from the field tables of 03_encoding. A pattern the decoder refuses is ILLEGAL (R61).
-/
namespace Sys2Proof

/-- All fields an instruction's words can carry; those its length leaves out are zero. -/
structure Fields where
  len : BitVec 2
  op : BitVec 5
  x : Bool
  sub : BitVec 8
  d : BitVec 8
  a : BitVec 8
  b : BitVec 8
  m : Mods
  w2 : Word
  lit : Dword
deriving DecidableEq, Repr

/-- Words of an instruction by its LEN field (Table 3.1). -/
def wordsOfLen (len : BitVec 2) : Nat :=
  match len.toNat with | 0 => 1 | 3 => 5 | _ => 3

namespace Fields

/-- A base form whose fields are given one by one (Table 3.5 lays some of them out anew). -/
def word0 (len : BitVec 2) (op : BitVec 5) (x : Bool) (d a b : BitVec 8) : Fields :=
  { len := len, op := op, x := x, sub := 0#8, d := d, a := a, b := b, m := Mods.zero, w2 := 0#32, lit := 0#64 }
def ofBase (op : BitVec 5) (x : Bool) (f : Base) : Fields := word0 0#2 op x f.d f.a f.b
def ofExt (op : BitVec 5) (x : Bool) (sub : BitVec 8) (f : Ext) : Fields :=
  { len := 1#2, op := op, x := x, sub := sub, d := f.d, a := f.a, b := f.b, m := f.m, w2 := f.w2, lit := 0#64 }
def ofLit (op : BitVec 5) (x : Bool) (f : Lit) : Fields :=
  { len := 2#2, op := op, x := x, sub := 0#8, d := f.d, a := f.a, b := f.b, m := Mods.zero, w2 := 0#32, lit := f.lit }
def ofExtLit (op : BitVec 5) (x : Bool) (sub : BitVec 8) (f : ExtLit) : Fields :=
  { len := 3#2, op := op, x := x, sub := sub, d := f.d, a := f.a, b := f.b, m := f.m, w2 := f.w2, lit := f.lit }
/-- The fields of what is no instruction: OP 30, which is ILLEGAL (Table 3.9). -/
def event : Fields := word0 0#2 30#5 false 0#8 0#8 0#8

def base (f : Fields) : Base := { d := f.d, a := f.a, b := f.b }
def ext (f : Fields) : Ext := { d := f.d, a := f.a, b := f.b, m := f.m, w2 := f.w2 }
def litF (f : Fields) : Lit := { d := f.d, a := f.a, b := f.b, lit := f.lit }
def extLit (f : Fields) : ExtLit := { d := f.d, a := f.a, b := f.b, m := f.m, w2 := f.w2, lit := f.lit }

end Fields

/-- Word 1 as its fields (Table 3.3), SUB left out. -/
def Mods.ofWord (w : Word) : Mods :=
  { rel := w.getLsbD 31, acq := w.getLsbD 30, cu := w.getLsbD 29, bi := w.getLsbD 28, bu := w.getLsbD 27,
    au := w.getLsbD 26, fsel := w.getLsbD 25, ftz := w.getLsbD 24, sat := w.getLsbD 23, rnd := w.extractLsb' 21 2,
    gen := w.getLsbD 20, pneg := w.getLsbD 19, pred := w.extractLsb' 16 3, c := w.extractLsb' 8 8 }

/-- Word 1 of the fields (Table 3.3). -/
def Mods.toWord (m : Mods) (sub : BitVec 8) : Word :=
  BitVec.ofBool m.rel ++ BitVec.ofBool m.acq ++ BitVec.ofBool m.cu ++ BitVec.ofBool m.bi ++ BitVec.ofBool m.bu ++
  BitVec.ofBool m.au ++ BitVec.ofBool m.fsel ++ BitVec.ofBool m.ftz ++ BitVec.ofBool m.sat ++ m.rnd ++
  BitVec.ofBool m.gen ++ BitVec.ofBool m.pneg ++ m.pred ++ m.c ++ sub

/-- Word 0 of the fields (Table 3.2). -/
def Fields.head (f : Fields) : Word := f.b ++ f.a ++ f.d ++ BitVec.ofBool f.x ++ f.op ++ f.len

/-- The words of the fields, in order (Table 3.1). -/
def Fields.words (f : Fields) : List Word :=
  match f.len.toNat with
  | 0 => [f.head]
  | 1 => [f.head, f.m.toWord f.sub, f.w2]
  | 2 => [f.head, f.lit.extractLsb' 0 32, f.lit.extractLsb' 32 32]
  | _ => [f.head, f.m.toWord f.sub, f.w2, f.lit.extractLsb' 0 32, f.lit.extractLsb' 32 32]

/-- The fields of the words, by LEN of the first; words beyond the instruction are not looked at. -/
def Fields.parse (ws : List Word) : Option Fields :=
  match ws with
  | [] => none
  | w0 :: rest =>
    let f := Fields.word0 (w0.extractLsb' 0 2) (w0.extractLsb' 2 5) (w0.getLsbD 7) (w0.extractLsb' 8 8)
      (w0.extractLsb' 16 8) (w0.extractLsb' 24 8)
    match f.len.toNat, rest with
    | 0, _ => some f
    | 1, w1 :: w2 :: _ => some { f with m := Mods.ofWord w1, sub := w1.extractLsb' 0 8, w2 := w2 }
    | 2, l :: h :: _ => some { f with lit := h ++ l }
    | 3, w1 :: w2 :: l :: h :: _ =>
      some { f with m := Mods.ofWord w1, sub := w1.extractLsb' 0 8, w2 := w2, lit := h ++ l }
    | _, _ => none

namespace Decode

/-- OP 20, X 0: the group's SUB values (Table 3.10a). -/
def group20 (f : Fields) : Option Instr :=
  if f.len == 1#2 then
    (match f.sub.toNat with
     | 0 => some (.abs f.ext)
     | 1 => some (.neg f.ext)
     | 2 => some (.popc f.ext)
     | 3 => some (.clz f.ext)
     | 4 => some (.brev f.ext)
     | 5 => some (.bfx f.ext)
     | 6 => some (.bfi f.ext)
     | 7 => some (.idiv f.ext)
     | 8 => some (.dot4 f.ext)
     | 9 => some (.wmerge f.ext)
     | _ => none)
  else none

/-- OP 22, X 0: the group's SUB values (Table 3.10a). -/
def group22 (f : Fields) : Option Instr :=
  if f.len == 1#2 then
    (match f.sub.toNat with
     | 0 => some (.barinit f.ext)
     | 1 => some (.bararr f.ext)
     | 2 => some (.barexp f.ext)
     | 3 => some (.barwait f.ext)
     | 4 => some (.bartest f.ext)
     | _ => none)
  else none

/-- OP 23, X 0: the group's SUB values (Table 3.10a). -/
def group23 (f : Fields) : Option Instr :=
  if f.len == 1#2 then
    (match f.sub.toNat with
     | 0 => some (.copy f.ext)
     | 1 => some (.copyb f.ext)
     | 2 => some (.copyg f.ext)
     | 3 => some (.copys f.ext)
     | _ => none)
  else none

/-- OP 24, X 0: the group's SUB values (Table 3.10a). -/
def group24 (f : Fields) : Option Instr :=
  if f.len == 1#2 then
    (match f.sub.toNat with
     | 0 => some (.mma f.ext)
     | 1 => some (.mmaq f.ext)
     | 2 => some (.mcommit f.ext)
     | 3 => some (.mwait f.ext)
     | 4 => some (.mrd f.ext)
     | 5 => some (.mwr f.ext)
     | 6 => some (.mzero f.ext)
     | 7 => some (.smv f.ext)
     | _ => none)
  else none

/-- OP 25, X 0: the group's SUB values (Table 3.10a). -/
def group25 (f : Fields) : Option Instr :=
  if f.len == 1#2 then
    (match f.sub.toNat with
     | 0 => some (.view f.ext)
     | 1 => some (.vstat f.ext)
     | 2 => some (.vpix f.ext)
     | 3 => some (.rayq f.ext)
     | _ => none)
  else none

/-- OP 26, X 0: the group's SUB values (Table 3.10a). -/
def group26 (f : Fields) : Option Instr :=
  if f.len == 1#2 then
    (match f.sub.toNat with
     | 0 => some (.tld f.ext)
     | 1 => some (.tst f.ext)
     | 2 => some (.trd f.ext)
     | 3 => some (.twr f.ext)
     | _ => none)
  else none

/-- OP 26, X 1: the group's SUB values (Table 3.10a). -/
def group26x (f : Fields) : Option Instr :=
  if f.len == 1#2 then
    (match f.sub.toNat with
     | 0 => some (.bxunion f.ext)
     | 1 => some (.sahcost f.ext)
     | 2 => some (.nodepack f.ext)
     | _ => none)
  else none

/-- OP 27, X 0: the group's SUB values (Table 3.10a). -/
def group27 (f : Fields) : Option Instr :=
  if f.len == 1#2 then
    (match f.sub.toNat with
     | 0 => some (.hld f.ext)
     | 1 => some (.hst f.ext)
     | 2 => some (.hbind f.ext)
     | 3 => some (.hperm f.ext)
     | 4 => some (.hbund f.ext)
     | 5 => some (.hclr f.ext)
     | 6 => some (.hthr f.ext)
     | 7 => some (.hdist f.ext)
     | 8 => some (.hnear f.ext)
     | 9 => some (.hgen f.ext)
     | _ => none)
  else none

/-- OP 28, X 0: the group's SUB values (Table 3.10a). -/
def group28 (f : Fields) : Option Instr :=
  if f.len == 1#2 then
    (match f.sub.toNat with
     | 0 => some (.remit f.ext)
     | 1 => some (.ksusp f.ext)
     | 2 => some (.kret f.ext)
     | _ => none)
  else none

/-- OP 29, X 0: the group's SUB values (Table 3.10a). -/
def group29 (f : Fields) : Option Instr :=
  if f.len == 1#2 then
    (match f.sub.toNat with
     | 0 => some (.launch f.ext)
     | 1 => some (.trap f.ext)
     | 2 => some (.srd f.ext)
     | 3 => some (.swr f.ext)
     | 4 => some (.fence f.ext)
     | 5 => some (.fwait f.ext)
     | 6 => some (.wqry f.ext)
     | 7 => some (.brx f.ext)
     | _ => none)
  else none

/-- The row of the opcode map (Tables 3.9 and 3.10a) whose form the fields have; field limits are `Instr.wf`. -/
def row (f : Fields) : Option Instr :=
  match f.op.toNat, f.x with
  | 0, false => if f.sub == 0#8 then (match f.len.toNat with | 0 => if f.d == 0#8 && f.a == 0#8 && f.b == 0#8 then some .nop else none | _ => none) else none
  | 0, true => if f.sub == 0#8 then (match f.len.toNat with | 0 => if f.d == 0#8 && f.a == 0#8 && f.b == 0#8 then some .yield else none | 1 => some (.yieldExt f.ext) | _ => none) else none
  | 1, false => if f.sub == 0#8 then (match f.len.toNat with | 0 => some (.add f.base) | 1 => some (.addExt f.ext) | 2 => some (.addLit f.litF) | 3 => some (.addExtLit f.extLit) | _ => none) else none
  | 1, true => if f.sub == 0#8 then (match f.len.toNat with | 0 => some (.sub f.base) | 1 => some (.subExt f.ext) | 2 => some (.subLit f.litF) | 3 => some (.subExtLit f.extLit) | _ => none) else none
  | 2, false => if f.sub == 0#8 then (match f.len.toNat with | 0 => some (.mul f.base) | 1 => some (.mulExt f.ext) | 2 => some (.mulLit f.litF) | 3 => some (.mulExtLit f.extLit) | _ => none) else none
  | 2, true => if f.sub == 0#8 then (match f.len.toNat with | 0 => some (.mulh f.base) | 1 => some (.mulhExt f.ext) | 2 => some (.mulhLit f.litF) | 3 => some (.mulhExtLit f.extLit) | _ => none) else none
  | 3, false => if f.sub == 0#8 then (match f.len.toNat with | 0 => some (.fma f.base) | 1 => some (.fmaExt f.ext) | 2 => some (.fmaLit f.litF) | 3 => some (.fmaExtLit f.extLit) | _ => none) else none
  | 3, true => if f.sub == 0#8 then (match f.len.toNat with | 0 => some (.fms f.base) | 1 => some (.fmsExt f.ext) | 2 => some (.fmsLit f.litF) | 3 => some (.fmsExtLit f.extLit) | _ => none) else none
  | 4, false => if f.sub == 0#8 then (match f.len.toNat with | 0 => some (.min f.base) | 1 => some (.minExt f.ext) | 2 => some (.minLit f.litF) | 3 => some (.minExtLit f.extLit) | _ => none) else none
  | 4, true => if f.sub == 0#8 then (match f.len.toNat with | 0 => some (.max f.base) | 1 => some (.maxExt f.ext) | 2 => some (.maxLit f.litF) | 3 => some (.maxExtLit f.extLit) | _ => none) else none
  | 5, false => if f.sub == 0#8 then (match f.len.toNat with | 0 => some (.and f.base) | 1 => some (.andExt f.ext) | 2 => some (.andLit f.litF) | 3 => some (.andExtLit f.extLit) | _ => none) else none
  | 5, true => if f.sub == 0#8 then (match f.len.toNat with | 0 => some (.or f.base) | 1 => some (.orExt f.ext) | 2 => some (.orLit f.litF) | 3 => some (.orExtLit f.extLit) | _ => none) else none
  | 6, false => if f.sub == 0#8 then (match f.len.toNat with | 0 => some (.xor f.base) | 1 => some (.xorExt f.ext) | 2 => some (.xorLit f.litF) | 3 => some (.xorExtLit f.extLit) | _ => none) else none
  | 6, true => if f.sub == 0#8 then (match f.len.toNat with | 0 => some (.andn f.base) | 1 => some (.andnExt f.ext) | 2 => some (.andnLit f.litF) | 3 => some (.andnExtLit f.extLit) | _ => none) else none
  | 7, false => if f.sub == 0#8 then (match f.len.toNat with | 0 => some (.shl f.base) | 1 => some (.shlExt f.ext) | 2 => some (.shlLit f.litF) | 3 => some (.shlExtLit f.extLit) | _ => none) else none
  | 7, true => if f.sub == 0#8 then (match f.len.toNat with | 0 => some (.shr f.base) | 1 => some (.shrExt f.ext) | 2 => some (.shrLit f.litF) | 3 => some (.shrExtLit f.extLit) | _ => none) else none
  | 8, false => if f.sub == 0#8 then (match f.len.toNat with | 0 => some (.cmpp f.base) | 1 => some (.cmppExt f.ext) | 2 => some (.cmppLit f.litF) | 3 => some (.cmppExtLit f.extLit) | _ => none) else none
  | 8, true => if f.sub == 0#8 then (match f.len.toNat with | 0 => some (.sel f.base) | 1 => some (.selExt f.ext) | 2 => some (.selLit f.litF) | 3 => some (.selExtLit f.extLit) | _ => none) else none
  | 9, false => if f.sub == 0#8 then (match f.len.toNat with | 0 => some (.mov f.base) | 1 => if f.w2.getLsbD 31 then some (.movWide f.ext) else some (.movExt f.ext) | 2 => some (.movLit f.litF) | 3 => some (.movExtLit f.extLit) | _ => none) else none
  | 9, true => if f.sub == 0#8 then (match f.len.toNat with | 0 => some (.movi f.d (f.b ++ f.a)) | 1 => some (.moviExt f.ext) | _ => none) else none
  | 10, false => if f.sub == 0#8 then (match f.len.toNat with | 0 => some (.cvt f.base) | 1 => some (.cvtExt f.ext) | _ => none) else none
  | 10, true => if f.sub == 0#8 then (match f.len.toNat with | 0 => some (.vtag f.base) | 1 => some (.vtagExt f.ext) | _ => none) else none
  | 11, false => if f.sub == 0#8 then (match f.len.toNat with | 0 => some (.sfu f.base) | 1 => some (.sfuExt f.ext) | _ => none) else none
  | 11, true => if f.sub == 0#8 then (match f.len.toNat with | 0 => some (.perm f.base) | 1 => some (.permExt f.ext) | _ => none) else none
  | 12, false => if f.sub == 0#8 then (match f.len.toNat with | 0 => some (.shfl f.base) | 1 => some (.shflExt f.ext) | _ => none) else none
  | 12, true => if f.sub == 0#8 then (match f.len.toNat with | 0 => some (.reduce f.base) | 1 => some (.reduceExt f.ext) | _ => none) else none
  | 13, false => if f.sub == 0#8 then (match f.len.toNat with | 0 => some (.scan f.base) | 1 => some (.scanExt f.ext) | _ => none) else none
  | 13, true => if f.sub == 0#8 then (match f.len.toNat with | 0 => some (.welf f.base) | 1 => some (.welfExt f.ext) | _ => none) else none
  | 14, false => if f.sub == 0#8 then (match f.len.toNat with | 0 => some (.ldl f.base) | 1 => some (.ldlExt f.ext) | _ => none) else none
  | 14, true => if f.sub == 0#8 then (match f.len.toNat with | 0 => some (.stl f.base) | 1 => some (.stlExt f.ext) | _ => none) else none
  | 15, false => if f.sub == 0#8 then (match f.len.toNat with | 0 => some (.lds f.base) | 1 => some (.ldsExt f.ext) | _ => none) else none
  | 15, true => if f.sub == 0#8 then (match f.len.toNat with | 0 => some (.sts f.base) | 1 => some (.stsExt f.ext) | _ => none) else none
  | 16, false => if f.sub == 0#8 then (match f.len.toNat with | 0 => some (.spush f.base) | 1 => some (.spushExt f.ext) | _ => none) else none
  | 16, true => if f.sub == 0#8 then (match f.len.toNat with | 0 => some (.spop f.base) | 1 => some (.spopExt f.ext) | _ => none) else none
  | 17, false => if f.sub == 0#8 then (match f.len.toNat with | 0 => some (.bra (f.b ++ f.a ++ f.d)) | 1 => some (.braExt f.ext) | _ => none) else none
  | 17, true => if f.sub == 0#8 then (match f.len.toNat with | 0 => some (.brc (f.b ++ f.a ++ f.d.extractLsb' 4 4) (f.d.getLsbD 3) (f.d.extractLsb' 0 3)) | _ => none) else none
  | 18, false => if f.sub == 0#8 then (match f.len.toNat with | 0 => some (.call (f.b ++ f.a ++ f.d)) | 1 => some (.callExt f.ext) | _ => none) else none
  | 18, true => if f.sub == 0#8 then (match f.len.toNat with | 0 => if f.d == 0#8 && f.a == 0#8 && f.b == 0#8 then some .ret else none | 1 => some (.retExt f.ext) | _ => none) else none
  | 19, false => if f.sub == 0#8 then (match f.len.toNat with | 0 => if f.d < 8#8 then some (.fork (f.d.extractLsb' 0 3) (f.b ++ f.a)) else none | 1 => some (.forkExt f.ext) | _ => none) else none
  | 19, true => if f.sub == 0#8 then (match f.len.toNat with | 0 => if f.d == 0#8 && f.a == 0#8 && f.b == 0#8 then some .fend else none | 1 => some (.fendExt f.ext) | _ => none) else none
  | 20, false => group20 f
  | 21, false => (match f.len.toNat with | 1 => some (.atom { sub := f.sub, e := f.ext }) | 3 => some (.atomLit { sub := f.sub, e := f.extLit }) | _ => none)
  | 21, true => (match f.len.toNat with | 1 => some (.atomc { sub := f.sub, e := f.ext }) | 3 => some (.atomcLit { sub := f.sub, e := f.extLit }) | _ => none)
  | 22, false => group22 f
  | 23, false => group23 f
  | 24, false => group24 f
  | 25, false => group25 f
  | 26, false => group26 f
  | 26, true => group26x f
  | 27, false => group27 f
  | 28, false => group28 f
  | 29, false => group29 f
  | _, _ => none

end Decode

/-- The instruction of some fields: its row, when the manual admits the fields (R61). -/
def Fields.instr (f : Fields) : Option Instr :=
  (Decode.row f).bind (fun i => if i.wf then some i else none)

/-- The instruction at the head of the words, or none: the pattern is ILLEGAL (R61). -/
def decodeWords (ws : List Word) : Option Instr := (Fields.parse ws).bind Fields.instr

/-- A word from its bytes, lowest address first (R37). -/
def wordOfBytes (b0 b1 b2 b3 : Byte) : Word := b3 ++ b2 ++ b1 ++ b0

/-- Whole words of a byte sequence; a tail of fewer than four bytes is dropped. -/
def wordsOfBytes : List Byte → List Word
  | b0 :: b1 :: b2 :: b3 :: rest => wordOfBytes b0 b1 b2 b3 :: wordsOfBytes rest
  | _ => []

/-- Why a byte sequence is no instruction. -/
inductive Reject where
  | truncated   -- fewer bytes than LEN asks for
  | illegal     -- no row of the opcode map, or a field the entry does not admit (R61)
deriving DecidableEq, Repr

/-- The decoder: total on any bytes, rejecting by name. -/
def decode (bs : List Byte) : Except Reject Instr :=
  match Fields.parse (wordsOfBytes bs) with
  | none => .error .truncated
  | some f => (match f.instr with | some i => .ok i | none => .error .illegal)

/-- The fields of an instruction, from the encoding tables; an event has none and stands as OP 30. -/
def Instr.fields : Instr → Fields
  | .issueOpportunity _ => .event
  | .clauseContinue _ => .event
  | .landing _ => .event
  | .copyPacket _ _ _ => .event
  | .copyHoldRelease _ => .event
  | .faultServiced _ _ => .event
  | .faultDeclaredFatal _ => .event
  | .copysSignal _ => .event
  | .arm _ _ _ => .event
  | .fire _ _ _ => .event
  | .launchAcceptance _ => .event
  | .gangPlacement _ _ => .event
  | .nodeCrewPlacement _ _ _ => .event
  | .gangRetirement _ => .event
  | .launchRetirement _ => .event
  | .finalMerge _ => .event
  | .detMerge _ _ => .event
  | .matrixCommandRetire _ _ => .event
  | .smvPacket _ _ _ => .event
  | .atomicPerform _ => .event
  | .fenceComplete _ _ => .event
  | .viewTraversal _ => .event
  | .viewLanding _ => .event
  | .recordDelivery _ _ _ => .event
  | .retireDelivery _ _ _ => .event
  | .contextFetch _ _ => .event
  | .workItemAssign _ => .event
  | .wqryRound _ => .event
  | .sliceExpiry _ => .event
  | .stopRequest _ _ => .event
  | .contextSave _ => .event
  | .quotaWrite _ _ => .event
  | .unitRetirement _ => .event
  | .uncorrectableError _ _ => .event
  | .correctableError _ _ => .event
  | .telemetryRead _ _ _ => .event
  | .telemetryStatusClear _ _ => .event
  | .securityAlarm => .event
  | .bringUp _ => .event
  | .nop => Fields.word0 0 0 false 0#8 0#8 0#8
  | .yield => Fields.word0 0 0 true 0#8 0#8 0#8
  | .yieldExt f => .ofExt 0 true 0#8 f
  | .add f => .ofBase 1 false f
  | .addExt f => .ofExt 1 false 0#8 f
  | .addLit f => .ofLit 1 false f
  | .addExtLit f => .ofExtLit 1 false 0#8 f
  | .sub f => .ofBase 1 true f
  | .subExt f => .ofExt 1 true 0#8 f
  | .subLit f => .ofLit 1 true f
  | .subExtLit f => .ofExtLit 1 true 0#8 f
  | .mul f => .ofBase 2 false f
  | .mulExt f => .ofExt 2 false 0#8 f
  | .mulLit f => .ofLit 2 false f
  | .mulExtLit f => .ofExtLit 2 false 0#8 f
  | .mulh f => .ofBase 2 true f
  | .mulhExt f => .ofExt 2 true 0#8 f
  | .mulhLit f => .ofLit 2 true f
  | .mulhExtLit f => .ofExtLit 2 true 0#8 f
  | .fma f => .ofBase 3 false f
  | .fmaExt f => .ofExt 3 false 0#8 f
  | .fmaLit f => .ofLit 3 false f
  | .fmaExtLit f => .ofExtLit 3 false 0#8 f
  | .fms f => .ofBase 3 true f
  | .fmsExt f => .ofExt 3 true 0#8 f
  | .fmsLit f => .ofLit 3 true f
  | .fmsExtLit f => .ofExtLit 3 true 0#8 f
  | .min f => .ofBase 4 false f
  | .minExt f => .ofExt 4 false 0#8 f
  | .minLit f => .ofLit 4 false f
  | .minExtLit f => .ofExtLit 4 false 0#8 f
  | .max f => .ofBase 4 true f
  | .maxExt f => .ofExt 4 true 0#8 f
  | .maxLit f => .ofLit 4 true f
  | .maxExtLit f => .ofExtLit 4 true 0#8 f
  | .and f => .ofBase 5 false f
  | .andExt f => .ofExt 5 false 0#8 f
  | .andLit f => .ofLit 5 false f
  | .andExtLit f => .ofExtLit 5 false 0#8 f
  | .or f => .ofBase 5 true f
  | .orExt f => .ofExt 5 true 0#8 f
  | .orLit f => .ofLit 5 true f
  | .orExtLit f => .ofExtLit 5 true 0#8 f
  | .xor f => .ofBase 6 false f
  | .xorExt f => .ofExt 6 false 0#8 f
  | .xorLit f => .ofLit 6 false f
  | .xorExtLit f => .ofExtLit 6 false 0#8 f
  | .andn f => .ofBase 6 true f
  | .andnExt f => .ofExt 6 true 0#8 f
  | .andnLit f => .ofLit 6 true f
  | .andnExtLit f => .ofExtLit 6 true 0#8 f
  | .shl f => .ofBase 7 false f
  | .shlExt f => .ofExt 7 false 0#8 f
  | .shlLit f => .ofLit 7 false f
  | .shlExtLit f => .ofExtLit 7 false 0#8 f
  | .shr f => .ofBase 7 true f
  | .shrExt f => .ofExt 7 true 0#8 f
  | .shrLit f => .ofLit 7 true f
  | .shrExtLit f => .ofExtLit 7 true 0#8 f
  | .cmpp f => .ofBase 8 false f
  | .cmppExt f => .ofExt 8 false 0#8 f
  | .cmppLit f => .ofLit 8 false f
  | .cmppExtLit f => .ofExtLit 8 false 0#8 f
  | .sel f => .ofBase 8 true f
  | .selExt f => .ofExt 8 true 0#8 f
  | .selLit f => .ofLit 8 true f
  | .selExtLit f => .ofExtLit 8 true 0#8 f
  | .mov f => .ofBase 9 false f
  | .movExt f => .ofExt 9 false 0#8 f
  | .movWide f => .ofExt 9 false 0#8 f
  | .movLit f => .ofLit 9 false f
  | .movExtLit f => .ofExtLit 9 false 0#8 f
  | .movi d imm => Fields.word0 0 9 true d (imm.extractLsb' 0 8) (imm.extractLsb' 8 8)
  | .moviExt f => .ofExt 9 true 0#8 f
  | .cvt f => .ofBase 10 false f
  | .cvtExt f => .ofExt 10 false 0#8 f
  | .vtag f => .ofBase 10 true f
  | .vtagExt f => .ofExt 10 true 0#8 f
  | .sfu f => .ofBase 11 false f
  | .sfuExt f => .ofExt 11 false 0#8 f
  | .perm f => .ofBase 11 true f
  | .permExt f => .ofExt 11 true 0#8 f
  | .shfl f => .ofBase 12 false f
  | .shflExt f => .ofExt 12 false 0#8 f
  | .reduce f => .ofBase 12 true f
  | .reduceExt f => .ofExt 12 true 0#8 f
  | .scan f => .ofBase 13 false f
  | .scanExt f => .ofExt 13 false 0#8 f
  | .welf f => .ofBase 13 true f
  | .welfExt f => .ofExt 13 true 0#8 f
  | .ldl f => .ofBase 14 false f
  | .ldlExt f => .ofExt 14 false 0#8 f
  | .stl f => .ofBase 14 true f
  | .stlExt f => .ofExt 14 true 0#8 f
  | .lds f => .ofBase 15 false f
  | .ldsExt f => .ofExt 15 false 0#8 f
  | .sts f => .ofBase 15 true f
  | .stsExt f => .ofExt 15 true 0#8 f
  | .spush f => .ofBase 16 false f
  | .spushExt f => .ofExt 16 false 0#8 f
  | .spop f => .ofBase 16 true f
  | .spopExt f => .ofExt 16 true 0#8 f
  | .bra off => Fields.word0 0 17 false (off.extractLsb' 0 8) (off.extractLsb' 8 8) (off.extractLsb' 16 8)
  | .braExt f => .ofExt 17 false 0#8 f
  | .brc off ng p => Fields.word0 0 17 true (off.extractLsb' 0 4 ++ BitVec.ofBool ng ++ p) (off.extractLsb' 4 8) (off.extractLsb' 12 8)
  | .call off => Fields.word0 0 18 false (off.extractLsb' 0 8) (off.extractLsb' 8 8) (off.extractLsb' 16 8)
  | .callExt f => .ofExt 18 false 0#8 f
  | .ret => Fields.word0 0 18 true 0#8 0#8 0#8
  | .retExt f => .ofExt 18 true 0#8 f
  | .fork pd off => Fields.word0 0 19 false (0#5 ++ pd) (off.extractLsb' 0 8) (off.extractLsb' 8 8)
  | .forkExt f => .ofExt 19 false 0#8 f
  | .fend => Fields.word0 0 19 true 0#8 0#8 0#8
  | .fendExt f => .ofExt 19 true 0#8 f
  | .abs f => .ofExt 20 false 0#8 f
  | .neg f => .ofExt 20 false 1#8 f
  | .popc f => .ofExt 20 false 2#8 f
  | .clz f => .ofExt 20 false 3#8 f
  | .brev f => .ofExt 20 false 4#8 f
  | .bfx f => .ofExt 20 false 5#8 f
  | .bfi f => .ofExt 20 false 6#8 f
  | .idiv f => .ofExt 20 false 7#8 f
  | .dot4 f => .ofExt 20 false 8#8 f
  | .wmerge f => .ofExt 20 false 9#8 f
  | .atom f => .ofExt 21 false f.sub f.e
  | .atomLit f => .ofExtLit 21 false f.sub f.e
  | .atomc f => .ofExt 21 true f.sub f.e
  | .atomcLit f => .ofExtLit 21 true f.sub f.e
  | .barinit f => .ofExt 22 false 0#8 f
  | .bararr f => .ofExt 22 false 1#8 f
  | .barexp f => .ofExt 22 false 2#8 f
  | .barwait f => .ofExt 22 false 3#8 f
  | .bartest f => .ofExt 22 false 4#8 f
  | .copy f => .ofExt 23 false 0#8 f
  | .copyb f => .ofExt 23 false 1#8 f
  | .copyg f => .ofExt 23 false 2#8 f
  | .copys f => .ofExt 23 false 3#8 f
  | .mma f => .ofExt 24 false 0#8 f
  | .mmaq f => .ofExt 24 false 1#8 f
  | .mcommit f => .ofExt 24 false 2#8 f
  | .mwait f => .ofExt 24 false 3#8 f
  | .mrd f => .ofExt 24 false 4#8 f
  | .mwr f => .ofExt 24 false 5#8 f
  | .mzero f => .ofExt 24 false 6#8 f
  | .smv f => .ofExt 24 false 7#8 f
  | .view f => .ofExt 25 false 0#8 f
  | .vstat f => .ofExt 25 false 1#8 f
  | .vpix f => .ofExt 25 false 2#8 f
  | .rayq f => .ofExt 25 false 3#8 f
  | .tld f => .ofExt 26 false 0#8 f
  | .tst f => .ofExt 26 false 1#8 f
  | .trd f => .ofExt 26 false 2#8 f
  | .twr f => .ofExt 26 false 3#8 f
  | .bxunion f => .ofExt 26 true 0#8 f
  | .sahcost f => .ofExt 26 true 1#8 f
  | .nodepack f => .ofExt 26 true 2#8 f
  | .hld f => .ofExt 27 false 0#8 f
  | .hst f => .ofExt 27 false 1#8 f
  | .hbind f => .ofExt 27 false 2#8 f
  | .hperm f => .ofExt 27 false 3#8 f
  | .hbund f => .ofExt 27 false 4#8 f
  | .hclr f => .ofExt 27 false 5#8 f
  | .hthr f => .ofExt 27 false 6#8 f
  | .hdist f => .ofExt 27 false 7#8 f
  | .hnear f => .ofExt 27 false 8#8 f
  | .hgen f => .ofExt 27 false 9#8 f
  | .remit f => .ofExt 28 false 0#8 f
  | .ksusp f => .ofExt 28 false 1#8 f
  | .kret f => .ofExt 28 false 2#8 f
  | .launch f => .ofExt 29 false 0#8 f
  | .trap f => .ofExt 29 false 1#8 f
  | .srd f => .ofExt 29 false 2#8 f
  | .swr f => .ofExt 29 false 3#8 f
  | .fence f => .ofExt 29 false 4#8 f
  | .fwait f => .ofExt 29 false 5#8 f
  | .wqry f => .ofExt 29 false 6#8 f
  | .brx f => .ofExt 29 false 7#8 f
  | .launchStop _ => .event
  | .peerPortDown _ => .event
  | .peerCopysTraffic _ => .event
  | .reservedKindMessage _ _ _ => .event
  | .tenantCreation _ _ => .event
  | .allowListLoad _ _ _ => .event
  | .objectLoad _ _ => .event
  | .attestationReport _ => .event

/-- The encoder: the words of an instruction. -/
def encode (i : Instr) : List Word := i.fields.words

/-- The bytes of a word, lowest address first (R37). -/
def bytesOfWord (w : Word) : List Byte :=
  [w.extractLsb' 0 8, w.extractLsb' 8 8, w.extractLsb' 16 8, w.extractLsb' 24 8]

/-- The bytes of an instruction as they lie in memory. -/
def encodeBytes (i : Instr) : List Byte := (encode i).flatMap bytesOfWord

/-- The number of words of an instruction. -/
def Instr.size (i : Instr) : Nat := wordsOfLen i.fields.len

/-! ### The first offending word of an illegal pattern (Table 12.1) -/

/-- Values of word 2 to try: one or more under which each instruction that uses word 2 is legal. -/
def legalW2 : List Word :=
  [0#32, 1#32, 2#32, 3#32, 10#32, 19#32, 32#32, 256#32, 0x8000_0000#32, 0x0220_0080#32]

/-- Values of word 1 to try, with its SUB: source flags, REL and BI, and the SUB values of the groups or the scopes of OP 21. -/
def legalWord1 (op : Nat) : List (BitVec 8 × Mods) :=
  let bools := [false, true]
  let subs : List (BitVec 8) :=
    if op < 20 then [0#8] else if op == 21 then [0#8, 0x30#8, 0x40#8] else (List.range 10).map (BitVec.ofNat 8)
  subs.flatMap (fun sub => bools.flatMap (fun au => bools.flatMap (fun bu => bools.flatMap (fun cu => bools.flatMap (fun bi =>
    bools.map (fun rel => (sub, { Mods.zero with au := au, bu := bu, cu := cu, bi := bi, rel := rel })))))))

/-- Word 0 with each of D, A and B as it is or zero. -/
def legalWord0 (f : Fields) : List Fields :=
  [f.d, 0#8].flatMap (fun d => [f.a, 0#8].flatMap (fun a => [f.b, 0#8].map (fun b => { f with d := d, a := a, b := b })))

/-- Words 0 to 2 of a three-word form that is no instruction: the first one that can be mended alone, or after which no continuation
tried is legal. OP, X and the SUB of a group name the instruction, and BI what word 2 is, so that they stay. -/
def offendingOf (legal : Fields → Bool) (f : Fields) : Nat :=
  let one := legalWord1 f.op.toNat
  let ones := if 20 ≤ f.op.toNat && f.op != 21#5 then one.filter (fun e => e.1 == f.sub) else one
  if (legalWord0 f).any legal then 0
  else if !ones.any (fun e => legalW2.any (fun w => legal { f with sub := e.1, m := e.2, w2 := w })) then
    if one.any (fun e => legalW2.any (fun w => legal { f with d := 0, a := 0, b := 0, sub := e.1, m := e.2, w2 := w })) &&
        !ones.any (fun e => legalW2.any (fun w => legal { f with d := 0, a := 0, b := 0, sub := e.1, m := e.2, w2 := w })) then 1
    else 0
  else if ones.any (fun e => e.2.bi == f.m.bi && legal { f with sub := e.1, m := e.2 }) then 1
  else if legalW2.any (fun w => legal { f with w2 := w }) then 2
  else 1

/-- The offending word of a pattern that is no instruction; a missing word offends. DEDUCED, log 17. -/
def offendingWord (ws : List Word) : Nat :=
  match Fields.parse ws with
  | none => ws.length
  | some f =>
    let legal (g : Fields) : Bool := g.instr.isSome
    if 2 ≤ f.len.toNat && legal { f with lit := f.lit &&& 0xFFFF_FFFF#64 } then wordsOfLen f.len - 1
    else if f.len == 2#2 then 0
    else if f.len == 0#2 then 0
    else offendingOf legal { f with lit := 0#64 }

/-- The five words an instruction of `nbits` bits numbered as the opcode table numbers them lies in: bit 0 is the least
significant bit of the first word; bits at or above `nbits` are zero. -/
def tableWords (nbits w : Nat) : List Word :=
  let v := w % 2 ^ nbits
  [BitVec.ofNat 32 v, BitVec.ofNat 32 (v / 2 ^ 32), BitVec.ofNat 32 (v / 2 ^ 64), BitVec.ofNat 32 (v / 2 ^ 96),
   BitVec.ofNat 32 (v / 2 ^ 128)]

/-- The instruction the decoder reads from an instruction with those bits. -/
def decodeTableWord (nbits w : Nat) : Option Instr :=
  match decode ((tableWords nbits w).flatMap bytesOfWord) with
  | .ok i => some i
  | .error _ => none

end Sys2Proof
end

