-- ==== Sys2Proof/Machine/Num.lean ====
section
/-!
DEFINITION. Number formats and their arithmetic (04_numbers): exact values, one rounding per operation, packing of
elements. Every operation is exact until `Fmt.round` narrows it.
-/
namespace Sys2Proof.Machine

/-- The four rounding modes of RND (R71). -/
inductive Rnd where
  | ne | tz | dn | up
deriving DecidableEq, Repr

def Rnd.ofBits (r : BitVec 2) : Rnd :=
  match r.toNat with | 0 => .ne | 1 => .tz | 2 => .dn | _ => .up

/-- What the all-ones exponent of a format means (R69, R70). -/
inductive FmtKind where
  | ieee   -- infinities and NaNs
  | e4m3   -- one NaN pattern, no infinity
  | e2m1   -- neither
deriving DecidableEq, Repr

/-- A floating-point layout (Tables 4.1, 4.2). -/
structure Fmt where
  ebits : Nat
  mbits : Nat
  bias : Nat
  kind : FmtKind
deriving DecidableEq, Repr

def fmtF32 : Fmt := { ebits := 8, mbits := 23, bias := 127, kind := .ieee }
def fmtF16 : Fmt := { ebits := 5, mbits := 10, bias := 15, kind := .ieee }
def fmtBF16 : Fmt := { ebits := 8, mbits := 7, bias := 127, kind := .ieee }
def fmtE4M3 : Fmt := { ebits := 4, mbits := 3, bias := 7, kind := .e4m3 }
def fmtE5M2 : Fmt := { ebits := 5, mbits := 2, bias := 15, kind := .ieee }
def fmtE2M1 : Fmt := { ebits := 2, mbits := 1, bias := 1, kind := .e2m1 }

/-- An exact value: NaN, an infinity, or ± m × 2^e; zeros keep their sign. -/
inductive Fl where
  | nan
  | inf (neg : Bool)
  | fin (neg : Bool) (m : Nat) (e : Int)
deriving DecidableEq, Repr

namespace Fmt

/-- Width in bits. -/
def width (f : Fmt) : Nat := 1 + f.ebits + f.mbits
/-- The sign bit's weight. -/
def signBit (f : Fmt) : Nat := 2 ^ (f.ebits + f.mbits)
/-- The largest finite pattern, sign clear (Tables 4.1, 4.2). -/
def maxFinite (f : Fmt) : Nat :=
  match f.kind with
  | .ieee => (2 ^ f.ebits - 1) * 2 ^ f.mbits - 1
  | .e4m3 => 2 ^ (f.ebits + f.mbits) - 2
  | .e2m1 => 2 ^ (f.ebits + f.mbits) - 1
/-- +∞, for the formats that have it. -/
def infPat (f : Fmt) : Nat := (2 ^ f.ebits - 1) * 2 ^ f.mbits
/-- The NaN pattern written (Tables 4.1, 4.2); NaN becomes 0 in E2M1 (R73). -/
def nanPat (f : Fmt) : Nat :=
  match f.kind with
  | .ieee => f.infPat + 2 ^ (f.mbits - 1)
  | .e4m3 => 2 ^ (f.ebits + f.mbits) - 1
  | .e2m1 => 0

/-- The value of a pattern (R69, R70). -/
def decode (f : Fmt) (bits : Nat) : Fl :=
  let neg := bits / f.signBit % 2 == 1
  let e := bits / 2 ^ f.mbits % 2 ^ f.ebits
  let fr := bits % 2 ^ f.mbits
  let special :=
    match f.kind with
    | .ieee => e == 2 ^ f.ebits - 1
    | .e4m3 => e == 2 ^ f.ebits - 1 && fr == 2 ^ f.mbits - 1
    | .e2m1 => false
  if special then (if f.kind == .ieee && fr == 0 then .inf neg else .nan)
  else if e == 0 then .fin neg fr (1 - (f.bias : Int) - f.mbits)
  else .fin neg (2 ^ f.mbits + fr) ((e : Int) - f.bias - f.mbits)

/-- A pattern with a sign. -/
def signed (f : Fmt) (neg : Bool) (mag : Nat) : Nat := if neg then f.signBit + mag else mag

/-- An infinite result (R72): E4M3 and E2M1 act as if SAT were set. -/
def infinite (f : Fmt) (sat neg : Bool) : Nat :=
  f.signed neg (if sat || f.kind != .ieee then f.maxFinite else f.infPat)

/-- The result of an overflow (R72). -/
def overflow (f : Fmt) (r : Rnd) (sat neg : Bool) : Nat :=
  if sat || f.kind != .ieee then f.signed neg f.maxFinite
  else
    match r, neg with
    | .ne, _ => f.signed neg f.infPat
    | .tz, _ => f.signed neg f.maxFinite
    | .dn, false => f.maxFinite
    | .dn, true => f.signed true f.infPat
    | .up, false => f.infPat
    | .up, true => f.signed true f.maxFinite

/-- Whether a magnitude q + rem / 2^sh rounds up in its last place. -/
def roundsUp (r : Rnd) (neg : Bool) (q rem half : Nat) (sticky : Bool) : Bool :=
  let inexact := rem != 0 || sticky
  match r with
  | .ne => rem > half || (rem == half && (sticky || q % 2 == 1))
  | .tz => false
  | .dn => neg && inexact
  | .up => !neg && inexact

/-- Round ± m × 2^e, plus less than one unit of m when `sticky`, to the format (R71, R72, R76). A caller that sets `sticky`
gives m more bits than the format keeps. -/
def round (f : Fmt) (r : Rnd) (sat ftz neg : Bool) (m : Nat) (e : Int) (sticky : Bool) : Nat :=
  if m == 0 then f.signed neg 0
  else
    let quantum := max ((Nat.log2 m : Int) + e - f.mbits) (1 - (f.bias : Int) - f.mbits)
    let sh := quantum - e
    let mag :=
      if sh ≤ 0 then m * 2 ^ (-sh).toNat
      else
        let k := sh.toNat
        let q := m / 2 ^ k
        let rem := m % 2 ^ k
        if roundsUp r neg q rem (2 ^ (k - 1)) sticky then q + 1 else q
    let ebase := (quantum + f.mbits + f.bias - 1).toNat
    let bits := ebase * 2 ^ f.mbits + mag
    if bits > f.maxFinite then f.overflow r sat neg
    else if ftz && bits < 2 ^ f.mbits then f.signed neg 0
    else f.signed neg bits

/-- Deliver an exact value in the format (R71-R73, R76). -/
def encode (f : Fmt) (r : Rnd) (sat ftz : Bool) : Fl → Nat
  | .nan => f.nanPat
  | .inf neg => f.infinite sat neg
  | .fin neg m e => f.round r sat ftz neg m e false

/-- FTZ on a source (R76): a subnormal becomes zero of its sign. -/
def flush (f : Fmt) (ftz : Bool) (bits : Nat) : Nat :=
  if ftz && bits / 2 ^ f.mbits % 2 ^ f.ebits == 0 then bits / f.signBit % 2 * f.signBit else bits

end Fmt

namespace Fl

def neg : Fl → Fl
  | .nan => .nan
  | .inf n => .inf !n
  | .fin n m e => .fin (!n) m e

def isNan : Fl → Bool
  | .nan => true
  | _ => false

def isZero : Fl → Bool
  | .fin _ m _ => m == 0
  | _ => false

/-- The exact product; infinity times zero is NaN (R290), and infinities give one of their signs' product. -/
def mul : Fl → Fl → Fl
  | .nan, _ => .nan
  | _, .nan => .nan
  | .inf a, .inf b => .inf (a != b)
  | .inf a, .fin b m _ => if m == 0 then .nan else .inf (a != b)
  | .fin a m _, .inf b => if m == 0 then .nan else .inf (a != b)
  | .fin a m e, .fin b n d => .fin (a != b) (m * n) (e + d)

/-- A signed integer times 2^e as a value, with `zneg` the sign of an exact zero. -/
def ofInt (v : Int) (e : Int) (zneg : Bool) : Fl :=
  if v == 0 then .fin zneg 0 0 else .fin (v < 0) v.natAbs e

/-- ± m as an integer at exponent `low`, which is at most e. -/
def scaled (neg : Bool) (m : Nat) (e low : Int) : Int :=
  let v : Int := (m * 2 ^ (e - low).toNat : Nat)
  if neg then -v else v

/-- The exact sum. A zero sum keeps a common sign of the operands, and is otherwise +0, or −0 toward −∞ (R233). -/
def add (r : Rnd) : Fl → Fl → Fl
  | .nan, _ => .nan
  | _, .nan => .nan
  | .inf a, .inf b => if a == b then .inf a else .nan
  | .inf a, .fin _ _ _ => .inf a
  | .fin _ _ _, .inf b => .inf b
  | .fin a m e, .fin b n d =>
    let lo := min e d
    ofInt (scaled a m e lo + scaled b n d lo) lo (if a == b then a else r == .dn)

/-- Less-than on values that are not NaN; −0 equals +0 (R74). -/
def lt : Fl → Fl → Bool
  | .nan, _ => false
  | _, .nan => false
  | .inf a, .inf b => a && !b
  | .inf a, .fin _ _ _ => a
  | .fin _ _ _, .inf b => !b
  | .fin a m e, .fin b n d =>
    let lo := min e d
    scaled a m e lo < scaled b n d lo

/-- Equality of values; −0 equals +0, NaN equals nothing (R74). -/
def eq (x y : Fl) : Bool := !x.isNan && !y.isNan && !lt x y && !lt y x

end Fl

/-! ### Integer square root, by bits -/

/-- One bit of the root: `r` is the root so far, `b` the weight tried. -/
def isqrtStep (n r b : Nat) : Nat := if (r + b) * (r + b) ≤ n then r + b else r

def isqrtGo (n : Nat) : Nat → Nat → Nat
  | 0, r => r
  | k + 1, r => isqrtGo n k (isqrtStep n r (2 ^ k))

/-- The integer square root. -/
def isqrt (n : Nat) : Nat := isqrtGo n (Nat.log2 n / 2 + 1) 0

/-! ### One operation on one element -/

def Fmt.addBits (f : Fmt) (r : Rnd) (sat ftz : Bool) (a b : Nat) : Nat :=
  f.encode r sat ftz (Fl.add r (f.decode (f.flush ftz a)) (f.decode (f.flush ftz b)))

def Fmt.subBits (f : Fmt) (r : Rnd) (sat ftz : Bool) (a b : Nat) : Nat :=
  f.encode r sat ftz (Fl.add r (f.decode (f.flush ftz a)) (f.decode (f.flush ftz b)).neg)

def Fmt.mulBits (f : Fmt) (r : Rnd) (sat ftz : Bool) (a b : Nat) : Nat :=
  f.encode r sat ftz (Fl.mul (f.decode (f.flush ftz a)) (f.decode (f.flush ftz b)))

/-- a × b + c with one rounding (R265); `neg` negates c first, which is FMS. -/
def Fmt.fmaBits (f : Fmt) (r : Rnd) (sat ftz neg : Bool) (a b c : Nat) : Nat :=
  let z := f.decode (f.flush ftz c)
  f.encode r sat ftz
    (Fl.add r (Fl.mul (f.decode (f.flush ftz a)) (f.decode (f.flush ftz b))) (if neg then z.neg else z))

/-- Correctly rounded quotient. -/
def Fmt.divBits (f : Fmt) (r : Rnd) (a b : Nat) : Nat :=
  match f.decode a, f.decode b with
  | .nan, _ => f.nanPat
  | _, .nan => f.nanPat
  | .inf _, .inf _ => f.nanPat
  | .inf x, .fin y _ _ => f.infinite false (x != y)
  | .fin x _ _, .inf y => f.signed (x != y) 0
  | .fin x m e, .fin y n d =>
    if n == 0 then (if m == 0 then f.nanPat else f.infinite false (x != y))
    else
      let k := 64 + Nat.log2 n
      let num := m * 2 ^ k
      f.round r false false (x != y) (num / n) (e - d - k) (num % n != 0)

/-- Whether a is to be taken before b as the smaller, −0 before +0 (R74). -/
def Fmt.before (f : Fmt) (a b : Nat) : Bool :=
  let x := f.decode a
  let y := f.decode b
  Fl.lt x y || (Fl.eq x y && a / f.signBit % 2 == 1 && b / f.signBit % 2 == 0)

/-- MIN of two patterns (R74). -/
def Fmt.minBits (f : Fmt) (ftz : Bool) (a b : Nat) : Nat :=
  let a := f.flush ftz a
  let b := f.flush ftz b
  if (f.decode a).isNan then (if (f.decode b).isNan then f.nanPat else b)
  else if (f.decode b).isNan then a
  else if f.before b a then b else a

/-- MAX of two patterns (R74). -/
def Fmt.maxBits (f : Fmt) (ftz : Bool) (a b : Nat) : Nat :=
  let a := f.flush ftz a
  let b := f.flush ftz b
  if (f.decode a).isNan then (if (f.decode b).isNan then f.nanPat else b)
  else if (f.decode b).isNan then a
  else if f.before a b then b else a

/-! ### Tags as element formats -/

end Sys2Proof.Machine

namespace Sys2Proof
open Machine

/-- Elements per 32 bits (Table 3.7); an untyped register is one element. -/
def Tag.count : Tag → Nat
  | .raw | .i32 | .n32 | .f32 => 1
  | .f16x2 | .bf16x2 | .i16x2 | .n16x2 => 2
  | .e4m3x4 | .e5m2x4 | .i8x4 | .n8x4 => 4
  | .e2m1x8 | .i4x8 | .n4x8 => 8

/-- The floating-point layout of a tag's elements. -/
def Tag.fmt : Tag → Option Fmt
  | .f32 => some fmtF32
  | .f16x2 => some fmtF16
  | .bf16x2 => some fmtBF16
  | .e4m3x4 => some fmtE4M3
  | .e5m2x4 => some fmtE5M2
  | .e2m1x8 => some fmtE2M1
  | _ => none

/-- Whether a tag's elements are signed integers. -/
def Tag.signed : Tag → Bool
  | .i32 | .i8x4 | .i4x8 | .i16x2 => true
  | _ => false

/-- Bits of one element. -/
def Tag.bits (t : Tag) : Nat := 32 / t.count

end Sys2Proof

namespace Sys2Proof.Machine

/-- Element i of a register (R67). -/
def elemAt (t : Tag) (w : Word) (i : Nat) : Nat := w.toNat / 2 ^ (t.bits * i) % 2 ^ t.bits

/-- The register holding the elements, element 0 least significant (R67). -/
def packElems (bits : Nat) : List Nat → Nat
  | [] => 0
  | e :: es => e % 2 ^ bits + 2 ^ bits * packElems bits es

/-- Apply an element operation across packed registers (R67). -/
def mapElems1 (t : Tag) (f : Nat → Nat) (a : Word) : Word :=
  BitVec.ofNat 32 (packElems t.bits ((List.range t.count).map (fun i => f (elemAt t a i))))

def mapElems2 (t : Tag) (f : Nat → Nat → Nat) (a b : Word) : Word :=
  BitVec.ofNat 32 (packElems t.bits ((List.range t.count).map (fun i => f (elemAt t a i) (elemAt t b i))))

def mapElems3 (t : Tag) (f : Nat → Nat → Nat → Nat) (a b c : Word) : Word :=
  BitVec.ofNat 32
    (packElems t.bits ((List.range t.count).map (fun i => f (elemAt t a i) (elemAt t b i) (elemAt t c i))))

/-- The integer an element stands for (R68). -/
def intElem (signed : Bool) (n e : Nat) : Int :=
  if signed && 2 ^ (n - 1) ≤ e then (e : Int) - 2 ^ n else e

/-- An exact integer result as an element: wrapped, or clamped under SAT (R68). -/
def intResult (signed sat : Bool) (n : Nat) (v : Int) : Nat :=
  if sat then
    let lo : Int := if signed then -(2 ^ (n - 1) : Nat) else 0
    let hi : Int := if signed then (2 ^ (n - 1) : Nat) - 1 else (2 ^ n : Nat) - 1
    ((max lo (min hi v)) % (2 ^ n : Nat)).toNat
  else (v % (2 ^ n : Nat)).toNat

/-- The modifiers that reach an element operation (Table 4.3). -/
structure Modes where
  rnd : Rnd
  sat : Bool
  ftz : Bool
deriving DecidableEq, Repr

def Modes.of (m : Mods) : Modes := { rnd := Rnd.ofBits m.rnd, sat := m.sat, ftz := m.ftz }

/-- The exact integer operation or the rounded float operation, element by element. -/
def elemOp (t : Tag) (m : Modes) (int : Int → Int → Int) (flt : Fmt → Nat → Nat → Nat) (a b : Word) : Word :=
  match t.fmt with
  | some f => mapElems2 t (flt f) a b
  | none => mapElems2 t (fun x y => intResult t.signed m.sat t.bits (int (intElem t.signed t.bits x) (intElem t.signed t.bits y))) a b

/-- ADD (R233). -/
def addWord (t : Tag) (m : Modes) (a b : Word) : Word :=
  elemOp t m (· + ·) (fun f => f.addBits m.rnd m.sat m.ftz) a b
/-- SUB (R320). -/
def subWord (t : Tag) (m : Modes) (a b : Word) : Word :=
  elemOp t m (· - ·) (fun f => f.subBits m.rnd m.sat m.ftz) a b
/-- MUL (R290). -/
def mulWord (t : Tag) (m : Modes) (a b : Word) : Word :=
  elemOp t m (· * ·) (fun f => f.mulBits m.rnd m.sat m.ftz) a b
/-- MULH (R291). -/
def mulhWord (t : Tag) (a b : Word) : Word :=
  BitVec.ofInt 32 ((intElem t.signed 32 a.toNat * intElem t.signed 32 b.toNat) / (2 ^ 32 : Int))
/-- FMA and FMS (R265). -/
def fmaWord (t : Tag) (m : Modes) (neg : Bool) (a b c : Word) : Word :=
  match t.fmt with
  | some f => mapElems3 t (f.fmaBits m.rnd m.sat m.ftz neg) a b c
  | none => a
/-- MIN (R283). -/
def minWord (t : Tag) (m : Modes) (a b : Word) : Word :=
  elemOp t { m with sat := false } min (fun f => f.minBits m.ftz) a b
/-- MAX (R283). -/
def maxWord (t : Tag) (m : Modes) (a b : Word) : Word :=
  elemOp t { m with sat := false } max (fun f => f.maxBits m.ftz) a b

/-- SHL (R313): count c on an n-bit element. -/
def shlElem (n c x : Nat) : Nat := if n ≤ c then 0 else x * 2 ^ c % 2 ^ n
/-- SHR (R313): arithmetic for I tags, logical otherwise. -/
def shrElem (signed : Bool) (n c x : Nat) : Nat :=
  if signed then (intElem true n x / (2 ^ min c n : Nat) % (2 ^ n : Nat)).toNat
  else if n ≤ c then 0 else x / 2 ^ c

def shlWord (t : Tag) (a b : Word) : Word := mapElems1 t (shlElem t.bits (b.toNat % 256)) a
def shrWord (t : Tag) (a b : Word) : Word := mapElems1 t (shrElem t.signed t.bits (b.toNat % 256)) a

/-- The condition of CMPP on one element (Table 19.5, R74). -/
def condHolds (cc : Nat) (lt eq un : Bool) : Bool :=
  match cc with
  | 0 => eq
  | 1 => !eq
  | 2 => lt
  | 3 => lt || eq
  | 4 => !lt && !eq && !un
  | _ => !lt && !un

/-- CMPP over a register: the AND of its elements' results (R256). -/
def cmpWord (t : Tag) (ftz : Bool) (cc : Nat) (a b : Word) : Bool :=
  (List.range t.count).all (fun i =>
    let x := elemAt t a i
    let y := elemAt t b i
    match t.fmt with
    | some f =>
      let u := f.decode (f.flush ftz x)
      let v := f.decode (f.flush ftz y)
      condHolds cc (Fl.lt u v) (Fl.eq u v) (u.isNan || v.isNan)
    | none =>
      let u := intElem t.signed t.bits x
      let v := intElem t.signed t.bits y
      condHolds cc (u < v) (u == v) false)

/-- ABS (R232). -/
def absWord (t : Tag) (ftz : Bool) (a : Word) : Word :=
  mapElems1 t (fun x =>
    match t.fmt with
    | some f => if (f.decode x).isNan then f.nanPat else f.flush ftz x % f.signBit
    | none => if t.signed then intResult true false t.bits (intElem true t.bits x).natAbs else x) a

/-- NEG (R294). -/
def negWord (t : Tag) (ftz : Bool) (a : Word) : Word :=
  mapElems1 t (fun x =>
    match t.fmt with
    | some f => if (f.decode x).isNan then f.nanPat else (f.flush ftz x + f.signBit) % (2 * f.signBit)
    | none => intResult t.signed false t.bits (-(intElem t.signed t.bits x))) a

/-- Number of one bits (R300). -/
def popcount (w : Word) : Nat := ((List.range 32).filter (fun i => w.getLsbD i)).length
/-- Leading zeros (R254). -/
def clzWord (w : Word) : Nat := if w == 0#32 then 32 else 31 - Nat.log2 w.toNat
/-- Bit i becomes bit 31 − i (R249). -/
def brevWord (w : Word) : Word := w.reverse

/-- The mask of R246. -/
def fieldMask (pos len : Nat) : Word := BitVec.ofNat 32 ((2 ^ min len (32 - pos) - 1) * 2 ^ pos)
/-- BFX (R246). -/
def bfxWord (sign : Bool) (pos len : Nat) (a : Word) : Word :=
  let n := min len (32 - pos)
  let f := (a &&& fieldMask pos len) >>> pos
  if sign && 0 < n && f.getLsbD (n - 1) then f ||| ~~~(BitVec.ofNat 32 (2 ^ n - 1)) else f
/-- BFI (R246). -/
def bfiWord (pos len : Nat) (a b : Word) : Word :=
  (a &&& ~~~(fieldMask pos len)) ||| ((b <<< pos) &&& fieldMask pos len)

/-- IDIV (R271): quotients by zero and of −2^31 by −1 included. -/
def idivWord (t : Tag) (a b : Word) : Word :=
  if t == .n32 then (if b == 0#32 then 0xFFFF_FFFF#32 else BitVec.ofNat 32 (a.toNat / b.toNat))
  else if b == 0#32 then (if a.msb then 0x8000_0000#32 else 0x7FFF_FFFF#32)
  else BitVec.ofInt 32 (Int.tdiv a.toInt b.toInt)

/-- DOT4 (R261). -/
def dot4Word (t : Tag) (sat : Bool) (a b c : Word) : Word :=
  let s := (List.range 4).foldl
    (fun acc i => acc + intElem t.signed 8 (elemAt .i8x4 a i) * intElem t.signed 8 (elemAt .i8x4 b i)) c.toInt
  BitVec.ofNat 32 (intResult true sat 32 s)

/-! ### Conversions (R77, Table 4.4) -/

/-- Round ± m × 2^e to an integer. -/
def roundInt (r : Rnd) (neg : Bool) (m : Nat) (e : Int) : Int :=
  let v : Int :=
    if 0 ≤ e then (m * 2 ^ e.toNat : Nat)
    else
      let k := (-e).toNat
      let q := m / 2 ^ k
      if Fmt.roundsUp r neg q (m % 2 ^ k) (2 ^ (k - 1)) false then (q + 1 : Nat) else q
  if neg then -v else v

/-- One element converted (Table 4.4). FTZ reaches F32, F16 and BF16 sources, and destinations of those formats. -/
def convElem (m : Modes) (src dst : Tag) (x : Nat) : Nat :=
  let ftzSrc := m.ftz && (src == .f32 || src == .f16x2 || src == .bf16x2)
  match src.fmt, dst.fmt with
  | some f, some g => g.encode m.rnd m.sat m.ftz (f.decode (f.flush ftzSrc x))
  | some f, none =>
    (match f.decode (f.flush ftzSrc x) with
     | .nan => 0
     | .inf n => intResult dst.signed true dst.bits (if n then -(2 ^ 40 : Int) else 2 ^ 40)
     | .fin n k e => intResult dst.signed true dst.bits (roundInt m.rnd n k e))
  | none, some g =>
    let v := intElem src.signed src.bits x
    if v == 0 then 0 else g.round m.rnd m.sat m.ftz (v < 0) v.natAbs 0 false
  | none, none => intResult dst.signed m.sat dst.bits (intElem src.signed src.bits x)

/-- CVT of a register (R260): `old` is the destination's earlier value, `part` is within its range. -/
def cvtWord (m : Modes) (src dst : Tag) (part : Nat) (old a : Word) : Word :=
  let ks := src.count
  let kd := dst.count
  if ks ≤ kd then
    BitVec.ofNat 32 (packElems dst.bits ((List.range kd).map (fun e =>
      if part * ks ≤ e && e < part * ks + ks then convElem m src dst (elemAt src a (e - part * ks))
      else elemAt dst old e)))
  else
    BitVec.ofNat 32 (packElems dst.bits ((List.range kd).map (fun e => convElem m src dst (elemAt src a (part * kd + e)))))

/-- Whether PART is in range for a conversion (R260). -/
def cvtPartOk (src dst : Tag) (part : Nat) : Bool :=
  if src.count ≤ dst.count then part < dst.count / src.count else part < src.count / dst.count

/-! ### Plain F32 steps, rounded to nearest-even and never flushed -/

def f32Add (a b : Word) : Word := BitVec.ofNat 32 (fmtF32.addBits .ne false false a.toNat b.toNat)
def f32Sub (a b : Word) : Word := BitVec.ofNat 32 (fmtF32.subBits .ne false false a.toNat b.toNat)
def f32Mul (a b : Word) : Word := BitVec.ofNat 32 (fmtF32.mulBits .ne false false a.toNat b.toNat)
def f32Div (a b : Word) : Word := BitVec.ofNat 32 (fmtF32.divBits .ne a.toNat b.toNat)
def f32Fma (a b c : Word) : Word := BitVec.ofNat 32 (fmtF32.fmaBits .ne false false false a.toNat b.toNat c.toNat)
def f32Min (a b : Word) : Word := BitVec.ofNat 32 (fmtF32.minBits false a.toNat b.toNat)
def f32Max (a b : Word) : Word := BitVec.ofNat 32 (fmtF32.maxBits false a.toNat b.toNat)
def f32OfNat (n : Nat) : Word := BitVec.ofNat 32 (fmtF32.round .ne false false false n 0 false)
def f32Val (a : Word) : Fl := fmtF32.decode a.toNat
def f32Lt (a b : Word) : Bool := Fl.lt (f32Val a) (f32Val b)
def f32Le (a b : Word) : Bool := Fl.lt (f32Val a) (f32Val b) || Fl.eq (f32Val a) (f32Val b)
def f32Nan (a : Word) : Bool := (f32Val a).isNan
/-- Round an exact value to F32, to nearest-even. -/
def f32Of (v : Fl) : Word := BitVec.ofNat 32 (fmtF32.encode .ne false false v)
def f32NegW (a : Word) : Word := a ^^^ 0x8000_0000#32
def f32AbsW (a : Word) : Word := a &&& 0x7FFF_FFFF#32
def f32NanW : Word := 0x7FC0_0000#32
def f32InfW : Word := 0x7F80_0000#32
def f32OneW : Word := 0x3F80_0000#32

/-! ### Welford arithmetic -/

/-- WELF (R85): the new triple. -/
def welfStep (n mu mm x : Word) : Word × Word × Word :=
  let n1 := if n == 0xFFFF_FFFF#32 then n else n + 1#32
  let d := f32Sub x mu
  let mu1 := f32Add mu (f32Div d (f32OfNat n1.toNat))
  let e := f32Sub x mu1
  (n1, mu1, f32Fma d e mm)

/-- WMERGE (R86). -/
def wmergeStep (na ma qa nb mb qb : Word) : Word × Word × Word :=
  if nb == 0#32 then (na, ma, qa)
  else if na == 0#32 then (nb, mb, qb)
  else
    let big := na.toNat + nb.toNat
    let d := f32Sub mb ma
    let w := f32Div (f32OfNat nb.toNat) (f32OfNat big)
    let mu := f32Fma d w ma
    let t := f32Mul d d
    let u := f32Mul (f32OfNat na.toNat) w
    (BitVec.ofNat 32 (min big 0xFFFF_FFFF), mu, f32Fma t u (f32Add qa qb))

/-! ### The counter-based generator (R176) -/

/-- Gen(k, c). -/
def genWord (k c : Dword) : Dword :=
  let x := c ^^^ k
  let x := x ^^^ (x >>> 32)
  let x := x * 0xD6E8_FEB8_6659_FD93#64
  let x := x ^^^ (x >>> 32)
  let x := x * 0xD6E8_FEB8_6659_FD93#64
  x ^^^ (x >>> 32)

end Sys2Proof.Machine
end

