-- ==== Sys2Proof/Machine/State.lean ====
section
/-!
DEFINITION. The state of the Ryuno V9 as plain data, its reset value, and the reasons a step stops. INVENTORY.md lists every
field with the rule that names it. Lists keyed by a name use the machine's own counter `nextUid`.
-/
namespace Sys2Proof.Machine

/-! ### Registers and lanes -/

/-- A vector or uniform register: 32 bits, its tag (R54) and whether it is pending (R56). -/
structure Reg where
  val : Word
  tag : Tag
  pend : Bool
deriving DecidableEq, Repr

/-- A lane holds no fibre, a fibre, or an ended fibre with pending destinations (R10, R16); `dropping` is a draining lane whose
fibre ended by KSUSP, which discards what still lands (R273). -/
inductive LaneStatus where
  | free | live | draining | dropping
deriving DecidableEq, Repr

/-- An address in one of the spaces, virtual for shelf and global (R88, R99); `loc` names a crew's local memory. -/
inductive VAddr where
  | loc (crew off : Nat)
  | shelf (die off : Nat)
  | glob (a : Nat)
  | peer (a : Nat)
deriving DecidableEq, Repr

/-- The home of a byte (R105, R107): a crew's local memory, or physical memory. -/
inductive Home where
  | loc (crew off : Nat)
  | phys (pa : Nat)
deriving DecidableEq, Repr

/-- Why a fibre is parked (R17), and at no other time. -/
inductive ParkReason where
  | barrier (h : Home) (q : Bool)                 -- BARWAIT with parity q (R244)
  | batch (n : Word)                              -- MWAIT (R140)
  | fence (slot gen : Nat)                        -- FWAIT (R119)
  | launch (request : Nat)                        -- LAUNCH awaits its status (R275)
  | absent (lines : List (Nat × Nat))             -- shelf lines (die, line) not present (R95)
  | pinned (rows : List (Nat × Nat))              -- local rows (crew, row) pinned (R97)
  | tile (n : Nat)                                -- a pending tile (R57)
  | txns (need : Nat)                             -- transactions (R109)
  | viewSlot (level : Nat)                        -- a view slot (R150)
  | missWord (a : VAddr) (fibres : List Nat)      -- MISS of a camera, being read for all fibres of a VIEW (R150)
  | object (a : VAddr)                            -- BARWAIT that has not reached its object: own accesses, its page (R112, R108)
  | slack (h : Home) (q : Bool)                   -- BARWAIT with parity q at an object in slack water (R128, R244)
deriving DecidableEq, Repr

/-- The keyed context a lane holds (R185): its node, key, LAST, and whether it was resumed to retire (R187). -/
structure LaneKey where
  node : Nat
  key : BitVec 64
  retire : Bool
deriving DecidableEq, Repr

/-- One lane with its fibre (R10, Table 2.1), its clause temporaries (R49) and its spill stack, top last (R252). -/
structure Lane where
  status : LaneStatus
  pc : Word
  pos : Nat
  preds : BitVec 8
  wb : Nat
  age : Nat
  regs : List Reg
  temps : List Reg
  spill : List Word
  park : Option ParkReason
  woken : Bool
  yielded : Bool             -- parked in a clause that has executed YIELD (R333)
  xfer : Option Word         -- the transfer instruction that set pc, for TARGET (R60)
  key : Option LaneKey
  order : List Nat           -- order key of the record being handled (R189)
  fibre : Nat                -- name of the fibre, for producer order (R189)
  emitSeq : Nat              -- REMITs of this fibre (R183)
  detSeq : Nat               -- buffered reductions of this fibre (R128)
deriving DecidableEq, Repr

/-- A tile register: 256 words, tag, pending tag, view status (R54, R57, R151, R165). -/
structure Tile where
  tag : Tag
  elems : List Word
  pend : Bool
  status : Word
deriving DecidableEq, Repr

/-- A fence slot (R119): generation, whether a fence stands in it, its ACQ, and the accesses still to perform. -/
structure Fence where
  gen : Nat
  busy : Bool
  acq : Bool
  cover : List Nat
deriving DecidableEq, Repr

/-- A clause being issued or held (R52, R58): its wave, cohort, header, place, and the lanes the current instruction has already
served. -/
structure Cursor where
  wave : Nat
  lanes : Lanes
  pc : Word
  idx : Nat
  addr : Word
  count : Nat
  setA : Nat
  setB : Nat
  served : Lanes
  yielded : Bool             -- YIELD has been executed in it (R333)
  txns : Nat                 -- transactions that the bulk access the clause holds at has taken (R109)
  ebbed : Bool               -- an ebb let the instruction before it end; the one it stands at has not begun (R269)
deriving DecidableEq, Repr

/-- A wave (R12, R50, R173, R119). -/
structure Wave where
  crew : Nat
  idx : Nat
  slot : Nat                 -- wave slot of the core (R20)
  lanes : List Lane
  flags : List Nat
  tiles : List Tile
  hyps : List Hyper
  buns : List (List Int)
  fences : List Fence
  hold : Option Cursor
  passTo : Option (List Nat) -- YIELD, the clause over: waves still to be served first (R333)
  cyclesH : Word
  ended : Bool
deriving DecidableEq, Repr

/-! ### Faults as the part reports them -/

/-- Record classes (R204, Table 12.1). -/
inductive FaultClass where
  | illegal | target | format | nonuniform | role | inflight | align | bounds | scope | translate | descriptor | merge
  | detret | overflow | hwerror | trap | suspend | slotevent | child | retired
deriving DecidableEq, Repr

/-- The end of the wait at which a deferred fault is delivered (R108, R153). -/
inductive Until where
  | flag (wave f : Nat)
  | barrier (h : Home)
  | object (a : VAddr)                            -- a barrier object named by an address that did not translate yet (R147)
  | fwait
  | tile (wave n : Nat)
deriving DecidableEq, Repr

/-- A deferred fault not yet delivered (R108). -/
structure Deferred where
  gang : Nat
  crew : Nat
  cls : FaultClass
  addr : Dword
  info : Dword
  till : List Until
deriving DecidableEq, Repr

/-- An open translation fault (R108): whose tenant, which address, and whether software has declared it fatal. -/
structure TFault where
  part : Nat
  tenant : Nat
  addr : VAddr
  fatal : Bool
deriving DecidableEq, Repr

/-! ### Crews, gangs, launches -/

/-- An entry of a task's write buffer (R127, R128). -/
inductive WEntry where
  | byte (region pa : Nat) (b : Byte) (copy : Option Nat)
  | red (region pa op : Nat) (wide : Bool) (x : Dword) (tag : Tag) (fibre seq : Nat)
deriving DecidableEq, Repr

/-- A charge against the write buffer (Table 6.4): of a line's first plain write, of a copy or one of its lines, or of a reduction
entry. `owes`: bytes of the copy still to land there. -/
structure Charge where
  region : Nat
  line : Option Nat
  copy : Option Nat
  owes : Nat
  bytes : Nat
deriving DecidableEq, Repr

/-- A crew (R21, R31, R65, R126, R127) and the place it holds on its core (R32). -/
structure Crew where
  gang : Nat
  idx : Nat
  core : Nat
  role : Nat
  nreg : Nat
  ntile : Nat
  nhyp : Nat
  nbun : Nat
  fibres : Nat
  lmemSize : Nat
  lmem : List Host.Cell
  unis : List Reg
  wins : List Range          -- tile windows: base and length in bytes (R93)
  spillMax : Nat             -- entries of each lane's spill stack, E of R252
  opthr : Word
  key : BitVec 64
  recstat : Word
  vlevel : Nat
  wbufCap : Nat
  wbuf : List WEntry
  charges : List Charge
  sealed : List WEntry       -- entries and charges that a slack water under way merges (R128, R130)
  sealedCharges : List Charge
  snaps : List (Nat × List Host.Cell)  -- snapshot of each DET region since its first acquire (R126)
  crewSlot : Nat
  reserved : Option Nat      -- level of the reserved crew slot it stands in (R166)
  ended : Bool
deriving DecidableEq, Repr

/-- A commit batch that has not retired (R140) with its pins (R97) and the rows its commands write (R141). -/
structure Batch where
  num : Word
  closed : Bool
  left : Nat                 -- commands not yet retired
  pins : List (Nat × Nat)
  rows : List Range
deriving DecidableEq, Repr

/-- A gang's share of a pair: accumulator elements that are not +0.0 (R135), open batch and batches retired (R140). -/
structure GangPair where
  pair : Nat
  acc : List (Nat × Word)
  opened : Word
  retiredN : Word
  batches : List Batch
deriving DecidableEq, Repr

/-- How far a gang has come (R23, R29, R207). -/
inductive GangPhase where
  | waiting | running | finished | stopped | retired
deriving DecidableEq, Repr

/-- A gang; a node crew is a gang of one crew with `node` set (R182). -/
structure Gang where
  launch : Nat
  lin : Nat
  node : Option Nat
  attempt : Nat
  start : Nat
  cluster : Option Nat       -- the cluster queue it waits in (R34)
  phase : GangPhase
  replayable : Bool
  pairs : List GangPair
deriving DecidableEq, Repr

/-- A region of a launch (R115) with its content at acceptance and after its last merge (R126). -/
structure Region where
  base : VAddr
  len : Nat
  det : Bool
  lock : Bool
  sync : VAddr
  snap0 : List Host.Cell
  last : Option (List Host.Cell)
deriving DecidableEq, Repr

/-- An operation waiting at a barrier in slack water (R128). -/
inductive BarOp where
  | init (n : Nat)
  | arrive (crew a : Nat)
  | expect (x : Word)
  | credit (k : Nat)
deriving DecidableEq, Repr

/-- A barrier bound to DET regions: the tasks that arrived in this phase, slack water, and what waits there (R128). -/
structure DetBar where
  pa : Nat
  regions : List Nat         -- indices of the regions bound to it
  slack : Bool
  arrived : List Nat
  held : List BarOp
deriving DecidableEq, Repr

/-- The work distributor of a launch (R192): the range left of each usable cluster, or the next item of a DET launch. -/
structure Distributor where
  ranges : List (Nat × Nat × Nat)   -- cluster, first item left, one past the last
  next : Nat
deriving DecidableEq, Repr

/-- The launch descriptor's fields (Table 11.2). -/
structure Desc where
  entry : Word
  det : Bool
  paired : Bool
  mcast : Bool
  policy : Bool
  prio : Nat
  retry : Nat
  gx : Nat
  gy : Nat
  gz : Nat
  cpc : Nat
  ncrew : Nat
  fibres : Nat
  nreg : Nat
  ntile : Nat
  nhyp : Nat
  nbun : Nat
  roles : Word
  lmem : Nat
  wbuf : Nat
  spill : Nat
  wins : List Range
  seed : Dword
  args : List Word
  wqx : Nat
  wqy : Nat
  faultq : Dword
  done : Dword
  accept : Dword
  pbuf : Dword
  plen : Nat
  mask : Dword
  mdie : Nat
deriving DecidableEq, Repr

/-- How far a launch has come (R200, R207); `stopped` carries the STATUS of its completion signal. -/
inductive LaunchPhase where
  | running | stopped (status : Nat) | retired
deriving DecidableEq, Repr

/-- A launch (R24, R28, R197). -/
structure Launch where
  ident : Word               -- LAUNCHID
  part : Nat
  tenant : Nat
  level : Nat
  desc : Desc
  regions : List Region
  code : List Range          -- the launch's code (R60)
  tag : Word
  firing : Nat
  parent : Option Nat        -- the gang whose LAUNCH started it (R29)
  pref : List Nat            -- the task identifier it was launched by (R125)
  phase : LaunchPhase
  status : Nat               -- STATUS its completion signal will carry (R200)
  nodes : List Nat
  dist : Distributor
  detBars : List DetBar
  unit : Bool                -- placed as one unit (R193)
deriving DecidableEq, Repr

/-! ### Work in flight -/

/-- A destination a landing writes (R53). -/
inductive Dest where
  | lane (l phys : Nat) (v : Word) (t : Tag)
  | uni (n : Nat) (v : Word) (t : Tag)
deriving DecidableEq, Repr

/-- What an operation delivers when it lands. -/
inductive Payload where
  | regs (ds : List Dest)
  | hdist (d : Nat) (v : Word)                                       -- HDIST (R178)
  | tile (n : Nat) (tag : Tag) (elems : List Word)
  | answer (crew off : Nat) (x y : Word)                             -- WQRY (R191)
  | rest (crew off : Nat) (y : Word)                                 -- WQRY, its first word written: the words land separately (R331)
  | load (lane phys : Nat) (a : VAddr) (tag : Tag)                   -- a load not yet performed (R112, R280)
  | rayq (lane phys : Nat) (cut : Dword) (ray : List Word)           -- RAYQ (R169)
  | hnear (d : Nat) (query : Hyper) (base : VAddr) (count : Nat)     -- HNEAR (R179)
deriving DecidableEq, Repr

/-- A long-latency operation, or one lane's part of it, on its way to landing (R50, R53). Its transactions (R109) are the distinct
shelf lines of its operation, and `txns` of other kinds. -/
structure Flight where
  op : Nat                   -- the operation it belongs to; its flag falls with its last part
  wave : Nat
  flag : Option Nat
  txns : Nat
  lines : List (Nat × Nat)
  payload : Payload
  fault : Option Nat         -- the open translation fault that holds it
deriving DecidableEq, Repr

/-- An operation performed at a word's home (R107, R237). A store, a reduction entry (R128: fibre linear index, issue sequence), a
barrier operation or a TRAP record stands here only while something it must follow has not performed (R112, R118, R319). -/
inductive AccessOp where
  | atom (op : Nat) (wide : Bool) (x : Dword) (tag : Tag)
  | cas (wide : Bool) (x cmp : Dword) (tag : Tag)
  | store (x : Word)
  | red (op : Nat) (wide : Bool) (x : Dword) (tag : Tag) (lin seq : Nat)
  | bar (op : BarOp)
  | trap (info : Dword) (slot : Nat) (lanes pc : Word) (stop : Option Bool)   -- `stop`: its gang stopped there, and LSTOP
deriving DecidableEq, Repr

/-- An access on its way to its home: who issued it, the address, and the register its old value goes to. `fibres` are the fibres
whose accesses it counts among: its issuer, or its cohort, and the children forked since (R113). -/
structure Access where
  op : Nat
  wave : Nat
  crew : Nat
  lane : Nat                 -- the lane, or the lowest of the cohort's, that issued it
  lanes : Lanes
  fibres : List Nat
  flag : Option Nat
  scope : Nat
  rel : Bool
  acq : Bool
  what : AccessOp
  addr : VAddr
  ret : Option Nat           -- physical destination register
  txns : Nat
  fault : Option Nat
deriving DecidableEq, Repr

/-- An axis of a generator program (Table 5.5). -/
structure GenAxis where
  sstride : Int
  limit : Nat
  origin : Int
deriving DecidableEq, Repr

/-- A step of a generator program (Table 5.5). -/
structure GenStep where
  count : Nat
  axis : Nat
  cstep : Int
  dstride : Int
deriving DecidableEq, Repr

/-- A copy descriptor as the engine read it (Table 5.4). -/
structure CopyDesc where
  addr : Dword               -- where the descriptor stood, for records
  src : VAddr
  dst : VAddr
  form : Nat
  esize : Nat
  len : Nat
  ext : List Nat             -- extents of dimensions 1 to 4
  sstr : List Int
  dstr : List Int
  cred : Option VAddr
  rows : VAddr
  fill : Word
  ctr : VAddr
  dec : Word
  tgt : Nat
  port : Nat
  axes : List GenAxis
  steps : List GenStep
deriving DecidableEq, Repr

/-- A copy in the engine (R98-R104). -/
structure Copy where
  op : Nat
  wave : Nat
  crew : Nat
  flag : Option Nat
  d : Nat
  signal : Bool              -- COPYS: the signal is still owed
  desc : CopyDesc
  left : List Range          -- elements not yet landed
  sent : List Range          -- elements sent to a peer, not yet answered for (R203)
  asked : Bool               -- the signal has been sent to a peer (R203)
  claims : List (Nat × Nat)  -- shelf lines (die, line) it holds absent (R94)
  wants : List (Nat × Nat)   -- lines whose fifteen claims are taken
  det : Option Nat           -- buffered into this DET region (R127)
  susp : Option (Nat × Nat)  -- the faulting element and its open translation fault (R108)
  failed : Bool              -- ended by a fatal fault (R96)
deriving DecidableEq, Repr

/-- The scales of one operand (R139, Table 7.4); `none` is factor 1. -/
structure Scale where
  kind : Nat
  group : Nat
  rstride : Nat
  at_ : VAddr
deriving DecidableEq, Repr

/-- One operand of a matrix command (R136). -/
structure MatOperand where
  crew : Nat
  off : Nat
  tag : Tag
  outer : Bool
  rows : Nat
  scale : Option Scale
deriving DecidableEq, Repr

/-- A matrix command in a pair's queue (R134, R138). -/
structure MatCmd where
  gang : Nat
  crew : Nat                 -- the crew and the wave that issued it
  wave : Nat
  part : Nat
  pair : Nat
  batch : Word
  opA : MatOperand
  opB : MatOperand
  k : Nat
  zero : Bool
  row : Nat
deriving DecidableEq, Repr

/-- A stack multiplier product (R146). -/
structure Smv where
  crew : Nat
  wave : Nat
  wtag : Tag
  xtag : Tag
  rows : Nat
  k : Nat
  wbase : Nat
  wstride : Nat
  scale : Option Scale
  stack : Nat
  xcrew : Nat
  xoff : Nat
  ycrew : Nat
  yoff : Nat
  bar : VAddr
  left : List Range
deriving DecidableEq, Repr

/-- A pixel of a view after traversal (R160, R161, R162). -/
structure Pixel where
  x : Nat
  y : Nat
  out : Word                 -- the mode's value; for COLOUR, Bg when no record is needed
  need : Option (Word × List Word)  -- COLOUR: the material node and the record for it
  trans : Word               -- T of R160
  cs : List Word             -- Cs of R160, channels R, G, B
  sent : Bool
  got : Option (Word × Nat)  -- the colour delivered, and the fibre that delivered it
deriving DecidableEq, Repr

/-- A view from issue to landing (R150-R164). -/
structure View where
  handle : Word
  part : Nat
  tenant : Nat
  cluster : Nat
  core : Nat
  level : Nat
  crew : Nat
  wave : Nat
  tile : Nat
  cam : Dword
  cut : Dword
  w2 : Word
  opthr : Word
  traced : Bool
  pixels : List Pixel
  miss : Word
  badmat : Bool
  error : Option (FaultClass × Dword × Dword)
  fault : Option Nat
  owed : List Nat            -- accesses that the VPIX serving it released, to perform before it lands (R123)
deriving DecidableEq, Repr

/-- A record in a queue (R183): its words, producer order and cluster. -/
structure Record where
  words : List Word
  producer : Nat
  order : List Nat           -- producer's identifier, and the emission's sequence (R189)
  seq : Nat
  lin : Nat                  -- producer's linear index in its crew (R304)
  cluster : Nat
  vlevel : Nat               -- view level its crew runs at (R162)
deriving DecidableEq, Repr

/-- Where a keyed context lives (R185, R188); `shadow`: saved, and its place in the store taken meanwhile (log 84). -/
inductive CtxPlace where
  | store | cellar | lane | shadow
deriving DecidableEq, Repr

/-- A keyed context (R185). -/
structure KeyCtx where
  key : BitVec 64
  cluster : Nat
  pc : Word
  susp : Word                -- address of the KSUSP that suspended it, for TARGET (R60)
  preds : BitVec 8
  regs : List Reg
  last : Nat
  place : CtxPlace
  mark : Bool
deriving DecidableEq, Repr

/-- An open node (R181). -/
structure Node where
  ident : Word
  launch : Nat
  part : Nat
  keyed : Bool
  crole : Nat
  home : Nat
  rw : Nat                   -- record length in words
  kregs : Nat
  shape : Shape
  entry : Word
  tmpl : Word
  qcap : Nat
  idle : Nat
  ccap : Nat
  epoch : Option Nat         -- physical address of the EPOCH barrier (DET)
  queue : List Record
  heldRecs : List Record
  ctxs : List KeyCtx
  counts : List (Nat × Nat)  -- delivery count of each cluster (R187)
  opened : Bool
deriving DecidableEq, Repr

/-- A WQRY not yet answered (R191). -/
structure WRequest where
  op : Nat
  wave : Nat
  crew : Nat
  flag : Option Nat
  ycrew : Nat
  off : Nat
deriving DecidableEq, Repr

/-- A device LAUNCH waiting for its acceptance (R275). -/
structure LaunchReq where
  wave : Nat
  crew : Nat
  lanes : Lanes
  d : Nat
  desc : Dword
  local_ : Option VAddr      -- the descriptor's address once resolved
deriving DecidableEq, Repr

/-! ### Partitions and the part -/

/-- A translation entry of a tenant (R108, R147, R213). -/
abbrev Page := PageSpec

/-- A tenant (R212, R213, R215). -/
structure Tenant where
  id : Nat
  slice : Nat
  status : Nat
  shadow : List Range
  pages : List Page
  allow : BitVec 1024
  ebbs : Nat
  runnable : Bool
deriving DecidableEq, Repr

/-- A firing not yet accepted: the binding it captured and its number (R196). -/
structure Firing where
  desc : Dword
  tag : Word
  num : Nat
deriving DecidableEq, Repr

/-- A launch slot (R196). -/
structure Slot where
  armed : Bool
  desc : Dword
  tag : Word
  fires : Nat                -- firings allowed in all; 0 is unlimited
  ctr : Dword
  reload : Dword
  num : Nat                  -- firings since the latest ARM
  waiting : List Firing
deriving DecidableEq, Repr

/-- An ebb under way (R212): the outgoing tenant is stopped for good or only switched out. -/
structure Ebb where
  stop : Bool
deriving DecidableEq, Repr

/-- A sounding (R216): the latency or level it records, its bins, and the least and greatest value once there is one. -/
structure Sounding where
  what : Nat
  base : Nat
  shift : Nat
  range : Option (Nat × Nat)
  bins : List Nat
deriving DecidableEq, Repr

/-- A partition (R210-R216). -/
structure Partition where
  configured : Bool
  quota : QuotaSpec
  honoured : Bool
  tenants : List Tenant
  resident : Option Nat
  ebb : Option Ebb
  stopNext : List Nat        -- stop requests that arrived during an ebb, in order (R212)
  queue : List Flit          -- its command queue: messages not yet processed, in arrival order (R195)
  slots : List Slot
  counters : List Nat
  tstat : Word
  soundings : List Sounding
  code : List (Nat × Word)   -- instruction words by word address (R37)
  objects : List (List Range) -- code ranges of each loaded object (R60)
deriving DecidableEq, Repr

/-- What the part keeps for a core (R20, R27, R65). -/
structure Core where
  rr : Nat
  portRr : Nat
  cycles : Nat
deriving DecidableEq, Repr

/-- What the part reports on its management interface (R214, R217, R218). -/
inductive Report where
  | ready
  | retired (u : UnitId)
  | alarm
  | correctable (part counter : Nat)
  | telemetry (part tenant counter value : Nat)
  | quotaRefused (part : Nat)
  | sounding (part n : Nat) (x : Sounding)
  | attestation (leaf : Nat) (digest : BitVec 256) (signature : List Byte)
deriving DecidableEq, Repr

/-- An engine that partitions share whole (R210): a cluster's copy engine, splat sorter or recall unit, a stack's multiplier, the link
of a peer port, the host link. -/
inductive Engine where
  | copies (cluster : Nat)
  | sorter (cluster : Nat)
  | recall (cluster : Nat)
  | multiplier (stack : Nat)
  | link (port : Nat)
  | host
deriving DecidableEq, Repr

/-- Traffic sent out of a peer port (R203). -/
abbrev PeerOut := PeerMsg

/-- A fault record (Table 12.2); SEQ is filled in when it is posted. -/
structure FaultRec where
  cls : FaultClass
  stop : Bool
  lstop : Bool
  rerun : Bool
  tag : Word
  part : Nat
  tenant : Nat
  core : Nat
  crewIdx : Nat
  vlevel : Nat
  level : Nat
  wave : Nat
  slot : Nat
  launchId : Word
  gangId : Word
  taskId : Word
  lanes : Word
  pc : Word
  xpc : Word
  addr : Dword
  info : Dword
deriving DecidableEq, Repr

/-- A fault queue (R206): the physical address of its header, whichever tenant's tables lead there, and the next SEQ. -/
structure FaultQueue where
  header : Nat
  seq : Nat
deriving DecidableEq, Repr

/-- A record whose queue has a page that is not there yet (R206): it waits, and later records of the queue behind it. -/
structure WaitingRec where
  queue : Dword
  tenant : Nat
  rec' : FaultRec
deriving DecidableEq, Repr

/-- The machine. -/
structure State where
  up : Bool
  halted : Bool              -- the security alarm has stopped the part (R217)
  keysErased : Bool
  leaf : Nat
  attested : List (Nat × BitVec 256)
  mgmt : List Report
  retiredUnits : List UnitId
  portsDown : List Nat
  portPart : List (Nat × Nat)
  cores : List Core
  parts : List Partition
  mem : List Host.Cell
  launches : List (Nat × Launch)
  gangs : List (Nat × Gang)
  crews : List (Nat × Crew)
  waves : List (Nat × Wave)
  nodes : List (Nat × Node)
  flights : List (Nat × Flight)
  accesses : List (Nat × Access)
  copies : List (Nat × Copy)
  smvs : List (Nat × Smv)
  cmds : List (Nat × MatCmd)
  views : List (Nat × View)
  wreqs : List (Nat × WRequest)
  lreqs : List (Nat × LaunchReq)
  tfaults : List (Nat × TFault)
  deferred : List Deferred
  barObjs : List Home        -- the barrier objects (R245; log 19)
  peerOut : List PeerOut
  pairTurn : List (Nat × Nat) -- pairs and the partition each served last (R134)
  turns : List (Engine × Nat) -- shared engines and the partition each served last (R210)
  queueSeq : List FaultQueue
  waitingRecs : List WaitingRec
  cur : Option Cursor
  agenda : List Instr
  nextCore : Nat
  nextUid : Nat
  freeCtr : Nat
deriving DecidableEq, Repr

/-! ### The state after reset -/

def Range.nil : Range := { base := 0, len := 0 }
def CoreQuota.nil : CoreQuota := { crewSlots := Range.nil, rows := Range.nil, lmem := Range.nil }
def Shape.nil : Shape := { waves := 0, nreg := 0, ntile := 0, nhyp := 0, nbun := 0, lmem := 0 }

/-- No resource at all: what a partition owns before system software writes its quotas (R210). -/
def QuotaSpec.nil : QuotaSpec :=
  { clusters := List.replicate 16
      { front := List.replicate 6 CoreQuota.nil, back := CoreQuota.nil, views := List.replicate 6 Range.nil, reserved := [],
        keyed := Range.nil, accRows := Range.nil, queue := Range.nil },
    shelf := List.replicate 4 Range.nil, prio := 0, minCl := 0, minHbm := 0, matCrew := List.replicate 6 Shape.nil,
    hostQ := 0 }

def Slot.disarmed : Slot :=
  { armed := false, desc := 0#64, tag := 0#32, fires := 0, ctr := 0#64, reload := 0#64, num := 0, waiting := [] }

/-- A partition before it is configured. DESIGN CHOICE, log 3, where the manual gives no reset value. -/
def Partition.reset : Partition :=
  { configured := false, quota := QuotaSpec.nil, honoured := true, tenants := [], resident := none, ebb := none,
    stopNext := [], queue := [], slots := List.replicate 256 Slot.disarmed, counters := List.replicate 1024 0, tstat := 0#32,
    soundings := [], code := [], objects := [] }

/-- A core after reset: CYCLES is 0 (Table 3.11). DESIGN CHOICE, log 3: the round-robins start so that slot 0 is first. -/
def Core.reset : Core := { rr := 47, portRr := 0, cycles := 0 }

/-- The machine right after reset: powered, not yet brought up (R218). Nothing is resident, nothing is in flight. -/
def State.reset : State :=
  { up := false, halted := false, keysErased := false, leaf := 0, attested := [], mgmt := [], retiredUnits := [],
    portsDown := [], portPart := [], cores := List.replicate 256 Core.reset, parts := List.replicate 8 Partition.reset,
    mem := [], launches := [], gangs := [], crews := [], waves := [], nodes := [], flights := [], accesses := [],
    copies := [], smvs := [], cmds := [], views := [], wreqs := [], lreqs := [], tfaults := [], deferred := [], barObjs := [],
    peerOut := [], pairTurn := [], turns := [], queueSeq := [], waitingRecs := [],
    cur := none, agenda := [], nextCore := 0, nextUid := 1, freeCtr := 0 }

/-! ### Why a step stops -/

/-- A machine fault. -/
inductive Fault where
  /-- Raised by every step once the security alarm has stopped the part (R217): it executes nothing further. Safe: the part
  stops too. -/
  | partStopped
deriving DecidableEq, Repr

/-- A refusal. -/
inductive Refusal where
  /-- Raised by the arms of `exec` not yet given a meaning. Safe: nothing is claimed of them. -/
  | notModelled (mnemonic : String)
deriving DecidableEq, Repr

end Sys2Proof.Machine
end

