-- ==== Sys2Proof/Machine/Ops.lean ====
section
/-!
DEFINITION. Operations on the state: tables keyed by name, memory, addresses, translation, fault records, and the one
operation that takes a fault (`takeFault`): it posts the record and stops the gang (R206, R207).
-/
namespace Sys2Proof.Machine

/-! ### Tables: lists of named entries -/

/-- The entry of a name. -/
def look {α : Type} (k : Nat) : List (Nat × α) → Option α
  | [] => none
  | (j, a) :: t => if j == k then some a else look k t

/-- Change the entry of a name. -/
def change {α : Type} (k : Nat) (f : α → α) : List (Nat × α) → List (Nat × α)
  | [] => []
  | (j, a) :: t => if j == k then (j, f a) :: t else (j, a) :: change k f t

/-- Remove the entry of a name. -/
def drop {α : Type} (k : Nat) (t : List (Nat × α)) : List (Nat × α) := t.filter (fun e => e.1 != k)

/-- Names whose entry satisfies a test, in table order. -/
def names {α : Type} (p : α → Bool) (t : List (Nat × α)) : List Nat := (t.filter (fun e => p e.2)).map (·.1)

/-! ### Memory cells in canonical form -/

/-- What a byte that no cell lists reads as. DESIGN CHOICE, log 4. Unsafe. -/
def unwritten : Byte := 0#8

/-- The byte at an address. -/
def cellRead (a : Nat) : List Host.Cell → Byte
  | [] => unwritten
  | (b, v) :: t => if b == a then v else if a < b then unwritten else cellRead a t

/-- Put a byte at an address, keeping the canonical form. -/
def cellWrite (a : Nat) (v : Byte) : List Host.Cell → List Host.Cell
  | [] => if v == unwritten then [] else [(a, v)]
  | (b, w) :: t =>
    if b == a then (if v == unwritten then t else (a, v) :: t)
    else if a < b then (if v == unwritten then (b, w) :: t else (a, v) :: (b, w) :: t)
    else (b, w) :: cellWrite a v t

/-- Addresses strictly rising from `lo` on, and no entry equal to what an unlisted address reads as. -/
def cellsWf : Nat → List Host.Cell → Bool
  | _, [] => true
  | lo, (a, v) :: t => lo ≤ a && v != unwritten && cellsWf (a + 1) t

/-- The canonical form of a memory. -/
def Memory.wf (m : List Host.Cell) : Bool := cellsWf 0 m

/-- n bytes from an address on, as one little-endian number (R3). -/
def cellsNat (m : List Host.Cell) (a : Nat) : Nat → Nat
  | 0 => 0
  | n + 1 => (cellRead a m).toNat + 256 * cellsNat m (a + 1) n

/-- Put n bytes of a little-endian number. -/
def cellsPut (a : Nat) : Nat → Nat → List Host.Cell → List Host.Cell
  | 0, _, m => m
  | n + 1, v, m => cellsPut (a + 1) n (v / 256) (cellWrite a (BitVec.ofNat 8 v) m)

/-! ### Values that stand for what is not there -/

def Reg.zero : Reg := { val := 0#32, tag := .raw, pend := false }

/-- A free lane with nothing in it. -/
def Lane.idle (nreg : Nat) : Lane :=
  { status := .free, pc := 0#32, pos := 0, preds := 0#8, wb := 0, age := 0, regs := List.replicate nreg Reg.zero,
    temps := List.replicate 4 Reg.zero, spill := [], park := none, woken := false, yielded := false, xfer := none, key := none,
    order := [], fibre := 0, emitSeq := 0, detSeq := 0 }

def Fence.idle : Fence := { gen := 0, busy := false, acq := false, cover := [] }
def Tile.zero : Tile := { tag := .raw, elems := List.replicate 256 0#32, pend := false, status := 0#32 }

/-- A wave as it starts: flags, tiles, hypervectors and bundles zero (R50, R173); DESIGN CHOICE, log 5, for the rest. -/
def Wave.fresh (crew idx slot nreg ntile nhyp nbun : Nat) : Wave :=
  { crew := crew, idx := idx, slot := slot, lanes := List.replicate 32 (Lane.idle nreg), flags := List.replicate 12 0,
    tiles := List.replicate ntile Tile.zero, hyps := List.replicate nhyp 0#8192,
    buns := List.replicate nbun (List.replicate 8192 0), fences := List.replicate 8 Fence.idle, hold := none,
    passTo := none, cyclesH := 0#32, ended := false }

def Wave.nil : Wave := Wave.fresh 0 0 0 0 0 0 0

/-- OPTHR at the start of a crew, 0.99 (Table 3.11). -/
def opthrReset : Word := 0x3F7D_70A4#32

def Crew.nil : Crew :=
  { gang := 0, idx := 0, core := 0, role := 0, nreg := 0, ntile := 0, nhyp := 0, nbun := 0, fibres := 0, lmemSize := 0,
    lmem := [], unis := [], wins := [], spillMax := 0, opthr := opthrReset, key := 0#64, recstat := 0#32, vlevel := 0,
    wbufCap := 0, wbuf := [], charges := [], sealed := [], sealedCharges := [], snaps := [], crewSlot := 0, reserved := none, ended := false }

def Gang.nil : Gang :=
  { launch := 0, lin := 0, node := none, attempt := 0, start := 0, cluster := none, phase := .retired,
    replayable := false, pairs := [] }

def Desc.nil : Desc :=
  { entry := 0#32, det := false, paired := false, mcast := false, policy := false, prio := 0, retry := 0, gx := 1, gy := 1,
    gz := 1, cpc := 1, ncrew := 1, fibres := 1, nreg := 4, ntile := 0, nhyp := 0, nbun := 0, roles := 0#32, lmem := 0,
    wbuf := 0, spill := 0, wins := [], seed := 0#64, args := [], wqx := 0, wqy := 0, faultq := 0#64, done := 0#64,
    accept := 0#64, pbuf := 0#64, plen := 0, mask := 0#64, mdie := 0 }

def Launch.nil : Launch :=
  { ident := 0#32, part := 0, tenant := 0, level := 1, desc := Desc.nil, regions := [], code := [], tag := 0#32,
    firing := 0, parent := none, pref := [], phase := .retired, status := 0, nodes := [],
    dist := { ranges := [], next := 0 }, detBars := [], unit := false }

def Cursor.nil : Cursor :=
  { wave := 0, lanes := 0#32, pc := 0#32, idx := 0, addr := 0#32, count := 1, setA := 15, setB := 15, served := 0#32, yielded := false,
    txns := 0, ebbed := false }

/-! ### Reading and changing named parts of the state -/

namespace State

def wave (s : State) (k : Nat) : Wave := (look k s.waves).getD Wave.nil
def crew (s : State) (k : Nat) : Crew := (look k s.crews).getD Crew.nil
def gang (s : State) (k : Nat) : Gang := (look k s.gangs).getD Gang.nil
def launch (s : State) (k : Nat) : Launch := (look k s.launches).getD Launch.nil
def part (s : State) (k : Nat) : Partition := (s.parts[k]?).getD Partition.reset
def core (s : State) (k : Nat) : Core := (s.cores[k]?).getD Core.reset

def modWave (s : State) (k : Nat) (f : Wave → Wave) : State := { s with waves := change k f s.waves }
def modCrew (s : State) (k : Nat) (f : Crew → Crew) : State := { s with crews := change k f s.crews }
def modGang (s : State) (k : Nat) (f : Gang → Gang) : State := { s with gangs := change k f s.gangs }
def modLaunch (s : State) (k : Nat) (f : Launch → Launch) : State := { s with launches := change k f s.launches }
def modNode (s : State) (k : Nat) (f : Node → Node) : State := { s with nodes := change k f s.nodes }
def modPart (s : State) (k : Nat) (f : Partition → Partition) : State := { s with parts := s.parts.modify k f }
def modCore (s : State) (k : Nat) (f : Core → Core) : State := { s with cores := s.cores.modify k f }

/-- A fresh name. -/
def fresh (s : State) : Nat × State := (s.nextUid, { s with nextUid := s.nextUid + 1 })
/-- The next argument of a free value (log 2). -/
def freeNext (s : State) : Nat × State := (s.freeCtr, { s with freeCtr := s.freeCtr + 1 })

end State

/-- The clause context: the cursor and all it belongs to. -/
structure Ctx where
  cur : Cursor
  wave : Wave
  crewId : Nat
  crew : Crew
  gangId : Nat
  gang : Gang
  launchId : Nat
  launch : Launch

def State.ctxOf (s : State) (c : Cursor) : Ctx :=
  let w := s.wave c.wave
  let cr := s.crew w.crew
  let g := s.gang cr.gang
  { cur := c, wave := w, crewId := w.crew, crew := cr, gangId := cr.gang, gang := g, launchId := g.launch,
    launch := s.launch g.launch }

/-- The context of the clause being issued. -/
def State.ctx (s : State) : Ctx := s.ctxOf (s.cur.getD Cursor.nil)

/-! ### Crews of a gang, cores, clusters -/

/-- The crew of a gang with an index. -/
def State.crewAt (s : State) (gang idx : Nat) : Option Nat :=
  (s.crews.find? (fun e => e.2.gang == gang && e.2.idx == idx)).map (·.1)

/-- Crews of a gang. -/
def State.crewsOf (s : State) (gang : Nat) : List Nat := names (fun c => c.gang == gang) s.crews
/-- Waves of a crew. -/
def State.wavesOf (s : State) (crew : Nat) : List Nat := names (fun w => w.crew == crew) s.waves
/-- Gangs of a launch. -/
def State.gangsOf (s : State) (launch : Nat) : List Nat := names (fun g => g.launch == launch) s.gangs

/-- Cluster of a core, die × 4 + cluster (R4). -/
def clusterOfCore (core : Nat) : Nat := core / 16
def dieOfCore (core : Nat) : Nat := core / 64
/-- The pair of a core (R5). -/
def pairOfCore (core : Nat) : Nat := core / 2

/-- NCREW as a crew reads it: 1 for a node crew (R182). -/
def ncrewOf (g : Gang) (l : Launch) : Nat := if g.node.isSome then 1 else l.desc.ncrew

/-- GANGID as a crew reads it (R65, R182). -/
def gangIdOf (g : Gang) : Word := if g.node.isSome then 0xFFFF_FFFF#32 else BitVec.ofNat 32 g.lin

/-- The own-level entry of a crew's task identifier, GANGID × NCREW + CREWID, a node crew's GANGID, NCREW and CREWID being
0xFFFF_FFFF, 1 and 0 (R125, R182). -/
def taskEntry (c : Crew) (g : Gang) (l : Launch) : Nat :=
  if g.node.isSome then (gangIdOf g).toNat else g.lin * l.desc.ncrew + c.idx

/-- TASKID of a crew (R65, R125, R182). -/
def taskIdOf (c : Crew) (g : Gang) (l : Launch) : Word := BitVec.ofNat 32 (taskEntry c g l)

/-- The task identifier: one entry per launch level (R125). -/
def taskPath (c : Crew) (g : Gang) (l : Launch) : List Nat := l.pref ++ [taskEntry c g l]

/-! ### Addresses -/

/-- The shelf ends here (R89). -/
def shelfLimit : Nat := 928 * 2 ^ 20
/-- Global addresses have 52 bits (R88). -/
def globalLimit : Nat := 2 ^ 52

/-- A local address of a crew's gang (R91, Table 5.2), n bytes from it on; none raises BOUNDS. -/
def State.localAddr (s : State) (crewId : Nat) (a : Word) (n : Nat) : Option VAddr :=
  let c := s.crew crewId
  let g := s.gang c.gang
  let member := (a.extractLsb' 24 4).toNat
  let off := (a.extractLsb' 0 20).toNat
  if a.extractLsb' 28 3 != 0#3 || a.extractLsb' 20 4 != 0#4 then none
  else if a.getLsbD 31 then
    (if member < ncrewOf g (s.launch g.launch) then
      match s.crewAt c.gang member with
      | some k => if off + n ≤ (s.crew k).lmemSize then some (.loc k off) else none
      | none => none
     else none)
  else if member != 0 then none
  else if off + n ≤ c.lmemSize then some (.loc crewId off) else none

/-- A shelf address held in a 32-bit register (R89): die in [31:30], n bytes from it on. -/
def shelfAddr (a : Word) (n : Nat) : Option VAddr :=
  let off := (a.extractLsb' 0 30).toNat
  if off < shelfLimit && off + n ≤ shelfLimit then some (.shelf (a.extractLsb' 30 2).toNat off) else none

/-- SPACE of a tagged address (R99). -/
def spaceOf (t : Dword) : Nat := (t.extractLsb' 62 2).toNat

/-- A tagged address (R99), n bytes from it on; none when a reserved bit is set or the footprint leaves its space. -/
def State.tagged (s : State) (crewId : Nat) (t : Dword) (n : Nat) : Option VAddr :=
  match spaceOf t with
  | 0 =>
    let a := (t.extractLsb' 0 52).toNat
    if t.extractLsb' 52 10 == 0#10 && a + n ≤ globalLimit then some (.glob a) else none
  | 1 =>
    let off := (t.extractLsb' 0 32).toNat
    if t.extractLsb' 34 28 == 0#28 && off < shelfLimit && off + n ≤ shelfLimit then
      some (.shelf (t.extractLsb' 32 2).toNat off) else none
  | 2 => if t.extractLsb' 32 30 == 0#30 then s.localAddr crewId (t.extractLsb' 0 32) n else none
  | _ =>
    let a := (t.extractLsb' 0 52).toNat
    if t.extractLsb' 52 10 == 0#10 && a + n ≤ globalLimit then some (.peer a) else none

/-- A shelf or global tagged address, for descriptors the host wrote: local and PEER space are refused. -/
def taggedFar (t : Dword) (n : Nat) : Option VAddr :=
  match spaceOf t with
  | 0 =>
    let a := (t.extractLsb' 0 52).toNat
    if t.extractLsb' 52 10 == 0#10 && a + n ≤ globalLimit then some (.glob a) else none
  | 1 =>
    let off := (t.extractLsb' 0 32).toNat
    if t.extractLsb' 34 28 == 0#28 && off < shelfLimit && off + n ≤ shelfLimit then
      some (.shelf (t.extractLsb' 32 2).toNat off) else none
  | _ => none

/-- The address n bytes further on. -/
def VAddr.plus (a : VAddr) (n : Nat) : VAddr :=
  match a with
  | .loc c o => .loc c (o + n)
  | .shelf d o => .shelf d (o + n)
  | .glob g => .glob (g + n)
  | .peer g => .peer (g + n)

/-- The address a signed distance away. -/
def VAddr.shift (a : VAddr) (n : Int) : VAddr :=
  match a with
  | .loc c o => .loc c ((o : Int) + n).toNat
  | .shelf d o => .shelf d ((o : Int) + n).toNat
  | .glob g => .glob ((g : Int) + n).toNat
  | .peer g => .peer ((g : Int) + n).toNat

def VAddr.offset : VAddr → Nat
  | .loc _ o => o
  | .shelf _ o => o
  | .glob g => g
  | .peer g => g

/-- The tagged form of an address, for the ADDR of a record (R205). A local address is given as its offset, with the member
field for another crew of the gang. -/
def State.toTagged (s : State) (a : VAddr) : Dword :=
  match a with
  | .glob g => BitVec.ofNat 64 g
  | .shelf d o => BitVec.ofNat 64 (2 ^ 62 + d * 2 ^ 32 + o)
  | .loc c o => BitVec.ofNat 64 (2 ^ 63 + 2 ^ 31 + (s.crew c).idx * 2 ^ 24 + o)
  | .peer g => BitVec.ofNat 64 (3 * 2 ^ 62 + g)

/-- A local or shelf register address as a tagged address, for records. -/
def taggedLocal (a : Word) : Dword := 2#2 ++ 0#30 ++ a
def taggedShelf (a : Word) : Dword := 1#2 ++ 0#28 ++ a.extractLsb' 30 2 ++ 0#2 ++ a.extractLsb' 0 30

/-- The shelf line (die, line) of an address (R94). -/
def VAddr.line? : VAddr → Option (Nat × Nat)
  | .shelf d o => some (d, o / 64)
  | _ => none

/-! ### Translation (R108) -/

def Page.holds (p : Page) : VAddr → Bool
  | .shelf d o => p.shelfDie == some d && p.base ≤ o && o < p.base + p.size
  | .glob g => p.shelfDie == none && p.base ≤ g && g < p.base + p.size
  | _ => false

/-- The tenant of a partition. -/
def State.tenant? (s : State) (part tenant : Nat) : Option Tenant := (s.part part).tenants.find? (fun t => t.id == tenant)

/-- The page of an address in a tenant's tables. -/
def State.page? (s : State) (part tenant : Nat) (a : VAddr) : Option Page :=
  (s.tenant? part tenant).bind (fun t => t.pages.find? (fun p => Page.holds p a))

/-- Where a kind of memory begins among physical addresses, and its bytes (Table 1.2): HBM4E, whole or one of its eight stacks, the
four dies' shelves, host memory (DESIGN CHOICE, log 53: the places; a page's own physical address counts from there). -/
def pageOrigin : PageTarget → Nat
  | .hbm => 0
  | .stack n => n * 2 ^ 36
  | .shelf d => 2 ^ 39 + d * 2 ^ 30
  | .host => 2 ^ 40
def pageBytes : PageTarget → Nat
  | .hbm => 2 ^ 39
  | .stack n => if n < 8 then 2 ^ 36 else 0
  | .shelf d => if d < 4 then shelfLimit else 0
  | .host => 2 ^ 52

/-- A page of R108: of 64 KiB, 2 MiB or 1 GiB, on a multiple of its size in both spaces, and within its memory (R7). -/
def Page.ok (p : Page) : Bool :=
  (p.size == 2 ^ 16 || p.size == 2 ^ 21 || p.size == 2 ^ 30) && p.base % p.size == 0 && p.phys % p.size == 0 &&
  p.phys + p.size ≤ pageBytes p.target &&
  (match p.shelfDie with | some d => d < 4 && p.base + p.size ≤ 2 ^ 30 | none => p.base + p.size ≤ globalLimit)

/-- The home of a byte, when it translates (R107, R108). -/
def State.home? (s : State) (part tenant : Nat) (a : VAddr) : Option Home :=
  match a with
  | .loc c o => some (.loc c o)
  | .peer _ => none
  | _ => (s.page? part tenant a).bind (fun p =>
      if p.phys + (a.offset - p.base) < pageBytes p.target then some (.phys (pageOrigin p.target + (p.phys + (a.offset - p.base)))) else none)

/-- The byte at a home. -/
def State.readHome (s : State) : Home → Byte
  | .loc c o => cellRead o (s.crew c).lmem
  | .phys a => cellRead a s.mem

/-- Put a byte at a home. -/
def State.writeHome (s : State) (h : Home) (b : Byte) : State :=
  match h with
  | .loc c o => s.modCrew c (fun cr => { cr with lmem := cellWrite o b cr.lmem })
  | .phys a => { s with mem := cellWrite a b s.mem }

/-- Mark a page dirty (R213). -/
def State.markDirty (s : State) (part tenant : Nat) (a : VAddr) : State :=
  s.modPart part (fun p => { p with tenants := p.tenants.map (fun t =>
    if t.id == tenant then { t with pages := t.pages.map (fun g => if Page.holds g a then { g with dirty := true } else g) }
    else t) })

/-- n homes from an address on; none when some byte does not translate. -/
def State.homes? (s : State) (part tenant : Nat) (a : VAddr) : Nat → Option (List Home)
  | 0 => some []
  | n + 1 =>
    match s.home? part tenant a, s.homes? part tenant (a.plus 1) n with
    | some h, some hs => some (h :: hs)
    | _, _ => none

/-- The first of n bytes that does not translate. -/
def State.firstMiss (s : State) (part tenant : Nat) (a : VAddr) : Nat → Option VAddr
  | 0 => none
  | n + 1 => if (s.home? part tenant a).isNone then some a else s.firstMiss part tenant (a.plus 1) n

/-- A little-endian number from its bytes' homes. -/
def State.natAt (s : State) : List Home → Nat
  | [] => 0
  | h :: hs => (s.readHome h).toNat + 256 * s.natAt hs

/-- Put a little-endian number at homes. -/
def State.putNat (s : State) : List Home → Nat → State
  | [], _ => s
  | h :: hs, v => (s.writeHome h (BitVec.ofNat 8 v)).putNat hs (v / 256)

/-- n bytes at an address as a number, when all translate. -/
def State.readNat? (s : State) (part tenant : Nat) (a : VAddr) (n : Nat) : Option Nat :=
  (s.homes? part tenant a n).map s.natAt

def State.readWord? (s : State) (part tenant : Nat) (a : VAddr) : Option Word :=
  (s.readNat? part tenant a 4).map (BitVec.ofNat 32)

def State.readDword? (s : State) (part tenant : Nat) (a : VAddr) : Option Dword :=
  (s.readNat? part tenant a 8).map (BitVec.ofNat 64)

/-- Words from an address on. -/
def State.readWords? (s : State) (part tenant : Nat) (a : VAddr) : Nat → Option (List Word)
  | 0 => some []
  | n + 1 =>
    match s.readWord? part tenant a, s.readWords? part tenant (a.plus 4) n with
    | some w, some ws => some (w :: ws)
    | _, _ => none

/-- Bytes from an address on. -/
def State.readBytes? (s : State) (part tenant : Nat) (a : VAddr) (n : Nat) : Option (List Byte) :=
  (s.homes? part tenant a n).map (fun hs => hs.map s.readHome)

/-- Whether an address is in physical memory a plain store must mark dirty. -/
def VAddr.paged : VAddr → Bool
  | .shelf _ _ => true
  | .glob _ => true
  | _ => false

/-- Write n bytes; none when some byte does not translate. The pages become dirty. -/
def State.writeNat? (s : State) (part tenant : Nat) (a : VAddr) (n v : Nat) : Option State :=
  (s.homes? part tenant a n).map (fun hs =>
    let t := s.putNat hs v
    if a.paged then (t.markDirty part tenant a).markDirty part tenant (a.plus (n - 1)) else t)

/-- A 32-bit word of a crew's local memory. -/
def State.lmemWord (s : State) (crew off : Nat) : Word := BitVec.ofNat 32 (cellsNat (s.crew crew).lmem off 4)

def State.putLmem (s : State) (crew off n v : Nat) : State :=
  s.modCrew crew (fun c => { c with lmem := cellsPut off n v c.lmem })

/-! ### Fault records (R205, R206) -/

/-- Codes of Table 12.1. -/
def FaultClass.code : FaultClass → Nat
  | .illegal => 1 | .target => 2 | .format => 3 | .nonuniform => 4 | .role => 5 | .inflight => 6 | .align => 7
  | .bounds => 8 | .scope => 9 | .translate => 10 | .descriptor => 11 | .merge => 12 | .detret => 13 | .overflow => 14
  | .hwerror => 15 | .trap => 16 | .suspend => 32 | .slotevent => 33 | .child => 34 | .retired => 35

def FaultRec.plain (cls : FaultClass) (part tenant : Nat) : FaultRec :=
  { cls := cls, stop := false, lstop := false, rerun := false, tag := 0#32, part := part, tenant := tenant, core := 0,
    crewIdx := 0, vlevel := 0, level := 0, wave := 0, slot := 0, launchId := 0#32, gangId := 0#32, taskId := 0#32,
    lanes := 0#32, pc := 0#32, xpc := 0#32, addr := 0#64, info := 0#64 }

def boolNat (b : Bool) : Nat := if b then 1 else 0

/-- The sixteen words of a record (Table 12.2). -/
def FaultRec.words (r : FaultRec) (seq : Nat) : List Word :=
  [BitVec.ofNat 32 (r.cls.code + boolNat r.stop * 2 ^ 16 + boolNat r.lstop * 2 ^ 18 + boolNat r.rerun * 2 ^ 19),
   r.tag, BitVec.ofNat 32 seq, BitVec.ofNat 32 (r.part + r.tenant * 16),
   BitVec.ofNat 32 (r.core + r.crewIdx * 2 ^ 8 + r.vlevel * 2 ^ 12 + r.level * 2 ^ 16),
   BitVec.ofNat 32 (r.wave + r.slot * 2 ^ 8), r.launchId, r.gangId, r.taskId, r.lanes, r.pc, r.xpc,
   r.addr.extractLsb' 0 32, r.addr.extractLsb' 32 32, r.info.extractLsb' 0 32, r.info.extractLsb' 32 32]

/-- A little-endian number from words. -/
def wordsNat : List Word → Nat
  | [] => 0
  | w :: ws => w.toNat + 2 ^ 32 * wordsNat ws

/-- The next SEQ of the queue whose header lies at a physical address, counting lost records (R206). -/
def State.takeSeq (s : State) (pa : Nat) : Nat × State :=
  match s.queueSeq.find? (fun e => e.header == pa) with
  | some e => (e.seq, { s with queueSeq := s.queueSeq.map (fun f => if f.header == pa then { f with seq := f.seq + 1 } else f) })
  | none => (0, { s with queueSeq := s.queueSeq ++ [{ header := pa, seq := 1 }] })

/-- Count a record the ring cannot take (R206). -/
def State.dropRecord (s : State) (part tenant : Nat) (hdr : VAddr) : State :=
  match s.readWord? part tenant (hdr.plus 20) with
  | some d => (s.writeNat? part tenant (hdr.plus 20) 4 ((d + 1#32).toNat)).getD s
  | none => s

/-- Two addresses lie in one page of the smallest size, 64 KiB (R108). -/
def VAddr.samePage (a b : VAddr) : Bool :=
  match a, b with
  | .shelf d o, .shelf e p => d == e && o / 65536 == p / 65536
  | .glob o, .glob p => o / 65536 == p / 65536
  | _, _ => false

/-- A fault declared fatal, or one still open, on the page of an address. -/
def State.faultOn (s : State) (part tenant : Nat) (a : VAddr) (fatal : Bool) : Bool :=
  s.tfaults.any (fun e => e.2.fatal == fatal && e.2.part == part && e.2.tenant == tenant && e.2.addr.samePage a)

/-- A fault declared fatal has been met: it is over. -/
def State.dropFatal (s : State) (part tenant : Nat) (a : VAddr) : State :=
  { s with tfaults := s.tfaults.filter (fun e =>
      !(e.2.fatal && e.2.part == part && e.2.tenant == tenant && e.2.addr.samePage a)) }

/-- Where the ring takes a record: the place of its slot, when RING and the slot lie in shelf or global space (R206). -/
def ringSlot (ring : Dword) (n : Nat) : Option VAddr :=
  if ring != 0#64 && ring.extractLsb' 0 6 == 0#6 then (taggedFar ring (64 * (n + 1))).map (fun a => a.plus (64 * n)) else none

/-- What a record still needs before it can be written: the page of its header, or, when the ring has room, of its slot, that is not
there and not declared fatal (R206). -/
def State.recordMiss (s : State) (q : Dword) (part tenant : Nat) : Option VAddr :=
  (match taggedFar q 64 with
   | none => none
   | some hdr =>
     match s.firstMiss part tenant hdr 24 with
     | some a => some a
     | none =>
       match s.readDword? part tenant hdr, s.readWord? part tenant (hdr.plus 8), s.readWord? part tenant (hdr.plus 12),
         s.readWord? part tenant (hdr.plus 16) with
       | some ring, some cap, some wr, some rd =>
         if (wr - rd).toNat < cap.toNat then (ringSlot ring (wr.toNat % cap.toNat)).bind (fun a => s.firstMiss part tenant a 64) else none
       | _, _, _, _ => none).filter (fun a => !s.faultOn part tenant a true)

/-- Write a record to the queue headed at a tagged address (R206). A header that cannot be read or written loses the record
without a count. -/
def State.writeRecord (s : State) (q : Dword) (tenant : Nat) (r : FaultRec) : State :=
  match (taggedFar q 64).bind (fun hdr => (s.home? r.part tenant hdr).map (fun h => (hdr, h))) with
  | some (hdr, .phys pa) =>
    let (seq, s) := s.takeSeq pa
    (match s.readDword? r.part tenant hdr, s.readWord? r.part tenant (hdr.plus 8),
       s.readWord? r.part tenant (hdr.plus 12), s.readWord? r.part tenant (hdr.plus 16) with
     | some ring, some cap, some wr, some rd =>
       if (wr - rd).toNat < cap.toNat then
         (match (ringSlot ring (wr.toNat % cap.toNat)).bind (fun a => s.writeNat? r.part tenant a 64 (wordsNat (r.words seq))) with
          | some t => (t.writeNat? r.part tenant (hdr.plus 12) 4 ((wr + 1#32).toNat)).getD t
          | none => s.dropRecord r.part tenant hdr)
       else s.dropRecord r.part tenant hdr
     | _, _, _, _ => s)
  | _ => s

/-- Records of the queue already wait. -/
def State.queueWaits (s : State) (q : Dword) (part tenant : Nat) : Bool :=
  s.waitingRecs.any (fun w => w.queue == q && w.rec'.part == part && w.tenant == tenant)

/-- Put a record into a queue of a tenant's tables (R206), or let it wait for a page that is only missing, with the records behind
it; the page, when it is asked for now. -/
def State.putRecord (s : State) (q : Dword) (tenant : Nat) (r : FaultRec) : Option VAddr × State :=
  let wait : State := { s with waitingRecs := s.waitingRecs ++ [{ queue := q, tenant := tenant, rec' := r }] }
  if s.queueWaits q r.part tenant then (none, wait)
  else
    match s.recordMiss q r.part tenant with
    | none => (none, s.writeRecord q tenant r)
    | some a =>
      if s.faultOn r.part tenant a false then (none, wait)
      else
        (some a, { wait with
          tfaults := s.tfaults ++ [(s.nextUid, { part := r.part, tenant := tenant, addr := a, fatal := false })],
          nextUid := s.nextUid + 1 })

/-- Post a record to a queue (R206). A page of it that must be asked for is reported to the host queue, unless that is the queue. -/
def State.postTo (s : State) (q : Dword) (tenant : Nat) (r : FaultRec) : State :=
  let host := BitVec.ofNat 64 (s.part r.part).quota.hostQ
  match s.putRecord q tenant r with
  | (some a, s) =>
    if q == host then s else (s.putRecord host tenant { FaultRec.plain .suspend r.part tenant with addr := s.toTagged a }).2
  | (none, s) => s

/-- Records that waited are posted again, in order: those whose page is still not there wait on. -/
def State.postAgain (s : State) : State :=
  s.waitingRecs.foldl (fun s w => s.postTo w.queue w.tenant w.rec') { s with waitingRecs := [] }

/-- The host queue of a partition. -/
def State.postHost (s : State) (r : FaultRec) : State :=
  s.postTo (BitVec.ofNat 64 (s.part r.part).quota.hostQ) r.tenant r

/-- The queue of a launch: its FAULTQ, or the partition's host queue when FAULTQ is 0 (R200). -/
def State.postLaunch (s : State) (launch : Nat) (r : FaultRec) : State :=
  let q := (s.launch launch).desc.faultq
  if q == 0#64 then s.postHost r else s.postTo q r.tenant r

/-- A record filled with what is known of a crew. -/
def State.recOfCrew (s : State) (cls : FaultClass) (crewId : Nat) : FaultRec :=
  let c := s.crew crewId
  let g := s.gang c.gang
  let l := s.launch g.launch
  { FaultRec.plain cls l.part l.tenant with
    tag := l.tag, core := c.core, crewIdx := c.idx, vlevel := c.vlevel, level := l.level, launchId := l.ident,
    gangId := gangIdOf g, taskId := taskIdOf c g l }

/-- A record filled with what is known of a launch. -/
def State.recOfLaunch (s : State) (cls : FaultClass) (launch : Nat) : FaultRec :=
  let l := s.launch launch
  { FaultRec.plain cls l.part l.tenant with tag := l.tag, level := l.level, launchId := l.ident }

/-! ### Stopping (R207, R30, R182) -/

/-- What a crew loses when its gang stops: its write buffer (R207). -/
def Crew.stopped (c : Crew) : Crew := { c with wbuf := [], charges := [], sealed := [], sealedCharges := [] }

/-- Keyed contexts held in lanes of the crews, as (node, key). -/
def State.laneKeys (s : State) (crews : List Nat) : List (Nat × BitVec 64) :=
  (s.waves.filter (fun e => crews.contains e.2.crew)).flatMap (fun e =>
    e.2.lanes.filterMap (fun l => if l.status == .free then none else l.key.map (fun k => (k.node, k.key))))

/-- Stop one gang (R207): unstarted commands, views and buffers are discarded, contexts in its lanes are lost. A LAUNCH that has not been
accepted yet is discarded too (DESIGN CHOICE, log 101). -/
def State.stopGang (s : State) (g : Nat) : State :=
  let crews := s.crewsOf g
  let keys := s.laneKeys crews
  let s := s.modGang g (fun x => { x with
    phase := if x.phase == .retired then .retired else .stopped,
    pairs := x.pairs.map (fun p => { p with batches := [], acc := [] }) })
  { s with
    crews := s.crews.map (fun e => if crews.contains e.1 then (e.1, e.2.stopped) else e),
    cmds := s.cmds.filter (fun e => e.2.gang != g),
    views := s.views.filter (fun e => !crews.contains e.2.crew),
    lreqs := s.lreqs.filter (fun e => !crews.contains e.2.crew),
    deferred := s.deferred.filter (fun d => d.gang != g),
    nodes := s.nodes.map (fun e => (e.1, { e.2 with
      ctxs := e.2.ctxs.filter (fun c => !(c.place == .lane && keys.contains (e.1, c.key))) })),
    cur := match s.cur with
      | some c => if crews.contains (s.wave c.wave).crew then none else s.cur
      | none => none }

/-- What a launch that stops does to its nodes (R182). -/
def State.stopNodes (s : State) (launch : Nat) : State :=
  { s with nodes := s.nodes.map (fun e =>
      if e.2.launch == launch then (e.1, { e.2 with queue := [], heldRecs := [], ctxs := [] }) else e) }

/-- Stop gangs, and the launches they started, at every level (R30); each such launch gets one CHILD record, and STATUS 1 whatever stopped
its ancestor (DESIGN CHOICE, log 90). -/
def State.stopGangs (s : State) (ancestor : Word) : Nat → List Nat → State
  | 0, _ => s
  | fuel + 1, gs =>
    let s := gs.foldl State.stopGang s
    let kids := names (fun l => l.phase == .running && (match l.parent with | some g => gs.contains g | none => false)) s.launches
    let s := kids.foldl (fun s k =>
      ((s.modLaunch k (fun l => { l with phase := .stopped 1, status := 1 })).stopNodes k).postLaunch k
        { s.recOfLaunch .child k with lstop := true, info := ancestor.zeroExtend 64 }) s
    if kids.isEmpty then s else s.stopGangs ancestor fuel (kids.flatMap (fun k => s.gangsOf k))

/-- Stop a launch with the STATUS its completion signal will carry (R207). -/
def State.stopLaunch (s : State) (launch status : Nat) : State :=
  let s := (s.modLaunch launch (fun l => { l with phase := .stopped status, status := status })).stopNodes launch
  s.stopGangs (s.launch launch).ident 12 (s.gangsOf launch)

/-- Stop a gang by a fault under its launch's POLICY (R207): under POLICY 1 the launch stops; under POLICY 0 it goes on, and its
completion signal will carry STATUS 1. A node crew stands as a gang of one crew (R182). -/
def State.faultGang (s : State) (g : Nat) : State :=
  let x := s.gang g
  let l := s.launch x.launch
  if l.desc.policy then s.stopLaunch x.launch 1
  else (s.stopGangs l.ident 12 [g]).modLaunch x.launch (fun l => { l with status := 1 })

/-- A precise fault as the check step finds it: class, INFO, ADDR, and the lanes that met it (R58, R204). -/
structure Precise where
  cls : FaultClass
  info : Dword
  addr : Dword
  lanes : Lanes
deriving DecidableEq, Repr

/-- Taking a fault at an instruction of a clause: the record, with STOP, names the clause and the instruction, and the gang
stops (R206-R208). `xpc` is the transfer of a TARGET. -/
def State.takeFault (s : State) (c : Cursor) (p : Precise) (xpc : Word) : State :=
  let x := s.ctxOf c
  let r := { s.recOfCrew p.cls x.crewId with
    stop := true, lstop := x.launch.desc.policy, wave := x.wave.idx, slot := c.idx, lanes := p.lanes, pc := c.pc,
    xpc := xpc, addr := p.addr, info := p.info }
  let s := (s.postLaunch x.launchId r).faultGang x.gangId
  { s with cur := none }

end Sys2Proof.Machine
end

