-- ==== Sys2Proof/Machine/Flags.lean ====
section
/-!
DEFINITION. Lanes and registers, completion flags (R50-R53), pending registers (R56), and how fibres, waves, crews and gangs end
(R15, R16, R29).
-/
namespace Sys2Proof.Machine

/-! ### Lists of lanes -/

/-- The lanes of a set, ascending. -/
def laneList (m : Lanes) : List Nat := (List.range 32).filter (fun l => m.getLsbD l)
/-- One lane as a set. -/
def laneBit (l : Nat) : Lanes := 1#32 <<< l
/-- A set from a test. -/
def laneSet (p : Nat → Bool) : Lanes := BitVec.ofNat 32 ((List.range 32).foldl (fun a l => if p l then a + 2 ^ l else a) 0)

def Wave.lane (w : Wave) (l : Nat) : Lane := (w.lanes[l]?).getD (Lane.idle 0)
/-- Change the lanes of a set. -/
def Wave.mapLanes (w : Wave) (m : Lanes) (f : Nat → Lane → Lane) : Wave :=
  { w with lanes := w.lanes.mapIdx (fun i x => if m.getLsbD i then f i x else x) }

/-! ### Vector registers of a lane (R11, R41) -/

/-- Vector register or temporary n of a fibre. -/
def Lane.readV (x : Lane) (n : Nat) : Reg :=
  if n < 252 then (x.regs[x.wb + n]?).getD Reg.zero else (x.temps[n - 252]?).getD Reg.zero

/-- Write vector register or temporary n of a fibre. -/
def Lane.writeV (x : Lane) (n : Nat) (r : Reg) : Lane :=
  if n < 252 then { x with regs := x.regs.set (x.wb + n) r } else { x with temps := x.temps.set (n - 252) r }

/-- A result: value and tag, not pending. -/
def Reg.done (v : Word) (t : Tag) : Reg := { val := v, tag := t, pend := false }

/-- Make vector register n pending (R56). -/
def Lane.pendV (x : Lane) (n : Nat) : Lane := x.writeV n { x.readV n with pend := true }

def Lane.setPred (x : Lane) (p : Nat) (v : Bool) : Lane :=
  { x with preds := if v then x.preds ||| (1#8 <<< p) else x.preds &&& ~~~(1#8 <<< p) }

/-- Some physical register of the lane is pending (R16). -/
def Lane.anyPend (x : Lane) : Bool := x.regs.any (·.pend)

/-! ### Uniform registers -/

def Crew.uni (c : Crew) (n : Nat) : Reg := (c.unis[n]?).getD Reg.zero
def Crew.setUni (c : Crew) (n : Nat) (r : Reg) : Crew := { c with unis := c.unis.set n r }
def State.setUni (s : State) (crew n : Nat) (r : Reg) : State := s.modCrew crew (fun c => c.setUni n r)

/-- The 64-bit value of a uniform pair, low half first. -/
def Crew.pair (c : Crew) (n : Nat) : Dword := (c.uni (n + 1)).val ++ (c.uni n).val

/-! ### Completion flags (R50) -/

def Wave.flag (w : Wave) (f : Nat) : Nat := (w.flags[f]?).getD 0
/-- Raise a flag by 1. It is a 6-bit counter: an operation that would pass 63 has held its clause (R50, R51). -/
def Wave.flagUp (w : Wave) (f : Nat) : Wave := { w with flags := w.flags.modify f (fun n => min 63 (n + 1)) }
/-- Lower a flag by 1. -/
def Wave.flagDown (w : Wave) (f : Nat) : Wave := { w with flags := w.flags.modify f (· - 1) }

/-- The flag an instruction counts against: SETA, or SETB with FSEL; 15 means none (R39, R50). -/
def Cursor.flagOf (c : Cursor) (fsel : Bool) : Option Nat :=
  let f := if fsel then c.setB else c.setA
  if f < 12 then some f else none

/-- Some part of an operation has not landed. -/
def State.opOpen (s : State) (op : Nat) : Bool :=
  s.flights.any (fun e => e.2.op == op) || s.accesses.any (fun e => e.2.op == op) ||
  s.copies.any (fun e => e.2.op == op) || s.wreqs.any (fun e => e.2.op == op)

/-- Lower the flag of an operation once its last part has landed (R50, R53). -/
def State.lowerFlag (s : State) (op wave : Nat) (flag : Option Nat) : State :=
  match flag with
  | some f => if s.opOpen op then s else s.modWave wave (fun w => w.flagDown f)
  | none => s

/-- Shelf lines n bytes at an address touch. -/
def linesTouched (a : VAddr) (n : Nat) : List (Nat × Nat) :=
  match a with
  | .shelf d o => if n == 0 then [] else (List.range ((o + n - 1) / 64 - o / 64 + 1)).map (fun i => (d, o / 64 + i))
  | _ => []

/-- A list without repeats, first occurrences kept. -/
def dedup {α : Type} [BEq α] : List α → List α
  | [] => []
  | a :: t => a :: (dedup t).filter (fun b => !(b == a))

/-- Shelf lines of a store on its way (R109). -/
def Access.lines (a : Access) : List (Nat × Nat) :=
  match a.what with
  | .store _ => linesTouched a.addr 4
  | _ => []

def State.coreOfWave (s : State) (w : Nat) : Nat := (s.crew (s.wave w).crew).core

/-- Distinct lines of each load or store that a core has outstanding, with the operation (Table 5.11). -/
def State.linesOn (s : State) (core : Nat) : List (Nat × Nat × Nat) :=
  dedup ((s.flights.filter (fun e => s.coreOfWave e.2.wave == core)).flatMap (fun e => e.2.lines.map (fun l => (e.2.op, l))) ++
    (s.accesses.filter (fun e => s.coreOfWave e.2.wave == core)).flatMap (fun e => e.2.lines.map (fun l => (e.2.op, l))))

/-- Transactions of bulk accesses that a core's clauses hold at, or have come to again (R109). -/
def State.txnsHeld (s : State) (core : Nat) : Nat :=
  let c := s.cur.getD Cursor.nil
  (s.waves.map (fun e => match e.2.hold with
    | some c => if (s.crew e.2.crew).core == core && (s.gang (s.crew e.2.crew).gang).phase == .running then c.txns else 0
    | none => 0)).sum + (if s.coreOfWave c.wave == core then c.txns else 0)

/-- Transactions a core has outstanding (R109). Work of a saved tenant that waits to be replayed there keeps its entries (DESIGN
CHOICE, log 93). -/
def State.txnsOn (s : State) (core : Nat) : Nat :=
  (s.linesOn core).length +
  ((s.flights.filter (fun e => s.coreOfWave e.2.wave == core)).map (·.2.txns)).sum +
  ((s.accesses.filter (fun e => s.coreOfWave e.2.wave == core)).map (·.2.txns)).sum +
  (s.copies.filter (fun e => s.coreOfWave e.2.wave == core)).length +
  (s.smvs.filter (fun e => s.coreOfWave e.2.wave == core)).length +
  (s.wreqs.filter (fun e => s.coreOfWave e.2.wave == core)).length + s.txnsHeld core

/-- The limit of outstanding transactions of a core (R109). -/
def txnLimit : Nat := 8192

/-- The core of a crew has n transactions free. -/
def State.txnsFree (s : State) (core n : Nat) : Bool := s.txnsOn core + n ≤ txnLimit

/-! ### Destinations -/

/-- A destination register of a lane lands: value and tag, no longer pending (R53); a dropping lane keeps its value (R273). -/
def Lane.land (x : Lane) (phys : Nat) (v : Word) (t : Tag) : Lane :=
  if x.status == .dropping then { x with regs := x.regs.modify phys (fun r => { r with pend := false }) }
  else { x with regs := x.regs.set phys (Reg.done v t) }

/-- Write one destination of a landing (R53). -/
def State.writeDest (s : State) (wave : Nat) (d : Dest) : State :=
  match d with
  | .lane l phys v t =>
    s.modWave wave (fun w => w.mapLanes (laneBit l) (fun _ x => x.land phys v t))
  | .uni n v t => s.setUni (s.wave wave).crew n (Reg.done v t)

/-- Add an operation on its way to landing. -/
def State.addFlight (s : State) (f : Flight) : State :=
  { s with flights := s.flights ++ [(s.nextUid, f)], nextUid := s.nextUid + 1 }

def State.addAccess (s : State) (a : Access) : State :=
  { s with accesses := s.accesses ++ [(s.nextUid, a)], nextUid := s.nextUid + 1 }

/-! ### How fibres, waves, crews and gangs end -/

/-- End the fibre of a lane: the lane drains while a register of it is pending (R16). -/
def Lane.endFibre (x : Lane) : Lane :=
  { x with status := if x.anyPend then .draining else .free, park := none, woken := false, key := none }

/-- End a fibre by KSUSP: what still lands is discarded (R273). -/
def Lane.dropFibre (x : Lane) : Lane :=
  let y := x.endFibre
  if y.status == .draining then { y with status := .dropping } else y

/-- A draining lane whose last destination has landed is free (R16). -/
def Lane.settle (x : Lane) : Lane :=
  if (x.status == .draining || x.status == .dropping) && !x.anyPend then { x with status := .free } else x

/-- Every gang of a launch has retired and every queue of its nodes is empty (R182). -/
def State.nodesIdle (s : State) (launch : Nat) : Bool :=
  (s.gangs.filter (fun e => e.2.launch == launch && e.2.node.isNone)).all (fun e => e.2.phase == .retired) &&
  (s.nodes.filter (fun e => e.2.launch == launch)).all (fun e => e.2.queue.isEmpty && e.2.heldRecs.isEmpty)

/-- Something of a keyed node can be delivered now: a record for a key that has no context or one in the store (R189), the RETIRE of a
marked context there, or, `last`, of every context there (R187, R182). -/
def Node.ready (n : Node) (last : Bool) : Bool :=
  n.queue.any (fun r =>
    let key : BitVec 64 := ((r.words[1]?).getD 0#32) ++ ((r.words[0]?).getD 0#32)
    match n.ctxs.find? (fun c => c.key == key) with
    | some c => c.place == .store
    | none => true) || n.ctxs.any (fun c => (c.mark || last) && c.place == .store)

/-- Whether the waves of a crew end when no lane holds a fibre: a keyed crew goes on while its node has something ready to
deliver (R185). -/
def State.crewMayEnd (s : State) (crew : Nat) : Bool :=
  match (s.gang (s.crew crew).gang).node with
  | some k => (match look k s.nodes with | some n => !(n.keyed && n.ready (s.nodesIdle n.launch)) | none => true)
  | none => true

/-- The record of a deferred fault delivered at the end of its gang (R108). -/
def State.recOfDeferred (s : State) (d : Deferred) : FaultRec :=
  { s.recOfCrew d.cls d.crew with
    stop := true, lstop := (s.launch (s.gang d.gang).launch).desc.policy, addr := d.addr, info := d.info }

/-- A deferred fault is delivered after the last crew of its gang has ended: it stops the gang, and the completion signal will
carry STATUS 1 (R108). -/
def State.deliverLate (s : State) (d : Deferred) : State :=
  (s.postLaunch (s.gang d.gang).launch (s.recOfDeferred d)).faultGang d.gang

/-- The last crew of a gang has ended: an undelivered deferred fault stops it now, otherwise it is finished (R29, R108). -/
def State.gangEnd (s : State) (g : Nat) : State :=
  match s.deferred.find? (fun d => d.gang == g) with
  | some d => s.deliverLate d
  | none => s.modGang g (fun x => if x.phase == .running then { x with phase := .finished } else x)

/-- A deferred fault arises; of a gang whose crews have all ended it is delivered at once (R108). -/
def State.defer (s : State) (d : Deferred) : State :=
  match (s.gang d.gang).phase with
  | .running => { s with deferred := s.deferred ++ [d] }
  | .finished => s.deliverLate d
  | _ => s

/-- After lanes have become free: end the wave, its crew and its gang where nothing is left in them (R16, R29). -/
def State.settleWave (s : State) (w : Nat) : State :=
  let s := s.modWave w (fun x => { x with lanes := x.lanes.map Lane.settle })
  let x := s.wave w
  if x.ended || !(x.lanes.all (fun l => l.status == .free)) || !s.crewMayEnd x.crew then s
  else
    let s := s.modWave w (fun x => { x with ended := true })
    if (s.wavesOf x.crew).all (fun k => (s.wave k).ended) then
      let s := s.modCrew x.crew (fun c => { c with ended := true })
      let g := (s.crew x.crew).gang
      if (s.crewsOf g).all (fun k => (s.crew k).ended) then s.gangEnd g else s
    else s

end Sys2Proof.Machine
end

