-- ==== Sys2Proof/Machine/Home.lean ====
section
/-!
DEFINITION. What happens at a word's home: barrier objects and their phases (R105, R106, R244, R245), atomics (R107, Table 5.10),
pins (R97) and presence of shelf lines (R94).
-/
namespace Sys2Proof.Machine

def Home.plus (h : Home) (n : Nat) : Home :=
  match h with
  | .loc c o => .loc c (o + n)
  | .phys a => .phys (a + n)

/-- The 32-bit word at a home. -/
def State.homeWord (s : State) (h : Home) : Word :=
  BitVec.ofNat 32 (s.natAt [h, h.plus 1, h.plus 2, h.plus 3])

def State.putHomeWord (s : State) (h : Home) (v : Word) : State :=
  s.putNat [h, h.plus 1, h.plus 2, h.plus 3] v.toNat

def State.homeDword (s : State) (h : Home) : Dword := s.homeWord (h.plus 4) ++ s.homeWord h
def State.putHomeDword (s : State) (h : Home) (v : Dword) : State :=
  (s.putHomeWord h (v.extractLsb' 0 32)).putHomeWord (h.plus 4) (v.extractLsb' 32 32)

/-! ### Barrier objects (Table 5.6) -/

/-- PHASE of the object. -/
def State.barPhase (s : State) (h : Home) : Bool := (s.homeWord h).getLsbD 0
/-- ARRIVE_PENDING of the object. -/
def State.barPending (s : State) (h : Home) : Word := (s.homeWord h) >>> 16
/-- BYTES_PENDING of the object. -/
def State.barBytes (s : State) (h : Home) : Word := s.homeWord (h.plus 8)

/-- ARRIVE_PENDING becomes n; PHASE and the reserved bits stay (R106). -/
def pendingWord (w : Word) (n : Word) : Word := (w &&& 0xFFFF#32) ||| (n <<< 16)

/-- A fibre at its BARWAIT when an object completes the phase of parity q: one of that parity wakes, and one of the other that waited
for slack water to end is parked on the object from then on (R128, R244). -/
def Lane.wakeAt (x : Lane) (h : Home) (q : Bool) : Lane :=
  if x.park == some (.barrier h q) || x.park == some (.slack h q) then { x with woken := true }
  else if x.park == some (.slack h (!q)) then { x with park := some (.barrier h (!q)) }
  else x

/-- Wake every fibre parked on the object with parity q (R244). -/
def State.wakeAt (s : State) (h : Home) (q : Bool) : State :=
  { s with waves := s.waves.map (fun e => (e.1, { e.2 with lanes := e.2.lanes.map (fun x => x.wakeAt h q) })) }

/-- Complete the phase (R106): PHASE flips, ARRIVE_PENDING := ARRIVE_COUNT, BYTES_PENDING := 0, and every fibre parked on the
phase wakes. -/
def State.completePhase (s : State) (h : Home) : State :=
  let q := s.barPhase h
  let w := s.homeWord h
  let count := (s.homeWord (h.plus 4)) &&& 0xFFFF#32
  ((s.putHomeWord h (pendingWord (w ^^^ 1#32) count)).putHomeWord (h.plus 8) 0#32).wakeAt h q

/-- The launches with DET regions bound to an object (R128). -/
def State.detBarsOf (s : State) (h : Home) : List (Nat × DetBar) :=
  match h with
  | .phys pa =>
    s.launches.filterMap (fun e => if e.2.phase == .retired then none else (e.2.detBars.find? (fun b => b.pa == pa)).map (fun b => (e.1, b)))
  | .loc _ _ => []

def State.modDetBar (s : State) (launch pa : Nat) (f : DetBar → DetBar) : State :=
  s.modLaunch launch (fun l => { l with detBars := l.detBars.map (fun b => if b.pa == pa then f b else b) })

def WEntry.region : WEntry → Nat
  | .byte i _ _ _ => i
  | .red i _ _ _ _ _ _ _ => i

/-! ### Where a task's writes are buffered (R125, R127) -/

/-- The offset of an address in a region. -/
def Region.off? (r : Region) (a : VAddr) : Option Nat :=
  match r.base, a with
  | .shelf d b, .shelf e o => if d == e && b ≤ o && o < b + r.len then some (o - b) else none
  | .glob b, .glob o => if b ≤ o && o < b + r.len then some (o - b) else none
  | _, _ => none

/-- The DET region of a region table that holds an address, with the offset. -/
def detFind (a : VAddr) : Nat → List Region → Option (Nat × Nat)
  | _, [] => none
  | i, r :: rs =>
    match (if r.det then r.off? a else none) with
    | some o => some (i, o)
    | none => detFind a (i + 1) rs

/-- The DET region of a crew's launch that holds an address. -/
def State.detAt (s : State) (crew : Nat) (a : VAddr) : Option (Nat × Nat) :=
  detFind a 0 (s.launch (s.gang (s.crew crew).gang).launch).regions

/-- Where a store or a reduction is buffered: the DET region and the offset (R127). -/
def State.buffersAt (s : State) (a : Access) : Option (Nat × Nat) :=
  match a.what with
  | .store _ => s.detAt a.crew a.addr
  | .red _ _ _ _ _ _ => s.detAt a.crew a.addr
  | _ => none

/-- The charge made at issue for a store or a reduction that is still on its way to the buffer (Table 6.4). -/
def AccessOp.charge (o : AccessOp) (at_ : Nat × Nat) : Option Charge :=
  match o with
  | .store _ => some { region := at_.1, line := some (at_.2 / 64), copy := none, owes := 0, bytes := 80 }
  | .red _ wide _ _ _ _ => some { region := at_.1, line := none, copy := none, owes := 0, bytes := if wide then 24 else 16 }
  | _ => none

/-- Charges of a crew's stores and reductions on their way. -/
def State.owedCharges (s : State) (crew : Nat) : List Charge :=
  s.accesses.filterMap (fun e => if e.2.crew == crew then (s.buffersAt e.2).bind e.2.what.charge else none)

/-- Charges parted into those that a merge of some regions frees and those that stay: what a copy, a store or a reduction that has
still to reach the buffer was charged stays, one charge for each reduction. -/
def splitCharges (regions : List Nat) : List Charge → List Charge → List Charge × List Charge
  | _, [] => ([], [])
  | owed, g :: t =>
    if regions.contains g.region && g.owes == 0 && !owed.contains g then
      (let r := splitCharges regions owed t; (g :: r.1, r.2))
    else
      let r := splitCharges regions (if g.line.isNone then owed.erase g else owed) t
      (r.1, g :: r.2)

/-- Set aside a task's entries for some regions, with their charges: they are what the merge takes (R128, R130). What is still owed
there stays charged (R127). -/
def Crew.seal (c : Crew) (owed : List Charge) (regions : List Nat) : Crew :=
  let r := splitCharges regions owed c.charges
  { c with
    sealed := c.sealed ++ c.wbuf.filter (fun e => regions.contains e.region),
    wbuf := c.wbuf.filter (fun e => !regions.contains e.region),
    sealedCharges := c.sealedCharges ++ r.1,
    charges := r.2 }

/-- Order of identifiers: lexicographic, a proper prefix first (R125). -/
def pathLt : List Nat → List Nat → Bool
  | [], [] => false
  | [], _ :: _ => true
  | _ :: _, [] => false
  | a :: s, b :: t => a < b || (a == b && pathLt s t)

/-- Order of records held by phase: identifier, then sequence, then the producer's linear index (R189, R304). -/
def Record.before (a b : Record) : Bool :=
  pathLt a.order b.order || (a.order == b.order && (a.seq < b.seq || (a.seq == b.seq && a.lin ≤ b.lin)))

def insertRecord (r : Record) : List Record → List Record
  | [] => [r]
  | q :: t => if q.before r then q :: insertRecord r t else r :: q :: t

def sortRecords (rs : List Record) : List Record := rs.foldl (fun acc r => insertRecord r acc) []

/-- Slack water begins (R128): the entries of the tasks that arrived in the phase, and of ended tasks (R131), are set aside, and
the records held by the phase enter their queues in order (R189). -/
def State.enterSlack (s : State) (k : Nat) (b : DetBar) : State :=
  let joins (id : Nat) (c : Crew) : Bool := (s.gang c.gang).launch == k && (b.arrived.contains id || c.ended)
  let s : State := { s with
    crews := s.crews.map (fun e => if joins e.1 e.2 then (e.1, e.2.seal (s.owedCharges e.1) b.regions) else e),
    nodes := s.nodes.map (fun e =>
      if e.2.launch == k && e.2.epoch == some b.pa then
        (e.1, { e.2 with queue := e.2.queue ++ sortRecords e.2.heldRecs, heldRecs := [] }) else e) }
  s.modDetBar k b.pa (fun b => { b with slack := true })

/-- The 16-byte object a home lies in. -/
def Home.object (h : Home) : Home :=
  match h with
  | .loc c o => .loc c (o / 16 * 16)
  | .phys a => .phys (a / 16 * 16)

/-- A barrier instruction or a credit has reached the object, and no plain store has made it data again (R245; log 19). -/
def State.isBarrier (s : State) (h : Home) : Bool := s.barObjs.contains h.object

/-- The object is a barrier object from now on. -/
def State.markBarrier (s : State) (h : Home) : State :=
  if s.isBarrier h then s else { s with barObjs := s.barObjs ++ [h.object] }

/-- The object is in slack water, until every launch bound to it has merged (R128). -/
def State.inSlack (s : State) (h : Home) : Bool := (s.detBarsOf h.object).any (fun e => e.2.slack)

/-- The completion test at the home (R106); an object bound to DET regions enters slack water instead (R128). -/
def State.testPhase (s : State) (h : Home) : State :=
  if s.barPending h == 0#32 && s.barBytes h == 0#32 then
    (match s.detBarsOf h with
     | [] => s.completePhase h
     | bs => bs.foldl (fun s e => s.enterSlack e.1 e.2) s)
  else s

/-- BARARR's update (R240): arrivals beyond zero are discarded. -/
def State.barArrive (s : State) (h : Home) (a : Nat) : State :=
  let n := (s.barPending h).toNat - a
  (s.putHomeWord h (pendingWord (s.homeWord h) (BitVec.ofNat 32 n))).testPhase h

/-- BAREXP's update (R106). -/
def State.barExpect (s : State) (h : Home) (x : Word) : State :=
  (s.putHomeWord (h.plus 8) (s.barBytes h + x)).testPhase h

/-- A credit of k bytes (R106). -/
def State.barCredit (s : State) (h : Home) (k : Nat) : State :=
  (s.putHomeWord (h.plus 8) (s.barBytes h - BitVec.ofNat 32 k)).testPhase h

/-- BARINIT's update (Table 5.7, R242): fibres parked with parity 1 wake. -/
def State.barInit (s : State) (h : Home) (n : Nat) : State :=
  ((((s.putHomeWord h (BitVec.ofNat 32 n <<< 16)).putHomeWord (h.plus 4) (BitVec.ofNat 32 n)).putHomeWord (h.plus 8) 0#32).putHomeWord
    (h.plus 12) 0#32).wakeAt h true

/-- One operation at a barrier's home; it waits there during slack water (R128). `crew` arrives where it is an arrival. -/
def State.barOp (s : State) (h : Home) (op : BarOp) : State :=
  let s := s.markBarrier h
  let run (s : State) : State :=
    match op with
    | .init n => s.barInit h n
    | .arrive _ a => s.barArrive h a
    | .expect x => s.barExpect h x
    | .credit k => s.barCredit h k
  match s.detBarsOf h with
  | [] => run s
  | (k, b) :: bs =>
    if s.inSlack h then s.modDetBar k b.pa (fun b => { b with held := b.held ++ [op] })
    else
      run (match op with
        | .arrive c _ => ((k, b) :: bs).foldl (fun s e => s.modDetBar e.1 e.2.pa (fun b =>
            { b with arrived := if b.arrived.contains c then b.arrived else b.arrived ++ [c] })) s
        | _ => s)

/-- A fibre is parked on the object, or a copy or product in flight credits it. -/
def State.barInUse (s : State) (h : Home) : Bool :=
  s.waves.any (fun e => e.2.lanes.any (fun x => match x.park with
    | some (.barrier g _) => g == h
    | some (.slack g _) => g == h
    | _ => false)) ||
  s.copies.any (fun e => match e.2.desc.cred with
    | some a => (let g := s.gang (s.crew e.2.crew).gang
                 let l := s.launch g.launch
                 s.home? l.part l.tenant a == some h)
    | none => false) ||
  s.smvs.any (fun e =>
    let g := s.gang (s.crew e.2.crew).gang
    let l := s.launch g.launch
    s.home? l.part l.tenant e.2.bar == some h)

/-- Four free words at an object whose state a plain store left undefined (R105, log 2). -/
def State.scramble (s : State) (h : Home) : State :=
  let n := s.freeCtr
  let s := { s with freeCtr := n + 4 }
  (((s.putHomeWord h (Config.freeBarrierWord n)).putHomeWord (h.plus 4) (Config.freeBarrierWord (n + 1))).putHomeWord (h.plus 8)
    (Config.freeBarrierWord (n + 2))).putHomeWord (h.plus 12) (Config.freeBarrierWord (n + 3))

/-- The object is a barrier object that is owed arrivals or bytes in its phase. -/
def State.barOwed (s : State) (h : Home) : Bool :=
  s.isBarrier h && !(s.barPending h.object == 0#32 && s.barBytes h.object == 0#32)

/-- A barrier object is live: it is owed arrivals or bytes, a fibre is parked on it, or a copy or product in flight credits it
(R105; DEDUCED, log 7). -/
def State.barLive (s : State) (h : Home) : Bool := s.barInUse h || s.barOwed h

/-- The object is data from now on. -/
def State.unmarkBarrier (s : State) (h : Home) : State := { s with barObjs := s.barObjs.filter (fun b => b != h.object) }

/-- What plain bytes have done to the object they fell on (R105): the state of a live one is no longer defined; one that nothing
waits on or credits is data from then on (log 19). `owed`: it was owed arrivals or bytes before they fell. -/
def State.plainOver (s : State) (owed : Bool) (h : Home) : State :=
  if s.barInUse h.object then s.scramble h.object
  else if owed then (s.scramble h.object).unmarkBarrier h
  else s.unmarkBarrier h

/-- A plain store of a word at its home. -/
def State.storeWord (s : State) (h : Home) (v : Word) : State := (s.putHomeWord h v).plainOver (s.barOwed h) h

/-- Plain bytes have been put at some homes of a state: what becomes of the objects there. -/
def State.plainAll (t s : State) (hs : List Home) : State :=
  (dedup (hs.map Home.object)).foldl (fun t o => t.plainOver (s.barOwed o) o) t

/-- Words put at a home, one after the other. -/
def State.putWords (s : State) (h : Home) : List Word → State
  | [] => s
  | v :: vs => (s.putHomeWord h v).putWords (h.plus 4) vs

/-- A plain store of words at a home, as one. -/
def State.storeWords (s : State) (h : Home) (vs : List Word) : State :=
  (s.putWords h vs).plainAll s ((List.range vs.length).map (fun i => h.plus (4 * i)))

/-! ### Atomics (Table 5.10) -/

/-- Minimum or maximum with the signedness of the operand's tag (R107). -/
def pickMin (signed : Bool) (n : Nat) (a b : Nat) : Nat :=
  if intElem signed n a ≤ intElem signed n b then a else b
def pickMax (signed : Bool) (n : Nat) (a b : Nat) : Nat :=
  if intElem signed n b ≤ intElem signed n a then a else b

/-- The new word of an atomic operation on n bits (Table 5.10). MIN and MAX are signed under I32 and unsigned under N32 and RAW
(R107); DESIGN CHOICE, log 54: unsigned under any other tag too, of which R107 says nothing. -/
def atomApply (op n : Nat) (tag : Tag) (old x : Nat) : Nat :=
  let sgn := tag == .i32
  match op with
  | 0 => (old + x) % 2 ^ n
  | 1 => fmtF32.addBits .ne false false old x
  | 2 => pickMin sgn n old x
  | 3 => pickMax sgn n old x
  | 4 => old &&& x
  | 5 => old ||| x
  | 6 => old ^^^ x
  | 7 => x
  | 8 => min old x
  | 9 =>
    if (fmtF32.decode old).isNan || (fmtF32.decode (x % 2 ^ 31)).isNan then fmtF32.nanPat
    else fmtF32.maxBits false old (x % 2 ^ 31)
  | 10 => 0
  | _ => if x ≤ old then 0 else (old + 1) % 2 ^ n

/-- What an access does to the word at its home: the new word, given the old one (R237). -/
def AccessOp.apply (o : AccessOp) (old : Nat) : Nat :=
  match o with
  | .atom op wide x tag => atomApply op (if wide then 64 else 32) tag old x.toNat
  | .cas _ x cmp _ => if old == cmp.toNat then x.toNat else old
  | .store x => x.toNat
  | .red _ _ _ _ _ _ => old
  | .bar _ => old
  | .trap _ _ _ _ _ => old

def AccessOp.wide : AccessOp → Bool
  | .atom _ w _ _ => w
  | .cas w _ _ _ => w
  | .store _ => false
  | .red _ w _ _ _ _ => w
  | .bar _ => false
  | .trap _ _ _ _ _ => false

/-- The tag of the value an access returns (R237). -/
def AccessOp.retTag : AccessOp → Tag
  | .atom op _ _ tag => if op == 10 then .f32 else tag
  | .cas _ _ _ tag => tag
  | .store _ => .raw
  | .red _ _ _ _ _ _ => .raw
  | .bar _ => .raw
  | .trap _ _ _ _ _ => .raw

/-- A region of a launch, or the EPOCH of a node, names the object (R115, R181). -/
def State.barNamed (s : State) (h : Home) : Bool :=
  s.launches.any (fun e => e.2.phase != .retired &&
    (e.2.regions.any (fun r => !r.lock && s.home? e.2.part e.2.tenant r.sync == some h) ||
      (match h with
       | .phys pa => e.2.detBars.any (fun b => b.pa == pa)
       | .loc _ _ => false)))

/-- An atomic at a home is one on a barrier object: a barrier instruction or a credit has reached the object, a launch names it, or a
fibre or an engine counts on it now (R245; DESIGN CHOICE, log 19). -/
def State.barrierAtom (s : State) (h : Home) : Bool := s.isBarrier h || s.barNamed h.object || s.barInUse h.object

/-- Perform an access at a home, as one step, with the completion test of a barrier object (R245); the old value. -/
def State.performAt (s : State) (h : Home) (o : AccessOp) : Nat × State :=
  let test (t : State) : State := if t.barrierAtom h then t.testPhase h.object else t
  if o.wide then
    let old := (s.homeDword h).toNat
    (old, test (s.putHomeDword h (BitVec.ofNat 64 (o.apply old))))
  else
    let old := (s.homeWord h).toNat
    (old, test (s.putHomeWord h (BitVec.ofNat 32 (o.apply old))))

/-! ### Pins (R97) and presence (R94) -/

/-- Every pinned local-memory row, as (crew, row). -/
def State.pinnedRows (s : State) : List (Nat × Nat) :=
  s.gangs.flatMap (fun e => e.2.pairs.flatMap (fun p => p.batches.flatMap (fun b => b.pins)))

/-- Rows of 128 bytes that n bytes at a local address touch. -/
def rowsTouched (crew off n : Nat) : List (Nat × Nat) :=
  if n == 0 then [] else (List.range ((off + n - 1) / 128 - off / 128 + 1)).map (fun i => (crew, off / 128 + i))

def State.anyPinned (s : State) (rows : List (Nat × Nat)) : Bool :=
  let pins := s.pinnedRows
  rows.any (fun r => pins.contains r)

/-- The claims of a tenant's copies, by the lines' own shelf addresses: a line that a tenant names by two addresses is two lines here
(R94; DESIGN CHOICE, log 85). -/
def State.claimsOf (s : State) (part tenant : Nat) : List (Nat × Nat) :=
  s.copies.flatMap (fun e =>
    let l := s.launch (s.gang (s.crew e.2.crew).gang).launch
    if l.part == part && l.tenant == tenant then e.2.claims else [])

/-- Claims that stand on a line (R94). -/
def State.claimCount (s : State) (part tenant : Nat) (line : Nat × Nat) : Nat :=
  ((s.claimsOf part tenant).filter (fun l => l == line)).length

/-- A line is absent while a copy claims it or waits to claim it (R94). -/
def State.lineAbsent (s : State) (part tenant : Nat) (line : Nat × Nat) : Bool :=
  (s.claimsOf part tenant).contains line || s.copies.any (fun e =>
    let l := s.launch (s.gang (s.crew e.2.crew).gang).launch
    l.part == part && l.tenant == tenant && e.2.wants.contains line)

end Sys2Proof.Machine
end

