-- ==== Sys2Proof/Machine/Slots.lean ====
section
/-!
DEFINITION. Launch slots and command messages: ARM, FIRE, messages with a reserved KIND, firings by a counter (R195, R196).
-/
namespace Sys2Proof.Machine

/-- The tenant in whose tables a partition's queues and counters are addressed, and peer traffic is translated (R203): the resident one,
else the first (DESIGN CHOICE, log 87). -/
def Partition.owner (p : Partition) : Nat :=
  match p.resident with
  | some t => t
  | none => ((p.tenants.head?).map (·.id)).getD 0

/-- A record of a partition that belongs to no launch. -/
def State.recOfPart (s : State) (cls : FaultClass) (part : Nat) : FaultRec := FaultRec.plain cls part (s.part part).owner

/-- A SLOTEVENT record (Table 12.1): slot, KIND of the message or 0, cause, whether a counter fired. -/
def State.slotEvent (s : State) (part slot kind cause : Nat) (counter : Bool) : State :=
  s.postHost { s.recOfPart .slotevent part with
    info := BitVec.ofNat 64 (slot % 256 + kind % 256 * 2 ^ 8 + cause * 2 ^ 16 + boolNat counter * 2 ^ 19) }

def Partition.slot (p : Partition) (n : Nat) : Slot := (p.slots[n]?).getD Slot.disarmed
def State.modSlot (s : State) (part slot : Nat) (f : Slot → Slot) : State :=
  s.modPart part (fun p => { p with slots := p.slots.modify slot f })

/-! ### The fields of a command message (Table 11.1) -/

def msgKind (f : Flit) : Nat := (f.extractLsb' 0 8).toNat
def msgSlot (f : Flit) : Nat := (f.extractLsb' 8 8).toNat
def msgFires (f : Flit) : Nat := (f.extractLsb' 16 16).toNat
def msgTag (f : Flit) : Word := f.extractLsb' 32 32
def msgDesc (f : Flit) : Dword := f.extractLsb' 64 64
def msgCtr (f : Flit) : Dword := f.extractLsb' 128 64
def msgReload (f : Flit) : Dword := f.extractLsb' 192 64

/-- A reserved byte is not zero: bytes 32 to 63, and of a FIRE bytes 4 to 31 too (R196). -/
def msgReserved (f : Flit) : Bool :=
  f.extractLsb' 256 256 != 0#256 || (msgKind f == 2 && f.extractLsb' 32 224 != 0#224)

/-- The part takes command messages: it has come up and no alarm has stopped it (R217, R218). -/
def State.takesMessages (s : State) (part slot : Nat) : Bool := s.up && !s.halted && part < 8 && slot < 256

/-- One firing captured by an armed slot; the slot disarms after its last allowed firing. -/
def Slot.fire (x : Slot) : Slot :=
  let n := (x.num + 1) % 65536
  { x with num := n, waiting := x.waiting ++ [{ desc := x.desc, tag := x.tag, num := n }],
           armed := !(x.fires != 0 && n == x.fires) }

/-- A slot fires (R196), or the firing is discarded with one record: a disarmed slot is reported as such, however many firings wait
(DESIGN CHOICE, log 81). -/
def State.fireSlot (s : State) (part slot kind : Nat) (counter : Bool) : State :=
  let x := (s.part part).slot slot
  if !x.armed then s.slotEvent part slot kind 1 counter
  else if 16 ≤ x.waiting.length then s.slotEvent part slot kind 0 counter
  else s.modSlot part slot Slot.fire

/-- A nonzero CTR that an ARM may bind (R196): one with reserved tag bits, or past the end of its space, names no such place either (DESIGN
CHOICE, log 114). -/
def ctrUsable (ctr : Dword) : Bool := ctr == 0#64 || ((taggedFar ctr 8).isSome && ctr.extractLsb' 0 3 == 0#3)

/-- The slot after an ARM: the binding is replaced, firings that wait stay. -/
def Slot.bind (x : Slot) (m : Flit) : Slot :=
  if msgDesc m == 0#64 then { Slot.disarmed with waiting := x.waiting }
  else { armed := true, desc := msgDesc m, tag := msgTag m, fires := msgFires m, ctr := msgCtr m, reload := msgReload m, num := 0,
         waiting := x.waiting }

/-- ARM (R196). Of two causes the reserved byte is reported (DESIGN CHOICE, log 81). -/
def State.armSlot (s : State) (part : Nat) (m : Flit) : State :=
  if msgReserved m then s.slotEvent part (msgSlot m) 1 3 false
  else if !ctrUsable (msgCtr m) then s.slotEvent part (msgSlot m) 1 4 false
  else s.modSlot part (msgSlot m) (fun x => x.bind m)

/-- FIRE (R196). -/
def State.fireMessage (s : State) (part : Nat) (m : Flit) : State :=
  if msgReserved m then s.slotEvent part (msgSlot m) 2 3 false else s.fireSlot part (msgSlot m) 2 false

/-- A message is processed (R195, R196). Of two causes the reserved KIND is reported (DESIGN CHOICE, log 81). -/
def State.message (s : State) (part : Nat) (m : Flit) : State :=
  match msgKind m with
  | 1 => s.armSlot part m
  | 2 => s.fireMessage part m
  | k => s.slotEvent part (msgSlot m) k 2 false

/-- What happens to a partition's command queue (R195): a message of some sort arrives behind the others, or the oldest, if it is of
that sort, is processed. -/
def State.command (s : State) (part : Nat) (is : Flit → Bool) (m : MsgStep) : State :=
  if !s.takesMessages part 0 then s
  else
    match m, (s.part part).queue with
    | .arrives f, _ => if is f then s.modPart part (fun p => { p with queue := p.queue ++ [f] }) else s
    | .taken, f :: fs => if is f then (s.modPart part (fun p => { p with queue := fs })).message part f else s
    | .taken, [] => s

/-- Armed slots of a partition bound to the counter at a home, ascending. -/
def State.boundSlots (s : State) (part tenant : Nat) (h : Home) : List Nat :=
  (List.range 256).filter (fun n =>
    let x := (s.part part).slot n
    x.armed && x.ctr != 0#64 && (match taggedFar x.ctr 8 with
      | some a => s.home? part tenant a == some h
      | none => false))

/-- The signal of a COPYS at its counter (R104, R196): one atomic that subtracts, tests once, and adds the RELOAD of every slot
it fires. -/
def State.counterSignal (s : State) (part tenant : Nat) (h : Home) (dec : Word) : State :=
  let old := s.homeDword h
  let new := old - dec.zeroExtend 64
  if 0 < old.toInt && new.toInt ≤ 0 then
    let ns := s.boundSlots part tenant h
    let v := ns.foldl (fun v n => v + ((s.part part).slot n).reload) new
    ns.foldl (fun s n => s.fireSlot part n 0 true) (s.putHomeDword h v)
  else s.putHomeDword h new

end Sys2Proof.Machine
end

