-- ==== Sys2Proof/Machine/Det.lean ====
section
/-!
DEFINITION. Deterministic regions (R125-R131): which bytes they hold, what a task reads there, its write buffer with the charges
of Table 6.4, and the merge at slack water. Offsets count from the region's base.
-/
namespace Sys2Proof.Machine

/-- What pages place in a region, as cells by offset, over what is known already. -/
def regionBytes (mem : List Host.Cell) (pages : List Page) (r : Region) (old : List Host.Cell) : List Host.Cell :=
  mem.foldl (fun acc c =>
    pages.foldl (fun acc p =>
      let q := pageOrigin p.target + p.phys
      if q ≤ c.1 && c.1 < q + p.size then
        let a : VAddr := match p.shelfDie with
          | some d => .shelf d (p.base + (c.1 - q))
          | none => .glob (p.base + (c.1 - q))
        (match r.off? a with | some o => cellWrite o c.2 acc | none => acc)
      else acc) acc) old

/-- The content of a region as the tenant's pages place it. -/
def State.regionCells (s : State) (part tenant : Nat) (r : Region) : List Host.Cell :=
  match s.tenant? part tenant with
  | none => []
  | some t => regionBytes s.mem t.pages r []

/-- Pages are there that were not: where no byte of a snapshot could be read before, it holds what the region holds now (R126; DESIGN
CHOICE, log 107). -/
def State.snapPages (s : State) (part tenant : Nat) (pages : List Page) : State :=
  let mine (k : Nat) : Bool := (s.launch k).part == part && (s.launch k).tenant == tenant && (s.launch k).phase != .retired
  let put (r : Region) (m : List Host.Cell) : List Host.Cell := if r.det then regionBytes s.mem pages r m else m
  { s with
    launches := s.launches.map (fun e => if mine e.1 then (e.1, { e.2 with regions := e.2.regions.map (fun r =>
      { r with snap0 := put r r.snap0, last := r.last.map (put r) }) }) else e),
    crews := s.crews.map (fun e =>
      let k := (s.gang e.2.gang).launch
      if mine k then (e.1, { e.2 with snaps := e.2.snaps.map (fun x =>
        (x.1, (match (s.launch k).regions[x.1]? with | some r => put r x.2 | none => x.2))) }) else e) }

/-- A task's own buffered plain or copied byte (R126): the latest one. -/
def Crew.buffered (c : Crew) (region off : Nat) : Option Byte :=
  (c.sealed ++ c.wbuf).foldl (fun r e => match e with
    | .byte i o b _ => if i == region && o == off then some b else r
    | _ => r) none

/-- The snapshot a task reads a region from (R126). -/
def State.snapOf (s : State) (crew region : Nat) : List Host.Cell :=
  let c := s.crew crew
  match look region c.snaps with
  | some m => m
  | none => (((s.launch (s.gang c.gang).launch).regions[region]?).map (·.snap0)).getD []

/-- A byte as a task reads it (R126): its own buffered value, the snapshot where the page is there, or memory outside DET regions. -/
def State.taskByte? (s : State) (crew : Nat) (a : VAddr) : Option Byte :=
  match s.detAt crew a with
  | some (i, o) =>
    (match (s.crew crew).buffered i o with
     | some b => some b
     | none =>
       let l := s.launch (s.gang (s.crew crew).gang).launch
       (s.home? l.part l.tenant a).map (fun _ => cellRead o (s.snapOf crew i)))
  | none =>
    let l := s.launch (s.gang (s.crew crew).gang).launch
    (s.home? l.part l.tenant a).map s.readHome

/-- A little-endian number as a task reads it. -/
def State.taskNat? (s : State) (crew : Nat) (a : VAddr) : Nat → Option Nat
  | 0 => some 0
  | n + 1 =>
    match s.taskByte? crew a, s.taskNat? crew (a.plus 1) n with
    | some b, some v => some (b.toNat + 256 * v)
    | _, _ => none

def State.taskWord? (s : State) (crew : Nat) (a : VAddr) : Option Word := (s.taskNat? crew a 4).map (BitVec.ofNat 32)
def State.taskDword? (s : State) (crew : Nat) (a : VAddr) : Option Dword := (s.taskNat? crew a 8).map (BitVec.ofNat 64)

/-- Words as a task reads them. -/
def State.taskWords? (s : State) (crew : Nat) (a : VAddr) : Nat → Option (List Word)
  | 0 => some []
  | n + 1 =>
    match s.taskWord? crew a, s.taskWords? crew (a.plus 4) n with
    | some w, some ws => some (w :: ws)
    | _, _ => none

/-- The first of n bytes a task cannot read for want of a page. -/
def State.taskMiss (s : State) (crew : Nat) (a : VAddr) : Nat → Option VAddr
  | 0 => none
  | n + 1 => if (s.taskByte? crew a).isNone then some a else s.taskMiss crew (a.plus 1) n

/-! ### The write buffer -/

/-- Bytes charged so far (Table 6.4). -/
def Crew.charged (c : Crew) : Nat := (c.charges.map (·.bytes)).sum + (c.sealedCharges.map (·.bytes)).sum

/-- Charges a plain write to some lines of a region adds: 80 for the first write to each line in the phase. A line whose charge still
stands, of a task that went on into the next phase without arriving, is not charged again (DESIGN CHOICE, log 72). -/
def Crew.plainCharges (c : Crew) (region : Nat) (lines : List Nat) : List Charge :=
  ((dedup lines).filter (fun k => !c.charges.any (fun g => g.region == region && g.line == some k && g.copy.isNone))).map (fun k =>
    { region := region, line := some k, copy := none, owes := 0, bytes := 80 })

/-- Whether charges fit the buffer; otherwise the bytes needed (R127, Table 12.1 OVERFLOW). -/
def Crew.overflows (c : Crew) (cs : List Charge) : Option Nat :=
  let need := (cs.map (·.bytes)).sum
  if c.charged + need ≤ c.wbufCap then none else some need

/-- Entries of n plain bytes. -/
def plainEntries (region off : Nat) (copy : Option Nat) : Nat → Nat → List WEntry
  | 0, _ => []
  | n + 1, v => .byte region off (BitVec.ofNat 8 v) copy :: plainEntries region (off + 1) copy n (v / 256)

/-- Put entries and charges into a task's buffer; that of a stopped gang is discarded and takes nothing more (R207). -/
def State.buffer (s : State) (crew : Nat) (es : List WEntry) (cs : List Charge) : State :=
  if (s.gang (s.crew crew).gang).phase == .stopped then s
  else s.modCrew crew (fun c => { c with wbuf := c.wbuf ++ es, charges := c.charges ++ cs })

/-- n bytes of a copy have landed in the buffer, at an offset of a region (R127). -/
def Crew.landedCharge (c : Crew) (copy region off n : Nat) : Crew :=
  { c with charges := c.charges.map (fun g =>
      if g.copy == some copy && g.region == region && (g.line.isNone || g.line == some (off / 64)) then { g with owes := g.owes - n } else g) }

/-- No more bytes of a copy will land. -/
def Crew.settleCharges (c : Crew) (copy : Nat) : Crew :=
  { c with charges := c.charges.map (fun g => if g.copy == some copy then { g with owes := 0 } else g) }

/-! ### The merge (R128, R129) -/

/-- Own-level entry of a crew's task identifier, a number without bound: TASKID reads its low 32 bits (R65, R125). -/
def State.taskNum (s : State) (crew : Nat) : Nat :=
  let c := s.crew crew
  let g := s.gang c.gang
  taskEntry c g (s.launch g.launch)

/-- Put crews into ascending task identifier; node crews, whose identifiers are equal (R182), keep the order of the crew table (R128;
DESIGN CHOICE, log 68). -/
def State.insertTask (s : State) (k : Nat) : List Nat → List Nat
  | [] => [k]
  | j :: t => if s.taskNum k ≤ s.taskNum j then k :: j :: t else j :: s.insertTask k t

def State.sortTasks (s : State) : List Nat → List Nat
  | [] => []
  | k :: t => s.insertTask k (s.sortTasks t)

/-- Bytes an entry names: (offset, task, copy, reduction). -/
def WEntry.touches (e : WEntry) (task : Nat) : List (Nat × Nat × Option Nat × Bool) :=
  match e with
  | .byte _ o _ c => [(o, task, c, false)]
  | .red _ o _ wide _ _ _ _ => (List.range (if wide then 8 else 4)).map (fun i => (o + i, task, none, true))

/-- Two uses of one byte conflict (R129). -/
def clash (a b : Nat × Nat × Option Nat × Bool) : Bool :=
  a.1 == b.1 &&
  (match a.2.2.2, b.2.2.2 with
   | false, false => a.2.1 != b.2.1 || (a.2.2.1.isSome && b.2.2.1.isSome && a.2.2.1 != b.2.2.1)
   | true, true => false
   | _, _ => a.2.1 != b.2.1)

/-- The conflicting byte lowest in the region, and the two lowest of all tasks that conflict anywhere in it; one task twice where its
copies alone conflict (R129; DESIGN CHOICE, log 38). -/
def State.conflict (s : State) (region : Nat) (tasks : List Nat) : Option (Nat × Nat × Nat) :=
  let uses := tasks.flatMap (fun k =>
    ((s.crew k).sealed.filter (fun e => e.region == region)).flatMap (fun e => e.touches k))
  let bad := uses.filter (fun a => uses.any (fun b => clash a b))
  match bad with
  | [] => none
  | a :: t =>
    let low := t.foldl (fun m b => min m b.1) a.1
    let ts := s.sortTasks (dedup (bad.map (fun b => b.2.1)))
    (match ts with
     | x :: y :: _ => some (low, x, y)
     | x :: _ => some (low, x, x)
     | [] => none)

/-- Apply one entry at the region's memory. -/
def State.applyEntry (s : State) (part tenant : Nat) (r : Region) (e : WEntry) : State :=
  match e with
  | .byte _ o b _ => (s.writeNat? part tenant (r.base.plus o) 1 b.toNat).getD s
  | .red _ o op wide x tag _ _ =>
    let n := if wide then 8 else 4
    (match s.readNat? part tenant (r.base.plus o) n with
     | some old => (s.writeNat? part tenant (r.base.plus o) n (atomApply op (8 * n) tag old x.toNat)).getD s
     | none => s)

/-- Put reductions into ascending (fibre, sequence); equal ones keep their order in the buffer (DESIGN CHOICE, log 109). -/
def insertRed (e : WEntry) : List WEntry → List WEntry
  | [] => [e]
  | d :: t =>
    match e, d with
    | .red _ _ _ _ _ _ f q, .red _ _ _ _ _ _ f' q' => if f < f' || (f == f' && q ≤ q') then e :: d :: t else d :: insertRed e t
    | _, _ => e :: d :: t

def sortReds : List WEntry → List WEntry
  | [] => []
  | e :: t => insertRed e (sortReds t)

def WEntry.isRed : WEntry → Bool
  | .red _ _ _ _ _ _ _ _ => true
  | _ => false

/-- Apply one task's entries for a region: plain and copy bytes first, then reductions in order (R128). Its charges are freed,
and the bytes it wrote take the merged values in its snapshot (R126). -/
def State.applyTask (s : State) (part tenant : Nat) (i : Nat) (r : Region) (k : Nat) : State :=
  let es := (s.crew k).sealed.filter (fun e => e.region == i)
  let s := (es.filter (fun e => !e.isRed)).foldl (fun s e => s.applyEntry part tenant r e) s
  (sortReds (es.filter (·.isRed))).foldl (fun s e => s.applyEntry part tenant r e) s

/-- Forget a task's entries for a region and free their charges. -/
def State.forgetTask (s : State) (i k : Nat) : State :=
  s.modCrew k (fun c => { c with
    sealed := c.sealed.filter (fun e => e.region != i), sealedCharges := c.sealedCharges.filter (fun g => g.region != i) })

/-- After a merge the task's own plain bytes read as the merge left them (R126). -/
def State.refreshSnap (s : State) (i : Nat) (merged : List Host.Cell) (offs : List Nat) (k : Nat) : State :=
  let old := s.snapOf k i
  let new := offs.foldl (fun m o => cellWrite o (cellRead o merged) m) old
  s.modCrew k (fun c => { c with snaps := (c.snaps.filter (fun e => e.1 != i)) ++ [(i, new)] })

/-- Every byte the region's entries touch translates. -/
def State.mergeable (s : State) (part tenant i : Nat) (r : Region) (tasks : List Nat) : Bool :=
  tasks.all (fun k => ((s.crew k).sealed.filter (fun e => e.region == i)).all (fun e =>
    (e.touches k).all (fun u => (s.home? part tenant (r.base.plus u.1)).isSome)))

/-- The MERGE record of a region (R129). -/
def State.mergeRec (s : State) (launch i : Nat) (r : Region) (low x y : Nat) : FaultRec :=
  let c := s.crew x
  { s.recOfLaunch .merge launch with
    stop := true, lstop := (s.launch launch).desc.policy, crewIdx := c.idx, gangId := gangIdOf (s.gang c.gang),
    taskId := BitVec.ofNat 32 (s.taskNum x), addr := s.toTagged (r.base.plus low),
    info := BitVec.ofNat 64 (i + s.taskNum y * 2 ^ 32) }

/-- Merge one region for some tasks in ascending identifier; true when it conflicted (R128, R129). -/
def State.mergeRegion (s : State) (launch i : Nat) (r : Region) (tasks : List Nat) : Bool × State :=
  let l := s.launch launch
  match s.conflict i tasks with
  | some (low, x, y) =>
    let s := s.postLaunch launch (s.mergeRec launch i r low x y)
    (true, tasks.foldl (fun s k => s.forgetTask i k) s)
  | none =>
    let s := tasks.foldl (fun s k => s.applyTask l.part l.tenant i r k) s
    let merged := s.regionCells l.part l.tenant r
    let s := tasks.foldl (fun s k =>
      let offs := (s.crew k).sealed.filterMap (fun e => match e with
        | .byte j o _ _ => if j == i then some o else none
        | _ => none)
      (s.refreshSnap i merged offs k).forgetTask i k) s
    (false, s.modLaunch launch (fun l => { l with regions := l.regions.modify i (fun r => { r with last := some merged }) }))

/-- Crews of a launch that hold entries for a region. -/
def State.holders (s : State) (launch i : Nat) : List Nat :=
  (s.crews.filter (fun e => (s.gang e.2.gang).launch == launch && e.2.sealed.any (fun w => w.region == i))).map (·.1)

/-- The object a region's SYNC names, as a home. -/
def State.syncHome (s : State) (launch : Nat) (r : Region) : Option Home :=
  let l := s.launch launch
  s.home? l.part l.tenant r.sync

/-- Regions of a launch bound to a barrier, with their index. -/
def State.boundTo (s : State) (launch : Nat) (h : Home) : List (Nat × Region) :=
  (((s.launch launch).regions.mapIdx (fun i r => (i, r))).filter (fun e => e.2.det && s.syncHome launch e.2 == some h))

/-- Take a new snapshot of every DET region bound to a barrier: a BARWAIT on it has returned (R126). -/
def State.newSnaps (s : State) (crew : Nat) (h : Home) : State :=
  let k := (s.gang (s.crew crew).gang).launch
  (s.boundTo k h).foldl (fun s e =>
    s.modCrew crew (fun c => { c with
      snaps := (c.snaps.filter (fun x => x.1 != e.1)) ++ [(e.1, e.2.last.getD e.2.snap0)] })) s

/-- Merge regions one after the other; true when one conflicted. -/
def State.mergeAll (s : State) (launch : Nat) (who : State → Nat → List Nat) : List (Nat × Region) → Bool × State
  | [] => (false, s)
  | (i, r) :: rest =>
    let (bad, s) := s.mergeRegion launch i r (who s i)
    let (bad', s) := s.mergeAll launch who rest
    (bad || bad', s)

end Sys2Proof.Machine
end

