-- ==== Sys2Proof/Machine/Quota.lean ====
section
/-!
DEFINITION. What a partition owns on clusters and cores (R210), what crews hold there (R31, R32), and whether a crew's place is its
partition's (R36, R211).
-/
namespace Sys2Proof.Machine

/-! ### Quotas (R210) -/

/-- The partition's quota on a cluster (R210). -/
def State.quotaAt (s : State) (part cluster : Nat) : ClusterQuota :=
  (((s.part part).quota.clusters)[cluster]?).getD
    { front := [], back := CoreQuota.nil, views := [], reserved := [], keyed := Range.nil, accRows := Range.nil,
      queue := Range.nil }

/-- What it owns on a core. -/
def State.quotaOn (s : State) (part core : Nat) : CoreQuota :=
  let q := s.quotaAt part (clusterOfCore core)
  if core % 16 < 12 then (q.front[core % 16 / 2]?).getD CoreQuota.nil else q.back

/-- A partition owns something of a cluster (R210, Table 12.4). -/
def clusterHeld (q : ClusterQuota) : Bool :=
  (q.back :: q.front).any (fun o => o.crewSlots.len + o.rows.len + o.lmem.len != 0) || q.views.any (fun r => r.len != 0) ||
  !q.reserved.isEmpty || q.keyed.len + q.accRows.len + q.queue.len != 0

/-- The partition owns something of a pair: of its two cores, the reserved slots there, or the pair's accumulators and queue (R210). -/
def State.ownsPair (s : State) (part pair : Nat) : Bool :=
  let q := s.quotaAt part (pair / 8)
  let o := s.quotaOn part (2 * pair)
  o.crewSlots.len + o.rows.len + o.lmem.len + q.accRows.len + q.queue.len != 0 || q.reserved.any (fun r => r.1 == pair % 8 + 1)

/-- The partition owns crew slots on a cluster (R210). -/
def State.usesCluster (s : State) (part cluster : Nat) : Bool :=
  let q := s.quotaAt part cluster
  (q.back :: q.front).any (fun o => o.crewSlots.len != 0)

/-! ### Engines that are not divided (R210) -/

/-- The partition a shared engine serves next: round-robin among those with work ready there (R210). What one service is, and that
partition 0 comes first after reset, is a DESIGN CHOICE (log 82). -/
def State.engineServes (s : State) (e : Engine) (ready : Nat → Bool) : Option Nat :=
  let last := ((s.turns.find? (fun x => x.1 == e)).map (·.2)).getD 7
  ((List.range 8).map (fun i => (last + 1 + i) % 8)).find? ready

/-- A shared engine has served a partition. -/
def State.engineServed (s : State) (e : Engine) (part : Nat) : State :=
  { s with turns := s.turns.filter (fun x => x.1 != e) ++ [(e, part)] }

/-- The partition of a crew. -/
def State.partOf (s : State) (crew : Nat) : Nat := (s.launch (s.gang (s.crew crew).gang).launch).part

/-! ### What a crew costs, and what is held (R32) -/

/-- Waves of a crew. -/
def wavesFor (fibres : Nat) : Nat := (fibres + 31) / 32

/-- Register rows of w waves (Table 2.5). -/
def rowsFor (w nreg ntile nhyp nbun : Nat) : Nat := w * (nreg + 8 * ntile + 8 * nhyp + 64 * nbun)

/-- Crew slots, wave slots, register rows and bytes of local memory. -/
structure Cost where
  slots : Nat
  waves : Nat
  rows : Nat
  lmem : Nat
deriving DecidableEq, Repr

def Cost.plus (a b : Cost) : Cost := { slots := a.slots + b.slots, waves := a.waves + b.waves, rows := a.rows + b.rows, lmem := a.lmem + b.lmem }
def Cost.within (a b : Cost) : Bool := a.slots ≤ b.slots && a.waves ≤ b.waves && a.rows ≤ b.rows && a.lmem ≤ b.lmem
def Cost.times (a : Cost) (n : Nat) : Cost := { slots := n * a.slots, waves := n * a.waves, rows := n * a.rows, lmem := n * a.lmem }
def Cost.zero : Cost := { slots := 0, waves := 0, rows := 0, lmem := 0 }

/-- The cost of one crew of a launch. -/
def Desc.cost (d : Desc) : Cost :=
  let w := wavesFor d.fibres
  { slots := 1, waves := w, rows := rowsFor w d.nreg d.ntile d.nhyp d.nbun, lmem := d.lmem }

def shapeCost (x : Shape) : Cost := { slots := 1, waves := x.waves, rows := rowsFor x.waves x.nreg x.ntile x.nhyp x.nbun, lmem := x.lmem }

/-- Register rows and local memory are enough for a cost. -/
def Cost.roomFor (a b : Cost) : Bool := b.rows ≤ a.rows && b.lmem ≤ a.lmem

/-- The room of a reserved crew slot of a level: that of the material crew the partition configures for it (R166). -/
def State.reservedRoom (s : State) (part level : Nat) : Cost := shapeCost (((s.part part).quota.matCrew[level - 1]?).getD Shape.nil)

/-- What a crew takes on its core. -/
def Crew.cost (c : Crew) : Cost :=
  let w := wavesFor c.fibres
  { slots := 1, waves := w, rows := rowsFor w c.nreg c.ntile c.nhyp c.nbun, lmem := c.lmemSize }

/-- What a partition owns on a core. -/
def quotaOwned (q : CoreQuota) : Cost :=
  { slots := q.crewSlots.len, waves := 3 * q.crewSlots.len, rows := 8 * q.rows.len, lmem := 128 * q.lmem.len }

/-- A gang holds what it was placed with: it runs, or it was stopped while it ran. -/
def State.gangHolds (s : State) (gang : Nat) : Bool :=
  let p := (s.gang gang).phase
  p == .running || p == .stopped && s.crews.any (fun e => e.2.gang == gang && !e.2.ended)

/-- What a crew holds now: slots and rows until it ends, local memory until its gang has finished (R16, R29). One of a gang that a
fault stopped before all its crews had ended holds all of it until the gang retires (DESIGN CHOICE, log 57). -/
def State.holds (s : State) (c : Crew) : Cost :=
  let held := s.gangHolds c.gang
  if held && !c.ended then c.cost else { Cost.zero with lmem := if held then c.lmemSize else 0 }

/-- Crews of the partition's resident tenant on a core. -/
def State.crewsOn (s : State) (part core : Nat) : List (Nat × Crew) :=
  s.crews.filter (fun e => e.2.core == core && (let l := s.launch (s.gang e.2.gang).launch
    l.part == part && (s.part part).resident == some l.tenant))

/-- What ordinary crews hold on a core. -/
def State.occupied (s : State) (part core : Nat) : Cost :=
  ((s.crewsOn part core).filter (fun e => e.2.reserved.isNone)).foldl (fun a e => a.plus (s.holds e.2)) Cost.zero

/-- The keyed contexts that lanes of the resident tenant's crews hold on a cluster fit the partition's share of its store (R188). -/
def State.keysFit (s : State) (part cluster : Nat) : Bool :=
  ((s.nodes.filter (fun e => e.2.part == part && (s.part part).resident == some (s.launch e.2.launch).tenant)).map (fun e =>
    (e.2.ctxs.filter (fun c => c.cluster == cluster && c.place == .lane)).length)).sum ≤ (s.quotaAt part cluster).keyed.len

/-- A crew of a keyed node. -/
def State.ofKeyed (s : State) (c : Crew) : Bool :=
  match (s.gang c.gang).node with
  | some k => (match look k s.nodes with
      | some n => n.keyed
      | none => false)
  | none => false

/-- A crew stands in a place that its partition owns: its crew slot, and room for all that its tenant holds on the core; in a reserved
slot, the slot and its room (R166); for a keyed node, entries of the store for what its lanes hold. One whose cluster was taken (R211),
or whose quota was rewritten while it was saved, is not restored until that is so again: R36 has it resume on the cores it left, and a
core has sixteen crew slots (R7; DESIGN CHOICE, log 62). Its gang's accumulator rows need not lie in the new share (DESIGN CHOICE, log
62). -/
def State.seated (s : State) (crew : Nat) : Bool :=
  let c := s.crew crew
  let part := (s.launch (s.gang c.gang).launch).part
  let q := s.quotaOn part c.core
  (!s.ofKeyed c || s.keysFit part (clusterOfCore c.core)) &&
  match c.reserved with
  | some level =>
    (s.quotaAt part (clusterOfCore c.core)).reserved.contains (level, c.core % 2) && (s.reservedRoom part level).roomFor c.cost
  | none =>
    q.crewSlots.base ≤ c.crewSlot && c.crewSlot < q.crewSlots.base + q.crewSlots.len &&
    (s.occupied part c.core).within (quotaOwned q)

/-- Every crew of a gang that has not ended stands in its place: the gang holds its slots and runs as one unit (R23). -/
def State.gangSeated (s : State) (gang : Nat) : Bool := (s.crewsOf gang).all (fun k => (s.crew k).ended || s.seated k)

end Sys2Proof.Machine
end

