-- ==== Sys2Proof/Machine/Link.lean ====
section
/-!
DEFINITION. Who holds the part (R212), the elements of copies (R100-R103) and what their engine can do with one now, and the work that
waits for the host link (R7, R210).
-/
namespace Sys2Proof.Machine

/-- Partition and tenant of a crew. -/
def State.spaceOfCrew (s : State) (crew : Nat) : Nat × Nat :=
  let l := s.launch (s.gang (s.crew crew).gang).launch
  (l.part, l.tenant)

/-- The tenant of a launch holds its partition (R212): between its slices nothing of it moves. -/
def State.onPart (s : State) (launch : Nat) : Bool :=
  let l := s.launch launch
  (s.part l.part).resident == some l.tenant

/-- The tenant of a crew holds its partition, and the crews of its gang, while they run, stand in places of it (R23, R36, R211). -/
def State.awake (s : State) (crew : Nat) : Bool :=
  s.onPart (s.gang (s.crew crew).gang).launch && s.gangSeated (s.crew crew).gang

/-! ### Bytes of accesses -/

/-- Two runs of bytes meet; an empty run meets nothing. -/
def VAddr.meets (a : VAddr) (n : Nat) (b : VAddr) (m : Nat) : Bool :=
  n != 0 && m != 0 &&
  (match a, b with
   | .loc c o, .loc d p => c == d && o < p + m && p < o + n
   | .shelf c o, .shelf d p => c == d && o < p + m && p < o + n
   | .glob o, .glob p => o < p + m && p < o + n
   | .peer o, .peer p => o < p + m && p < o + n
   | _, _ => false)

/-- Bytes an access touches. -/
def Access.bytes (a : Access) : Nat :=
  match a.what with
  | .bar _ => 16
  | .trap _ _ _ _ _ => 0
  | _ => if a.what.wide then 8 else 4

/-- A coordinate is in bounds; LIMIT 0 leaves the axis unchecked. -/
def GenAxis.inside (a : GenAxis) (c : Int) : Bool := a.limit == 0 || (0 ≤ c && c < (a.limit : Int))

/-- Bytes of an element as elements are numbered: single bytes in the linear form, where LEN counts bytes. -/
def CopyDesc.unit (d : CopyDesc) : Nat := if d.form == 0 then 1 else d.esize

/-! ### Elements -/

/-- Mixed-radix digits of a number, the first radix fastest. -/
def digitsUp : List Nat → Nat → List Nat
  | [], _ => []
  | r :: rs, n => n % r :: digitsUp rs (n / r)

/-- Offset of a row or run from DST. -/
def CopyDesc.dstRow (d : CopyDesc) (r : Nat) : Int :=
  if d.form == 3 then
    (((digitsUp (d.steps.reverse.map (·.count)) r).reverse.zip d.steps).map (fun e => (e.1 : Int) * e.2.dstride)).sum
  else (((digitsUp d.ext r).zip d.dstr).map (fun e => (e.1 : Int) * e.2)).sum

/-- Destination of element n. -/
def CopyDesc.dstOf (d : CopyDesc) (n : Nat) : VAddr :=
  d.dst.shift (d.dstRow (n / d.len) + ((n % d.len) * d.unit : Nat))

/-- Where an element comes from: an address, the fill pattern, a page that is not there, or a fault found after issue (R100). -/
inductive ElemSrc where
  | from (a : VAddr)
  | fill
  | missing (a : VAddr)
  | late
deriving DecidableEq, Repr

/-- Coordinates of a run, axis by axis (R101). -/
def CopyDesc.coords (d : CopyDesc) (r : Nat) : List Int :=
  let idx := (digitsUp (d.steps.reverse.map (·.count)) r).reverse
  d.axes.mapIdx (fun i a =>
    ((idx.zip d.steps).map (fun e => if e.2.axis == i then (e.1 : Int) * e.2.cstep else 0)).sum + a.origin)

/-- A ragged source element must lie in its space (R99). -/
def State.raggedSrc (s : State) (a : VAddr) (n : Nat) : ElemSrc :=
  match a with
  | .loc c o => if o + n ≤ (s.crew c).lmemSize then .from a else .late
  | .shelf _ o => if o + n ≤ shelfLimit then .from a else .late
  | .glob g => if g + n ≤ globalLimit then .from a else .late
  | .peer _ => .late

/-- The source of element n. Rows of a ragged box are counted with i1 fastest (R100; DESIGN CHOICE, log 67). -/
def State.elemSrc (s : State) (crew : Nat) (d : CopyDesc) (n : Nat) : ElemSrc :=
  let r := n / d.len
  let i0 := n % d.len
  match d.form with
  | 2 =>
    let at' := d.rows.plus (4 * r)
    (match s.taskWord? crew at', s.taskWord? crew (at'.plus 4) with
     | some a, some b =>
       if b.toNat < a.toNat then .late
       else if i0 < b.toNat - a.toNat then s.raggedSrc (d.src.plus ((a.toNat + i0) * d.esize)) d.esize
       else .fill
     | none, _ => .missing at'
     | _, none => .missing (at'.plus 4))
  | 3 =>
    let cs := d.coords r
    if (cs.zip d.axes).all (fun e => e.2.inside e.1) then
      .from (d.src.shift (((cs.zip d.axes).map (fun e => e.1 * e.2.sstride)).sum + (i0 * d.esize : Nat)))
    else .fill
  | _ =>
    .from (d.src.shift ((((digitsUp d.ext r).zip d.sstr).map (fun e => (e.1 : Int) * e.2)).sum + (i0 * d.unit : Nat)))

/-- The fill pattern of one element: the low ESIZE bytes, repeated in an 8-byte element. -/
def CopyDesc.fillNat (d : CopyDesc) : Nat :=
  let f := d.fill.toNat
  if d.esize == 8 then f + f * 2 ^ 32 else f % 2 ^ (8 * d.esize)

/-! ### One element of a copy -/

/-- Why a packet stops at an element: the engine holds it, a page is missing, the offsets of its row are bad, or it cannot reach
its target. -/
inductive ElemStop where
  | held
  | miss (a : VAddr)
  | late
  | fatal (a : VAddr)
deriving DecidableEq, Repr

/-- An earlier access of the issuer's wave that a read of the copy must follow (R121). -/
def State.copyBlocked (s : State) (k : Nat) (c : Copy) (a : VAddr) (n : Nat) : Bool :=
  s.accesses.any (fun e => e.1 < k && e.2.wave == c.wave && e.2.addr.meets e.2.bytes a n)

/-- An element's destination is held: in a pinned row, or in a line whose fifteen claims are taken (R94, R97). -/
def State.copyHeld (s : State) (c : Copy) (dst : VAddr) (n : Nat) : Bool :=
  (match dst with
   | .loc k o => s.anyPinned (rowsTouched k o n)
   | _ => false) || (linesTouched dst n).any (fun l => c.wants.contains l)

/-- The copy is held at an element before one: nothing from there on lands (R94, R97). -/
def State.copyHeldBefore (s : State) (c : Copy) (n : Nat) : Bool :=
  c.left.any (fun r => (List.range (min r.len (n - r.base))).any (fun i => s.copyHeld c (c.desc.dstOf (r.base + i)) c.desc.unit))

/-- The target of a COPYS that a destination does not reach (R99, R104). -/
def State.copyUnreached (s : State) (c : Copy) (a : VAddr) : Bool :=
  let (p, t) := s.spaceOfCrew c.crew
  match c.desc.tgt with
  | 1 => (match s.page? p t a with
      | some g => g.target != .host
      | none => true)
  | 2 => s.portsDown.contains c.desc.port
  | _ => false

/-- The value of an element. -/
def State.elemValue (s : State) (k : Nat) (c : Copy) (n : Nat) : Except ElemStop Nat :=
  let rows := c.desc.rows.plus (4 * (n / c.desc.len))
  if c.desc.form == 2 && s.copyBlocked k c rows 8 then .error .held
  else
    match s.elemSrc c.crew c.desc n with
    | .late => .error .late
    | .missing a => .error (.miss a)
    | .fill => .ok c.desc.fillNat
    | .from a =>
      if s.copyBlocked k c a c.desc.unit then .error .held
      else
        match s.taskNat? c.crew a c.desc.unit with
        | some v => .ok v
        | none => .error (.miss ((s.taskMiss c.crew a c.desc.unit).getD a))

/-- Bytes of a number. -/
def natBytes : Nat → Nat → List Byte
  | 0, _ => []
  | n + 1, v => BitVec.ofNat 8 v :: natBytes n (v / 256)

/-- A plain write of bytes at homes. -/
def State.putPlain (s : State) (hs : List Home) (v : Nat) : State := (s.putNat hs v).plainAll s hs

/-- Element e lands at its destination, a task's write buffer or memory, or goes out of a peer port. -/
def State.putElem (s : State) (k : Nat) (c : Copy) (e : Nat) (dst : VAddr) (v : Nat) : Except ElemStop State :=
  let n := c.desc.unit
  let (p, t) := s.spaceOfCrew c.crew
  if s.copyUnreached c dst then .error (.fatal dst)
  else
    match dst, s.detAt c.crew dst with
    | .peer a, _ => .ok { s with peerOut := s.peerOut ++ [.data c.desc.port k e a (natBytes n v)] }
    | _, some (i, o) => .ok ((s.buffer c.crew (plainEntries i o (some k) n v) []).modCrew c.crew (fun w => w.landedCharge k i o n))
    | _, none =>
      match s.homes? p t dst n with
      | some hs => .ok ((s.putPlain hs v).markDirty p t dst)
      | none => .error (.miss ((s.firstMiss p t dst n).getD dst))

/-- One element. -/
def State.moveElem (s : State) (k : Nat) (c : Copy) (n : Nat) : Except ElemStop State :=
  let dst := c.desc.dstOf n
  if s.copyHeld c dst c.desc.unit then .error .held
  else
    match s.elemValue k c n with
    | .ok v => s.putElem k c n dst v
    | .error e => .error e

/-- A copy goes out of a peer port. -/
def Copy.toPeer (c : Copy) : Bool := c.desc.tgt == 2

/-- An element of a copy can go on now: it lands, or ends or suspends the copy. -/
def State.elemGoes (s : State) (k : Nat) (c : Copy) (n : Nat) : Bool :=
  (match c.susp with
   | some (e, _) => decide (n < e)
   | none => true) && !s.copyHeldBefore c n &&
  (match s.moveElem k c n with
   | .ok _ => true
   | .error .held => false
   | .error (.miss _) => c.susp.isNone
   | .error _ => true)

/-! ### Host memory (Table 1.3) -/

/-- An address of a crew lies in host memory. -/
def State.inHost (s : State) (crew : Nat) (a : VAddr) : Bool :=
  let (p, t) := s.spaceOfCrew crew
  (s.page? p t a).any (fun g => g.target == .host)

/-- The words of ROWS that give the row of a ragged element (R100). -/
def CopyDesc.rowsOf (d : CopyDesc) (n : Nat) : List VAddr :=
  if d.form == 2 then [d.rows.plus (4 * (n / d.len)), d.rows.plus (4 * (n / d.len) + 4)] else []

/-- An element comes from host memory or goes there, or its row's offsets are read there. -/
def State.elemHost (s : State) (c : Copy) (n : Nat) : Bool :=
  let dst := c.desc.dstOf n
  (c.desc.rowsOf n).any (s.inHost c.crew) ||
  (s.inHost c.crew dst && (s.detAt c.crew dst).isNone) ||
  (match s.elemSrc c.crew c.desc n with
   | .from a => s.inHost c.crew a
   | _ => false)

/-- The signal of a COPYS is due: every element has landed, and nothing holds it (R104). -/
def Copy.signalDue (c : Copy) : Bool := c.signal && c.left.isEmpty && c.sent.isEmpty && !c.asked && c.susp.isNone

/-- A copy has an element that can go on over the host link, or such a signal. -/
def State.copyHosts (s : State) (k : Nat) (c : Copy) : Bool :=
  s.awake c.crew &&
  (c.left.any (fun r => (List.range r.len).any (fun i => s.elemHost c (r.base + i) && s.elemGoes k c (r.base + i))) ||
   (c.signalDue && s.inHost c.crew c.desc.ctr))

end Sys2Proof.Machine
end

