-- ==== Sys2Proof/Machine/Access.lean ====
section
/-!
DEFINITION. Accesses on their way to their home (R107, R112, R118): when one may perform, what performing does, translation faults
that hold one (R108), and what becomes of it when the fault is serviced or declared fatal.
-/
namespace Sys2Proof.Machine

/-- The gang of a crew has made an effect that ends replayability (R132). -/
def State.notReplayable (s : State) (gang : Nat) : State := s.modGang gang (fun g => { g with replayable := false })

/-! ### Translation faults -/

/-- Open a translation fault and post its SUSPEND record to the host queue (R108, Table 12.1); `addr` is the ADDR it carries. -/
def State.openFault (s : State) (crew : Nat) (wave : Nat) (a : VAddr) (addr : Dword) : Nat × State :=
  let (p, t) := s.spaceOfCrew crew
  let k := s.nextUid
  let f : TFault := { part := p, tenant := t, addr := a, fatal := false }
  let s := { s with tfaults := s.tfaults ++ [(k, f)], nextUid := k + 1 }
  (k, s.postHost { s.recOfCrew .suspend crew with wave := (s.wave wave).idx, addr := addr })

/-- Something in flight is held by a fault. -/
def State.faultHolds (s : State) (f : Nat) : Bool :=
  s.accesses.any (fun e => e.2.fault == some f) || s.flights.any (fun e => e.2.fault == some f) ||
  s.copies.any (fun e => e.2.susp.any (fun x => x.2 == f)) || s.views.any (fun e => e.2.fault == some f)

/-- A page has been asked for by what is not in flight itself: an instruction, an engine, the launch unit. -/
def State.pageAsked (s : State) (part tenant : Nat) (a : VAddr) : Bool :=
  s.tfaults.any (fun e => !e.2.fatal && e.2.part == part && e.2.tenant == tenant && e.2.addr.samePage a && !s.faultHolds e.1)

/-- A page that is missing is still awaited: a fault on it is open, and none has been declared fatal (R108). -/
def State.pageAwaited (s : State) (part tenant : Nat) (a : VAddr) : Bool :=
  s.faultOn part tenant a false && !s.faultOn part tenant a true

/-- A fault of the same wave already open on the page, else a new one. -/
def State.faultFor (s : State) (crew wave : Nat) (a : VAddr) : Nat × State :=
  let mine := (s.flights.filter (fun e => e.2.wave == wave)).filterMap (fun e => e.2.fault) ++
    (s.accesses.filter (fun e => e.2.wave == wave)).filterMap (fun e => e.2.fault)
  match mine.find? (fun f => match look f s.tfaults with | some t => t.addr.samePage a | none => false) with
  | some f => (f, s)
  | none => s.openFault crew wave a (s.toTagged a)

/-! ### When an access may perform -/

/-- The fibres of some lanes. -/
def Wave.fibres (w : Wave) (m : Lanes) : List Nat := (laneList m).map (fun l => (w.lane l).fibre)

/-- An access counts among those of some fibres: they issued it, or were forked by its issuer since (R113). -/
def Access.of (a : Access) (fs : List Nat) : Bool := a.fibres.any (fun f => fs.contains f)

/-- An earlier access of some fibres, or an earlier load of some lanes, that an access of theirs to n bytes must follow: one on the
same bytes (R112), or an acquire (R118). -/
def State.blocked (s : State) (uid wave : Nat) (m : Lanes) (fs : List Nat) (a : VAddr) (n : Nat) : Bool :=
  s.accesses.any (fun e => e.1 < uid && e.2.of fs && (e.2.acq || e.2.addr.meets e.2.bytes a n)) ||
  s.flights.any (fun e => e.1 < uid && e.2.wave == wave && (match e.2.payload with
    | .load l _ b _ => m.getLsbD l && b.meets 4 a n
    | _ => false))

/-- Whether a release of a scope covers an address (Table 6.1): crew and gang scope cover local memory. -/
def scopeCovers (scope : Nat) (a : VAddr) : Bool :=
  match a with
  | .loc _ _ => true
  | _ => 2 ≤ scope

/-- An earlier access of the fibres that a release must follow (R114, R118). -/
def State.unreleased (s : State) (uid wave : Nat) (m : Lanes) (fs : List Nat) (scope : Nat) : Bool :=
  s.accesses.any (fun e => e.1 < uid && e.2.of fs && scopeCovers scope e.2.addr) ||
  s.flights.any (fun e => e.1 < uid && e.2.wave == wave && (match e.2.payload with
    | .load l _ a _ => m.getLsbD l && scopeCovers scope a
    | _ => false))

/-- Accesses of a wave issued before an operation have all performed. -/
def State.quiet (s : State) (wave uid : Nat) : Bool := !s.accesses.any (fun e => e.2.wave == wave && e.1 < uid)

/-- An access of a lower lane of the same instruction on the same bytes has not performed (R107, R319). -/
def State.behindLane (s : State) (k op : Nat) (a : VAddr) (n : Nat) : Bool :=
  s.accesses.any (fun e => e.1 < k && e.2.op == op && e.2.addr.meets e.2.bytes a n)

/-- The barrier object an atomic falls on is in slack water: the atomic waits there (R128). -/
def State.atSlack (s : State) (a : Access) : Bool :=
  let (p, t) := s.spaceOfCrew a.crew
  match a.what, s.home? p t a.addr with
  | .atom _ _ _ _, some h => s.inSlack h
  | .cas _ _ _ _, some h => s.inSlack h
  | _, _ => false

/-- The 64-byte line of physical memory that an address of a crew lies in, when it translates; none in local memory. -/
def State.lineOf (s : State) (crew : Nat) (a : VAddr) : Option Nat :=
  let (p, t) := s.spaceOfCrew crew
  match s.home? p t a with
  | some (.phys pa) => some (pa / 64)
  | _ => none

/-- Addresses of two crews lie in one line of physical memory, by whatever names: whichever slice is its home, it is one slice
(R110). -/
def State.sameLine (s : State) (c : Nat) (a : VAddr) (d : Nat) (b : VAddr) : Bool :=
  match s.lineOf c a with
  | some n => s.lineOf d b == some n
  | none => false

/-- An access under way to its home, or waiting there for slack water to end (R128): nothing of its own fibres and no fault holds it. -/
def State.sent (s : State) (k : Nat) (a : Access) : Bool :=
  a.fault.isNone && !s.blocked k a.wave a.lanes a.fibres a.addr a.bytes &&
  !(a.rel && s.unreleased k a.wave a.lanes a.fibres a.scope)

/-- A lane's load that has still to read its word is under way to its home likewise: where it reads. -/
def State.sentTo (s : State) (k : Nat) (f : Flight) : Option VAddr :=
  match f.payload with
  | .load l _ b _ =>
    if f.fault.isNone && !s.blocked k f.wave (laneBit l) [((s.wave f.wave).lane l).fibre] b 4 then some b else none
  | _ => none

/-- The lanes of one ATOM or ATOMC are sent one after the other (R237). -/
def AccessOp.inTurn (o : AccessOp) : Bool :=
  match o with
  | .atom _ _ _ _ => true
  | .cas _ _ _ _ => true
  | _ => false

/-- An access, or a load, that the same core issued earlier to the same line is under way, or waits at its home (R110): one of another
instruction, or an atomic of a lower lane (R237). Loads, and stores, of one instruction to different words of a line are sent in no
order (DESIGN CHOICE, log 115). -/
def State.behindCore (s : State) (k op crew : Nat) (a : VAddr) : Bool :=
  s.accesses.any (fun e => e.1 < k && (e.2.op != op || e.2.what.inTurn) && (s.crew e.2.crew).core == (s.crew crew).core &&
    s.sameLine e.2.crew e.2.addr crew a && s.sent e.1 e.2) ||
  s.flights.any (fun e => e.1 < k && e.2.op != op && s.coreOfWave e.2.wave == (s.crew crew).core &&
    (s.sentTo e.1 e.2).any (fun b => s.sameLine (s.wave e.2.wave).crew b crew a))

/-- Shelf lines that must be present before an access performs at its home: an atomic's (R95), and a store's. -/
def Access.needs (a : Access) : List (Nat × Nat) :=
  match a.what with
  | .bar _ => []
  | _ => linesTouched a.addr a.bytes

/-- The access could perform now, but for the turn at its link: no open fault, nothing before it, no slack water at its object (R128), and,
at a home, its shelf line is present (R95). -/
def State.accessMay (s : State) (k : Nat) (a : Access) : Bool :=
  let (p, t) := s.spaceOfCrew a.crew
  s.sent k a && !s.atSlack a && !s.behindLane k a.op a.addr a.bytes && !s.behindCore k a.op a.crew a.addr &&
  ((s.buffersAt a).isSome || !a.needs.any (fun l => s.lineAbsent p t l))

/-- An atomic at system scope that goes over the host link (Table 1.3). -/
def State.overHost (s : State) (a : Access) : Bool :=
  a.what.inTurn && s.inHost a.crew a.addr

/-- A partition has work ready at the host link: an atomic that may perform, or a copy that can go on there (R210). -/
def State.hostWork (s : State) (part : Nat) : Bool :=
  s.accesses.any (fun e => s.overHost e.2 && s.partOf e.2.crew == part && s.awake e.2.crew && s.accessMay e.1 e.2) ||
  s.copies.any (fun e => s.partOf e.2.crew == part && s.copyHosts e.1 e.2)

/-- It is the turn of a crew's partition at the host link (R210). -/
def State.hostTurn (s : State) (crew : Nat) : Bool := s.engineServes .host s.hostWork == some (s.partOf crew)

/-- The access may perform now. -/
def State.accessReady (s : State) (k : Nat) (a : Access) : Bool := s.accessMay k a && (!s.overHost a || s.hostTurn a.crew)

/-- The host link has served a partition, where it was used. -/
def State.hostServed (s : State) (used : Bool) (crew : Nat) : State := if used then s.engineServed .host (s.partOf crew) else s

/-! ### Performing -/

/-- A deferred TRANSLATE (R108). -/
def State.deferTranslate (s : State) (crew : Nat) (a : VAddr) (till : List Until) : State :=
  s.defer { gang := (s.crew crew).gang, crew := crew, cls := .translate, addr := s.toTagged a, info := 0#64, till := till }

/-- The waits that deliver the fault of an operation counted on a flag; without one, FWAIT (R108). -/
def tillFlag (wave : Nat) (flag : Option Nat) : List Until :=
  match flag with
  | some f => [.flag wave f]
  | none => [.fwait]

/-- Destinations of an atomic's old value: one register, or a pair with the low half first (R235). -/
def atomDests (lane phys : Nat) (wide : Bool) (tag : Tag) (old : Nat) : List Dest :=
  if wide then
    [.lane lane phys (BitVec.ofNat 32 old) tag, .lane lane (phys + 1) (BitVec.ofNat 32 (old / 2 ^ 32)) tag]
  else [.lane lane phys (BitVec.ofNat 32 old) tag]

/-- The access is over: its old value, when asked for, is on its way to landing. -/
def State.answerAccess (s : State) (k : Nat) (a : Access) (old : Nat) : State :=
  let s := { s with accesses := drop k s.accesses }
  match a.ret with
  | some phys =>
    let ds := atomDests a.lane phys a.what.wide a.what.retTag old
    s.addFlight { op := a.op, wave := a.wave, flag := a.flag, txns := a.txns, lines := [], payload := .regs ds, fault := none }
  | none => s.lowerFlag a.op a.wave a.flag

/-- The waits that deliver the fatal fault of an access: on its flag, FWAIT where it has none, and on the barrier for a credit to it
(R108, R147, R237, R319; DEDUCED, log 83). -/
def Access.till (a : Access) : List Until :=
  match a.what, a.ret with
  | .bar (.credit _), _ => [.object a.addr]
  | _, some _ => tillFlag a.wave a.flag
  | _, none => [.fwait]

/-- An access that ends by a fatal fault: it answers 0, and TRANSLATE reaches the crew later (R237, R319). -/
def State.failAccess (s : State) (k : Nat) (a : Access) : State := (s.answerAccess k a 0).deferTranslate a.crew a.addr a.till

/-- Whether an atomic's scope reaches the page of a global address (R236, Table 5.9): device scope HBM, system scope host memory. -/
def reaches (what : AccessOp) (scope : Nat) (a : VAddr) (target : PageTarget) : Bool :=
  match what, a, target with
  | .atom _ _ _ _, .glob _, .host => scope == 4
  | .atom _ _ _ _, .glob _, _ => scope == 3
  | .cas _ _ _ _, .glob _, .host => scope == 4
  | .cas _ _ _ _, .glob _, _ => scope == 3
  | _, _, _ => true

/-- The page's target, taken as shelf for local memory. -/
def State.targetOf (s : State) (p t : Nat) (a : VAddr) : PageTarget :=
  match s.page? p t a with
  | some g => g.target
  | none => .shelf 0

/-- Hold an access at a translation fault (R108). -/
def State.holdAccess (s : State) (k : Nat) (a : Access) : State :=
  let (f, s) := s.faultFor a.crew a.wave a.addr
  { s with accesses := change k (fun x => { x with fault := some f }) s.accesses }

/-- The record of a TRAP, once the writes it releases have performed (R209). -/
def State.trapRecord (s : State) (crew wave : Nat) (info : Dword) (slot : Nat) (lanes pc : Word) (stop : Option Bool) : State :=
  s.postLaunch (s.gang (s.crew crew).gang).launch
    { s.recOfCrew .trap crew with
      stop := stop.isSome, lstop := stop.getD false, wave := (s.wave wave).idx, slot := slot, lanes := lanes, pc := pc, info := info }

/-- The effect at the home. -/
def State.performHere (s : State) (k : Nat) (a : Access) (p t : Nat) (h : Home) : State :=
  match a.what with
  | .bar op => ({ s with accesses := drop k s.accesses }).barOp h op
  | .trap i sl ls pc st => ({ s with accesses := drop k s.accesses }).trapRecord a.crew a.wave i sl ls pc st
  | .store x => (((s.storeWord h x).markDirty p t a.addr)).answerAccess k a 0
  | .red _ _ _ _ _ _ => s.answerAccess k a 0
  | .atom op w x tag =>
    let (old, s) := s.performAt h (.atom op w x tag)
    (s.markDirty p t a.addr).answerAccess k a old
  | .cas w x c tag =>
    let (old, s) := s.performAt h (.cas w x c tag)
    (s.markDirty p t a.addr).answerAccess k a old

/-- What a buffered store or reduction puts into its task's write buffer (R127). -/
def AccessOp.entries (o : AccessOp) (region off : Nat) : List WEntry :=
  match o with
  | .store x => plainEntries region off none 4 x.toNat
  | .red op wide x tag lin seq => [.red region off op wide x tag lin seq]
  | _ => []

/-- An access performs: at its home, or in its task's write buffer (R127, R237); a missing page holds it. -/
def State.performDue (s : State) (k : Nat) (a : Access) : State :=
  let (p, t) := s.spaceOfCrew a.crew
  match s.buffersAt a, a.what, s.home? p t a.addr with
  | some (i, o), what, _ => (s.buffer a.crew (what.entries i o) []).answerAccess k a 0
  | none, .trap i sl ls pc st, _ => ({ s with accesses := drop k s.accesses }).trapRecord a.crew a.wave i sl ls pc st
  | none, _, none => s.holdAccess k a
  | none, what, some h =>
    if reaches what a.scope a.addr (s.targetOf p t a.addr) then s.performHere k a p t h else s.failAccess k a

/-- One access performs, when it may, with the turn of its partition where it goes over the host link (R210). -/
def State.performAccess (s : State) (k : Nat) : State :=
  match look k s.accesses with
  | none => s
  | some a => if !s.accessReady k a then s else (s.hostServed (s.overHost a) a.crew).performDue k a

/-- An access is issued: it performs at once where nothing holds it, and waits otherwise. -/
def State.issueAccess (s : State) (a : Access) : State := (s.addAccess a).performAccess s.nextUid

/-- The load of a flight performs, where it may; the word is on its way to landing. -/
def State.performLoad (s : State) (k : Nat) (f : Flight) : State :=
  match f.payload with
  | .load l phys a tag =>
    let crew := (s.wave f.wave).crew
    let fibre := ((s.wave f.wave).lane l).fibre
    if f.fault.isSome || s.blocked k f.wave (laneBit l) [fibre] a 4 || s.behindCore k f.op crew a then s
    else
      match s.taskWord? crew a with
      | some w => { s with flights := change k (fun x => { x with payload := .regs [.lane l phys w tag] }) s.flights }
      | none =>
        let (g, s) := s.faultFor crew f.wave a
        { s with flights := change k (fun x => { x with fault := some g }) s.flights }
  | _ => s

/-- An access, or a load that waits, performs where it may. -/
def State.performOne (s : State) (k : Nat) : State :=
  match look k s.flights with
  | some f => s.performLoad k f
  | none => s.performAccess k

/-- Perform accesses and loads one after the other. -/
def State.performAll (s : State) : List Nat → State
  | [] => s
  | k :: ks => (s.performOne k).performAll ks

/-- A name put into others in their order, which is the order of issue. -/
def insertName (k : Nat) (ks : List Nat) : List Nat := ks.takeWhile (fun j => j < k) ++ k :: ks.dropWhile (fun j => j < k)

/-- Names of accesses and of loads together, in the order of issue. -/
def inOrder (acc lds : List Nat) : List Nat := lds.foldl (fun ks k => insertName k ks) acc

/-- Accesses of some fibres on their way, in issue order. -/
def State.accessesOf (s : State) (fs : List Nat) : List Nat := names (fun a => a.of fs) s.accesses

/-- Accesses of some fibres and loads of their lanes on their way, in issue order. -/
def State.requestsOf (s : State) (wave : Nat) (m : Lanes) (fs : List Nat) : List Nat :=
  inOrder (s.accessesOf fs)
    (names (fun (f : Flight) => f.wave == wave && (match f.payload with | .load l _ _ _ => m.getLsbD l | _ => false)) s.flights)

/-- Earlier accesses and loads of a core to a line, in issue order. -/
def State.requestsToLine (s : State) (crew : Nat) (a : VAddr) : List Nat :=
  let core := (s.crew crew).core
  inOrder (names (fun x => (s.crew x.crew).core == core && s.sameLine x.crew x.addr crew a) s.accesses)
    (names (fun (f : Flight) => s.coreOfWave f.wave == core && (match f.payload with
      | .load _ _ b _ => s.sameLine (s.wave f.wave).crew b crew a
      | _ => false)) s.flights)

/-- Before an access of some fibres to n bytes: what must perform first does so, where it can (R110, R112, R118). -/
def State.catchUp (s : State) (wave : Nat) (m : Lanes) (fs : List Nat) (a : VAddr) (n : Nat) : State :=
  let s := if s.blocked s.nextUid wave m fs a n then s.performAll (s.requestsOf wave m fs) else s
  s.performAll (s.requestsToLine (s.wave wave).crew a)

/-- Before a release or an engine's operation of some lanes: every access of theirs performs, where it can. -/
def State.catchUpLanes (s : State) (wave : Nat) (m : Lanes) : State := s.performAll (s.requestsOf wave m ((s.wave wave).fibres m))

/-- Accesses of some lanes' fibres have all performed. -/
def State.quietLanes (s : State) (wave : Nat) (m : Lanes) : Bool := !s.accesses.any (fun e => e.2.of ((s.wave wave).fibres m))

/-- No access of a fibre is on its way. -/
def State.quietFibre (s : State) (fibre : Nat) : Bool := !s.accesses.any (fun e => e.2.of [fibre])

/-- Something that an access of some lanes to n bytes must follow has not performed: their own (R112, R118), or their core's on a
line of it (R110). -/
def State.waitsAt (s : State) (wave : Nat) (m : Lanes) (a : VAddr) (n : Nat) : Bool :=
  let w := s.wave wave
  s.blocked s.nextUid wave m (w.fibres m) a n ||
  (List.range ((n + 63) / 64)).any (fun i => s.behindCore s.nextUid s.nextUid w.crew (a.plus (64 * i)))

/-! ### Loads and stores of one lane -/

/-- One lane's word: read now, or left to land once what holds it is over. -/
structure LaneLoad where
  lane : Nat
  phys : Nat
  addr : VAddr
  tag : Tag
deriving DecidableEq, Repr

/-- What a lane's load finds now: its word, or none while it must wait. -/
def State.loadNow (s : State) (crew wave fibre : Nat) (x : LaneLoad) (uid : Nat) : Option Word :=
  if s.blocked uid wave (laneBit x.lane) [fibre] x.addr 4 || s.behindCore uid uid crew x.addr then none else s.taskWord? crew x.addr

/-- A load that could not be read at issue: it waits on the fault of its page, or on the access before it. -/
def State.parkLoad (s : State) (op crew wave fibre : Nat) (flag : Option Nat) (x : LaneLoad) : State :=
  let blocked := s.blocked s.nextUid wave (laneBit x.lane) [fibre] x.addr 4 || s.behindCore s.nextUid s.nextUid crew x.addr
  let (f, s) : Option Nat × State :=
    if blocked || (s.taskWord? crew x.addr).isSome then (none, s)
    else (fun r => (some r.1, r.2)) (s.faultFor crew wave x.addr)
  s.addFlight
    { op := op, wave := wave, flag := flag, txns := 0, lines := linesTouched x.addr 4,
      payload := .load x.lane x.phys x.addr x.tag, fault := f }

/-- A plain store of a word takes effect: in the task's write buffer, or at its home; none while its page is missing. -/
def State.putStore (s : State) (crew : Nat) (a : VAddr) (v : Word) : Option State :=
  match s.detAt crew a with
  | some (i, o) => some (s.buffer crew (plainEntries i o none 4 v.toNat) [])
  | none =>
    let (p, t) := s.spaceOfCrew crew
    (s.home? p t a).map (fun h => (s.storeWord h v).markDirty p t a)

/-- A plain store of some lanes, of one as a rule: it takes effect, or waits behind what it must follow or on its page (R110, R112,
R118, R319). `op` names its instruction. -/
def State.storeLane (s : State) (op crew wave : Nat) (m : Lanes) (fs : List Nat) (a : VAddr) (v : Word) : State :=
  let s := s.catchUp wave m fs a 4
  let queue (s : State) (f : Option Nat) : State :=
    s.addAccess
      { op := op, wave := wave, crew := crew, lane := (laneList m).headD 0, lanes := m, fibres := fs, flag := none, scope := 4,
        rel := false, acq := false, what := .store v, addr := a, ret := none, txns := 0, fault := f }
  if s.blocked s.nextUid wave m fs a 4 || s.behindLane s.nextUid op a 4 || s.behindCore s.nextUid op crew a then
    queue s none
  else
    match s.putStore crew a v with
    | some t => t
    | none =>
      let (f, s) := s.faultFor crew wave a
      queue s (some f)

end Sys2Proof.Machine
end

