-- ==== Sys2Proof/Machine/Operands.lean ====
section
/-!
DEFINITION. Operand forms (R41-R44), the checks every instruction shares (R59, R334), and the shape of a meaning: what its check
step finds, whether it parks or holds, what it does (R58).
-/
namespace Sys2Proof.Machine

/-! ### The fields of any form, as numbers -/

/-- An instruction's operand fields whatever its form; `ext` says that it has word 1. -/
structure Arg where
  d : Nat
  a : Nat
  b : Nat
  m : Mods
  w2 : Word
  lit : Option Dword
  ext : Bool
  size : Nat
deriving DecidableEq, Repr

end Sys2Proof.Machine

namespace Sys2Proof
open Machine

def Base.arg (f : Base) : Arg :=
  { d := f.d.toNat, a := f.a.toNat, b := f.b.toNat, m := Mods.zero, w2 := 0#32, lit := none, ext := false, size := 1 }
def Ext.arg (f : Ext) : Arg :=
  { d := f.d.toNat, a := f.a.toNat, b := f.b.toNat, m := f.m, w2 := f.w2, lit := none, ext := true, size := 3 }
def Lit.arg (f : Lit) : Arg :=
  { d := f.d.toNat, a := f.a.toNat, b := f.b.toNat, m := Mods.zero, w2 := 0#32, lit := some f.lit, ext := false, size := 3 }
def ExtLit.arg (f : ExtLit) : Arg :=
  { d := f.d.toNat, a := f.a.toNat, b := f.b.toNat, m := f.m, w2 := f.w2, lit := some f.lit, ext := true, size := 5 }

end Sys2Proof

namespace Sys2Proof.Machine

/-- A base form with no operand field of its own. -/
def Arg.plain : Arg :=
  { d := 0, a := 0, b := 0, m := Mods.zero, w2 := 0#32, lit := none, ext := false, size := 1 }

def Arg.c (g : Arg) : Nat := g.m.c.toNat
/-- A field of word 2. -/
def Arg.w2f (g : Arg) (lo n : Nat) : Nat := (g.w2.extractLsb' lo n).toNat
/-- The tag in B[7:4] or in another 4-bit field. -/
def tagOf (code : Nat) : Tag := (Tag.ofCode (BitVec.ofNat 4 code)).getD .raw

/-! ### Operands -/

/-- A register named by an operand field: vector (or temporary), or uniform (R41). -/
inductive Opd where
  | v (n : Nat)
  | u (n : Nat)
deriving DecidableEq, Repr

/-- A source: a register, or the value of an immediate or literal (R40, R42). -/
inductive Src where
  | v (n : Nat)
  | u (n : Nat)
  | i (w : Word)
deriving DecidableEq, Repr

def Src.opds : Src → List Opd
  | .v n => [.v n]
  | .u n => [.u n]
  | .i _ => []

def Src.isV : Src → Bool
  | .v _ => true
  | _ => false

/-- The A operand. -/
def Arg.srcA (g : Arg) : Src := if g.m.au then .u g.a else .v g.a
/-- The B operand: literal, immediate, uniform or vector register. -/
def Arg.srcB (g : Arg) : Src :=
  match g.lit with
  | some l => .i (l.extractLsb' 0 32)
  | none => if g.m.bi then .i g.w2 else if g.m.bu then .u g.b else .v g.b
/-- The C operand. -/
def Arg.srcC (g : Arg) : Src := if g.m.cu then .u g.c else .v g.c

/-- The value a fibre reads; an immediate takes the tag of A, which the caller passes (R55). -/
def Src.read (c : Crew) (x : Lane) (tagA : Tag) : Src → Reg
  | .v n => x.readV n
  | .u n => c.uni n
  | .i w => Reg.done w tagA

/-- All sources of a fibre, the first being A. -/
def readAll (c : Crew) (x : Lane) : List Src → List Reg
  | [] => []
  | a :: t =>
    let ra := a.read c x .raw
    ra :: t.map (fun s => s.read c x ra.tag)

/-- The operation takes its uniform form (R42): extended, and no register source is a vector register. -/
def uniformForm (g : Arg) (srcs : List Src) : Bool := g.ext && srcs.all (fun s => !s.isV)

/-! ### Active fibres (R44) -/

def activeLanes (m : Mods) (w : Wave) (cohort : Lanes) : Lanes :=
  if m.gen then laneSet (fun l => cohort.getLsbD l && ((w.lane l).preds.getLsbD m.pred.toNat != m.pneg)) else cohort

def Ctx.act (x : Ctx) (m : Mods) : Lanes := activeLanes m x.wave x.cur.lanes
/-- The lowest-numbered lane of a set. -/
def lowestLane (m : Lanes) : Nat := (laneList m).headD 0

/-! ### Faults of the check step -/

def Precise.of (cls : FaultClass) (lanes : Lanes) : Precise := { cls := cls, info := 0#64, addr := 0#64, lanes := lanes }

/-- The first fault of a list. -/
def firstFault : List (Option Precise) → Option Precise
  | [] => none
  | some p :: _ => some p
  | none :: t => firstFault t

/-- Lanes that meet a condition, with INFO and ADDR of the lowest of them (log 11). -/
def laneFault (cls : FaultClass) (x : Ctx) (act : Lanes) (f : Nat → Lane → Option (Dword × Dword)) : Option Precise :=
  let hit := laneSet (fun l => act.getLsbD l && (f l (x.wave.lane l)).isSome)
  match laneList hit with
  | [] => none
  | l :: _ =>
    match f l (x.wave.lane l) with
    | some (i, a) => some { cls := cls, info := i, addr := a, lanes := hit }
    | none => none

/-- A fault of the whole cohort, when a fibre is active. -/
def onceFault (cls : FaultClass) (act : Lanes) (bad : Bool) (info addr : Dword) : Option Precise :=
  if act != 0#32 && bad then some { cls := cls, info := info, addr := addr, lanes := act } else none

/-- ROLE (R25): the crew's role is not among those allowed, or `extra` holds. -/
def roleFault (x : Ctx) (roles : List Nat) (op sub : Nat) (extra : Bool) : Option Precise :=
  if !roles.contains x.crew.role || extra then
    some { cls := .role, info := BitVec.ofNat 64 (op + sub * 256), addr := 0#64, lanes := x.cur.lanes } else none

def rolesAll : List Nat := [0, 1, 2, 3]
def rolesGV : List Nat := [0, 3]
def rolesGC : List Nat := [0, 1]
def rolesGM : List Nat := [0, 2]
def rolesGMV : List Nat := [0, 2, 3]

/-- The register-window BOUNDS of R11, guards notwithstanding (R44). -/
def windowFault (x : Ctx) (os : List Opd) : Option Precise :=
  laneFault .bounds x x.cur.lanes (fun _ ln =>
    if os.any (fun o => match o with | .v n => n < 252 && x.crew.nreg ≤ ln.wb + n | .u _ => false) then some (0#64, 0#64)
    else none)

/-- Whether an operand is pending for a fibre (R56). -/
def Opd.pending (c : Crew) (ln : Lane) : Opd → Bool
  | .v n => (ln.readV n).pend
  | .u n => (c.uni n).pend

def Opd.number : Opd → Nat
  | .v n => n
  | .u n => n

/-- INFLIGHT (R56), the registers each lane reads or names being given. -/
def inflightBy (x : Ctx) (act : Lanes) (os : Nat → List Opd) : Option Precise :=
  laneFault .inflight x act (fun l ln =>
    ((os l).find? (fun o => o.pending x.crew ln)).map (fun o => (BitVec.ofNat 64 o.number, 0#64)))

/-- INFLIGHT (R56): an active fibre reads or names a pending register. -/
def inflightFault (x : Ctx) (act : Lanes) (os : List Opd) : Option Precise := inflightBy x act (fun _ => os)

/-- FORMAT with the tags found and required (R55, R334). -/
def formatFault (x : Ctx) (act : Lanes) (f : Lane → Option (Tag × Option Tag)) : Option Precise :=
  laneFault .format x act (fun _ ln =>
    (f ln).map (fun p => (BitVec.ofNat 64 (p.1.code.toNat + 16 * (match p.2 with | some t => t.code.toNat | none => 0)), 0#64)))

/-- Equal tags, all acceptable (R55): the first tag that is not so, with the earlier tag it should equal (R334). -/
def sameTags (ok : Tag → Bool) : List Tag → Option (Tag × Option Tag)
  | [] => none
  | a :: t => if !ok a then some (a, none) else (t.find? (fun b => b != a)).map (fun b => (b, some a))

/-- One tag is accepted. -/
def oneTag (t found : Tag) : Option (Tag × Option Tag) := if found == t then none else some (found, some t)

/-- Registers of two groups in the order of R334: the first of each, then the further ones of A, then those of B. -/
def groupOrder {α : Type} (a b : List α) : List α := a.take 1 ++ b.take 1 ++ a.drop 1 ++ b.drop 1

/-- The first complaint of a list. -/
def firstTag : List (Option (Tag × Option Tag)) → Option (Tag × Option Tag)
  | [] => none
  | some p :: _ => some p
  | none :: t => firstTag t

/-- Tags of the ADD row of Table 3.8. -/
def addRow (t : Tag) : Bool :=
  match t with
  | .i32 | .n32 | .f32 | .f16x2 | .bf16x2 | .i16x2 | .n16x2 | .i8x4 | .n8x4 => true
  | _ => false
/-- Tags of the MUL row. -/
def mulRow (t : Tag) : Bool :=
  match t with
  | .i32 | .n32 | .f32 | .f16x2 | .bf16x2 | .i16x2 | .n16x2 => true
  | _ => false
def intRow (t : Tag) : Bool := t == .i32 || t == .n32
def fmaRow (t : Tag) : Bool := t == .f32 || t == .f16x2 || t == .bf16x2
def shiftRow (t : Tag) : Bool :=
  match t with
  | .i32 | .n32 | .i16x2 | .n16x2 | .raw => true
  | _ => false

/-! ### The shape of a meaning -/

/-- Whether an instruction goes on at its place in the execute step (R58): some of its fibres park (R17); its clause holds, with what
it has done so far (R52); a word it must read is behind its own accesses, or not there, so that it is not executed at this issue
opportunity (DESIGN CHOICE, log 12); or the gang stops there (OVERFLOW, R127). -/
inductive Wait where
  | go
  | park (lanes : Lanes) (r : ParkReason)
  | hold (s : State)
  | later (s : State)
  | miss (lanes : Lanes) (a : VAddr)
  | stop (p : Precise)

def Wait.isGo : Wait → Bool
  | .go => true
  | _ => false

/-- What else than registers and predicates one instruction of a clause may leave for the check step of a later one: bytes of
memory, a tile's tag and whether it is pending, its elements and status, the accumulator rows in use, the depth and the entries of
spill stacks, OPTHR. -/
inductive Spot where
  | mem | tile | image | acc | depth | spill | opthr
deriving DecidableEq, Repr

/-- What an instruction reads and writes, as far as the check step of later ones can depend on it (R58): the predicate of its guard
and whether it is negated, the registers it reads, those of them whose values say which further registers or rows it names (`keys`), predicates and spots;
whether its lanes read one another's registers (`cross`); whether values decide the tag of its result (`picks`). -/
structure Flow where
  guard : Option (Nat × Bool)
  reads : List Opd
  writes : List Opd
  keys : List Opd := []
  preds : List Nat := []
  setp : List Nat := []
  uses : List Spot := []
  sets : List Spot := []
  cross : Bool := false
  picks : Bool := false
deriving DecidableEq, Repr

/-- The flow of an instruction under its guard. -/
def Arg.flow (g : Arg) (reads writes : List Opd) : Flow :=
  { guard := if g.m.gen then some (g.m.pred.toNat, g.m.pneg) else none, reads := reads, writes := writes }

/-- An instruction that reads and writes nothing. -/
def Flow.nil : Flow := { guard := none, reads := [], writes := [] }

/-- A meaning: its length in words, what it reads and writes, the checks made whatever the guard (ROLE and the register window, R44),
the other precise faults, the wait, the effect. Where a result is `unknown` before the wait is over, `guess` puts a free value in its
place, for the checks of later instructions (R58); `vague`: not even the result's tag is known. `entries` is how many transactions it takes before its clause holds (R109). -/
structure Sem where
  size : Nat
  flow : State → Flow
  static : State → Option Precise
  check : State → Option Precise
  unknown : State → Bool
  guess : State → State := fun s => s
  vague : State → Bool := fun _ => false
  wait : State → Wait
  eff : State → State
  entries : State → Nat := fun _ => 0

/-- A word that the instruction being checked will have once its wait is over. -/
def State.freeWord (s : State) (i : Nat) : Word :=
  let c := s.cur.getD Cursor.nil
  Config.freeResult s.freeCtr c.wave (4 * c.idx + i)

/-- The same, for a lane that gets a word of its own. -/
def State.freeLaneWord (s : State) (l : Nat) : Word :=
  let c := s.cur.getD Cursor.nil
  Config.freeResult s.freeCtr c.wave (128 + 32 * c.idx + l)

/-- A meaning that neither parks nor holds. -/
def Sem.simple (size : Nat) (flow : State → Flow) (static check : State → Option Precise) (eff : State → State) : Sem :=
  { size := size, flow := flow, static := static, check := check, unknown := fun _ => false, wait := fun _ => .go, eff := eff }

/-- Waves of a core that may still issue, other than one (R20, R333). -/
def State.othersOnCore (s : State) (k : Nat) : List Nat :=
  let c := s.coreOfWave k
  (s.waves.filter (fun e => e.1 != k && !e.2.ended && (s.crew e.2.crew).core == c)).map (·.1)

/-- The clause is over; after a YIELD in it the wave lets the others of its core by (R333). -/
def State.endClause (s : State) (c : Cursor) : State :=
  if c.yielded then
    { (s.modWave c.wave (fun w => { w with passTo := some (s.othersOnCore c.wave) })) with cur := none }
  else { s with cur := none }

/-- Move the cursor to the next instruction. A clause ends when its count is done or no fibre is left in it; the fibres left
stand at the next header (R48). -/
def State.advance (s : State) (size : Nat) : State :=
  match s.cur with
  | none => s
  | some c =>
    let a := c.addr + BitVec.ofNat 32 size
    if c.lanes == 0#32 then s.endClause c
    else if c.count ≤ c.idx + 1 then
      (s.modWave c.wave (fun w => w.mapLanes c.lanes (fun _ x => { x with pc := a, pos := 0, xfer := none }))).endClause c
    else { s with cur := some { c with idx := c.idx + 1, addr := a, served := 0#32, txns := 0, ebbed := false } }

/-- Fibres leave the cohort and stand at the current instruction (R18), parked or not; when all do, the clause is not over (R333). -/
def State.standLanes (s : State) (m : Lanes) (r : Option ParkReason) : State :=
  match s.cur with
  | none => s
  | some c =>
    let left := c.lanes &&& ~~~m
    { (s.modWave c.wave (fun w => w.mapLanes m (fun _ x =>
        { x with park := r, pos := c.idx + 1, pc := c.pc, woken := false, yielded := c.yielded }))) with
      cur := some { c with lanes := left, yielded := c.yielded && left != 0#32 } }

/-- Park fibres at the current instruction (R17, R18). -/
def State.parkLanes (s : State) (m : Lanes) (r : ParkReason) : State := s.standLanes m (some r)

/-- The instruction is not executed at this issue opportunity: its fibres stand before it, neither parked nor held, and their wave
chooses among all its ready fibres again at the next one (R17, R18; DESIGN CHOICE, log 12). -/
def State.giveBack (s : State) : State :=
  match s.cur with
  | none => s
  | some c => { (s.standLanes c.lanes none) with cur := none }

/-- The instruction at which the clause is going to stay has its transactions (R109). -/
def State.takeEntries (s : State) (n : Nat) : State :=
  if n == 0 then s else { s with cur := s.cur.map (fun (c : Cursor) => { c with txns := n }) }

/-- The clause holds at the current instruction (R52). -/
def State.holdClause (s : State) : State :=
  match s.cur with
  | none => s
  | some c => { (s.modWave c.wave (fun w => { w with hold := some c })) with cur := none }

/-- The first precise fault of an instruction, in the order of R59. -/
def Sem.fault (m : Sem) (s : State) : Option Precise := firstFault [m.static s, m.check s]

/-- The page of a word that an instruction must read is asked for, once (R108). -/
def State.askWord (s : State) (a : VAddr) : State :=
  let x := s.ctx
  if s.pageAsked x.launch.part x.launch.tenant a then s else (s.openFault x.crewId x.cur.wave a (s.toTagged a)).2

/-- The page of a word that fibres park for is asked for, where it is missing (R108, R150). -/
def State.askFor (s : State) (r : ParkReason) : State :=
  match r with
  | .missWord a _ | .object a => if (s.taskWord? s.ctx.crewId a).isSome then s else s.askWord a
  | _ => s

/-- A page of a word that the instruction must read has been declared fatal: the instruction meets that, as TRANSLATE (R108; DESIGN
CHOICE, log 12). -/
def State.pageFatal (s : State) (a : VAddr) : Bool := s.faultOn s.ctx.launch.part s.ctx.launch.tenant a true

/-- The instruction must read a word of fibres whose page is not there: it asks for the page, and is not executed at this issue
opportunity; a fault declared fatal is met here. -/
def State.meetMiss (s : State) (ls : Lanes) (a : VAddr) : State :=
  let x := s.ctx
  if s.pageFatal a then
    (s.dropFatal x.launch.part x.launch.tenant a).takeFault x.cur { Precise.of .translate ls with addr := s.toTagged a } 0#32
  else (s.askWord a).giveBack

/-- An HLD or HST holds at a missing page until every byte has been read or written (R177, R52); a fault declared fatal is met there. -/
def State.bulkMiss (s : State) (ls : Lanes) (a : VAddr) : Wait :=
  if s.pageFatal a then .miss ls a else .hold (s.askWord a)

/-- A TRAP that stops its gang while earlier writes of its fibres have still to perform: the gang stops at once, and the record, which
releases them (R209), is posted once they have. -/
def State.trapLater (s : State) (c : Cursor) (p : Precise) : State :=
  let x := s.ctxOf c
  let s := s.addAccess
    { op := s.nextUid, wave := c.wave, crew := x.crewId, lane := lowestLane p.lanes, lanes := p.lanes, fibres := x.wave.fibres p.lanes,
      flag := none, scope := 4, rel := true, acq := false, what := .trap p.info c.idx p.lanes c.pc (some x.launch.desc.policy),
      addr := .loc x.crewId 0, ret := none, txns := 0, fault := none }
  { s.faultGang x.gangId with cur := none }

/-- A precise fault is met by the clause being issued, at the cursor `c`. The record of a TRAP releases the earlier writes of its
fibres (R209). -/
def State.meetFault (s : State) (c : Cursor) (p : Precise) : State :=
  if p.cls == .trap then
    let t := s.catchUpLanes c.wave p.lanes
    if t.quietLanes c.wave p.lanes then t.takeFault c p 0#32 else t.trapLater c p
  else s.takeFault c p 0#32

/-- The state after one instruction of the clause (R58): a precise fault stops the gang; fibres that park leave the cohort and
the rest go on; otherwise the clause holds there, is left there, or goes on to the next instruction. -/
def Sem.step (m : Sem) (s : State) : State :=
  match m.fault s with
  | some p => s.meetFault (s.cur.getD Cursor.nil) p
  | none =>
    match m.wait s with
    | .go => (m.eff s).advance m.size
    | .park ls r => (m.eff ((s.askFor r).parkLanes ls r)).advance m.size
    | .hold t => (t.takeEntries (m.entries s)).holdClause
    | .later t => t.giveBack
    | .miss ls a => s.meetMiss ls a
    | .stop p => s.takeFault (s.cur.getD Cursor.nil) p 0#32

/-- Run one instruction of the clause being issued; where no clause is being issued there is nothing to run. -/
def runSem (m : Sem) (s : State) : Host.Outcome State Fault Refusal :=
  match s.cur with
  | none => .next s
  | some _ => .next (m.step s)

/-! ### Words an instruction reads at issue (R98, R124, R179, R258) -/

/-- An instruction that must read n bytes at issue waits for its fibres' own accesses to them (R112, R118), then for their page. -/
def State.wordsWait (s : State) (x : Ctx) (act : Lanes) (a : VAddr) (n : Nat) : Wait :=
  let t := s.catchUpLanes x.cur.wave act
  if t.blocked t.nextUid x.cur.wave act (x.wave.fibres act) a n then .later t
  else
    match t.taskMiss x.crewId a n with
    | some m => .miss act m
    | none => .go

/-- A wait is the one that a deferred fault is kept for: by its name, or on the object whose address translates to it now (R147). -/
def State.meetsUntil (s : State) (crew : Nat) (kept now : Until) : Bool :=
  kept == now ||
  (match kept, now with
   | .object a, .barrier h =>
     let (p, t) := s.spaceOfCrew crew
     s.home? p t a == some h
   | _, _ => false)

/-- The n words it reads; none while it waits for them. -/
def State.issueWords? (s : State) (x : Ctx) (act : Lanes) (a : VAddr) (n : Nat) : Option (List Word) :=
  let t := s.catchUpLanes x.cur.wave act
  if t.blocked t.nextUid x.cur.wave act (x.wave.fibres act) a (4 * n) then none else t.taskWords? x.crewId a n

/-! ### Deferred faults reach the crew at a wait (R108) -/

def State.deferredAt (s : State) (crew : Nat) (u : Until) : Option Deferred :=
  s.deferred.find? (fun d => d.crew == crew && d.till.any (fun t => s.meetsUntil crew t u))

/-- A deferred fault as the instruction that waits meets it. -/
def Deferred.precise (d : Deferred) (lanes : Lanes) : Precise :=
  { cls := d.cls, info := d.info, addr := d.addr, lanes := lanes }

/-! ### Instructions that compute one register per fibre -/

/-- Its sources (A first), destination, tag rule and value. `old` is the destination's earlier value. -/
structure RegOp where
  g : Arg
  roles : List Nat
  op : Nat
  srcs : List Src
  uni : Bool
  fmt : List Reg → Option (Tag × Option Tag)
  val : Lane → Reg → List Reg → Reg
  more : Flow → Flow := fun f => f

/-- Registers the instruction reads or names as destination. -/
def RegOp.opds (o : RegOp) : List Opd := o.srcs.flatMap Src.opds ++ [if o.uni then .u o.g.d else .v o.g.d]

/-- The write of the result: once in the uniform form, otherwise in every active lane (R42). -/
def RegOp.eff (o : RegOp) (s : State) : State :=
  let x := s.ctx
  let act := x.act o.g.m
  if o.uni then
    (if act == 0#32 then s
     else
       let ln := x.wave.lane (lowestLane act)
       s.setUni x.crewId o.g.d (o.val ln (x.crew.uni o.g.d) (readAll x.crew ln o.srcs)))
  else
    s.modWave x.cur.wave (fun w => w.mapLanes act (fun _ ln =>
      ln.writeV o.g.d (o.val ln (ln.readV o.g.d) (readAll x.crew ln o.srcs))))

/-- What it reads and writes; `more` adds what its sources do not say. -/
def RegOp.flow (o : RegOp) : Flow := o.more (o.g.flow (o.srcs.flatMap Src.opds) [if o.uni then .u o.g.d else .v o.g.d])

def RegOp.sem (o : RegOp) : Sem :=
  Sem.simple o.g.size (fun _ => o.flow)
    (fun s => firstFault [roleFault s.ctx o.roles o.op 0 false, windowFault s.ctx o.opds])
    (fun s =>
      let x := s.ctx
      let act := x.act o.g.m
      firstFault [inflightFault x act o.opds, formatFault x act (fun ln => o.fmt (readAll x.crew ln o.srcs))])
    o.eff

/-- Value n of a source list. -/
def srcAt (rs : List Reg) (n : Nat) : Reg := (rs[n]?).getD Reg.zero

/-! ### Long-latency results (R49, R50, R56) -/

/-- A flag that would pass 63 holds the clause (R51). -/
def Ctx.flagFull (x : Ctx) (fsel : Bool) : Bool :=
  match x.cur.flagOf fsel with
  | some f => 63 ≤ x.wave.flag f
  | none => false

/-- Count an operation on its flag and give it its name: the operation's number is the next name. -/
def State.countOp (s : State) (wave : Nat) (flag : Option Nat) : Nat × State :=
  let s' := match flag with
    | some f => s.modWave wave (fun w => w.flagUp f)
    | none => s
  (s.nextUid, { s' with nextUid := s'.nextUid + 1 })

end Sys2Proof.Machine
end

