-- ==== Sys2Proof/Machine/LoadStore.lean ====
section
/-!
DEFINITION. LDL, LDS (R277-R280), STL, STS (R318, R319), and the spill stack: SPUSH, SPOP (R315).
-/
namespace Sys2Proof.Machine

/-! ### Addresses -/

/-- The base register and word offset of a load or store, for one lane (R278). -/
def lsAddr (g : Arg) (c : Crew) (ln : Lane) : Word :=
  (g.srcA.read c ln .raw).val + BitVec.ofNat 32 (4 * (g.b % 16))

/-- The word's place: local for LDL and STL, shelf for LDS and STS. -/
def lsPlace (s : State) (x : Ctx) (shelf : Bool) (a : Word) : Option VAddr :=
  if shelf then shelfAddr a 4 else s.localAddr x.crewId a 4

/-- The address as a record gives it. -/
def lsTagged (shelf : Bool) (a : Word) : Dword := if shelf then taggedShelf a else taggedLocal a

/-- ALIGN, then BOUNDS (R278). -/
def lsFaults (s : State) (x : Ctx) (act : Lanes) (g : Arg) (shelf : Bool) : List (Option Precise) :=
  [laneFault .align x act (fun _ ln =>
     let a := lsAddr g x.crew ln
     if a.extractLsb' 0 2 != 0#2 then some (0#64, lsTagged shelf a) else none),
   laneFault .bounds x act (fun _ ln =>
     let a := lsAddr g x.crew ln
     if (lsPlace s x shelf a).isNone then some (0#64, lsTagged shelf a) else none)]

/-- The active lanes with their addresses, ascending. -/
def lsLanes (s : State) (x : Ctx) (g : Arg) (shelf : Bool) : List (Nat × VAddr) :=
  (laneList (x.act g.m)).filterMap (fun l =>
    (lsPlace s x shelf (lsAddr g x.crew (x.wave.lane l))).map (fun a => (l, a)))

/-- Distinct shelf lines the lanes touch. -/
def lsLines (ls : List (Nat × VAddr)) : List (Nat × Nat) := dedup (ls.flatMap (fun e => linesTouched e.2 4))

/-- Parking of an access to shelf: on absent lines (R95), then for transactions, one a line (R109). -/
def shelfWait (s : State) (x : Ctx) (act : Lanes) (lines : List (Nat × Nat)) : Wait :=
  if lines.any (fun k => s.lineAbsent x.launch.part x.launch.tenant k) then .park act (.absent lines)
  else if !s.txnsFree x.crew.core lines.length then .park act (.txns lines.length)
  else .go

/-! ### Loads -/

/-- The lanes' loads are sent: words found now land together, the others on their own. -/
def sendLoads (s : State) (x : Ctx) (g : Arg) (ls : List (Nat × VAddr)) : State :=
  let flag := x.cur.flagOf g.m.fsel
  let tag := tagOf (g.b / 16)
  let s := ls.foldl (fun s e => s.catchUp x.cur.wave (laneBit e.1) [(x.wave.lane e.1).fibre] e.2 4) s
  let (op, s) := s.countOp x.cur.wave flag
  let loads := ls.map (fun e => { lane := e.1, phys := (x.wave.lane e.1).wb + g.d, addr := e.2, tag := tag : LaneLoad })
  let now (y : LaneLoad) : Option Word := s.loadNow x.crewId x.cur.wave (x.wave.lane y.lane).fibre y s.nextUid
  let ready := loads.filter (fun y => (now y).isSome)
  let late := loads.filter (fun y => (now y).isNone)
  let ds := ready.filterMap (fun y => (now y).map (fun w => Dest.lane y.lane y.phys w tag))
  let s := s.modWave x.cur.wave (fun w => w.mapLanes (x.act g.m) (fun _ ln => ln.pendV g.d))
  let s := if ds.isEmpty then s else
    s.addFlight
      { op := op, wave := x.cur.wave, flag := flag, txns := 0, lines := lsLines (ready.map (fun y => (y.lane, y.addr))),
        payload := .regs ds, fault := none }
  late.foldl (fun s y => s.parkLoad op x.crewId x.cur.wave (x.wave.lane y.lane).fibre flag y) s

/-- LDL and LDS (R278). -/
def loadSem (g : Arg) (shelf : Bool) : Sem :=
  let opds := g.srcA.opds ++ [Opd.v g.d]
  { size := g.size, flow := fun _ => g.flow g.srcA.opds [.v g.d],
    static := fun s => firstFault [roleFault s.ctx rolesAll (if shelf then 15 else 14) 0 false, windowFault s.ctx opds],
    check := fun s =>
      let x := s.ctx
      let act := x.act g.m
      firstFault (inflightFault x act opds :: lsFaults s x act g shelf),
    unknown := fun _ => false,
    wait := fun s =>
      let x := s.ctx
      let act := x.act g.m
      if act == 0#32 then .go
      else
        match (if shelf then shelfWait s x act (lsLines (lsLanes s x g shelf)) else .go) with
        | .go => if x.flagFull g.m.fsel then .hold s else .go
        | w => w,
    eff := fun s =>
      let x := s.ctx
      if x.act g.m == 0#32 then s else sendLoads s x g (lsLanes s x g shelf) }

def semLdl (g : Arg) : Sem := loadSem g false
def semLds (g : Arg) : Sem := loadSem g true

/-! ### Stores -/

/-- Charges a store makes in the write buffer (Table 6.4): every DET line it writes first in the phase. -/
def storeCharges (s : State) (x : Ctx) (ls : List (Nat × VAddr)) : List Charge :=
  let hits := ls.filterMap (fun e => s.detAt x.crewId e.2)
  (dedup (hits.map (·.1))).flatMap (fun i =>
    x.crew.plainCharges i ((hits.filter (fun h => h.1 == i)).map (fun h => h.2 / 64)))

/-- OVERFLOW of charges that do not fit (R127). -/
def overflowWait (s : State) (x : Ctx) (act : Lanes) (cs : List Charge) : Wait :=
  match (s.crew x.crewId).overflows cs with
  | some need => if cs.isEmpty then .go else .stop { cls := .overflow, info := BitVec.ofNat 64 need, addr := 0#64, lanes := act }
  | none => .go

/-- A plain store outside local memory and outside DET regions ends replayability (R132). -/
def State.storeUnsafe (s : State) (x : Ctx) (a : VAddr) : State :=
  match a, s.detAt x.crewId a with
  | .loc _ _, _ => s
  | _, some _ => s
  | _, none => s.notReplayable x.gangId

/-- One lane's store of instruction `op`: into the buffer in a DET region, at its home elsewhere (R127, R319). -/
def storeOne (s : State) (x : Ctx) (op lane : Nat) (a : VAddr) (v : Word) : State :=
  (s.storeUnsafe x a).storeLane op x.crewId x.cur.wave (laneBit lane) [(x.wave.lane lane).fibre] a v

/-- Rows a store to local memory touches (R97). -/
def lsRows (ls : List (Nat × VAddr)) : List (Nat × Nat) :=
  dedup (ls.flatMap (fun e => match e.2 with
    | .loc c o => rowsTouched c o 4
    | _ => []))

/-- STL and STS (R319). -/
def storeSem (g : Arg) (shelf : Bool) : Sem :=
  let opds := g.srcA.opds ++ [Opd.v g.d]
  let tag := tagOf (g.b / 16)
  { size := g.size, flow := fun _ => { g.flow opds [] with sets := [.mem] },
    static := fun s => firstFault [roleFault s.ctx rolesAll (if shelf then 15 else 14) 0 false, windowFault s.ctx opds],
    check := fun s =>
      let x := s.ctx
      let act := x.act g.m
      firstFault ([inflightFault x act opds,
        formatFault x act (fun ln => if tag == .raw then none else oneTag tag (ln.readV g.d).tag)] ++ lsFaults s x act g shelf),
    unknown := fun _ => false,
    wait := fun s =>
      let x := s.ctx
      let act := x.act g.m
      let ls := lsLanes s x g shelf
      if act == 0#32 then .go
      else if !shelf then (if s.anyPinned (lsRows ls) then .park act (.pinned (lsRows ls)) else .go)
      else
        match shelfWait s x act (lsLines ls) with
        | .go => overflowWait s x act (storeCharges s x ls)
        | w => w,
    eff := fun s =>
      let x := s.ctx
      let ls := lsLanes s x g shelf
      if x.act g.m == 0#32 then s
      else
        let (op, s) := (s.buffer x.crewId [] (storeCharges s x ls)).fresh
        ls.foldl (fun s e => storeOne s x op e.1 e.2 ((x.wave.lane e.1).readV g.d).val) s }

def semStl (g : Arg) : Sem := storeSem g false
def semSts (g : Arg) : Sem := storeSem g true

/-! ### The spill stack (R252, R315) -/

/-- Push an entry; the top is last. -/
def Lane.push (ln : Lane) (v : Word) : Lane := { ln with spill := ln.spill ++ [v] }
/-- Take n entries off. -/
def Lane.pop (ln : Lane) (n : Nat) : Lane := { ln with spill := ln.spill.take (ln.spill.length - n) }
/-- The entry n below the top, 0 the top itself. -/
def Lane.top (ln : Lane) (n : Nat) : Word := (ln.spill[ln.spill.length - 1 - n]?).getD 0#32

/-- BOUNDS of a push or pop (R90). -/
def spillFault (x : Ctx) (act : Lanes) (bad : Lane → Bool) : Option Precise :=
  laneFault .bounds x act (fun _ ln => if bad ln then some (0#64, 0#64) else none)

/-- SPUSH (R315). -/
def semSpush (g : Arg) : Sem :=
  let opds := g.srcA.opds
  Sem.simple g.size (fun _ => { g.flow opds [] with uses := [.depth], sets := [.depth, .spill] })
    (fun s => firstFault [roleFault s.ctx rolesAll 16 0 false, windowFault s.ctx opds])
    (fun s =>
      let x := s.ctx
      let act := x.act g.m
      firstFault [inflightFault x act opds, spillFault x act (fun ln => x.crew.spillMax ≤ ln.spill.length)])
    (fun s =>
      let x := s.ctx
      s.modWave x.cur.wave (fun w => w.mapLanes (x.act g.m) (fun _ ln => ln.push (g.srcA.read x.crew ln .raw).val)))

/-- SPOP (R315): the depth falls at issue; the entry lands with its tag. -/
def semSpop (g : Arg) : Sem :=
  let opds := [Opd.v g.d]
  { size := g.size, flow := fun _ => { g.flow [] opds with uses := [.depth], sets := [.depth] },
    static := fun s => firstFault [roleFault s.ctx rolesAll 16 0 false, windowFault s.ctx opds],
    check := fun s =>
      let x := s.ctx
      let act := x.act g.m
      firstFault [inflightFault x act opds, spillFault x act (fun ln => ln.spill.isEmpty)],
    unknown := fun _ => false,
    wait := fun s => if s.ctx.act g.m != 0#32 && s.ctx.flagFull g.m.fsel then .hold s else .go,
    eff := fun s =>
      let x := s.ctx
      let act := x.act g.m
      if act == 0#32 then s
      else
        let flag := x.cur.flagOf g.m.fsel
        let ds := (laneList act).map (fun l =>
          let ln := x.wave.lane l
          Dest.lane l (ln.wb + g.d) (ln.top 0) (tagOf (g.b / 16)))
        let (op, s) := s.countOp x.cur.wave flag
        let s := s.modWave x.cur.wave (fun w => w.mapLanes act (fun _ ln => (ln.pop 1).pendV g.d))
        s.addFlight { op := op, wave := x.cur.wave, flag := flag, txns := 0, lines := [], payload := .regs ds, fault := none } }

end Sys2Proof.Machine
end

