-- ==== Sys2Proof/Machine/Copy.lean ====
section
/-!
DEFINITION. COPY, COPYB, COPYG and COPYS (R98-R104, R257, R258): the descriptor as the engine reads it, the elements of each form,
and the issue of a copy.
-/
namespace Sys2Proof.Machine

/-! ### Reading the descriptor (Tables 5.4, 5.5) -/

/-- The word at a byte offset. -/
def wordAt (ws : List Word) (off : Nat) : Word := (ws[off / 4]?).getD 0#32
def dwordAt (ws : List Word) (off : Nat) : Dword := wordAt ws (off + 4) ++ wordAt ws off
/-- A 16-bit field at a byte offset. -/
def halfAt (ws : List Word) (off : Nat) : BitVec 16 := (wordAt ws off).extractLsb' (8 * (off % 4)) 16

/-- Bytes a copy's descriptor is read for (Table 19.6). -/
def copyBytes (sub : Nat) : Nat :=
  match sub with
  | 0 => 32
  | 2 => 256
  | _ => 128

/-- FORM allowed for the instruction. -/
def formOk (sub form : Nat) : Bool :=
  match sub with
  | 0 => form == 0
  | 1 => form == 1 || form == 2
  | 2 => form == 3
  | _ => form == 0 || form == 1

/-- Lowest and highest offset reached by steps of (count, stride). -/
def reach (cs : List (Nat × Int)) : Int × Int :=
  cs.foldl (fun r c => let d := (c.1 - 1 : Int) * c.2; (r.1 + min 0 d, r.2 + max 0 d)) (0, 0)

/-- The steps of a generator program up to the first with LAST; none when there is no LAST (R101). -/
def genSteps (ws : List Word) : Nat → Nat → Option (List GenStep)
  | _, 0 => none
  | k, n + 1 =>
    let ctl := halfAt ws (162 + 12 * k)
    let st : GenStep :=
      { count := (halfAt ws (160 + 12 * k)).toNat, axis := (ctl.extractLsb' 0 2).toNat,
        cstep := (wordAt ws (164 + 12 * k)).toInt, dstride := (wordAt ws (168 + 12 * k)).toInt }
    if ctl.getLsbD 2 then some [st] else (genSteps ws (k + 1) n).map (fun t => st :: t)

def genAxes (ws : List Word) : List GenAxis :=
  (List.range 4).map (fun a =>
    { sstride := (wordAt ws (128 + 8 * a)).toInt, limit := (halfAt ws (132 + 8 * a)).toNat,
      origin := (halfAt ws (134 + 8 * a)).toInt })

/-- Coordinates an axis takes over the steps on it (R101). -/
def axisCoords (ax : Nat) (origin : Int) (steps : List GenStep) : List Int :=
  steps.foldl (fun cs st =>
    if st.axis == ax then cs.flatMap (fun c => (List.range st.count).map (fun (i : Nat) => c + (i : Int) * st.cstep)) else cs) [origin]

/-- The descriptor's fields before any check. The places of SRC, DST, BAR, ROWS and CTR are filled in as they are checked. -/
def rawCopy (da : Dword) (sub : Nat) (ws : List Word) : CopyDesc :=
  let c := wordAt ws 16
  let form := (c.extractLsb' 0 4).toNat
  let dims := (c.extractLsb' 4 4).toNat
  let boxed := form == 1 || form == 2
  let ext := (List.range 4).map (fun i => if boxed && i + 1 < dims then (wordAt ws (32 + 4 * i)).toNat else 1)
  let str (base : Nat) := (List.range 4).map (fun i => if boxed && i + 1 < dims then (wordAt ws (base + 4 * i)).toInt else 0)
  let tgt := wordAt ws 108
  { addr := da, src := .glob 0, dst := .glob 0, form := form, esize := 2 ^ (c.extractLsb' 10 2).toNat,
    len := (wordAt ws 20).toNat, ext := ext, sstr := str 48, dstr := str 64, cred := none, rows := .glob 0,
    fill := if form == 2 || form == 3 then wordAt ws 88 else 0#32, ctr := .glob 0,
    dec := if sub == 3 then wordAt ws 104 else 0#32, tgt := if sub == 3 then (tgt.extractLsb' 0 2).toNat else 0,
    port := if sub == 3 then (tgt.extractLsb' 4 4).toNat else 0, axes := if form == 3 then genAxes ws else [],
    steps := if form == 3 then (genSteps ws 0 8).getD [] else [] }

/-- Rows of a box, or runs of a generator program. -/
def CopyDesc.nrows (d : CopyDesc) : Nat :=
  if d.form == 3 then (d.steps.map (·.count)).foldl (· * ·) 1 else d.ext.foldl (· * ·) 1

/-- Elements in all. -/
def CopyDesc.total (d : CopyDesc) : Nat := d.len * d.nrows

/-- The offsets [lo, hi) from DST that the copy writes. -/
def CopyDesc.dstSpan (d : CopyDesc) : Int × Int :=
  let r := if d.form == 3 then reach (d.steps.map (fun t => (t.count, t.dstride))) else reach (d.ext.zip d.dstr)
  (r.1, r.2 + (d.len * d.unit : Nat))

/-- The offsets from SRC that the copy reads; none when it reads none, or when they are known only after issue (R99). -/
def CopyDesc.srcSpan (d : CopyDesc) : Option (Int × Int) :=
  let len : Int := (d.len * d.unit : Nat)
  match d.form with
  | 2 => none
  | 3 =>
    let ends := d.axes.mapIdx (fun i a =>
      let cs := (axisCoords i a.origin d.steps).filter a.inside
      match cs with
      | [] => none
      | c :: t => some (t.foldl (fun m e => min m (e * a.sstride)) (c * a.sstride), t.foldl (fun m e => max m (e * a.sstride)) (c * a.sstride)))
    if ends.all (·.isSome) then
      some ((ends.map (fun e => (e.getD (0, 0)).1)).sum, (ends.map (fun e => (e.getD (0, 0)).2)).sum + len)
    else none
  | _ => let r := reach (d.ext.zip d.sstr); some (r.1, r.2 + len)

/-- The place a tagged address names, whatever bytes are used from it on: reserved bits zero, a shelf offset in the shelf, MEMBER
below NCREW, not PEER (R89, R99). -/
def State.baseAt (s : State) (crew : Nat) (t : Dword) : Option VAddr :=
  match spaceOf t with
  | 0 => if t.extractLsb' 52 10 == 0#10 then some (.glob (t.extractLsb' 0 52).toNat) else none
  | 1 =>
    let off := (t.extractLsb' 0 32).toNat
    if t.extractLsb' 34 28 == 0#28 && off < shelfLimit then some (.shelf (t.extractLsb' 32 2).toNat off) else none
  | 2 =>
    let a := t.extractLsb' 0 32
    if t.extractLsb' 32 30 != 0#30 then none
    else
      ((s.localAddr crew (a &&& 0xFFF0_0000#32) 0).map (fun b => b.plus (a.extractLsb' 0 20).toNat))
  | _ => none

/-- The end of the space an address lies in. -/
def State.spaceEnd (s : State) : VAddr → Nat
  | .loc c _ => (s.crew c).lmemSize
  | .shelf _ _ => shelfLimit
  | .glob _ => globalLimit
  | .peer _ => globalLimit

/-- A tagged address whose bytes at offsets [lo, hi), if there are any, must lie in its space (R99). -/
def State.spanAt (s : State) (crew : Nat) (t : Dword) (lo hi : Int) : Option VAddr :=
  (s.baseAt crew t).filter (fun a =>
    hi ≤ lo || (0 ≤ (a.offset : Int) + lo && (a.offset : Int) + hi ≤ (s.spaceEnd a : Int)))

/-- A PEER address, n bytes from it on (R99, R203). -/
def peerAt (t : Dword) (lo hi : Int) : Option VAddr :=
  let first := (t.extractLsb' 0 52).toNat + lo
  if spaceOf t == 3 && t.extractLsb' 52 10 == 0#10 && 0 ≤ first && first + (hi - lo) ≤ (globalLimit : Int) then
    some (.peer (t.extractLsb' 0 52).toNat) else none

/-- The destination of a copy that goes through a peer port. -/
def State.copyDst (s : State) (crew : Nat) (peer : Bool) (t : Dword) (lo hi : Int) : Option VAddr :=
  if peer then peerAt t lo hi else s.spanAt crew t lo hi

/-- The places of SRC and DST name no space the copy can use, whatever bytes follow: all that is looked at of them where the bytes
that the copy would use are not known, since a field that gives them offends (DESIGN CHOICE, log 95). -/
def State.copyEnds (s : State) (crew : Nat) (peer : Bool) (ws : List Word) : Bool × Bool :=
  ((s.spanAt crew (dwordAt ws 0) 0 0).isNone, (s.copyDst crew peer (dwordAt ws 8) 0 0).isNone)

/-- The first offending field by ascending byte offset, or none (R98-R101). A generator program with no LAST, or that moves 2 to the 32
elements or more, offends at the COUNT of step 0 (DESIGN CHOICE, log 94). -/
def State.copyBad (s : State) (crew sub : Nat) (d : CopyDesc) (ws : List Word) : Option Nat :=
  let c := wordAt ws 16
  let dims := (c.extractLsb' 4 4).toNat
  let boxed := d.form == 1 || d.form == 2
  let es := d.esize
  let off (a : Nat) : Bool := (dwordAt ws a).toNat % es != 0
  let peer := sub == 3 && d.tgt == 2
  let word16 := c.extractLsb' 12 20 != 0#20 || c.getLsbD 9 != (sub == 3) || !formOk sub d.form ||
    (if boxed then dims == 0 || 5 < dims else d.form == 0 && dims != 1)
  let lenBad := d.len == 0 || (d.form != 0 && 65535 < d.len)
  let zero (k : Nat) : Bool := (d.steps[k]?).any (fun t => t.count == 0)
  let noLast := d.form == 3 && ((genSteps ws 0 8).isNone || 2 ^ 32 ≤ d.total)
  let early := word16 || lenBad || noLast || (List.range 8).any zero || (boxed && d.ext.any (· == 0))
  let strides (base : Nat) : List (Nat × Bool) :=
    (List.range 4).map (fun i => (base + 4 * i, boxed && i + 1 < dims && (wordAt ws (base + 4 * i)).toNat % es != 0))
  let (dlo, dhi) := d.dstSpan
  let ends := s.copyEnds crew peer ws
  let srcBad := match d.srcSpan with
    | some (lo, hi) => (s.spanAt crew (dwordAt ws 0) lo hi).isNone
    | none => ends.1
  let list : List (Nat × Bool) :=
    [(0, off 0 || (if early then ends.1 else srcBad)),
     (8, off 8 || (if early then ends.2 else (s.copyDst crew peer (dwordAt ws 8) dlo dhi).isNone)),
     (16, word16), (20, lenBad),
     (24, c.getLsbD 8 && ((dwordAt ws 24).toNat % 16 != 0 || spaceOf (dwordAt ws 24) == 0 ||
        (s.spanAt crew (dwordAt ws 24) 0 16).isNone))] ++
    (if copyBytes sub == 32 then [] else
      (List.range 4).map (fun i => (32 + 4 * i, boxed && i + 1 < dims && wordAt ws (32 + 4 * i) == 0#32)) ++
      strides 48 ++ strides 64 ++
      [(80, d.form == 2 && (s.spanAt crew (dwordAt ws 80) 0 (if early then 0 else 4 * (d.nrows + 1) : Nat)).isNone),
       (92, wordAt ws 92 != 0#32)] ++
      (if sub == 3 then
        let tgt := wordAt ws 108
        [(96, (dwordAt ws 96).toNat % 8 != 0 || (s.copyDst crew peer (dwordAt ws 96) 0 8).isNone),
         (108, tgt &&& ~~~0xF3#32 != 0#32 || d.tgt == 3 || 11 < d.port)] else []) ++
      [(112, (List.range 4).any (fun i => wordAt ws (112 + 4 * i) != 0#32))]) ++
    (if d.form == 3 && sub == 2 then
      (List.range 4).map (fun a => (128 + 8 * a, (wordAt ws (128 + 8 * a)).toNat % es != 0)) ++
      (List.range 8).flatMap (fun k =>
        [(160 + 12 * k, zero k || (k == 0 && noLast)),
         (162 + 12 * k, (halfAt ws (162 + 12 * k)).extractLsb' 3 13 != 0#13),
         (168 + 12 * k, k < d.steps.length && (wordAt ws (168 + 12 * k)).toNat % es != 0)]) else [])
  (list.find? (·.2)).map (·.1)

/-- The descriptor with its places filled in. -/
def State.placeCopy (s : State) (crew sub : Nat) (d : CopyDesc) (ws : List Word) : CopyDesc :=
  let (dlo, dhi) := d.dstSpan
  let none' : VAddr := .glob 0
  let (slo, shi) := d.srcSpan.getD (0, 0)
  let peer := sub == 3 && d.tgt == 2
  { d with
    src := (s.spanAt crew (dwordAt ws 0) slo shi).getD none', dst := (s.copyDst crew peer (dwordAt ws 8) dlo dhi).getD none',
    cred := if (wordAt ws 16).getLsbD 8 then s.spanAt crew (dwordAt ws 24) 0 16 else none,
    rows := if d.form == 2 then (s.spanAt crew (dwordAt ws 80) 0 (4 * (d.nrows + 1) : Nat)).getD none' else none',
    ctr := if sub == 3 then (s.copyDst crew peer (dwordAt ws 96) 0 8).getD none' else none' }

/-! ### Issue -/

/-- Destination runs of bytes: each row's start and length. -/
def CopyDesc.dstRuns (d : CopyDesc) : List (VAddr × Nat) :=
  (List.range d.nrows).map (fun r => (d.dst.shift (d.dstRow r), d.len * d.unit))

/-- The descriptor's address as held in the pair. -/
def copyAddr (x : Ctx) (g : Arg) : Dword := x.crew.pair g.a

/-- Its place, in local memory or shelf. -/
def copyPlace (s : State) (x : Ctx) (g : Arg) (sub : Nat) : Option VAddr := s.tagged x.crewId (copyAddr x g) (copyBytes sub)

/-- The words the engine reads; none while they wait for the fibres' own writes (R112) or a page is missing. -/
def copyWords (s : State) (x : Ctx) (g : Arg) (sub : Nat) : Option (List Word) :=
  (copyPlace s x g sub).bind (fun a => s.issueWords? x (x.act g.m) a (copyBytes sub / 4))

/-- A COPYS may not write into a DET region (R258). -/
def State.detDst (s : State) (crew : Nat) (d : CopyDesc) : Bool :=
  match d.dst with
  | .peer _ => false
  | _ => d.dstRuns.any (fun e => (List.range e.2).any (fun i => (s.detAt crew (e.1.plus i)).isSome))

/-- DESCRIPTOR of a copy, as the offset of the offending field. -/
def copyFault (s : State) (x : Ctx) (g : Arg) (sub : Nat) : Option Nat :=
  match copyWords s x g sub with
  | none => none
  | some ws =>
    let d := rawCopy (copyAddr x g) sub ws
    match s.copyBad x.crewId sub d ws with
    | some o => some o
    | none => if sub == 3 && s.detDst x.crewId (s.placeCopy x.crewId sub d ws) then some 8 else none

/-- The copy to issue. -/
def copyDesc (s : State) (x : Ctx) (g : Arg) (sub : Nat) : Option CopyDesc :=
  (copyWords s x g sub).map (fun ws => s.placeCopy x.crewId sub (rawCopy (copyAddr x g) sub ws) ws)

/-- The crew's launch has a DET region. -/
def State.hasDet (s : State) (crew : Nat) : Bool :=
  (s.launch (s.gang (s.crew crew).gang).launch).regions.any (·.det)

/-- Region and line of each byte it lands in DET regions, overlaps counted each time. -/
def State.copyDetBytes (s : State) (crew : Nat) (d : CopyDesc) : List (Nat × Nat) :=
  match d.dst with
  | .peer _ => []
  | _ => if !s.hasDet crew then [] else d.dstRuns.flatMap (fun e =>
      (List.range e.2).filterMap (fun i => (s.detAt crew (e.1.plus i)).map (fun h => (h.1, h.2 / 64))))

/-- Every destination byte lies in a DET region: the copy is wholly buffered (R132). -/
def State.allDet (s : State) (crew : Nat) (d : CopyDesc) : Bool :=
  match d.dst with
  | .peer _ => false
  | _ => s.hasDet crew && d.dstRuns.all (fun e => (List.range e.2).all (fun i => (s.detAt crew (e.1.plus i)).isSome))

/-- Charges of copy k into DET regions (Table 6.4): 32 for each region that it lands in (DESIGN CHOICE, log 96), 80 for each line of it,
each with the bytes still to land. -/
def State.copyCharges (s : State) (crew : Nat) (d : CopyDesc) (k : Nat) : List Charge :=
  let bs := s.copyDetBytes crew d
  (dedup (bs.map (·.1))).map (fun i =>
    { region := i, line := none, copy := some k, owes := (bs.filter (fun b => b.1 == i)).length, bytes := 32 }) ++
  (dedup bs).map (fun l =>
    { region := l.1, line := some l.2, copy := some k, owes := (bs.filter (fun b => b == l)).length, bytes := 80 })

/-- Shelf lines of the destination (R94). -/
def CopyDesc.dstLines (d : CopyDesc) : List (Nat × Nat) := dedup (d.dstRuns.flatMap (fun e => linesTouched e.1 e.2))

/-- What a copy waits for before its descriptor can be read (R98, R112). -/
def copyReady (s : State) (x : Ctx) (g : Arg) (sub : Nat) : Wait :=
  match (if x.act g.m == 0#32 then none else copyPlace s x g sub) with
  | some a => s.wordsWait x (x.act g.m) a (copyBytes sub)
  | none => .go

/-- Waits of a copy: its descriptor, a transaction, OVERFLOW, a full flag. -/
def copyWait (g : Arg) (sub : Nat) (s : State) : Wait :=
  let x := s.ctx
  let act := x.act g.m
  match copyReady s x g sub, (if act == 0#32 then none else copyDesc s x g sub) with
  | .go, some d =>
    if !s.txnsFree x.crew.core 1 then .park act (.txns 1)
    else
      (match overflowWait s x act (s.copyCharges x.crewId d s.nextUid) with
       | .go => if x.flagFull g.m.fsel then .hold s else .go
       | w => w)
  | w, _ => w

/-- An arrival on a barrier object in shelf, which ends replayability (R132): a copy's credit counts as one (log 29). -/
def CopyDesc.creditsShelf (d : CopyDesc) : Bool :=
  match d.cred with
  | some (.loc _ _) => false
  | some _ => true
  | none => false

/-- The copy goes to the engine of its cluster: its status register is pending, its destination lines are absent (R94, R98). -/
def copyIssue (g : Arg) (sub : Nat) (s : State) : State :=
  let x := s.ctx
  let act := x.act g.m
  match (if act == 0#32 then none else copyDesc s x g sub) with
  | none => s
  | some d =>
    let s := s.catchUpLanes x.cur.wave act
    let flag := x.cur.flagOf g.m.fsel
    let s := if sub != 3 && s.allDet x.crewId d && !d.creditsShelf then s else s.notReplayable x.gangId
    let (op, s) := s.countOp x.cur.wave flag
    let cs := s.copyCharges x.crewId d s.nextUid
    let s := s.buffer x.crewId [] cs
    let s := s.setUni x.crewId g.d { x.crew.uni g.d with pend := true }
    let lines := d.dstLines
    let full (l : Nat × Nat) : Bool := 15 ≤ s.claimCount x.launch.part x.launch.tenant l
    let c : Copy :=
      { op := op, wave := x.cur.wave, crew := x.crewId, flag := flag, d := g.d, signal := sub == 3, desc := d,
        left := [{ base := 0, len := d.total }], sent := [], asked := false, claims := lines.filter (fun l => !full l), wants := lines.filter full,
        det := (cs.head?).map (·.region), susp := none, failed := false }
    { s with copies := s.copies ++ [(s.nextUid, c)], nextUid := s.nextUid + 1 }

/-- A copy instruction (R258). -/
def copySem (g : Arg) (sub : Nat) : Sem :=
  let opds := [Opd.u g.a, .u (g.a + 1), .u g.d]
  { size := g.size, flow := fun _ => { g.flow (opds.take 2) (opds.drop 2) with uses := [.mem] },
    static := fun s => roleFault s.ctx rolesGC 23 sub false,
    check := fun s =>
      let x := s.ctx
      let act := x.act g.m
      let da := copyAddr x g
      let sp := spaceOf da
      firstFault [inflightFault x act opds,
        onceFault .scope act (sp == 0 || sp == 3) 0#64 da,
        onceFault .align act (da.extractLsb' 0 4 != 0#4) 0#64 da,
        onceFault .bounds act (copyPlace s x g sub).isNone 0#64 da,
        onceFault .descriptor act (copyFault s x g sub).isSome (BitVec.ofNat 64 ((copyFault s x g sub).getD 0)) da],
    unknown := fun s => !(copyReady s s.ctx g sub).isGo,
    guess := fun s => s.setUni s.ctx.crewId g.d { s.ctx.crew.uni g.d with pend := true },
    wait := copyWait g sub,
    eff := copyIssue g sub }

def semCopy (g : Arg) : Sem := copySem g 0
def semCopyb (g : Arg) : Sem := copySem g 1
def semCopyg (g : Arg) : Sem := copySem g 2
def semCopys (g : Arg) : Sem := copySem g 3

end Sys2Proof.Machine
end

