-- ==== Sys2Proof/Machine/Matrix.lean ====
section
/-!
DEFINITION. The matrix engine (07): accumulator rows, operands in tile windows, scale descriptors, MMA, MMAQ, MCOMMIT, MWAIT, MRD,
MWR, MZERO, and the product of a command in the order of R81.
-/
namespace Sys2Proof.Machine

/-! ### Accumulator memory (R135) -/

/-- Element i (16 × row + column) of an accumulator; elements not listed are +0.0. -/
def accRead (i : Nat) : List (Nat × Word) → Word
  | [] => 0#32
  | (j, v) :: t => if j == i then v else if i < j then 0#32 else accRead i t

/-- Put an element, keeping the list rising and without +0.0. -/
def accWrite (i : Nat) (v : Word) : List (Nat × Word) → List (Nat × Word)
  | [] => if v == 0#32 then [] else [(i, v)]
  | (j, w) :: t =>
    if j == i then (if v == 0#32 then t else (i, v) :: t)
    else if i < j then (if v == 0#32 then (j, w) :: t else (i, v) :: (j, w) :: t)
    else (j, w) :: accWrite i v t

/-- A gang's share of a pair as it is when the gang is placed: rows +0.0, both counts zero (R135, R140). -/
def GangPair.fresh (pair : Nat) : GangPair :=
  { pair := pair, acc := [], opened := 0#32, retiredN := 0#32, batches := [] }

def Gang.pairOf (g : Gang) (pair : Nat) : GangPair := (g.pairs.find? (fun p => p.pair == pair)).getD (GangPair.fresh pair)

def Gang.modPair (g : Gang) (pair : Nat) (f : GangPair → GangPair) : Gang :=
  if g.pairs.any (fun p => p.pair == pair) then
    { g with pairs := g.pairs.map (fun p => if p.pair == pair then f p else p) }
  else { g with pairs := g.pairs ++ [f (GangPair.fresh pair)] }

def State.modGangPair (s : State) (gang pair : Nat) (f : GangPair → GangPair) : State :=
  s.modGang gang (fun g => g.modPair pair f)

/-- Accumulator rows of a gang's share on the pair of a core. -/
def accShare (s : State) (x : Ctx) : Nat := (s.quotaAt x.launch.part (clusterOfCore x.crew.core)).accRows.len

/-- The pair of the issuing core, and the gang's share of it. -/
def Ctx.pairNo (x : Ctx) : Nat := pairOfCore x.crew.core
def Ctx.share (x : Ctx) : GangPair := x.gang.pairOf x.pairNo

/-- Rows named by commands whose batch has not retired meet a run of rows (R141); the lowest such row. -/
def GangPair.busyRow (p : GangPair) (base n : Nat) : Option Nat :=
  ((List.range n).map (· + base)).find? (fun r => p.batches.any (fun b => b.rows.any (fun g => g.base ≤ r && r < g.base + g.len)))

/-- Retire closed batches whose commands and whose predecessors have retired (R140). -/
def retireBatches : Nat → GangPair → GangPair
  | 0, p => p
  | n + 1, p =>
    match p.batches with
    | b :: t => if b.closed && b.left == 0 then retireBatches n { p with batches := t, retiredN := p.retiredN + 1#32 } else p
    | [] => p

def GangPair.settle (p : GangPair) : GangPair := retireBatches p.batches.length p

/-- A batch that has retired, as MWAIT tests it. -/
def GangPair.retired (p : GangPair) (n : Word) : Bool := !(p.retiredN - n - 1#32).getLsbD 31

/-- Put a command into the open batch. -/
def GangPair.join (p : GangPair) (pins : List (Nat × Nat)) (rows : Range) : GangPair :=
  match p.batches.getLast? with
  | some b =>
    if b.closed then
      { p with batches := p.batches ++ [{ num := p.opened, closed := false, left := 1, pins := pins, rows := [rows] }] }
    else
      { p with batches := p.batches.dropLast ++
          [{ b with left := b.left + 1, pins := b.pins ++ pins, rows := b.rows ++ [rows] }] }
  | none => { p with batches := [{ num := p.opened, closed := false, left := 1, pins := pins, rows := [rows] }] }

/-- Close the open batch (R140). -/
def GangPair.close (p : GangPair) : GangPair :=
  let q : GangPair := match p.batches.getLast? with
    | some b =>
      if b.closed then { p with batches := p.batches ++ [{ num := p.opened, closed := true, left := 0, pins := [], rows := [] }] }
      else { p with batches := p.batches.dropLast ++ [{ b with closed := true }] }
    | none => { p with batches := [{ num := p.opened, closed := true, left := 0, pins := [], rows := [] }] }
  ({ q with opened := q.opened + 1#32 } : GangPair).settle

/-! ### Roles (R26, R133, R282) -/

/-- ROLE of the accumulator commands: the launch is not PAIRED, a node crew, or a follower core where a leader is needed. -/
def matRole (x : Ctx) (roles : List Nat) (sub : Nat) (leader : Bool) : Option Precise :=
  roleFault x roles 24 sub (!x.launch.desc.paired || x.gang.node.isSome || (leader && x.crew.core % 2 == 1))

/-! ### Operands (R136) -/

/-- ⌈a / b⌉. -/
def ceilDiv (a b : Nat) : Nat := (a + b - 1) / b

/-- Rows of 128 bytes an R × K operand uses (Table 7.1). -/
def operandRows (t : Tag) (outer : Bool) (r k : Nat) : Nat :=
  let e := 1024 / t.bits
  if outer then ceilDiv r e * k else ceilDiv k e * r

/-- The crew and offset of an operand's base, when its footprint fits in a tile window of a crew on the pair. -/
def State.footprint (s : State) (x : Ctx) (a : Word) (t : Tag) (outer : Bool) (r k : Nat) : Option (Nat × Nat) :=
  let n := operandRows t outer r k * 128
  match s.localAddr x.crewId a 1 with
  | some (.loc c o) =>
    let w := (s.crew c).wins
    if o % 128 == 0 && pairOfCore (s.crew c).core == x.pairNo && w.any (fun g => g.base ≤ o && o + n ≤ g.base + g.len) then
      some (c, o) else none
  | _ => none

/-! ### Scale descriptors (R139) -/

/-- Kinds of element formats. -/
def isInt8or4 (t : Tag) : Bool := t == .i8x4 || t == .n8x4 || t == .i4x8 || t == .n4x8
def isNarrowFloat (t : Tag) : Bool := t == .e4m3x4 || t == .e5m2x4 || t == .e2m1x8

/-- KIND suits the operand. -/
def kindSuits (kind : Nat) (t : Tag) : Bool :=
  kind == 0 || (kind == 1 && isNarrowFloat t) || (kind == 2 && isInt8or4 t)

/-- Group size and entry size. -/
def scaleGroup (kind group : Nat) : Nat := if kind == 2 then 32 * 2 ^ group else 32
def scaleEntry (kind : Nat) : Nat := if kind == 2 then 4 else 2

/-- Bytes of a scale array of R rows (R139). -/
def scaleSpan (r k kind group rstride : Nat) : Nat :=
  (r - 1) * rstride + ceilDiv k (scaleGroup kind group) * scaleEntry kind

/-- DESCRIPTOR of a scale descriptor: the lowest offset of a field that offends, whatever else does. The array of an undefined KIND or
GROUP has no extent; in local memory, what Table 5.2 says of the offset is no part of the descriptor: BOUNDS where there is an array
(DESIGN CHOICE, log 64). -/
def scaleBad (ws : List Word) (t : Tag) (outer : Bool) (r k : Nat) : Option Nat :=
  let c := (ws[3]?).getD 0#32
  let kind := (c.extractLsb' 0 2).toNat
  let group := (c.extractLsb' 2 2).toNat
  let rs := ((ws[2]?).getD 0#32).toNat
  let sc : Dword := (ws[1]?).getD 0#32 ++ (ws[0]?).getD 0#32
  let bad12 := c.extractLsb' 5 27 != 0#27 || c.getLsbD 4 != outer || kind == 3 || group == 3 || (kind != 2 && group != 0) ||
    !kindSuits kind t
  let n := scaleSpan r k kind group rs
  let badSc := match spaceOf sc with
    | 1 => (taggedFar sc (if kind == 0 || kind == 3 || group == 3 then 0 else n)).isNone
    | 2 => sc.extractLsb' 32 30 != 0#30
    | _ => true
  if badSc then some 0
  else if kind != 0 && kind != 3 && rs % scaleEntry kind != 0 then some 8
  else if bad12 then some 12
  else none

/-- The scale of an operand; none for KIND 0, or when a local array runs past its allocation. -/
def State.scaleOf (s : State) (crew : Nat) (ws : List Word) (r k : Nat) : Option Scale :=
  let c := (ws[3]?).getD 0#32
  let kind := (c.extractLsb' 0 2).toNat
  let group := (c.extractLsb' 2 2).toNat
  let rs := ((ws[2]?).getD 0#32).toNat
  let sc : Dword := (ws[1]?).getD 0#32 ++ (ws[0]?).getD 0#32
  if kind == 0 then none
  else (s.tagged crew sc (scaleSpan r k kind group rs)).map (fun a => { kind := kind, group := group, rstride := rs, at_ := a })

/-- BOUNDS of a local scale array. -/
def State.scaleBounds (s : State) (crew : Nat) (ws : List Word) (r k : Nat) : Bool :=
  ((ws[3]?).getD 0#32).extractLsb' 0 2 != 0#2 && (s.scaleOf crew ws r k).isNone

/-- Bytes of a scale array. -/
def Scale.span (sc : Scale) (r k : Nat) : Nat := scaleSpan r k sc.kind sc.group sc.rstride

/-! ### The product (R81) -/

/-- A nibble or byte or half at a bit offset of a crew's local memory. -/
def State.lmemBits (s : State) (crew off bit n : Nat) : Nat :=
  cellsNat (s.crew crew).lmem (off + bit / 8) (ceilDiv n 8) / 2 ^ (bit % 8) % 2 ^ n

/-- The pattern of element (r, k) of an operand (Table 7.1). -/
def State.matBits (s : State) (o : MatOperand) (kk r k : Nat) : Nat :=
  let n := o.tag.bits
  let e := 1024 / n
  let bit := if o.outer then (r / e * kk + k) * 1024 + r % e * n else (k / e * o.rows + r) * 1024 + k % e * n
  s.lmemBits o.crew o.off bit n

/-- The entry of a scale array for row r and group g. -/
def State.scaleWord (s : State) (crew : Nat) (sc : Scale) (r g : Nat) : Nat :=
  (s.taskNat? crew (sc.at_.plus (r * sc.rstride + g * scaleEntry sc.kind)) (scaleEntry sc.kind)).getD 0

/-- The value of a block scale (R78). -/
def blockScale (w : Nat) : Fl :=
  let e := w / 4 % 256
  if e == 255 then .nan else .fin false (4 + w % 4) ((e : Int) - 129)

/-- The factor of an entry: a block scale, or the F16 σ of a group (R80). -/
def Scale.factor (sc : Scale) (w : Nat) : Fl := if sc.kind == 1 then blockScale w else fmtF16.decode (w % 65536)

/-- The zero point of an entry, with the element's width and signedness. -/
def zeroPoint (t : Tag) (w : Nat) : Int := intElem t.signed t.bits (w / 65536 % 2 ^ t.bits)

/-- Dec of R81: the decoded value; an integer less its zero point, an integer 0 being +0 (DESIGN CHOICE, log 32). -/
def decValue (t : Tag) (bits : Nat) (z : Int) : Fl :=
  match t.fmt with
  | some f => f.decode bits
  | none => Fl.ofInt (intElem t.signed t.bits bits - z) 0 false

/-- Dec of element (r, k) of an operand of a command issued by a crew. -/
def State.matDec (s : State) (crew : Nat) (o : MatOperand) (kk r k : Nat) : Fl :=
  let z : Int := match o.scale with
    | some sc => if sc.kind == 2 then zeroPoint o.tag (s.scaleWord crew sc r (k / scaleGroup sc.kind sc.group)) else 0
    | none => 0
  decValue o.tag (s.matBits o kk r k) z

/-- The factor of the block that begins at k0. -/
def State.matFactor (s : State) (crew : Nat) (o : MatOperand) (r k0 : Nat) : Fl :=
  match o.scale with
  | some sc => sc.factor (s.scaleWord crew sc r (k0 / scaleGroup sc.kind sc.group))
  | none => .fin false 1 0

/-- The exact sum of products of one block. An integer sum of 0 is +0 before the factors multiply it (DESIGN CHOICE, log 32). -/
def blockSum (ints : Bool) (ps : List Fl) : Fl :=
  match ps with
  | [] => .fin false 0 0
  | p :: t =>
    let v := t.foldl (fun a b => Fl.add .ne a b) p
    if ints && v.isZero then .fin false 0 0 else v

/-- A product in a sum of R81: one of opposite infinities is NaN there; a scale acts on the sum in the same way (DESIGN CHOICE,
log 66). -/
def sumMul (a b : Fl) : Fl :=
  match a, b with
  | .inf x, .inf y => if x == y then .inf false else .nan
  | _, _ => Fl.mul a b

/-- One block added to the accumulator: two roundings, no flush. -/
def accStep (acc : Word) (sum fa fb : Fl) : Word :=
  f32Add acc (f32Of (sumMul (sumMul sum fa) fb))

/-- Starts of the blocks of K elements. -/
def blockStarts (k len : Nat) : List Nat := (List.range (ceilDiv k len)).map (· * len)

/-- Block length (Table 7.2). -/
def blockLen (ta tb : Tag) : Nat :=
  if (ta == .f16x2 || ta == .bf16x2) && (tb == .f16x2 || tb == .bf16x2) then 16 else 32

/-- One output element of R81, from its products' elements and factors by block. -/
def dotElem (k len : Nat) (ints : Bool) (acc : Word) (a b fa fb : Nat → Fl) : Word :=
  (blockStarts k len).foldl (fun acc k0 =>
    accStep acc (blockSum ints ((List.range (min len (k - k0))).map (fun i => sumMul (a (k0 + i)) (b (k0 + i))))) (fa k0) (fb k0)) acc

/-- Element (i, j) of a command's result. -/
def State.matElem (s : State) (c : MatCmd) (acc : List (Nat × Word)) (i j : Nat) : Nat × Word :=
  let at' := 16 * (c.row + j / 16 * c.opA.rows + i) + j % 16
  let ints := c.opA.tag.fmt.isNone && c.opB.tag.fmt.isNone
  (at', dotElem c.k (blockLen c.opA.tag c.opB.tag) ints (if c.zero then 0#32 else accRead at' acc)
    (fun k => s.matDec c.crew c.opA c.k i k) (fun k => s.matDec c.crew c.opB c.k j k)
    (fun k => s.matFactor c.crew c.opA i k) (fun k => s.matFactor c.crew c.opB j k))

/-- The accumulator after a command. -/
def State.matRun (s : State) (c : MatCmd) (acc : List (Nat × Word)) : List (Nat × Word) :=
  (List.range c.opA.rows).foldl (fun m i =>
    (List.range c.opB.rows).foldl (fun m j => let e := s.matElem c acc i j; accWrite e.1 e.2 m) m) acc

/-! ### MMA and MMAQ -/

/-- Fields of word 2 (Table 7.3). -/
structure MmaArg where
  m : Nat
  n : Nat
  k : Nat
  da : Bool
  db : Bool
  ta : Tag
  tb : Tag
  zero : Bool
deriving DecidableEq, Repr

def MmaArg.of (g : Arg) : MmaArg :=
  { m := 16 * (g.w2f 0 4 + 1), n := 16 * (g.w2f 4 3 + 1), k := 8 * g.w2f 7 10, da := g.w2.getLsbD 17, db := g.w2.getLsbD 18,
    ta := tagOf (g.w2f 19 4), tb := tagOf (g.w2f 23 4), zero := g.w2.getLsbD 27 }

/-- The scale descriptors' registers: A's, then B's. -/
def mmaqAddr (x : Ctx) (g : Arg) (b : Bool) : Word := (x.crew.uni (if b then g.d + 1 else g.d)).val

/-- The words of a scale descriptor as they are read at issue; none while they wait for the fibres' own writes (R112). -/
def mmaqWords (s : State) (x : Ctx) (act : Lanes) (g : Arg) (b : Bool) : Option (List Word) :=
  (s.localAddr x.crewId (mmaqAddr x g b) 16).bind (fun a => s.issueWords? x act a 4)

/-- Faults of one scale descriptor in the order of R285. -/
def scaleFaults (s : State) (x : Ctx) (act : Lanes) (g : Arg) (b : Bool) (t : Tag) (outer : Bool) (r k : Nat) :
    List (Option Precise) :=
  let a := mmaqAddr x g b
  let ws := mmaqWords s x act g b
  let bad := ws.bind (fun w => scaleBad w t outer r k)
  [onceFault .align act (a.extractLsb' 0 4 != 0#4) 0#64 (taggedLocal a),
   onceFault .bounds act (s.localAddr x.crewId a 16).isNone 0#64 (taggedLocal a),
   onceFault .descriptor act bad.isSome (BitVec.ofNat 64 (bad.getD 0)) (taggedLocal a),
   onceFault .bounds act (match ws with | some w => bad.isNone && s.scaleBounds x.crewId w r k | none => false) 0#64
     (match ws with | some w => (w[1]?).getD 0#32 ++ (w[0]?).getD 0#32 | none => 0#64)]

/-- The scale of an operand at issue. -/
def mmaqScale (s : State) (x : Ctx) (act : Lanes) (g : Arg) (q b : Bool) (r k : Nat) : Option Scale :=
  if q then (mmaqWords s x act g b).bind (fun w => s.scaleOf x.crewId w r k) else none

/-- What a scale of MMAQ still waits for at issue: the words of its descriptor, then of its array (log 12). -/
def scaleWait (s : State) (x : Ctx) (act : Lanes) (g : Arg) (b : Bool) (r k : Nat) : Wait :=
  match s.localAddr x.crewId (mmaqAddr x g b) 16 with
  | none => .go
  | some a =>
    match s.wordsWait x act a 16 with
    | .go =>
      (match mmaqScale s x act g true b r k with
       | some c => s.wordsWait x act c.at_ (c.span r k)
       | none => .go)
    | w => w

/-- An operand is the issuer's once its fibres' own accesses to its rows have performed (R112, R118, R122): the command takes its
entry then, and waits for nothing outside the engine (R134; DESIGN CHOICE, log 12). -/
def operandWait (s : State) (x : Ctx) (act : Lanes) (a : Word) (t : Tag) (outer : Bool) (r k : Nat) : Wait :=
  match s.footprint x a t outer r k with
  | none => .go
  | some (c, o) =>
    let u := s.catchUpLanes x.cur.wave act
    if u.blocked u.nextUid x.cur.wave act (x.wave.fibres act) (.loc c o) (128 * operandRows t outer r k) then .later u else .go

/-- Commands of a partition in a pair's queue. -/
def State.queued (s : State) (pair part : Nat) : Nat := (s.cmds.filter (fun e => e.2.pair == pair && e.2.part == part)).length

/-- Rows of local memory a scale array touches. -/
def scaleRows (sc : Option Scale) (r k : Nat) : List (Nat × Nat) :=
  match sc with
  | some c => (match c.at_ with | .loc w o => rowsTouched w o (c.span r k) | _ => [])
  | none => []

/-- MMA and MMAQ (R138, R285). -/
def mmaSem (g : Arg) (q : Bool) : Sem :=
  let y := MmaArg.of g
  let sub := if q then 1 else 0
  let opds := [Opd.u g.a, .u g.b, .u g.c] ++ (if q then [.u g.d, .u (g.d + 1)] else [])
  let scales (s : State) (x : Ctx) (act : Lanes) : Wait :=
    if !q then .go
    else
      match scaleWait s x act g false y.m y.k with
      | .go => scaleWait s x act g true y.n y.k
      | w => w
  let inputs (s : State) (x : Ctx) (act : Lanes) : Wait :=
    match operandWait s x act (x.crew.uni g.a).val y.ta y.da y.m y.k with
    | .go =>
      (match operandWait s x act (x.crew.uni g.b).val y.tb y.db y.n y.k with
       | .go => scales s x act
       | w => w)
    | w => w
  { size := g.size, flow := fun _ => { g.flow opds [] with uses := if q then [.mem] else [], sets := [.acc] },
    static := fun s => matRole s.ctx rolesGM sub true,
    check := fun s =>
      let x := s.ctx
      let act := x.act g.m
      let a := (x.crew.uni g.a).val
      let b := (x.crew.uni g.b).val
      firstFault ([inflightFault x act opds,
        onceFault .bounds act (s.footprint x a y.ta y.da y.m y.k).isNone 0#64 (taggedLocal a),
        onceFault .bounds act (s.footprint x b y.tb y.db y.n y.k).isNone 0#64 (taggedLocal b),
        onceFault .bounds act (accShare s x < (x.crew.uni g.c).val.toNat + y.n / 16 * y.m) 0#64 0#64] ++
        (if q then scaleFaults s x act g false y.ta y.da y.m y.k ++ scaleFaults s x act g true y.tb y.db y.n y.k else [])),
    unknown := fun _ => false,
    wait := fun s =>
      let x := s.ctx
      let act := x.act g.m
      if act == 0#32 then .go
      else
        match inputs s x act with
        | .go =>
          if (s.quotaAt x.launch.part (clusterOfCore x.crew.core)).queue.len ≤ s.queued x.pairNo x.launch.part then .hold s else .go
        | w => w,
    eff := fun s =>
      let x := s.ctx
      let act := x.act g.m
      if act == 0#32 then s
      else
        let s := s.catchUpLanes x.cur.wave act
        match s.footprint x (x.crew.uni g.a).val y.ta y.da y.m y.k, s.footprint x (x.crew.uni g.b).val y.tb y.db y.n y.k with
        | some (ca, oa), some (cb, ob) =>
          let sa := mmaqScale s x act g q false y.m y.k
          let sb := mmaqScale s x act g q true y.n y.k
          let row := (x.crew.uni g.c).val.toNat
          let pins := dedup (rowsTouched ca oa (128 * operandRows y.ta y.da y.m y.k) ++
            rowsTouched cb ob (128 * operandRows y.tb y.db y.n y.k) ++ scaleRows sa y.m y.k ++ scaleRows sb y.n y.k)
          let cmd : MatCmd :=
            { gang := x.gangId, crew := x.crewId, wave := x.cur.wave, part := x.launch.part, pair := x.pairNo, batch := x.share.opened,
              opA := { crew := ca, off := oa, tag := y.ta, outer := y.da, rows := y.m, scale := sa },
              opB := { crew := cb, off := ob, tag := y.tb, outer := y.db, rows := y.n, scale := sb },
              k := y.k, zero := y.zero, row := row }
          let s := s.modGangPair x.gangId x.pairNo (fun p => p.join pins { base := row, len := y.n / 16 * y.m })
          { s with cmds := s.cmds ++ [(s.nextUid, cmd)], nextUid := s.nextUid + 1 }
        | _, _ => s }

def semMma (g : Arg) : Sem := mmaSem g false
def semMmaq (g : Arg) : Sem := mmaSem g true

/-! ### MCOMMIT and MWAIT -/

/-- MCOMMIT (R140, R284). -/
def semMcommit (g : Arg) : Sem :=
  Sem.simple g.size (fun _ => { g.flow [] [.u g.d] with uses := [.acc], sets := [.acc] }) (fun s => matRole s.ctx rolesGM 2 true)
    (fun s => inflightFault s.ctx (s.ctx.act g.m) [Opd.u g.d])
    (fun s =>
      let x := s.ctx
      if x.act g.m == 0#32 then s
      else (s.setUni x.crewId g.d (Reg.done x.share.opened .n32)).modGangPair x.gangId x.pairNo GangPair.close)

/-- MWAIT (R140, R292). -/
def semMwait (g : Arg) : Sem :=
  { size := g.size, flow := fun _ => g.flow [.u g.a] [],
    static := fun s => matRole s.ctx rolesGMV 3 false,
    check := fun s => inflightFault s.ctx (s.ctx.act g.m) [Opd.u g.a],
    unknown := fun _ => false,
    wait := fun s =>
      let x := s.ctx
      let act := x.act g.m
      let n := (x.crew.uni g.a).val
      if act == 0#32 || x.share.retired n then .go else .park act (.batch n),
    eff := fun s => s }

/-! ### MRD, MWR, MZERO (R141) -/

/-- Runs of rows a vector form names: those of the active lanes of each half wave, `k` rows each. -/
def halfRows (act : Lanes) (base k : Nat) : List Range :=
  (if act.extractLsb' 0 16 != 0#16 then [{ base := base, len := k }] else []) ++
  (if act.extractLsb' 16 16 != 0#16 then [{ base := base + k, len := k }] else [])

/-- INFLIGHT of rows an unretired command writes. -/
def rowsInflight (x : Ctx) (act : Lanes) (rs : List Range) : Option Precise :=
  match rs.filterMap (fun r => x.share.busyRow r.base r.len) with
  | [] => none
  | r :: _ => onceFault .inflight act true (BitVec.ofNat 64 r) 0#64

def rowsBeyond (s : State) (x : Ctx) (rs : List Range) : Bool := rs.any (fun r => accShare s x < r.base + r.len)

/-- A pending tile parks (R57). -/
def tileWait (x : Ctx) (act : Lanes) (n : Nat) (els : Wait) : Wait :=
  if act == 0#32 then .go else if ((x.wave.tiles[n]?).getD Tile.zero).pend then .park act (.tile n) else els

/-- The error a tile carries reaches the crew, as a precise fault would, at a clause that reads or writes the tile (R153): behind the
faults that the instruction's entry lists (DESIGN CHOICE, log 89). -/
def tileError (s : State) (x : Ctx) (act : Lanes) (n : Nat) : Option Precise :=
  if act == 0#32 then none else (s.deferredAt x.crewId (.tile x.cur.wave n)).map (fun d => d.precise act)

/-- The tag of a tile is known: it is not pending, or a VIEW makes it, whose MODE gives the tag at issue (R57, R150), and no MRD. -/
def State.tagKnown (s : State) (x : Ctx) (n : Nat) : Bool :=
  !((x.wave.tiles[n]?).getD Tile.zero).pend ||
  (s.views.any (fun e => e.2.wave == x.cur.wave && e.2.tile == n) &&
    !s.flights.any (fun e => e.2.wave == x.cur.wave && (match e.2.payload with
      | .tile m _ _ => m == n
      | _ => false)))

/-- A tile that an instruction of some fibres reads or writes is pending: what comes of it is not known before it has landed (R57). -/
def tileUnknown (x : Ctx) (act : Lanes) (n : Nat) : Bool := act != 0#32 && ((x.wave.tiles[n]?).getD Tile.zero).pend

/-- What an instruction that waits for a pending tile leaves unknown in it: the elements and the status, and the tag where it is not
known (DESIGN CHOICE, log 60). -/
def State.tileSpots (s : State) (act : Lanes) (n : Nat) : List Spot :=
  if !tileUnknown s.ctx act n then [] else if s.tagKnown s.ctx n then [.image] else [.tile, .image]

/-- The tile has landed, for the check of later instructions. -/
def State.tileLanded (s : State) (n : Nat) : State :=
  { s with waves := change s.ctx.cur.wave (fun w => { w with tiles := w.tiles.modify n (fun t => { t with pend := false }) }) s.waves }

def Wave.setTile (w : Wave) (n : Nat) (f : Tile → Tile) : Wave := { w with tiles := w.tiles.modify n f }
def Wave.tile (w : Wave) (n : Nat) : Tile := (w.tiles[n]?).getD Tile.zero

def mrdTag (g : Arg) : Tag := tagOf (g.w2f 0 4)
def mrdAmx (g : Arg) : Bool := g.w2.getLsbD 4
def mrdTile (g : Arg) : Bool := g.w2.getLsbD 5

/-- Rows MRD names for the active lanes. -/
def mrdRows (g : Arg) (x : Ctx) (act : Lanes) : List Range :=
  let base := (x.crew.uni g.a).val.toNat
  if mrdTile g then [{ base := base, len := 16 }] else halfRows act base (mrdTag g).count

/-- The F32 values delivered to a lane, element 0 first. -/
def mrdLane (g : Arg) (x : Ctx) (l : Nat) : List Word :=
  let k := (mrdTag g).count
  (List.range k).map (fun e => accRead (16 * ((x.crew.uni g.a).val.toNat + k * (l / 16) + e) + l % 16) x.share.acc)

/-- The tile's F32 values, row by row. -/
def mrdTileVals (g : Arg) (x : Ctx) : List Word :=
  (List.range 256).map (fun i => accRead (16 * (x.crew.uni g.a).val.toNat + i) x.share.acc)

/-- Every F32 value MRD delivers. -/
def mrdVals (g : Arg) (x : Ctx) (act : Lanes) : List Word :=
  if mrdTile g then mrdTileVals g x else (laneList act).flatMap (mrdLane g x)

/-- One value converted (Table 4.4). -/
def mrdConv (g : Arg) (v : Word) : Nat := convElem (Modes.of g.m) .f32 (mrdTag g) v.toNat

/-- The greatest magnitude; NaN when a value is NaN (R142). -/
def amaxOf (vs : List Word) : Word :=
  if vs.any f32Nan then f32NanW else vs.foldl (fun m v => if m.toNat < (f32AbsW v).toNat then f32AbsW v else m) 0#32

def amxAddr (g : Arg) (x : Ctx) : Word := (x.crew.uni g.b).val

/-- The charge of a buffered fold. -/
def amxCharges (g : Arg) (s : State) (x : Ctx) : List Charge :=
  if !mrdAmx g then []
  else
    match (shelfAddr (amxAddr g x) 4).bind (fun a => s.detAt x.crewId a) with
    | some h => [{ region := h.1, line := none, copy := none, owes := 0, bytes := 16 }]
    | none => []

/-- The fold of AMX: one AMAX at device scope without return, or a reduction entry (R142), which is that of the lowest active fibre
(DESIGN CHOICE, log 69). -/
def amxSend (g : Arg) (x : Ctx) (act : Lanes) (s : State) : State :=
  match (if mrdAmx g then shelfAddr (amxAddr g x) 4 else none) with
  | none => s
  | some a =>
    let v : Dword := (amaxOf (mrdVals g x act)).zeroExtend 64
    let l := lowestLane act
    let access (what : AccessOp) : Access :=
      { op := s.nextUid, wave := x.cur.wave, crew := x.crewId, lane := l, lanes := act, fibres := x.wave.fibres act, flag := none,
        scope := 3, rel := false, acq := false, what := what, addr := a, ret := none, txns := 0, fault := none }
    match s.detAt x.crewId a with
    | some _ =>
      let n := ((s.wave x.cur.wave).lane l).detSeq
      let t := (s.buffer x.crewId [] (amxCharges g s x)).modWave x.cur.wave (fun w =>
        w.mapLanes (laneBit l) (fun _ y => { y with detSeq := n + 1 }))
      (t.catchUp x.cur.wave act (x.wave.fibres act) a 4).issueAccess (access (.red 9 false v .f32 (x.wave.idx * 32 + l) n))
    | none => (s.notReplayable x.gangId).addAccess (access (.atom 9 false v .f32))

/-- MRD (R141, R289). -/
def semMrd (g : Arg) : Sem :=
  let opds := [Opd.u g.a] ++ (if mrdAmx g then [.u g.b] else []) ++ (if mrdTile g then [] else [.v g.d])
  { size := g.size, flow := fun _ => { g.flow ([Opd.u g.a] ++ (if mrdAmx g then [.u g.b] else [])) (if mrdTile g then [] else [.v g.d]) with
      keys := [.u g.a], uses := if mrdTile g then [.acc, .tile] else [.acc], sets := if mrdTile g then [.tile, .image, .mem] else [.mem] },
    static := fun s => firstFault [matRole s.ctx [0, 3] 4 false, windowFault s.ctx opds],
    check := fun s =>
      let x := s.ctx
      let act := x.act g.m
      let sb := amxAddr g x
      firstFault [inflightFault x act opds, rowsInflight x act (mrdRows g x act),
        onceFault .bounds act (mrdTile g && x.crew.ntile ≤ g.d) 0#64 0#64,
        onceFault .bounds act (rowsBeyond s x (mrdRows g x act)) 0#64 0#64,
        onceFault .align act (mrdAmx g && sb.extractLsb' 0 2 != 0#2) 0#64 (taggedShelf sb),
        onceFault .bounds act (mrdAmx g && (shelfAddr sb 4).isNone) 0#64 (taggedShelf sb),
        if mrdTile g then tileError s x act g.d else none],
    unknown := fun _ => false,
    wait := fun s =>
      let x := s.ctx
      let act := x.act g.m
      let rest : Wait :=
        match overflowWait s x act (amxCharges g s x) with
        | .go => if x.flagFull g.m.fsel then .hold s else .go
        | w => w
      if act == 0#32 then .go else if mrdTile g then tileWait x act g.d rest else rest,
    eff := fun s =>
      let x := s.ctx
      let act := x.act g.m
      if act == 0#32 then s
      else
        let flag := x.cur.flagOf g.m.fsel
        let (op, s) := s.countOp x.cur.wave flag
        let pay : Payload :=
          if mrdTile g then .tile g.d (mrdTag g) ((mrdTileVals g x).map (fun v => BitVec.ofNat 32 (mrdConv g v)))
          else .regs ((laneList act).map (fun l =>
            Dest.lane l ((x.wave.lane l).wb + g.d)
              (BitVec.ofNat 32 (packElems (mrdTag g).bits ((mrdLane g x l).map (mrdConv g)))) (mrdTag g)))
        let s := s.modWave x.cur.wave (fun w =>
          if mrdTile g then w.setTile g.d (fun t => { t with pend := true }) else w.mapLanes act (fun _ ln => ln.pendV g.d))
        let s := s.addFlight { op := op, wave := x.cur.wave, flag := flag, txns := 0, lines := [], payload := pay, fault := none }
        amxSend g x act s }

def mwrTile (g : Arg) : Bool := g.w2.getLsbD 5

/-- Rows MWR names. -/
def mwrRows (g : Arg) (x : Ctx) (act : Lanes) : List Range :=
  let base := (x.crew.uni g.a).val.toNat
  if mwrTile g then [{ base := base, len := 16 }] else halfRows act base 1

/-- MWR (R141, R293). -/
def semMwr (g : Arg) : Sem :=
  let opds := [Opd.u g.a] ++ (if mwrTile g then [] else [.v g.b])
  { size := g.size,
    flow := fun s => { g.flow opds [] with
      keys := [.u g.a], uses := if mwrTile g then [.acc, .tile] else [.acc],
      sets := if mwrTile g then s.tileSpots (s.ctx.act g.m) g.b else [] },
    static := fun s => firstFault [matRole s.ctx [0, 3] 5 false, windowFault s.ctx opds],
    check := fun s =>
      let x := s.ctx
      let act := x.act g.m
      let t := x.wave.tile g.b
      firstFault [inflightFault x act opds, rowsInflight x act (mwrRows g x act),
        (if mwrTile g then (if !s.tagKnown x g.b || x.crew.ntile ≤ g.b then none else formatFault x act (fun _ => oneTag .f32 t.tag))
         else formatFault x act (fun ln => oneTag .f32 (ln.readV g.b).tag)),
        onceFault .bounds act (mwrTile g && x.crew.ntile ≤ g.b) 0#64 0#64,
        onceFault .bounds act (rowsBeyond s x (mwrRows g x act)) 0#64 0#64,
        if mwrTile g then tileError s x act g.b else none],
    unknown := fun s => mwrTile g && tileUnknown s.ctx (s.ctx.act g.m) g.b,
    vague := fun s => !s.tagKnown s.ctx g.b, guess := fun s => s.tileLanded g.b,
    wait := fun s =>
      let x := s.ctx
      if mwrTile g then tileWait x (x.act g.m) g.b .go else .go,
    eff := fun s =>
      let x := s.ctx
      let act := x.act g.m
      let base := 16 * (x.crew.uni g.a).val.toNat
      if act == 0#32 then s
      else
        let vals : List (Nat × Word) :=
          if mwrTile g then (List.range 256).map (fun i => (base + i, ((x.wave.tile g.b).elems[i]?).getD 0#32))
          else (laneList act).map (fun l => (base + l, ((x.wave.lane l).readV g.b).val))
        s.modGangPair x.gangId x.pairNo (fun p => { p with acc := vals.foldl (fun m e => accWrite e.1 e.2 m) p.acc }) }

/-- MZERO (R141, R293). -/
def semMzero (g : Arg) : Sem :=
  let rows (x : Ctx) : Range := { base := (x.crew.uni g.a).val.toNat, len := g.w2f 0 14 }
  Sem.simple g.size (fun _ => { g.flow [.u g.a] [] with keys := [.u g.a], uses := [.acc] }) (fun s => matRole s.ctx rolesGMV 6 false)
    (fun s =>
      let x := s.ctx
      let act := x.act g.m
      firstFault [inflightFault x act [Opd.u g.a], rowsInflight x act [rows x],
        onceFault .bounds act (rowsBeyond s x [rows x]) 0#64 0#64])
    (fun s =>
      let x := s.ctx
      let r := rows x
      if x.act g.m == 0#32 then s
      else s.modGangPair x.gangId x.pairNo (fun p => { p with
        acc := p.acc.filter (fun e => !(16 * r.base ≤ e.1 && e.1 < 16 * (r.base + r.len))) }))

/-! ### MATRIX_COMMAND_RETIRE (R134) -/

/-- A partition's oldest command on a pair. -/
def State.firstCommand (s : State) (pair part : Nat) : Option (Nat × MatCmd) :=
  s.cmds.find? (fun e => e.2.pair == pair && e.2.part == part)

/-- The partition a pair serves next: round-robin among those with a command there (R134). -/
def State.pairServes (s : State) (pair : Nat) : Option Nat :=
  let last := (look pair s.pairTurn).getD 7
  ((List.range 8).map (fun i => (last + 1 + i) % 8)).find? (fun part => (s.firstCommand pair part).isSome)

/-- The oldest command of the partition whose turn it is on a pair finishes: its block is accumulated, its queue entry is free, and
batches that are done retire. -/
def State.retireCommand (s : State) (pair part : Nat) : State :=
  match (if s.pairServes pair == some part then s.firstCommand pair part else none) with
  | none => s
  | some (k, c) =>
    let s := { s with cmds := drop k s.cmds, pairTurn := drop pair s.pairTurn ++ [(pair, part)] }
    s.modGangPair c.gang pair (fun p =>
      let bs := p.batches.map (fun b => if b.num == c.batch then { b with left := b.left - 1 } else b)
      ({ p with acc := s.matRun c p.acc, batches := bs } : GangPair).settle)

end Sys2Proof.Machine
end

