-- ==== Sys2Proof/Machine/StackMul.lean ====
section
/-!
DEFINITION. SMV, the product of a stack multiplier (R146, R147, R314), and the landing of its packets.
-/
namespace Sys2Proof.Machine

/-! ### The descriptor (Table 7.7) -/

/-- The local address of the descriptor, 64 bytes. -/
def smvPlace (s : State) (x : Ctx) (g : Arg) : Option VAddr := s.localAddr x.crewId (x.crew.uni g.a).val 64

/-- Its words; none while they wait for the fibres' own writes (R112). -/
def smvWords (s : State) (x : Ctx) (g : Arg) : Option (List Word) :=
  (smvPlace s x g).bind (fun a => s.issueWords? x (x.act g.m) a 16)

/-- What SMV waits for before its descriptor can be read. -/
def smvReady (s : State) (x : Ctx) (g : Arg) : Wait :=
  match (if x.act g.m == 0#32 then none else smvPlace s x g) with
  | some a => s.wordsWait x (x.act g.m) a 64
  | none => .go

def smvWtag (ws : List Word) : Nat := ((wordAt ws 28).extractLsb' 0 4).toNat
def smvXtag (ws : List Word) : Nat := ((wordAt ws 28).extractLsb' 4 2).toNat
def smvKind (ws : List Word) : Nat := ((wordAt ws 28).extractLsb' 6 2).toNat
def smvGroup (ws : List Word) : Nat := ((wordAt ws 28).extractLsb' 8 2).toNat
def smvStack (ws : List Word) : Nat := ((wordAt ws 28).extractLsb' 10 3).toNat
def smvRows (ws : List Word) : Nat := (halfAt ws 24).toNat
def smvK (ws : List Word) : Nat := (halfAt ws 26).toNat

/-- Bytes of one row of W. -/
def smvRowBytes (ws : List Word) : Nat := smvK ws * (tagOf (smvWtag ws)).bits / 8

/-- A tagged global address with n bytes from it on (R99). -/
def globalAt (t : Dword) (n : Nat) : Option VAddr := if spaceOf t == 0 then taggedFar t n else none

/-- The offending field at the lowest offset, or none (R146, R139). -/
def smvBad (s : State) (crew : Nat) (ws : List Word) : Option Nat :=
  let c := wordAt ws 28
  let kind := smvKind ws
  let tag := tagOf (smvWtag ws)
  let bad28 := c.extractLsb' 13 19 != 0#19 || kind == 3 || smvGroup ws == 3 || (kind != 2 && smvGroup ws != 0) ||
    2 ≤ smvXtag ws || smvWtag ws < 6 || 12 < smvWtag ws || !kindSuits kind tag
  let bad24 := smvRows ws == 0
  let bad26 := smvK ws < 32 || 32768 < smvK ws || smvK ws % 32 != 0
  let early := bad28 || bad24 || bad26
  let wspan := (smvRows ws - 1) * (wordAt ws 16).toNat + smvRowBytes ws
  let sspan := scaleSpan (smvRows ws) (smvK ws) kind (smvGroup ws) (wordAt ws 20).toNat
  let bar := dwordAt ws 40
  let list : List (Nat × Bool) :=
    [(0, spaceOf (dwordAt ws 0) != 0 || (dwordAt ws 0).extractLsb' 52 10 != 0#10 ||
       (!early && (globalAt (dwordAt ws 0) wspan).isNone)),
     (8, kind != 0 && (spaceOf (dwordAt ws 8) != 0 || (!early && (globalAt (dwordAt ws 8) sspan).isNone))),
     (16, (wordAt ws 16).toNat % 1024 != 0), (20, !early && kind != 0 && (wordAt ws 20).toNat % scaleEntry kind != 0),
     (24, bad24), (26, bad26), (28, bad28), (32, (wordAt ws 32).toNat % 4 != 0), (36, (wordAt ws 36).toNat % 4 != 0),
     (40, bar.toNat % 16 != 0 || (spaceOf bar != 1 && spaceOf bar != 2) || (s.tagged crew bar 16).isNone),
     (48, (List.range 4).any (fun i => wordAt ws (48 + 4 * i) != 0#32))]
  (list.find? (·.2)).map (·.1)

/-- The places of x and y in the gang's local memory. -/
def smvX (s : State) (x : Ctx) (ws : List Word) : Option VAddr := s.localAddr x.crewId (wordAt ws 32) (2 * smvK ws)
def smvY (s : State) (x : Ctx) (ws : List Word) : Option VAddr := s.localAddr x.crewId (wordAt ws 36) (4 * smvRows ws)

/-- The product to send. -/
def smvOf (s : State) (x : Ctx) (ws : List Word) : Option Smv :=
  match smvX s x ws, smvY s x ws, s.tagged x.crewId (dwordAt ws 40) 16 with
  | some (.loc xc xo), some (.loc yc yo), some bar =>
    some
      { crew := x.crewId, wave := x.cur.wave, wtag := tagOf (smvWtag ws),
        xtag := if smvXtag ws == 0 then .f16x2 else .bf16x2, rows := smvRows ws, k := smvK ws,
        wbase := (dwordAt ws 0).toNat, wstride := (wordAt ws 16).toNat,
        scale := if smvKind ws == 0 then none else
          some { kind := smvKind ws, group := smvGroup ws, rstride := (wordAt ws 20).toNat, at_ := .glob (dwordAt ws 8).toNat },
        stack := smvStack ws, xcrew := xc, xoff := xo, ycrew := yc, yoff := yo, bar := bar,
        left := [{ base := 0, len := smvRows ws }] }
  | _, _, _ => none

/-- SMV (R314). -/
def semSmv (g : Arg) : Sem :=
  { size := g.size, flow := fun _ => { g.flow [.u g.a] [] with uses := [.mem] },
    static := fun s => roleFault s.ctx rolesGM 24 7 (s.ctx.crew.core % 2 == 1),
    check := fun s =>
      let x := s.ctx
      let act := x.act g.m
      let a := (x.crew.uni g.a).val
      let ws := smvWords s x g
      let bad := ws.bind (smvBad s x.crewId)
      let gone (off : Nat) (place : List Word → Option VAddr) : Option Precise :=
        ws.bind (fun w => onceFault .bounds act (place w).isNone 0#64 (taggedLocal (wordAt w off)))
      firstFault [inflightFault x act [Opd.u g.a],
        onceFault .align act (a.extractLsb' 0 4 != 0#4) 0#64 (taggedLocal a),
        onceFault .bounds act (smvPlace s x g).isNone 0#64 (taggedLocal a),
        onceFault .descriptor act bad.isSome (BitVec.ofNat 64 (bad.getD 0)) (taggedLocal a),
        gone 32 (smvX s x), gone 36 (smvY s x)],
    unknown := fun s => !(smvReady s s.ctx g).isGo,
    wait := fun s =>
      let x := s.ctx
      let act := x.act g.m
      match smvReady s x g with
      | .go => if act != 0#32 && !s.txnsFree x.crew.core 1 then .park act (.txns 1) else .go
      | w => w,
    eff := fun s =>
      let x := s.ctx
      let act := x.act g.m
      match (if act == 0#32 then none else (smvWords s x g).bind (smvOf s x)) with
      | none => s
      | some p =>
        let s := s.catchUpLanes x.cur.wave act
        let s := match p.bar with
          | .loc _ _ => s
          | _ => s.notReplayable x.gangId
        { s with smvs := s.smvs ++ [(s.nextUid, p)], nextUid := s.nextUid + 1 } }

/-! ### The product -/

/-- Element k of row o of W. -/
def State.smvBits (s : State) (p : Smv) (o k : Nat) : Nat :=
  let n := p.wtag.bits
  let bit := k * n
  (s.taskNat? p.crew (.glob (p.wbase + o * p.wstride + bit / 8)) 1).getD 0 / 2 ^ (bit % 8) % 2 ^ n

/-- The scale entry of row o at element k. -/
def State.smvScale (s : State) (p : Smv) (sc : Scale) (o k : Nat) : Nat :=
  s.scaleWord p.crew sc o (k / scaleGroup sc.kind sc.group)

/-- Element o of y (R81 from +0.0 with block length 32 and ScaleB 1). -/
def State.smvElem (s : State) (p : Smv) (o : Nat) : Word :=
  dotElem p.k 32 false 0#32
    (fun k =>
      let z : Int := match p.scale with
        | some sc => if sc.kind == 2 then zeroPoint p.wtag (s.smvScale p sc o k) else 0
        | none => 0
      decValue p.wtag (s.smvBits p o k) z)
    (fun k => (p.xtag.fmt.getD fmtF16).decode (cellsNat (s.crew p.xcrew).lmem (p.xoff + 2 * k) 2))
    (fun k0 => match p.scale with
      | some sc => sc.factor (s.smvScale p sc o k0)
      | none => .fin false 1 0)
    (fun _ => .fin false 1 0)

/-- A byte of a product lies in a page mapped as stack-local to its stack (R147). -/
def State.stackLocal (s : State) (crew stack : Nat) (a : VAddr) : Bool :=
  let (p, t) := s.spaceOfCrew crew
  match s.page? p t a with
  | some g => g.target == .stack stack
  | none => false

/-- The first of n bytes that does not. -/
def State.notStackLocal (s : State) (crew stack : Nat) (a : VAddr) : Nat → Option VAddr
  | 0 => none
  | n + 1 => if s.stackLocal crew stack a then s.notStackLocal crew stack (a.plus 1) n else some a

/-- What ends the product at row o, if anything. -/
def State.smvMiss (s : State) (p : Smv) (o : Nat) : Option VAddr :=
  match s.notStackLocal p.crew p.stack (.glob (p.wbase + o * p.wstride)) (p.k * p.wtag.bits / 8) with
  | some a => some a
  | none =>
    match p.scale with
    | some sc => s.notStackLocal p.crew p.stack (sc.at_.plus (o * sc.rstride))
        (ceilDiv p.k (scaleGroup sc.kind sc.group) * scaleEntry sc.kind)
    | none => none

/-- Credit n bytes to a barrier (R106); a credit whose page is not there waits for it. -/
def State.credit (s : State) (crew wave : Nat) (bar : VAddr) (n : Nat) : State :=
  let (p, t) := s.spaceOfCrew crew
  match s.home? p t bar with
  | some h => s.barOp h (.credit n)
  | none =>
    let (f, s) := s.faultFor crew wave bar
    s.addAccess
      { op := s.nextUid, wave := wave, crew := crew, lane := 0, lanes := 0#32, fibres := [], flag := none, scope := 3, rel := false,
        acq := false, what := .bar (.credit n), addr := bar, ret := none, txns := 0, fault := some f }

/-- The wait that delivers a fault of an operation that credits a barrier: that on the object, whose page may still be missing (R147). -/
def State.tillBar (s : State) (crew : Nat) (bar : Option VAddr) : List Until :=
  let (p, t) := s.spaceOfCrew crew
  match bar with
  | none => []
  | some a =>
    match s.home? p t a with
    | some h => [.barrier h]
    | none => [.object a]

/-- Take n items from `first` on out of a list of ranges. -/
def takeRange (first n : Nat) : List Range → List Range
  | [] => []
  | r :: t =>
    (if r.base < first then [{ base := r.base, len := min r.len (first - r.base) : Range }] else []) ++
    (if first + n < r.base + r.len then
      [{ base := max r.base (first + n), len := r.base + r.len - max r.base (first + n) : Range }] else []) ++ takeRange first n t

/-- Items from `first` on are all left. -/
def allLeft (left : List Range) (first n : Nat) : Bool :=
  left.any (fun r => r.base ≤ first && first + n ≤ r.base + r.len)

/-- It is the turn of the product's partition at its stack multiplier (R210). -/
def State.smvTurn (s : State) (p : Smv) : Bool :=
  s.engineServes (.multiplier p.stack) (fun part =>
    s.smvs.any (fun e => e.2.stack == p.stack && s.partOf e.2.crew == part && s.quiet e.2.wave e.1)) == some (s.partOf p.crew)

/-- SMV_PACKET (R146, R147). -/
def State.smvLand (s : State) (k first n : Nat) : State :=
  match look k s.smvs with
  | none => s
  | some p =>
    if n == 0 || 16 < n || !allLeft p.left first n || !s.quiet p.wave k || !s.smvTurn p then s
    else
      let s := s.engineServed (.multiplier p.stack) (s.partOf p.crew)
      let rows := (List.range n).map (· + first)
      match rows.findSome? (s.smvMiss p) with
      | some a => ({ s with smvs := drop k s.smvs }).deferTranslate p.crew a (s.tillBar p.crew (some p.bar))
      | none =>
        let vals := rows.map (fun o => (o, s.smvElem p o))
        let s := vals.foldl (fun s e => s.putLmem p.ycrew (p.yoff + 4 * e.1) 4 e.2.toNat) s
        let left := takeRange first n p.left
        let s := if left.isEmpty then { s with smvs := drop k s.smvs } else
          { s with smvs := change k (fun q => { q with left := left }) s.smvs }
        s.credit p.crew p.wave p.bar (4 * n)

end Sys2Proof.Machine
end

