-- ==== Sys2Proof/Machine/Control.lean ====
section
/-!
DEFINITION. Control instructions: BRA, BRC, BRX (R247, R248, R250), CALL and RET (R253, R305), FORK and FEND (R14, R15). The fibres
that transfer leave the cohort for their new PC; the others stand at the next header (R48).
-/
namespace Sys2Proof.Machine

/-- Fibres leave the clause: each is changed, and its transfer is noted for TARGET (R60). -/
def State.transfer (s : State) (m : Lanes) (f : Nat → Lane → Lane) : State :=
  match s.cur with
  | none => s
  | some c =>
    { (s.modWave c.wave (fun w => w.mapLanes m (fun l ln => { f l ln with pos := 0, xfer := some c.addr }))) with
      cur := some { c with lanes := c.lanes &&& ~~~m } }

/-- Fibres leave the clause by ending, each as `f` says (R15, R16). -/
def State.endLanesBy (s : State) (m : Lanes) (f : Lane → Lane) : State :=
  match s.cur with
  | none => s
  | some c =>
    ({ (s.modWave c.wave (fun w => w.mapLanes m (fun _ ln => f ln))) with
      cur := some { c with lanes := c.lanes &&& ~~~m } }).settleWave c.wave

def State.endLanes (s : State) (m : Lanes) : State := s.endLanesBy m Lane.endFibre

/-- The address of the instruction being executed. -/
def State.here (s : State) : Word := (s.cur.getD Cursor.nil).addr

/-- BRA (R247): the offset counts words from the instruction. -/
def semBra (g : Arg) (off : Word) : Sem :=
  Sem.simple g.size (fun _ => g.flow [] []) (fun s => roleFault s.ctx rolesAll 17 0 false) (fun _ => none)
    (fun s =>
      let pc := s.here + off
      s.transfer (s.ctx.act g.m) (fun _ ln => { ln with pc := pc }))

/-- BRC (R248): every fibre of the cohort tests its own predicate. -/
def semBrc (off : Word) (neg : Bool) (p : Nat) : Sem :=
  Sem.simple 1 (fun _ => { Flow.nil with preds := [p] }) (fun s => roleFault s.ctx rolesAll 17 0 false) (fun _ => none)
    (fun s =>
      let x := s.ctx
      let pc := s.here + off
      s.transfer (laneSet (fun l => x.cur.lanes.getLsbD l && ((x.wave.lane l).preds.getLsbD p != neg)))
        (fun _ ln => { ln with pc := pc }))

/-- BRX (R250). -/
def semBrx (g : Arg) : Sem :=
  let opds := g.srcA.opds
  Sem.simple g.size (fun _ => g.flow opds [])
    (fun s => firstFault [roleFault s.ctx rolesAll 29 7 false, windowFault s.ctx opds])
    (fun s => inflightFault s.ctx (s.ctx.act g.m) opds)
    (fun s =>
      let x := s.ctx
      s.transfer (x.act g.m) (fun _ ln => { ln with pc := (g.srcA.read x.crew ln .raw).val }))

/-- CALL (R253): the return address is the header after the clause. -/
def semCall (g : Arg) (off : Word) : Sem :=
  Sem.simple g.size (fun _ => { g.flow [] [] with uses := [.depth], sets := [.depth] }) (fun s => roleFault s.ctx rolesAll 18 0 false)
    (fun s =>
      let x := s.ctx
      spillFault x (x.act g.m) (fun ln => x.crew.nreg ≤ ln.wb + g.c || x.crew.spillMax < ln.spill.length + 2))
    (fun s =>
      let x := s.ctx
      let pc := s.here + off
      let back := s.here + BitVec.ofNat 32 g.size
      s.transfer (x.act g.m) (fun _ ln =>
        { (ln.push back).push (BitVec.ofNat 32 ln.wb) with wb := ln.wb + g.c, pc := pc }))

/-- RET (R305): pops the window base and then the PC. -/
def semRet (g : Arg) : Sem :=
  Sem.simple g.size (fun _ => { g.flow [] [] with uses := [.depth, .spill], sets := [.depth] }) (fun s => roleFault s.ctx rolesAll 18 0 false)
    (fun s =>
      let x := s.ctx
      spillFault x (x.act g.m) (fun ln =>
        ln.spill.length < 2 || (ln.top 0).extractLsb' 0 2 != 0#2 || x.crew.nreg ≤ (ln.top 0).toNat))
    (fun s =>
      let x := s.ctx
      s.transfer (x.act g.m) (fun _ ln => { ln.pop 2 with wb := (ln.top 0).toNat, pc := ln.top 1 }))

/-- The crew is a crew of a keyed node (R186). -/
def State.keyedCrew (s : State) (x : Ctx) : Bool :=
  match x.gang.node with
  | some k => (match look k s.nodes with | some n => n.keyed | none => false)
  | none => false

/-- ROLE of FORK and FEND in a keyed-node crew (R186). -/
def forkRole (s : State) : Option Precise := roleFault s.ctx rolesAll 19 0 (s.keyedCrew s.ctx)

/-- A fibre's child, in a free lane that keeps its registers but for the arguments (R14). In a node crew it handles its parent's record:
their order keys are one (R189; DESIGN CHOICE, log 77). -/
def childLane (old : Lane) (parent : Lane) (args : List Reg) (pc addr : Word) (fibre : Nat) : Lane :=
  { old with
    status := .live, pc := pc, pos := 0, preds := parent.preds, wb := 0, age := 0,
    regs := args ++ old.regs.drop args.length, temps := List.replicate 4 Reg.zero, spill := [], park := none,
    woken := false, yielded := false, xfer := some addr, key := none, order := parent.order, fibre := fibre, emitSeq := 0, detSeq := 0 }

/-- A child sees what its parent did before the FORK as its own earlier accesses (R113). -/
def Access.inherit (a : Access) (parent child : Nat) : Access :=
  if a.of [parent] then { a with fibres := a.fibres ++ [child] } else a

/-- Put one child of lane l into lane c. -/
def State.forkOne (s : State) (wave l c a n : Nat) (pc addr : Word) : State :=
  let p := (s.wave wave).lane l
  let args := (List.range n).map (fun i => p.readV (a + i))
  let (k, s) := s.fresh
  let s : State := { s with accesses := s.accesses.map (fun e => (e.1, e.2.inherit p.fibre k)) }
  s.modWave wave (fun w => w.mapLanes (laneBit c) (fun _ old => childLane old p args pc addr k))

/-- FORK (R14, R266). Active lanes and free lanes are taken in ascending order; the predicate says whether a lane got a child. -/
def semFork (g : Arg) (pd : Nat) (n : Nat) (off : Word) : Sem :=
  let opds := (List.range n).map (fun i => Opd.v (g.a + i))
  Sem.simple g.size (fun _ => { g.flow opds [] with setp := [pd] })
    (fun s => firstFault [forkRole s, windowFault s.ctx opds])
    (fun s =>
      let x := s.ctx
      let act := x.act g.m
      firstFault [laneFault .bounds x act (fun _ ln => if x.crew.nreg < ln.wb + g.a + n then some (0#64, 0#64) else none),
        inflightFault x act opds])
    (fun s =>
      let x := s.ctx
      let act := laneList (x.act g.m)
      let fre := (List.range 32).filter (fun l => (x.wave.lane l).status == .free)
      let pc := s.here + off
      let s := (act.zip fre).foldl (fun s e => s.forkOne x.cur.wave e.1 e.2 g.a n pc x.cur.addr) s
      let lucky := (act.take fre.length)
      s.modWave x.cur.wave (fun w => w.mapLanes (x.act g.m) (fun l ln => ln.setPred pd (lucky.contains l))))

/-- FEND (R15). -/
def semFend (g : Arg) : Sem :=
  Sem.simple g.size (fun _ => g.flow [] []) forkRole (fun _ => none) (fun s => s.endLanes (s.ctx.act g.m))

end Sys2Proof.Machine
end

