-- ==== Sys2Proof/Machine/Tile.lean ====
section
/-!
DEFINITION. Bulk accesses of a whole cohort, the tile instructions TLD, TST, TRD, TWR (R321-R323), and the geometry instructions
BXUNION, SAHCOST, NODEPACK (R171, R251, R295, R306).
-/
namespace Sys2Proof.Machine

/-! ### Bulk accesses -/

/-- Before a bulk access: what its fibres must do first, and their core at its lines, is done, where it can be. -/
def State.bulkCaught (s : State) (wave : Nat) (act : Lanes) (runs : List (VAddr × Nat)) : State :=
  runs.foldl (fun s r => s.catchUp wave act ((s.wave wave).fibres act) r.1 r.2) (s.catchUpLanes wave act)

/-- A bulk access holds its clause behind accesses it must follow (R52, R110, R112). -/
def State.bulkWait (s : State) (wave : Nat) (act : Lanes) (runs : List (VAddr × Nat)) : Wait :=
  let t := s.bulkCaught wave act runs
  if runs.any (fun r => t.waitsAt wave act r.1 r.2) then .hold t else .go

/-! ### TLD and TST -/

def tileTag (g : Arg) : Tag := tagOf (g.w2f 0 4)
def tileCols (g : Arg) : Bool := g.w2.getLsbD 4

/-- Bytes from the first to the last byte a tile takes in memory. -/
def tileSpan : Nat := 15 * 128 + 64

def tilePlace (s : State) (x : Ctx) (g : Arg) : Option VAddr := s.localAddr x.crewId (x.crew.uni g.a).val tileSpan

/-- The sixteen runs of 64 bytes. -/
def tileRuns (a : VAddr) : List (VAddr × Nat) := (List.range 16).map (fun i => (a.plus (128 * i), 64))

/-- The element at word j of run i. -/
def tileIndex (g : Arg) (i j : Nat) : Nat := if tileCols g then 16 * j + i else 16 * i + j

/-- Checks of TLD and TST after the general ones (R321). -/
def tileMoveFaults (s : State) (x : Ctx) (act : Lanes) (g : Arg) (n : Nat) : List (Option Precise) :=
  let a := (x.crew.uni g.a).val
  [onceFault .bounds act (x.crew.ntile ≤ n) 0#64 0#64,
   onceFault .align act (a.extractLsb' 0 6 != 0#6) 0#64 (taggedLocal a),
   onceFault .bounds act (tilePlace s x g).isNone 0#64 (taggedLocal a),
   tileError s x act n]

/-- TLD's waits: its tile, and accesses it must follow (R57, R52). -/
def tldWait (g : Arg) (s : State) : Wait :=
  let x := s.ctx
  match tilePlace s x g with
  | some a => tileWait x (x.act g.m) g.d (s.bulkWait x.cur.wave (x.act g.m) (tileRuns a))
  | none => .go

/-- TLD (R322). While it waits, what it will read is not known (DESIGN CHOICE, log 60). -/
def semTld (g : Arg) : Sem :=
  { size := g.size, flow := fun _ => { g.flow [.u g.a] [] with uses := [.tile, .mem], sets := [.tile, .image] },
    static := fun s => roleFault s.ctx rolesGV 26 0 false,
    check := fun s =>
      let x := s.ctx
      let act := x.act g.m
      firstFault (inflightFault x act [Opd.u g.a] :: tileMoveFaults s x act g g.d),
    unknown := fun s => !(tldWait g s).isGo,
    guess := fun s => s.modWave s.ctx.cur.wave (fun w => w.setTile g.d (fun t => { t with tag := tileTag g, pend := false })),
    wait := tldWait g,
    eff := fun s =>
      let x := s.ctx
      let act := x.act g.m
      match (if act == 0#32 then none else tilePlace s x g) with
      | some (.loc c o) =>
        let s := s.bulkCaught x.cur.wave act (tileRuns (.loc c o))
        let word (i : Nat) : Word :=
          let (p, q) := if tileCols g then (i % 16, i / 16) else (i / 16, i % 16)
          s.lmemWord c (o + 128 * p + 4 * q)
        s.modWave x.cur.wave (fun w => w.setTile g.d (fun t => { t with tag := tileTag g, elems := (List.range 256).map word }))
      | _ => s }

/-- TST (R322). While its tile is pending, what it stores is not known (DESIGN CHOICE, log 60). -/
def semTst (g : Arg) : Sem :=
  { size := g.size, flow := fun s => { g.flow [.u g.a] [] with uses := [.tile, .image], sets := .mem :: s.tileSpots (s.ctx.act g.m) g.b },
    static := fun s => roleFault s.ctx rolesGV 26 1 false,
    check := fun s =>
      let x := s.ctx
      let act := x.act g.m
      let t := x.wave.tile g.b
      firstFault (inflightFault x act [Opd.u g.a] ::
        formatFault x act (fun _ => if !s.tagKnown x g.b || x.crew.ntile ≤ g.b || tileTag g == .raw then none else oneTag (tileTag g) t.tag) ::
        tileMoveFaults s x act g g.b),
    unknown := fun s => tileUnknown s.ctx (s.ctx.act g.m) g.b,
    vague := fun s => !s.tagKnown s.ctx g.b, guess := fun s => s.tileLanded g.b,
    wait := fun s =>
      let x := s.ctx
      let act := x.act g.m
      match tilePlace s x g with
      | some (.loc c o) =>
        let rows := (List.range 16).map (fun i => (c, o / 128 + i))
        tileWait x act g.b (if s.anyPinned rows then .park act (.pinned rows)
          else s.bulkWait x.cur.wave act (tileRuns (.loc c o)))
      | _ => .go,
    eff := fun s =>
      let x := s.ctx
      let act := x.act g.m
      match (if act == 0#32 then none else tilePlace s x g) with
      | some (.loc c o) =>
        let s := s.bulkCaught x.cur.wave act (tileRuns (.loc c o))
        let els := (x.wave.tile g.b).elems
        (List.range 16).foldl (fun s i =>
          s.storeWords (.loc c (o + 128 * i)) ((List.range 16).map (fun j => (els[tileIndex g i j]?).getD 0#32))) s
      | _ => s }

/-! ### TRD and TWR -/

/-- The first row moved. -/
def tileRow (x : Ctx) (g : Arg) : Nat := if g.m.bi then g.w2.toNat else (x.crew.uni g.b).val.toNat

/-- The element of a lane. -/
def tileElem (x : Ctx) (g : Arg) (l : Nat) : Nat := 16 * tileRow x g + l

/-- Checks of TRD and TWR after the general ones (R321, R323). -/
def tileRowFaults (s : State) (x : Ctx) (act : Lanes) (g : Arg) (n : Nat) : List (Option Precise) :=
  [onceFault .bounds act (x.crew.ntile ≤ n || 16 < tileRow x g + 2) 0#64 0#64, tileError s x act n]

def rowOpds (g : Arg) : List Opd := if g.m.bi then [] else [.u g.b]

/-- TRD (R323). While its tile is pending, its check step takes free values for the elements, whose tag may not be known either (DESIGN
CHOICE, log 60). -/
def semTrd (g : Arg) : Sem :=
  let opds := rowOpds g ++ [Opd.v g.d]
  { size := g.size,
    flow := fun s => { g.flow (rowOpds g) [.v g.d] with uses := [.tile, .image], sets := s.tileSpots (s.ctx.act g.m) g.a },
    static := fun s => firstFault [roleFault s.ctx rolesGV 26 2 false, windowFault s.ctx opds],
    check := fun s =>
      let x := s.ctx
      let act := x.act g.m
      firstFault (inflightFault x act opds :: tileRowFaults s x act g g.a),
    unknown := fun s => tileUnknown s.ctx (s.ctx.act g.m) g.a,
    vague := fun s => !s.tagKnown s.ctx g.a,
    guess := fun s =>
      (s.tileLanded g.a).modWave s.ctx.cur.wave (fun w => w.mapLanes (s.ctx.act g.m) (fun l ln =>
        ln.writeV g.d (Reg.done (s.freeLaneWord l) (s.ctx.wave.tile g.a).tag))),
    wait := fun s => tileWait s.ctx (s.ctx.act g.m) g.a .go,
    eff := fun s =>
      let x := s.ctx
      let t := x.wave.tile g.a
      s.modWave x.cur.wave (fun w => w.mapLanes (x.act g.m) (fun l ln =>
        ln.writeV g.d (Reg.done ((t.elems[tileElem x g l]?).getD 0#32) t.tag))) }

/-- TWR (R323). While its tile is pending, the rows it leaves are not known (DESIGN CHOICE, log 60). -/
def semTwr (g : Arg) : Sem :=
  let opds := rowOpds g ++ [Opd.v g.a]
  let tag (x : Ctx) : Tag := ((x.wave.lane (lowestLane (x.act g.m))).readV g.a).tag
  { size := g.size, flow := fun _ => { g.flow opds [] with cross := true, uses := [.tile], sets := [.tile, .image] },
    static := fun s => firstFault [roleFault s.ctx rolesGV 26 3 false, windowFault s.ctx opds],
    check := fun s =>
      let x := s.ctx
      let act := x.act g.m
      firstFault (inflightFault x act opds :: formatFault x act (fun ln => oneTag (tag x) (ln.readV g.a).tag) ::
        tileRowFaults s x act g g.d),
    unknown := fun s => tileUnknown s.ctx (s.ctx.act g.m) g.d,
    guess := fun s => s.modWave s.ctx.cur.wave (fun w => w.setTile g.d (fun t => { t with tag := tag s.ctx, pend := false })),
    wait := fun s => tileWait s.ctx (s.ctx.act g.m) g.d .go,
    eff := fun s =>
      let x := s.ctx
      let act := x.act g.m
      if act == 0#32 then s
      else
        s.modWave x.cur.wave (fun w => w.setTile g.d (fun t => { t with
          tag := tag x,
          elems := (laneList act).foldl (fun es l => es.set (tileElem x g l) ((x.wave.lane l).readV g.a).val) t.elems })) }

/-! ### BXUNION and SAHCOST -/

/-- Six registers from n on. -/
def boxOpds (n : Nat) : List Opd := (List.range 6).map (fun i => Opd.v (n + i))
def Lane.box (ln : Lane) (n : Nat) : List Reg := (List.range 6).map (fun i => ln.readV (n + i))

/-- A register of a lane not tagged F32. -/
def notF32 (rs : List Reg) : Option (Tag × Option Tag) := firstTag (rs.map (fun r => oneTag .f32 r.tag))

/-- BXUNION (R251). -/
def semBxunion (g : Arg) : Sem :=
  let opds := boxOpds g.a ++ boxOpds g.b ++ boxOpds g.d
  Sem.simple g.size (fun _ => g.flow (boxOpds g.a ++ boxOpds g.b) (boxOpds g.d))
    (fun s => firstFault [roleFault s.ctx rolesGV 26 0 false, windowFault s.ctx opds])
    (fun s =>
      let x := s.ctx
      let act := x.act g.m
      firstFault [inflightFault x act opds, formatFault x act (fun ln => notF32 (groupOrder (ln.box g.a) (ln.box g.b)))])
    (fun s =>
      let x := s.ctx
      s.modWave x.cur.wave (fun w => w.mapLanes (x.act g.m) (fun _ ln =>
        let vals := ((ln.box g.a).zip (ln.box g.b)).mapIdx (fun i p => if i < 3 then f32Min p.1.val p.2.val else f32Max p.1.val p.2.val)
        (vals.mapIdx (fun i v => (i, v))).foldl (fun ln e => ln.writeV (g.d + e.1) (Reg.done e.2 .f32)) ln)))

/-- The cost of a box (Table 8.9). -/
def sahWord (b : List Word) (w : Word) : Word :=
  let d (k : Nat) : Word := f32Max (f32Sub ((b[k + 3]?).getD 0#32) ((b[k]?).getD 0#32)) 0#32
  f32Mul (f32Add (f32Add (f32Mul (d 0) (d 1)) (f32Mul (d 1) (d 2))) (f32Mul (d 2) (d 0))) w

/-- SAHCOST (R306). -/
def semSahcost (g : Arg) : Sem :=
  let opds := boxOpds g.a ++ [Opd.v g.b, .v g.d]
  Sem.simple g.size (fun _ => g.flow (opds.take 7) (opds.drop 7))
    (fun s => firstFault [roleFault s.ctx rolesGV 26 1 false, windowFault s.ctx opds])
    (fun s =>
      let x := s.ctx
      let act := x.act g.m
      firstFault [inflightFault x act opds, formatFault x act (fun ln => notF32 (groupOrder (ln.box g.a) [ln.readV g.b]))])
    (fun s =>
      let x := s.ctx
      s.modWave x.cur.wave (fun w => w.mapLanes (x.act g.m) (fun _ ln =>
        ln.writeV g.d (Reg.done (sahWord ((ln.box g.a).map (·.val)) (ln.readV g.b).val) .f32))))

/-! ### NODEPACK -/

/-- The groups of four lanes with an active lane: group number and its lowest active lane. -/
def packGroups (act : Lanes) : List (Nat × Nat) :=
  (List.range 8).filterMap (fun q => ((List.range 4).map (fun i => 4 * q + i)).find? (fun l => act.getLsbD l) |>.map (fun l => (q, l)))

def packAddr (x : Ctx) (g : Arg) (l : Nat) : Word := ((x.wave.lane l).readV g.a).val

/-- The words of one group's node (R154, Table 8.9). -/
def packNode (x : Ctx) (act : Lanes) (g : Arg) (q : Nat) : List Word :=
  let lanes := (List.range 4).map (fun i => 4 * q + i)
  lanes.flatMap (fun l =>
    if act.getLsbD l then ((x.wave.lane l).box g.b).map (·.val)
    else List.replicate 3 f32InfW ++ List.replicate 3 (f32NegW f32InfW)) ++
  (List.range 4).map (fun i => (x.crew.uni (g.c + i)).val) ++
  lanes.map (fun l => if act.getLsbD l then ((x.wave.lane l).readV (g.b + 6)).val else 0#32)

/-- Words of local memory that some lanes store one after the other, each as STL does (R319). -/
def storeRun (s : State) (x : Ctx) (op : Nat) (m : Lanes) (a : VAddr) : List Word → State
  | [] => s
  | w :: ws => storeRun (s.storeLane op x.crewId x.cur.wave m (x.wave.fibres m) a w) x op m (a.plus 4) ws

/-- The active lanes of a group of four. -/
def packLanes (act : Lanes) (q : Nat) : Lanes := act &&& (0xF#32 <<< (4 * q))

/-- NODEPACK (R295). -/
def semNodepack (g : Arg) : Sem :=
  let vs := [Opd.v g.a] ++ (List.range 7).map (fun i => Opd.v (g.b + i))
  let us := (List.range 4).map (fun i => Opd.u (g.c + i))
  let firsts (act : Lanes) : Lanes := laneSet (fun l => (packGroups act).any (fun e => e.2 == l))
  let places (s : State) (x : Ctx) (act : Lanes) : List (Nat × VAddr) :=
    (packGroups act).filterMap (fun e => (s.localAddr x.crewId (packAddr x g e.2) 128).map (fun a => (e.1, a)))
  { size := g.size, flow := fun _ => { g.flow (vs ++ us) [] with cross := true, sets := [.mem] },
    static := fun s => firstFault [roleFault s.ctx rolesGV 26 2 false, windowFault s.ctx vs],
    check := fun s =>
      let x := s.ctx
      let act := x.act g.m
      let first := firsts act
      firstFault [inflightFault x act (vs ++ us), formatFault x act (fun ln => notF32 (ln.box g.b)),
        laneFault .align x first (fun _ ln =>
          let a := (ln.readV g.a).val
          if a.extractLsb' 0 7 != 0#7 then some (0#64, taggedLocal a) else none),
        laneFault .bounds x first (fun _ ln =>
          let a := (ln.readV g.a).val
          if (s.localAddr x.crewId a 128).isNone then some (0#64, taggedLocal a) else none)],
    unknown := fun _ => false,
    wait := fun s =>
      let x := s.ctx
      let act := x.act g.m
      let rows := (places s x act).filterMap (fun e => match e.2 with
        | .loc c o => some (c, o / 128)
        | _ => none)
      if act == 0#32 then .go else if s.anyPinned rows then .park act (.pinned rows) else .go,
    eff := fun s =>
      let x := s.ctx
      let act := x.act g.m
      let ps := places s x act
      if act == 0#32 then s
      else
        let (op, s) := s.fresh
        ps.foldl (fun s e => storeRun s x op (packLanes act e.1) e.2 (packNode x act g e.1)) s }

end Sys2Proof.Machine
end

