-- ==== Sys2Proof/Machine/Hyper.lean ====
section
/-!
DEFINITION. The hypervector instructions (09, R268-R270) and the recall of HNEAR.
-/
namespace Sys2Proof.Machine

def Wave.hyp (w : Wave) (n : Nat) : Hyper := (w.hyps[n]?).getD 0#8192
def Wave.setHyp (w : Wave) (n : Nat) (h : Hyper) : Wave := { w with hyps := w.hyps.set n h }
def Wave.bun (w : Wave) (n : Nat) : List Int := (w.buns[n]?).getD []
def Wave.setBun (w : Wave) (n : Nat) (b : List Int) : Wave := { w with buns := w.buns.set n b }

/-- BOUNDS of h and b numbers (R173). -/
def hypBounds (x : Ctx) (act : Lanes) (hs bs : List Nat) : Option Precise :=
  onceFault .bounds act (hs.any (fun n => x.crew.nhyp ≤ n) || bs.any (fun n => x.crew.nbun ≤ n)) 0#64 0#64

/-- An instruction that changes a register of the wave, once, when a fibre is active (R174). -/
def hypSem (g : Arg) (sub : Nat) (opds : List Opd) (hs bs : List Nat) (f : Ctx → Wave → Wave) : Sem :=
  Sem.simple g.size (fun _ => g.flow opds []) (fun s => roleFault s.ctx rolesGV 27 sub false)
    (fun s =>
      let x := s.ctx
      let act := x.act g.m
      firstFault [inflightFault x act opds, hypBounds x act hs bs])
    (fun s =>
      let x := s.ctx
      if x.act g.m == 0#32 then s else s.modWave x.cur.wave (f x))

/-- HBIND (R176). -/
def semHbind (g : Arg) : Sem :=
  hypSem g 2 [] [g.d, g.a, g.b] [] (fun _ w => w.setHyp g.d (w.hyp g.a ^^^ w.hyp g.b))

/-- HPERM (R176, R270). -/
def semHperm (g : Arg) : Sem :=
  hypSem g 3 (if g.m.bi then [] else [.u g.b]) [g.d, g.a] [] (fun x w =>
    let n := if g.m.bi then g.w2.toNat else (x.crew.uni g.b).val.toNat
    w.setHyp g.d ((w.hyp g.a).rotateLeft (n % 8192)))

/-- HBUND (R176). -/
def semHbund (g : Arg) : Sem :=
  hypSem g 4 [] [g.a] [g.d] (fun _ w =>
    let k : Int := (g.w2f 0 4 : Nat)
    let h := w.hyp g.a
    w.setBun g.d ((w.bun g.d).mapIdx (fun j c => max (-127) (min 127 (if h.getLsbD j then c + k else c - k)))))

/-- HCLR (R176). -/
def semHclr (g : Arg) : Sem := hypSem g 5 [] [] [g.d] (fun _ w => w.setBun g.d (List.replicate 8192 0))

/-- A hypervector from its bits, bit 0 first. -/
def hypOfBits (bs : List Bool) : Hyper := BitVec.ofNat 8192 (bs.foldr (fun b n => 2 * n + boolNat b) 0)

/-- HTHR (R176). -/
def semHthr (g : Arg) : Sem :=
  hypSem g 6 [] [g.d, g.b] [g.a] (fun _ w =>
    let t := w.hyp g.b
    w.setHyp g.d (hypOfBits ((w.bun g.a).mapIdx (fun j c => if c == 0 then t.getLsbD j else decide (0 < c)))))

/-- The 128 words of HGEN. -/
def hypGen (key base : Dword) : Hyper :=
  BitVec.ofNat 8192 (((List.range 128).map (fun i => (genWord key (base + BitVec.ofNat 64 i)).toNat)).foldr
    (fun w n => 2 ^ 64 * n + w) 0)

/-- HGEN (R176, R270). -/
def semHgen (g : Arg) : Sem :=
  hypSem g 9 [.u g.a, .u (g.a + 1), .u g.b] [g.d] [] (fun x w =>
    w.setHyp g.d (hypGen (x.crew.pair g.a) (BitVec.ofNat 64 (128 * (x.crew.uni g.b).val.toNat))))

/-! ### HLD and HST -/

def hypShelf (g : Arg) : Bool := g.w2.getLsbD 0

def hypPlace (s : State) (x : Ctx) (g : Arg) : Option VAddr :=
  let a := (x.crew.uni g.a).val
  if hypShelf g then shelfAddr a 1024 else s.localAddr x.crewId a 1024

/-- ALIGN and BOUNDS of the address (R177). -/
def hypAddrFaults (s : State) (x : Ctx) (act : Lanes) (g : Arg) : List (Option Precise) :=
  let a := (x.crew.uni g.a).val
  let t := lsTagged (hypShelf g) a
  [onceFault .align act (a.extractLsb' 0 6 != 0#6) 0#64 t, onceFault .bounds act (hypPlace s x g).isNone 0#64 t]

/-- Parks of a shelf access: one that its clause already holds at has its transactions (R109). -/
def hypPark (s : State) (x : Ctx) (act : Lanes) (a : VAddr) : Wait :=
  match a with
  | .shelf _ _ =>
    let lines := linesTouched a 1024
    if x.cur.txns == 0 then shelfWait s x act lines
    else if lines.any (fun k => s.lineAbsent x.launch.part x.launch.tenant k) then .park act (.absent lines)
    else .go
  | _ => .go

/-- Parks of a shelf access, then what must perform first. -/
def hypWait (s : State) (x : Ctx) (act : Lanes) (a : VAddr) : Wait :=
  match hypPark s x act a with
  | .go => s.bulkWait x.cur.wave act [(a, 1024)]
  | w => w

/-- Transactions of a shelf access: one a line (R109, Table 5.11). -/
def hypTxns (s : State) (g : Arg) : Nat :=
  match (if s.ctx.act g.m == 0#32 then none else hypPlace s s.ctx g) with
  | some a => (linesTouched a 1024).length
  | none => 0

/-- HLD (R177). -/
def semHld (g : Arg) : Sem :=
  { size := g.size, flow := fun _ => g.flow [.u g.a] [],
    static := fun s => roleFault s.ctx rolesGV 27 0 false,
    check := fun s =>
      let x := s.ctx
      let act := x.act g.m
      firstFault (inflightFault x act [Opd.u g.a] :: hypBounds x act [g.d] [] :: hypAddrFaults s x act g),
    unknown := fun _ => false,
    wait := fun s =>
      let x := s.ctx
      let act := x.act g.m
      match (if act == 0#32 then none else hypPlace s x g) with
      | none => .go
      | some a =>
        match hypWait s x act a with
        | .go => ((s.bulkCaught x.cur.wave act [(a, 1024)]).taskMiss x.crewId a 1024).elim .go (s.bulkMiss act)
        | w => w,
    eff := fun s =>
      let x := s.ctx
      let act := x.act g.m
      match (if act == 0#32 then none else hypPlace s x g) with
      | none => s
      | some a =>
        let s := s.bulkCaught x.cur.wave act [(a, 1024)]
        s.modWave x.cur.wave (fun w => w.setHyp g.d (BitVec.ofNat 8192 ((s.taskNat? x.crewId a 1024).getD 0))),
    entries := fun s => hypTxns s g }

/-- The sixteen lines of 64 bytes, with the region that holds each. -/
def hstLines (s : State) (x : Ctx) (a : VAddr) : List (Nat × VAddr × Option (Nat × Nat)) :=
  (List.range 16).map (fun i => (i, a.plus (64 * i), s.detAt x.crewId (a.plus (64 * i))))

/-- Charges of the lines in DET regions (Table 6.4). -/
def hstCharges (s : State) (x : Ctx) (a : VAddr) : List Charge :=
  let hits := (hstLines s x a).filterMap (fun e => e.2.2)
  (dedup (hits.map (·.1))).flatMap (fun i =>
    x.crew.plainCharges i ((hits.filter (fun h => h.1 == i)).map (fun h => h.2 / 64)))

/-- The first byte outside DET regions that does not translate. -/
def hstMiss (s : State) (x : Ctx) (a : VAddr) : Option VAddr :=
  (hstLines s x a).findSome? (fun e => match e.2.2 with
    | some _ => none
    | none => s.firstMiss x.launch.part x.launch.tenant e.2.1 64)

/-- Sixteen words of a number from bit 512 × i on. -/
def hypLine (v : Hyper) (i : Nat) : List Word :=
  (List.range 16).map (fun j => v.extractLsb' (512 * i + 32 * j) 32)

/-- HST (R177). One to local memory is a local-memory write: the gang stays replayable (R132; DESIGN CHOICE, log 55). -/
def semHst (g : Arg) : Sem :=
  { size := g.size, flow := fun _ => { g.flow [.u g.a] [] with sets := [.mem] },
    static := fun s => roleFault s.ctx rolesGV 27 1 false,
    check := fun s =>
      let x := s.ctx
      let act := x.act g.m
      firstFault (inflightFault x act [Opd.u g.a] :: hypBounds x act [g.b] [] :: hypAddrFaults s x act g),
    unknown := fun _ => false,
    wait := fun s =>
      let x := s.ctx
      let act := x.act g.m
      match (if act == 0#32 then none else hypPlace s x g) with
      | none => .go
      | some a =>
        let rows := match a with
          | .loc c o => rowsTouched c o 1024
          | _ => []
        if s.anyPinned rows then .park act (.pinned rows)
        else
          match hypWait s x act a with
          | .go =>
            (match hstMiss s x a with
             | some m => s.bulkMiss act m
             | none => overflowWait s x act (hstCharges s x a))
          | w => w,
    eff := fun s =>
      let x := s.ctx
      let act := x.act g.m
      match (if act == 0#32 then none else hypPlace s x g) with
      | none => s
      | some a =>
        let s := s.bulkCaught x.cur.wave act [(a, 1024)]
        let v := x.wave.hyp g.b
        let s := s.buffer x.crewId [] (hstCharges s x a)
        (hstLines s x a).foldl (fun s e =>
          let ws := hypLine v e.1
          match e.2.2 with
          | some (i, o) => s.buffer x.crewId (plainEntries i o none 64 (wordsNat ws)) []
          | none =>
            let s := s.storeUnsafe x e.2.1
            (match s.home? x.launch.part x.launch.tenant e.2.1 with
             | some h => (s.storeWords h ws).markDirty x.launch.part x.launch.tenant e.2.1
             | none => s)) s,
    entries := fun s => hypTxns s g }

/-! ### HDIST and HNEAR -/

/-- Hamming distance. -/
def hamming (a b : Hyper) : Nat := ((List.range 8192).filter (fun j => a.getLsbD j != b.getLsbD j)).length

/-- Parks of a query: one transaction, then a full flag. -/
def queryWait (x : Ctx) (s : State) (act : Lanes) (fsel : Bool) : Wait :=
  if act == 0#32 then .go
  else if !s.txnsFree x.crew.core 1 then .park act (.txns 1)
  else if x.flagFull fsel then .hold s
  else .go

/-- Make uniform registers pending (R56). -/
def State.pendUnis (s : State) (x : Ctx) (ns : List Nat) : State :=
  ns.foldl (fun s n => s.setUni x.crewId n { x.crew.uni n with pend := true }) s

/-- A query of one transaction whose uniform results are pending until it lands. -/
def sendQuery (s : State) (x : Ctx) (g : Arg) (dests : List Nat) (p : Payload) : State :=
  let flag := x.cur.flagOf g.m.fsel
  let (op, s) := s.countOp x.cur.wave flag
  let s := s.pendUnis x dests
  s.addFlight { op := op, wave := x.cur.wave, flag := flag, txns := 1, lines := [], payload := p, fault := none }

/-- HDIST (R178). -/
def semHdist (g : Arg) : Sem :=
  { size := g.size, flow := fun _ => g.flow [] [.u g.d],
    static := fun s => roleFault s.ctx rolesGV 27 7 false,
    check := fun s =>
      let x := s.ctx
      let act := x.act g.m
      firstFault [inflightFault x act [Opd.u g.d], hypBounds x act [g.a, g.b] []],
    unknown := fun _ => false,
    wait := fun s => queryWait s.ctx s (s.ctx.act g.m) g.m.fsel,
    eff := fun s =>
      let x := s.ctx
      if x.act g.m == 0#32 then s
      else
        sendQuery s x g [g.d] (.hdist g.d (BitVec.ofNat 32 (hamming (x.wave.hyp g.a) (x.wave.hyp g.b)))) }

/-- The words of the associative table's descriptor (Table 9.2); none while they wait for the fibres' own writes (R112). -/
def nearWords (s : State) (x : Ctx) (g : Arg) : Option (List Word) :=
  (s.localAddr x.crewId (x.crew.uni g.b).val 16).bind (fun a => s.issueWords? x (x.act g.m) a 4)

/-- What HNEAR waits for before its descriptor can be read. -/
def nearReady (s : State) (x : Ctx) (g : Arg) : Wait :=
  match (if x.act g.m == 0#32 then none else s.localAddr x.crewId (x.crew.uni g.b).val 16) with
  | some a => s.wordsWait x (x.act g.m) a 16
  | none => .go

/-- The offending field at the lowest offset, or none. Items that would run past the end of shelf offend at BASE (DESIGN CHOICE,
log 80). -/
def nearBad (ws : List Word) : Option Nat :=
  let base := dwordAt ws 0
  let count := (wordAt ws 8).toNat
  if spaceOf base != 1 || base.extractLsb' 0 10 != 0#10 ||
      (taggedFar base (if 65536 < count then 0 else 1024 * count)).isNone then some 0
  else if 65536 < count then some 8
  else if wordAt ws 12 != 0#32 then some 12
  else none

/-- HNEAR (R179). -/
def semHnear (g : Arg) : Sem :=
  { size := g.size, flow := fun _ => { g.flow [.u g.b] [.u g.d, .u (g.d + 1)] with uses := [.mem] },
    static := fun s => roleFault s.ctx rolesGV 27 8 false,
    check := fun s =>
      let x := s.ctx
      let act := x.act g.m
      let a := (x.crew.uni g.b).val
      let bad := (nearWords s x g).bind nearBad
      firstFault [inflightFault x act [Opd.u g.b, .u g.d, .u (g.d + 1)], hypBounds x act [g.a] [],
        onceFault .align act (a.extractLsb' 0 4 != 0#4) 0#64 (taggedLocal a),
        onceFault .bounds act (s.localAddr x.crewId a 16).isNone 0#64 (taggedLocal a),
        onceFault .descriptor act bad.isSome (BitVec.ofNat 64 (bad.getD 0)) (taggedLocal a)],
    unknown := fun s => !(nearReady s s.ctx g).isGo,
    guess := fun s => s.pendUnis s.ctx [g.d, g.d + 1],
    wait := fun s =>
      match nearReady s s.ctx g with
      | .go => queryWait s.ctx s (s.ctx.act g.m) g.m.fsel
      | w => w,
    eff := fun s =>
      let x := s.ctx
      let act := x.act g.m
      match (if act == 0#32 then none else nearWords s x g) with
      | none => s
      | some ws =>
        let s := s.catchUpLanes x.cur.wave act
        (match taggedFar (dwordAt ws 0) 0 with
         | some base => sendQuery s x g [g.d, g.d + 1] (.hnear g.d (x.wave.hyp g.a) base (wordAt ws 8).toNat)
         | none => s) }

/-- The nearest item from item i on, against the best so far (R179). -/
def State.nearest (s : State) (crew : Nat) (q : Hyper) (base : VAddr) : Nat → Nat → Nat × Nat → Except VAddr (Nat × Nat)
  | _, 0, best => .ok best
  | i, n + 1, best =>
    let a := base.plus (1024 * i)
    match s.taskNat? crew a 1024 with
    | some v =>
      let d := hamming q (BitVec.ofNat 8192 v)
      s.nearest crew q base (i + 1) n (if d < best.2 then (i, d) else best)
    | none => .error ((s.taskMiss crew a 1024).getD a)

end Sys2Proof.Machine
end

