-- ==== Sys2Proof/Machine/Sfu.lean ====
section
/-!
DEFINITION. The special functions (R311, Table 22.2): each result is the exact value correctly rounded to nearest-even. The
transcendental ones are enclosed between two fixed-point numbers whose distance is a proven-by-hand error bound, at growing
precision, until both ends round alike (log 10). Values that are exactly representable are answered on their own.
-/
namespace Sys2Proof.Machine

/-! ### Fixed-point enclosures: an integer v at precision p stands for v / 2^p -/

/-- Taylor sum of e^y for y at precision p: `t` is the term, `i` its index. Each term is cut down once, so n terms err by
less than n + 1 units. -/
def expSum (p : Nat) (y : Int) : Nat → Nat → Int → Int → Int
  | 0, _, _, s => s
  | n + 1, i, t, s =>
    let t' := t * y / (2 ^ p : Nat) / (i : Int)
    expSum p y n (i + 1) t' (s + t')

/-- Sum of z^(2i+1) / (2i+1), from the power `t` on: the area tangent for `alt` false, the arctangent for true. -/
def oddSum (p : Nat) (z2 : Int) (alt : Bool) : Nat → Nat → Int → Int → Int
  | 0, _, _, s => s
  | n + 1, i, t, s =>
    let q := t / (2 * i + 1 : Nat)
    oddSum p z2 alt n (i + 1) (t * z2 / (2 ^ p : Nat)) (if alt && i % 2 == 1 then s - q else s + q)

/-- ln 2 = 2 artanh(1/3) at precision p, within 2p units. -/
def ln2At (p : Nat) : Int :=
  let z : Int := (2 ^ p / 3 : Nat)
  2 * oddSum p (z * z / (2 ^ p : Nat)) false p 0 z 0

/-- arctan(1/n) at precision p, within p units. -/
def atanInv (p n : Nat) : Int :=
  let z : Int := (2 ^ p / n : Nat)
  oddSum p (z * z / (2 ^ p : Nat)) true p 0 z 0

/-- π at precision p by Machin's formula, within 32p units. -/
def piAt (p : Nat) : Int := 16 * atanInv p 5 - 4 * atanInv p 239

/-- Taylor sum of sin y (from t = y, i = 1) or of cos y (from t = 1, i = 0). -/
def trigSum (p : Nat) (y2 : Int) : Nat → Nat → Int → Int → Int
  | 0, _, _, s => s
  | n + 1, i, t, s =>
    let t' := -(t * y2 / (2 ^ p : Nat) / ((i + 1) * (i + 2) : Nat))
    trigSum p y2 n (i + 2) t' (s + t')

/-- The value m × 2^e, e possibly negative, as an integer at precision p, rounded down. -/
def fixAt (p : Nat) (m : Nat) (e : Int) : Int :=
  let k := e + p
  if 0 ≤ k then (m * 2 ^ k.toNat : Nat) else (m / 2 ^ (-k).toNat : Nat)

/-- The error allowed at precision p, in units: far above the sums' own error. -/
def slack (p : Nat) : Int := 256 * p

/-- Round a positive enclosure [v − slack, v + slack] / 2^p × 2^s: the common result of both ends. -/
def roundEnclosed (f : Fmt) (ftz neg : Bool) (p : Nat) (v : Int) (s : Int) : Option Nat :=
  let lo := v - slack p
  let hi := v + slack p
  if lo ≤ 0 then none
  else
    let a := f.round .ne false ftz neg lo.toNat (s - p) false
    let b := f.round .ne false ftz neg hi.toNat (s - p) false
    if a == b then some a else none

/-- Try growing precisions; the last one is taken as it stands. -/
def ziv (g : Nat → Option Nat) (last : Nat) : List Nat → Nat
  | [] => last
  | p :: ps => (match g p with | some r => r | none => ziv g last ps)

def precisions : List Nat := [96, 192, 384, 768]

/-! ### The functions on a finite value ± m × 2^e, m not zero -/

/-- 2^x. -/
def ex2Fin (f : Fmt) (ftz neg : Bool) (m : Nat) (e : Int) : Nat :=
  let floorLog := (Nat.log2 m : Int) + e
  if 12 ≤ floorLog then (if neg then f.round .ne false ftz false 1 (-(4096 : Int)) false else f.overflow .ne false false)
  else
    let whole : Int := if 0 ≤ e then (m * 2 ^ e.toNat : Nat) else (m / 2 ^ (-e).toNat : Nat)
    let exact := 0 ≤ e || m % 2 ^ (-e).toNat == 0
    if exact then f.round .ne false ftz false 1 (if neg then -whole else whole) false
    else
      -- x = n + r with 0 < r < 1
      let n : Int := if neg then -whole - 1 else whole
      let k := (-e).toNat
      let fr := m % 2 ^ k
      let r := if neg then 2 ^ k - fr else fr
      ziv (fun p =>
        let y := fixAt p r (-(k : Int)) * ln2At p / (2 ^ p : Nat)
        roundEnclosed f ftz false p (expSum p y p 1 (2 ^ p : Nat) (2 ^ p : Nat)) n) f.nanPat precisions

/-- log₂ of a positive m × 2^e. -/
def lg2Fin (f : Fmt) (ftz : Bool) (m : Nat) (e : Int) : Nat :=
  let l := Nat.log2 m
  let n : Int := (l : Int) + e
  if m == 2 ^ l then (if n == 0 then 0 else f.round .ne false ftz (n < 0) n.natAbs 0 false)
  else
    ziv (fun p =>
      -- c = m / 2^l in (1, 2); log₂ c = 2 artanh((c − 1) / (c + 1)) / ln 2
      let z : Int := ((m - 2 ^ l) * 2 ^ p / (m + 2 ^ l) : Nat)
      let ln := 2 * oddSum p (z * z / (2 ^ p : Nat)) false p 0 z 0
      let v := n * (2 ^ p : Nat) + ln * (2 ^ p : Nat) / ln2At p
      roundEnclosed f ftz (v < 0) p v.natAbs 0) f.nanPat precisions

/-- sin(π a / 2^k) for 0 < a / 2^k ≤ 1/2, rounded; `cosine` takes cos(π a / 2^k) for 0 ≤ a / 2^k < 1/2. -/
def trigFirst (f : Fmt) (ftz neg cosine : Bool) (a k : Nat) : Nat :=
  ziv (fun p =>
    let y := fixAt p a (-(k : Int)) * piAt p / (2 ^ p : Nat)
    let y2 := y * y / (2 ^ p : Nat)
    roundEnclosed f ftz neg p
      (if cosine then trigSum p y2 p 0 (2 ^ p : Nat) (2 ^ p : Nat) else trigSum p y2 p 1 y y) 0) f.nanPat precisions

/-- sin(π x) of x = a / 2^k with 0 ≤ x < 2, sign taken out: quadrants by halves. `cosine` shifts by a half. -/
def sinPiUnit (f : Fmt) (ftz neg zneg : Bool) (a k : Nat) : Nat :=
  let one := 2 ^ k
  let a := a % (2 * one)
  let neg' := if one ≤ a then !neg else neg
  let b := a % one
  if b == 0 then f.signed zneg 0
  else if 2 * b == one then f.round .ne false ftz neg' 1 0 false
  else
    let c := if one < 2 * b then one - b else b
    -- 0 < c / 2^k < 1/2; above a quarter the cosine of the rest is used
    if 4 * c ≤ one then trigFirst f ftz neg' false c k else trigFirst f ftz neg' true (one - 2 * c) (k + 1)

/-- sin(π x); zero with the sign of x at integers. -/
def sinpiFin (f : Fmt) (ftz neg : Bool) (m : Nat) (e : Int) : Nat :=
  if 0 ≤ e then f.signed neg 0
  else sinPiUnit f ftz neg neg m (-e).toNat

/-- cos(π x) = sin(π (|x| + 1/2)); +0 at half-integers. -/
def cospiFin (f : Fmt) (ftz : Bool) (m : Nat) (e : Int) : Nat :=
  if 0 ≤ e then (if m * 2 ^ e.toNat % 2 == 0 then f.round .ne false ftz false 1 0 false else f.round .ne false ftz true 1 0 false)
  else
    let k := (-e).toNat
    sinPiUnit f ftz false false (2 * m + 2 ^ k) (k + 1)

/-- tanh x = (E − 1) / (E + 1) with E = e^(2x); from |x| = 16 on it rounds to ±1. -/
def tanhFin (f : Fmt) (ftz neg : Bool) (m : Nat) (e : Int) : Nat :=
  if 4 ≤ (Nat.log2 m : Int) + e then f.round .ne false ftz neg 1 0 false
  else
    ziv (fun p =>
      let y := fixAt p (2 * m) e
      let ee := expSum p y (p + 128) 1 (2 ^ p : Nat) (2 ^ p : Nat)
      roundEnclosed f ftz neg p ((ee - (2 ^ p : Nat)) * (2 ^ p : Nat) / (ee + (2 ^ p : Nat))) 0) f.nanPat precisions

/-- √(m × 2^e). -/
def sqrtFin (f : Fmt) (ftz : Bool) (m : Nat) (e : Int) : Nat :=
  let k : Nat := if e % 2 == 0 then 64 else 65
  let n := m * 2 ^ k
  let s := isqrt n
  f.round .ne false ftz false s ((e - k) / 2) (s * s != n)

/-- 1 / √(m × 2^e). -/
def rsqFin (f : Fmt) (ftz : Bool) (m : Nat) (e : Int) : Nat :=
  -- make the exponent even, then take the root of 2^k / m
  let m := if e % 2 == 0 then m else 2 * m
  let e := if e % 2 == 0 then e else e - 1
  let k := 2 * (40 + Nat.log2 m)
  let s := isqrt (2 ^ k / m)
  f.round .ne false ftz false s (-(e / 2) - (k / 2 : Nat)) (s * s * m != 2 ^ k)

/-- One element through the function of code `fn` (Table 22.2). -/
def sfuElem (f : Fmt) (ftz : Bool) (fn x : Nat) : Nat :=
  let x := f.flush ftz x
  let one := f.round .ne false false false 1 0 false
  match f.decode x with
  | .nan => f.nanPat
  | .inf neg =>
    (match fn with
     | 0 => f.signed neg 0
     | 1 => if neg then f.nanPat else 0
     | 2 => if neg then f.nanPat else f.infPat
     | 3 => if neg then 0 else f.infPat
     | 4 => if neg then f.nanPat else f.infPat
     | 7 => f.signed neg one
     | _ => f.nanPat)
  | .fin neg m e =>
    if m == 0 then
      (match fn with
       | 0 | 1 => f.signed neg f.infPat
       | 3 | 6 => one
       | 4 => f.signed true f.infPat
       | _ => f.signed neg 0)
    else
      (match fn with
       | 0 =>
         let k := 64 + Nat.log2 m
         f.round .ne false ftz neg (2 ^ k / m) (-e - k) (2 ^ k % m != 0)
       | 1 => if neg then f.nanPat else rsqFin f ftz m e
       | 2 => if neg then f.nanPat else sqrtFin f ftz m e
       | 3 => ex2Fin f ftz neg m e
       | 4 => if neg then f.nanPat else lg2Fin f ftz m e
       | 5 => sinpiFin f ftz neg m e
       | 6 => cospiFin f ftz m e
       | _ => tanhFin f ftz neg m e)

/-- SFU on a register (R311). -/
def sfuWord (t : Tag) (ftz : Bool) (fn : Nat) (a : Word) : Word :=
  match t.fmt with
  | some f => mapElems1 t (sfuElem f ftz fn) a
  | none => a

/-- EX2 of R160: the function of SFU on an F32. -/
def f32Ex2 (a : Word) : Word := sfuWord .f32 false 3 a

end Sys2Proof.Machine
end

