-- ==== Sys2Proof/Machine/Trace.lean ====
section
/-!
DEFINITION. Tracing (R152-R162, R164): scene records as the view unit reads them, rays, the edge-function and slab tests, splats,
and the pixels of a view. Every product, quotient and sum is rounded in the order written.
-/
namespace Sys2Proof.Machine

/-! ### Vectors -/

structure V3 where
  x : Word
  y : Word
  z : Word
deriving DecidableEq, Repr

namespace V3

def sub (p q : V3) : V3 := { x := f32Sub p.x q.x, y := f32Sub p.y q.y, z := f32Sub p.z q.z }
def add (p q : V3) : V3 := { x := f32Add p.x q.x, y := f32Add p.y q.y, z := f32Add p.z q.z }
def scale (k : Word) (p : V3) : V3 := { x := f32Mul k p.x, y := f32Mul k p.y, z := f32Mul k p.z }
def neg (p : V3) : V3 := { x := f32NegW p.x, y := f32NegW p.y, z := f32NegW p.z }
def dot (p q : V3) : Word := f32Add (f32Add (f32Mul p.x q.x) (f32Mul p.y q.y)) (f32Mul p.z q.z)
def cross (p q : V3) : V3 :=
  { x := f32Sub (f32Mul p.y q.z) (f32Mul p.z q.y), y := f32Sub (f32Mul p.z q.x) (f32Mul p.x q.z),
    z := f32Sub (f32Mul p.x q.y) (f32Mul p.y q.x) }
/-- Three words of a record from a byte offset on. -/
def at' (ws : List Word) (off : Nat) : V3 := { x := wordAt ws off, y := wordAt ws (off + 4), z := wordAt ws (off + 8) }
def words (p : V3) : List Word := [p.x, p.y, p.z]
def unit (k : Nat) : V3 :=
  { x := if k == 0 then f32OneW else 0#32, y := if k == 1 then f32OneW else 0#32, z := if k == 2 then f32OneW else 0#32 }

end V3

def f32Zero (a : Word) : Bool := (f32Val a).isZero
def f32Pos (a : Word) : Bool := f32Lt 0#32 a
def f32Neg (a : Word) : Bool := f32Lt a 0#32
def f32Finite (a : Word) : Bool := a.extractLsb' 23 8 != 255#8

/-! ### Reading the scene -/

/-- What stops a trace: a page that is not there, or an error of R153 with the record's address and the field's offset. -/
inductive Trouble where
  | miss (a : VAddr)
  | bad (addr : Dword) (off : Nat)
deriving DecidableEq, Repr

/-- n words of a record at a tagged address that must be in shelf or global space and aligned; `rec` and `off` name the field
that holds the address, the one that DESCRIPTOR names when it is not (R153; DESIGN CHOICE, log 71). -/
def State.recordAt (s : State) (crew : Nat) (t : Dword) (n align : Nat) (rec' : Dword) (off : Nat) :
    Except Trouble (List Word) :=
  match (if t.toNat % align == 0 then taggedFar t (4 * n) else none) with
  | none => .error (.bad rec' off)
  | some a =>
    match s.taskWords? crew a n with
    | some ws => .ok ws
    | none => .error (.miss ((s.taskMiss crew a (4 * n)).getD a))

/-- A camera (Table 8.3). -/
structure Camera where
  right : V3
  up : V3
  back : V3
  pos : V3
  hx : Word
  hy : Word
  near : Word
  miss : Word
  ortho : Bool
deriving DecidableEq, Repr

/-- The camera's offending field at the lowest offset. -/
def cameraBad (ws : List Word) : Option Nat :=
  let half (w : Word) : Bool := !(f32Finite w && f32Pos w)
  if half (wordAt ws 48) then some 48
  else if half (wordAt ws 52) then some 52
  else if !(f32Finite (wordAt ws 56)) || f32Neg (wordAt ws 56) then some 56
  else if 1 < (wordAt ws 64).toNat then some 64
  else if (List.range 3).any (fun i => wordAt ws (68 + 4 * i) != 0#32) then some 68
  else none

def State.camera (s : State) (crew : Nat) (t : Dword) : Except Trouble Camera :=
  match s.recordAt crew t 20 16 t 0 with
  | .error e => .error e
  | .ok ws =>
    match cameraBad ws with
    | some o => .error (.bad t o)
    | none => .ok
      { right := V3.at' ws 0, up := V3.at' ws 12, back := V3.at' ws 24, pos := V3.at' ws 36, hx := wordAt ws 48,
        hy := wordAt ws 52, near := wordAt ws 56, miss := wordAt ws 60, ortho := (wordAt ws 64).getLsbD 0 }

/-- A cut (Table 8.4). -/
structure Cut where
  addr : Dword
  roots : List Dword
  matl : Dword
  splats : Dword
  nsplat : Nat
  opovr : Word
  nmat : Nat
deriving DecidableEq, Repr

/-- A field that must be a tagged shelf or global address of an alignment. -/
def farField (t : Dword) (align : Nat) : Bool := t.toNat % align == 0 && (taggedFar t 0).isSome

/-- The cut's offending field at the lowest offset. -/
def cutBad (ws : List Word) : Option Nat :=
  let n := ((wordAt ws 88).extractLsb' 0 4).toNat
  match (List.range (min n 8)).find? (fun i => !farField (dwordAt ws (8 * i)) 128) with
  | some i => some (8 * i)
  | none =>
    if !farField (dwordAt ws 64) 8 then some 64
    else if !farField (dwordAt ws 72) 16 then some 72
    else if 16777215 < (wordAt ws 80).toNat then some 80
    else if wordAt ws 84 != 0#32 && !(f32Pos (wordAt ws 84) && f32Le (wordAt ws 84) f32OneW) then some 84
    else if 8 < n || (wordAt ws 88).extractLsb' 4 28 != 0#28 then some 88
    else none

def State.cut (s : State) (crew : Nat) (t : Dword) : Except Trouble Cut :=
  match s.recordAt crew t 24 16 t 0 with
  | .error e => .error e
  | .ok ws =>
    match cutBad ws with
    | some o => .error (.bad t o)
    | none => .ok
      { addr := t, roots := (List.range ((wordAt ws 88).extractLsb' 0 4).toNat).map (fun i => dwordAt ws (8 * i)),
        matl := dwordAt ws 64, splats := dwordAt ws 72, nsplat := (wordAt ws 80).toNat, opovr := wordAt ws 84,
        nmat := (wordAt ws 92).toNat }

/-! ### Hits (R158) -/

/-- A ray with its limits, its culling and the axes of TopLeft. -/
structure Ray where
  o : V3
  d : V3
  tlo : Word
  thi : Word
  cull : Bool
  right : V3
  up : V3
deriving DecidableEq, Repr

/-- A triangle hit: t, PRIM, MAT, and the weights e1 / S and e2 / S. -/
structure Hit where
  t : Word
  prim : Word
  mat : Nat
  bu : Word
  bv : Word
deriving DecidableEq, Repr

/-- TopLeft of an edge, q negated when S is positive. -/
def topLeft (r : Ray) (spos : Bool) (edge : V3) : Bool :=
  let qx := edge.dot r.right
  let qy := edge.dot r.up
  if spos then f32Pos qy || (f32Zero qy && f32Pos qx) else f32Neg qy || (f32Zero qy && f32Neg qx)

/-- The edge-function test. -/
def hitTriangle (r : Ray) (a b c : V3) : Option (Word × Word × Word) :=
  let p0 := a.sub r.o
  let p1 := b.sub r.o
  let p2 := c.sub r.o
  let e0 := r.d.dot (p1.cross p2)
  let e1 := r.d.dot (p2.cross p0)
  let e2 := r.d.dot (p0.cross p1)
  let sum := f32Add (f32Add e0 e1) e2
  let spos := f32Pos sum
  if f32Zero sum || f32Nan sum || (r.cull && spos) then none
  else
    let inside (e : Word) (edge : V3) : Bool := (if spos then f32Pos e else f32Neg e) || (f32Zero e && topLeft r spos edge)
    if !(inside e0 (c.sub b) && inside e1 (a.sub c) && inside e2 (b.sub a)) then none
    else
      let n := (b.sub a).cross (c.sub a)
      let t := f32Div (n.dot (a.sub r.o)) (n.dot r.d)
      if f32Finite t && f32Le r.tlo t && f32Le t r.thi then some (t, f32Div e1 sum, f32Div e2 sum) else none

/-- The better of two hits: smaller t, then smaller PRIM (R159); with both equal, the one met first (DESIGN CHOICE, log 70). -/
def Hit.better (h : Hit) : Option Hit → Option Hit
  | none => some h
  | some g => if f32Lt h.t g.t || (f32Le h.t g.t && h.prim.toNat < g.prim.toNat) then some h else some g

/-! ### The traversal (R159) -/

/-- Lower and upper limit of a slab; NaN leaves it open. -/
def slabAxis (o d lo hi : Word) : Word × Word :=
  let inv := f32Div f32OneW d
  let t1 := f32Mul (f32Sub lo o) inv
  let t2 := f32Mul (f32Sub hi o) inv
  if f32Nan t1 || f32Nan t2 then (f32NegW f32InfW, f32InfW) else (f32Min t1 t2, f32Max t1 t2)

/-- The slab test of a box (R159). A NaN tlo or thi of RAYQ lets nothing be visited (DESIGN CHOICE, log 70). -/
def slabHit (r : Ray) (box : List Word) : Bool :=
  let w (i : Nat) : Word := (box[i]?).getD 0#32
  let ss := [slabAxis r.o.x r.d.x (w 0) (w 3), slabAxis r.o.y r.d.y (w 1) (w 4), slabAxis r.o.z r.d.z (w 2) (w 5)]
  let los := r.tlo :: ss.map (·.1)
  let his := r.thi :: ss.map (·.2)
  los.all (fun a => his.all (fun b => f32Le a b))

/-- A triangle record's offending field (R155). -/
def triBad (ws : List Word) : Option Nat :=
  if (wordAt ws 36).getLsbD 31 then some 36
  else if (wordAt ws 40).extractLsb' 16 16 != 0#16 then some 40
  else if wordAt ws 44 != 0#32 then some 44
  else none

/-- Triangles from one on, n of them. -/
def State.triangles (s : State) (crew : Nat) (r : Ray) (node base : Dword) : Nat → Nat → Option Hit → Except Trouble (Option Hit)
  | _, 0, best => .ok best
  | k, n + 1, best =>
    let t := base + BitVec.ofNat 64 (48 * k)
    match s.recordAt crew t 12 16 node 104 with
    | .error e => .error e
    | .ok ws =>
      match triBad ws with
      | some o => .error (.bad t o)
      | none =>
        let best := match hitTriangle r (V3.at' ws 0) (V3.at' ws 12) (V3.at' ws 24) with
          | some (t, bu, bv) =>
            ({ t := t, prim := wordAt ws 36, mat := (wordAt ws 40).toNat, bu := bu, bv := bv } : Hit).better best
          | none => best
        s.triangles crew r node base (k + 1) n best

/-- The offending field of a node at the lowest offset: NBASE or TBASE, each used or not, or a reserved KIND (R153, R154). -/
def nodeFieldBad (ws : List Word) : Option Nat :=
  if !farField (dwordAt ws 96) 1 then some 96
  else if !farField (dwordAt ws 104) 1 then some 104
  else
    ((List.range 4).find? (fun i => (wordAt ws (112 + 4 * i)).extractLsb' 30 2 == 3#2)).map (fun i => 112 + 4 * i)

/-- Visit a node; the path may hold that many more nodes. `rec` and `off` name the field that points to it, the one that DESCRIPTOR
names for a 65th node (R153; DESIGN CHOICE, log 71). -/
def State.visit (s : State) (crew : Nat) (r : Ray) : Nat → Dword → Dword → Nat → Option Hit → Except Trouble (Option Hit)
  | 0, _, rec', off, _ => .error (.bad rec' off)
  | fuel + 1, node, rec', off, best =>
    match s.recordAt crew node 32 128 rec' off with
    | .error e => .error e
    | .ok ws =>
      let kind (i : Nat) : Nat := ((wordAt ws (112 + 4 * i)).extractLsb' 30 2).toNat
      match nodeFieldBad ws with
      | some o => .error (.bad node o)
      | none =>
        (List.range 4).foldlM (fun best i =>
          let ref := wordAt ws (112 + 4 * i)
          if kind i == 0 || !slabHit r ((List.range 6).map (fun j => wordAt ws (24 * i + 4 * j))) then .ok best
          else if kind i == 1 then
            s.visit crew r fuel (dwordAt ws 96 + BitVec.ofNat 64 (128 * (ref.extractLsb' 0 30).toNat)) node 96 best
          else
            s.triangles crew r node (dwordAt ws 104) (ref.extractLsb' 6 24).toNat ((ref.extractLsb' 0 6).toNat + 1) best) best

/-- The triangle a ray hits, from every root. -/
def State.traceRay (s : State) (crew : Nat) (c : Cut) (r : Ray) : Except Trouble (Option Hit) :=
  ((c.roots.mapIdx (fun i t => (i, t))).foldlM (fun best e => s.visit crew r 64 e.2 c.addr (8 * e.1) best) none)

/-- The world axes of RAYQ (R158). -/
def rayAxes (d : V3) : V3 × V3 :=
  let ax := f32AbsW d.x
  let ay := f32AbsW d.y
  let az := f32AbsW d.z
  let k := if f32Lt ax ay then (if f32Lt ay az then 2 else 1) else if f32Lt ax az then 2 else 0
  (V3.unit ((k + 1) % 3), V3.unit ((k + 2) % 3))

/-- RAYQ of one lane (R169): the ray's eight words. -/
def State.rayQuery (s : State) (crew : Nat) (cut : Dword) (ws : List Word) : Except Trouble (Option Hit) :=
  match s.cut crew cut with
  | .error e => .error e
  | .ok c =>
    let d := V3.at' ws 12
    let ax := rayAxes d
    s.traceRay crew c { o := V3.at' ws 0, d := d, tlo := wordAt ws 24, thi := wordAt ws 28, cull := false, right := ax.1, up := ax.2 }

/-! ### Splats (R156, R160) -/

structure Splat where
  idx : Nat
  mu : V3
  prec : List Word
  colour : Word
  opac : Word
  id : Word
  z : Word
deriving DecidableEq, Repr

/-- A splat record's offending field. -/
def splatBad (ws : List Word) : Option Nat :=
  let o := wordAt ws 40
  if !(f32Le 0#32 o && f32Le o f32OneW) then some 40 else if (wordAt ws 44).getLsbD 31 then some 44 else none

/-- Splats from k on, n of them, those nearer than NEAR left out. -/
def State.readSplats (s : State) (crew : Nat) (cam : Camera) (c : Cut) : Nat → Nat → Except Trouble (List Splat)
  | _, 0 => .ok []
  | k, n + 1 =>
    let t := c.splats + BitVec.ofNat 64 (48 * k)
    match s.recordAt crew t 12 16 c.addr 72 with
    | .error e => .error e
    | .ok ws =>
      match splatBad ws, s.readSplats crew cam c (k + 1) n with
      | some o, _ => .error (.bad t o)
      | none, .error e => .error e
      | none, .ok rest =>
        let mu := V3.at' ws 0
        let z := (mu.sub cam.pos).dot cam.back.neg
        if f32Le cam.near z then
          .ok ({ idx := k, mu := mu, prec := (List.range 6).map (fun i => wordAt ws (12 + 4 * i)), colour := wordAt ws 36,
                 opac := wordAt ws 40, id := wordAt ws 44, z := z } :: rest)
        else .ok rest

/-- Put splats into order: bits of z, then the index. -/
def insertSplat (p : Splat) : List Splat → List Splat
  | [] => [p]
  | q :: t => if p.z.toNat < q.z.toNat || (p.z == q.z && p.idx < q.idx) then p :: q :: t else q :: insertSplat p t

def sortSplats (ps : List Splat) : List Splat := ps.foldl (fun acc p => insertSplat p acc) []

/-- Λ × v, rows in x, y, z order. -/
def precMul (l : List Word) (v : V3) : V3 :=
  let w (i : Nat) : Word := (l[i]?).getD 0#32
  { x := V3.dot { x := w 0, y := w 1, z := w 2 } v, y := V3.dot { x := w 1, y := w 3, z := w 4 } v,
    z := V3.dot { x := w 2, y := w 4, z := w 5 } v }

/-- A byte as a colour value (R164). -/
def byteUnit (n : Nat) : Word := f32Div (f32OfNat n) (f32OfNat 255)
/-- Channel c of an N8X4 word as F32. -/
def channel (w : Word) (c : Nat) : Word := byteUnit (w.extractLsb' (8 * c) 8).toNat

/-- What compositing has reached for a pixel: T, Cs, and the splat that became its surface. -/
structure Blend where
  trans : Word
  cs : List Word
  stop : Option Splat
deriving DecidableEq, Repr

/-- α of a splat for a ray; none when it contributes nothing. The min is MIN of R74, so it is 1.0 for a NaN (DESIGN CHOICE, log 111). -/
def splatAlpha (o d : V3) (p : Splat) : Option Word :=
  let D := o.sub p.mu
  let ld := precMul p.prec d
  let lD := precMul p.prec D
  if !f32Pos (d.dot ld) then none
  else
    let q := f32Sub (D.dot lD) (f32Div (f32Mul (d.dot lD) (d.dot lD)) (d.dot ld))
    some (f32Min (f32Mul p.opac (f32Ex2 (f32NegW (f32Mul q 0x3F38_AA3B#32)))) f32OneW)

/-- Composite the sorted splats nearer than t. -/
def blend (theta tmax : Word) (o d : V3) : List Splat → Blend → Blend
  | [], b => b
  | p :: t, b =>
    if !f32Lt p.z tmax then blend theta tmax o d t b
    else
      match splatAlpha o d p with
      | none => blend theta tmax o d t b
      | some al =>
        let k := f32Mul b.trans al
        let cs := b.cs.mapIdx (fun c v => f32Add v (f32Mul k (channel p.colour c)))
        let tr := f32Mul b.trans (f32Sub f32OneW al)
        if f32Le theta (f32Sub f32OneW tr) then { trans := tr, cs := cs, stop := some p }
        else blend theta tmax o d t { trans := tr, cs := cs, stop := none }

/-! ### Pixels (R157, R161, R162) -/

/-- (n / w) for a power of two w, exact. -/
def unitFrac (n : Int) (w : Nat) : Word := f32Of (Fl.ofInt n (-(Nat.log2 w : Int)) false)

/-- The ray of a pixel (R157). -/
def pixelRay (cam : Camera) (w h x y : Nat) (cull : Bool) : Ray :=
  let u := f32Mul (unitFrac ((2 * x + 1 : Nat) - (w : Int)) w) cam.hx
  let v := f32Mul (unitFrac ((h : Int) - (2 * y + 1 : Nat)) h) cam.hy
  let ur := cam.right.scale u
  let vu := cam.up.scale v
  let (o, d) := if cam.ortho then ((cam.pos.add ur).add vu, cam.back.neg) else (cam.pos, (ur.add vu).sub cam.back)
  { o := o, d := d, tlo := cam.near, thi := f32InfW, cull := cull, right := cam.right, up := cam.up }

/-- Fields of word 2 of VIEW (Table 8.1). -/
def viewMode (w2 : Word) : Nat := (w2.extractLsb' 0 4).toNat
def viewWidth (w2 : Word) : Nat := 2 ^ (w2.extractLsb' 4 3).toNat
def viewHeight (w2 : Word) : Nat := 2 ^ (w2.extractLsb' 7 3).toNat

/-- A mode's tag, miss value and error value (Table 8.2). -/
def modeTag (m : Nat) : Tag :=
  match m with
  | 0 => .f32
  | 1 => .n32
  | 2 => .f32
  | _ => .n8x4
def modeMiss (m : Nat) (miss : Word) : Word :=
  match m with
  | 1 => 0xFFFF_FFFF#32
  | 2 => 0#32
  | _ => miss
def modeError (m : Nat) : Word :=
  match m with
  | 0 => f32NanW
  | 1 => 0xFFFF_FFFE#32
  | _ => 0#32

/-- The open node of a partition with an identifier (R181); the one opened first, where the identifier is listed more than once (DESIGN
CHOICE, log 97). -/
def State.nodeOf (s : State) (part : Nat) (ident : Word) : Option (Nat × Node) :=
  s.nodes.find? (fun e => e.2.opened && e.2.part == part && e.2.ident == ident && s.onPart e.2.launch)

/-- A node fit for materials: ordinary, HOME 16, RW 15 (R181). -/
def Node.material (n : Node) : Bool := !n.keyed && n.home == 16 && n.rw == 16

/-- The material node of a triangle and its user word; none at or above NMAT. DESCRIPTOR names the entry of a node that is closed or
unfit (R153; DESIGN CHOICE, log 71). -/
def State.material (s : State) (crew part : Nat) (c : Cut) (mat : Nat) : Except Trouble (Option (Word × Word)) :=
  if c.nmat ≤ mat then .ok none
  else
    match s.recordAt crew (c.matl + BitVec.ofNat 64 (8 * mat)) 2 8 c.addr 64 with
    | .error e => .error e
    | .ok ws =>
      match s.nodeOf part (wordAt ws 0) with
      | some (_, n) => if n.material then .ok (some (wordAt ws 0, wordAt ws 4)) else .error (.bad (c.matl + BitVec.ofNat 64 (8 * mat)) 0)
      | none => .error (.bad (c.matl + BitVec.ofNat 64 (8 * mat)) 0)

/-- A material record (Table 8.6). -/
def materialRecord (handle : Word) (x y : Nat) (r : Ray) (h : Hit) (user : Word) : List Word :=
  [handle, BitVec.ofNat 32 (x + 256 * y), h.prim, h.t, h.bu, h.bv] ++ r.o.words ++ r.d.words ++ [user, 0#32, 0#32, 0#32]

/-- The pixel's value by mode when it needs no record. -/
def pixelValue (mode : Nat) (miss : Word) (hit : Option Hit) (b : Blend) : Word :=
  match mode with
  | 0 => (match b.stop, hit with
    | some p, _ => p.z
    | none, some h => h.t
    | none, none => miss)
  | 1 => (match b.stop, hit with
    | some p, _ => 0x8000_0000#32 ||| p.id
    | none, some h => h.prim
    | none, none => 0xFFFF_FFFF#32)
  | 2 => (match b.stop, hit with
    | none, some _ => f32OneW
    | _, _ => f32Sub f32OneW b.trans)
  | _ => (match b.stop, hit with
    | none, none => miss
    | _, _ => 0#32)

/-- One pixel; true when it sets BADMAT. -/
def State.tracePixel (s : State) (v : View) (cam : Camera) (c : Cut) (ps : List Splat) (x y : Nat) :
    Except Trouble (Bool × Pixel) :=
  let mode := viewMode v.w2
  let r := pixelRay cam (viewWidth v.w2) (viewHeight v.w2) x y (v.w2.getLsbD 11)
  match s.traceRay v.crew c r with
  | .error e => .error e
  | .ok hit =>
    let theta := if c.opovr == 0#32 then v.opthr else c.opovr
    let b := blend theta (match hit with | some h => h.t | none => f32InfW) r.o r.d ps
      { trans := f32OneW, cs := List.replicate 3 0#32, stop := none }
    let px : Pixel :=
      { x := x, y := y, out := pixelValue mode cam.miss hit b, need := none, trans := b.trans, cs := b.cs, sent := false,
        got := none }
    match (if mode == 3 && b.stop.isNone then hit else none) with
    | none => .ok (false, px)
    | some h =>
      match s.material v.crew v.part c h.mat with
      | .error e => .error e
      | .ok none => .ok (true, px)
      | .ok (some (node, user)) => .ok (false, { px with need := some (node, materialRecord v.handle x y r h user) })

/-- The whole view: MISS of the camera, BADMAT, the pixels. -/
def State.traceView (s : State) (v : View) : Except Trouble (Word × Bool × List Pixel) :=
  match s.camera v.crew v.cam, s.cut v.crew v.cut with
  | .error e, _ => .error e
  | .ok _, .error e => .error e
  | .ok cam, .ok c =>
    match (if v.w2.getLsbD 10 then .ok [] else s.readSplats v.crew cam c 0 c.nsplat) with
    | .error e => .error e
    | .ok ps =>
      let sorted := sortSplats ps
      let xy := (List.range (viewHeight v.w2)).flatMap (fun y => (List.range (viewWidth v.w2)).map (fun x => (x, y)))
      match xy.mapM (fun e => s.tracePixel v cam c sorted e.1 e.2) with
      | .error e => .error e
      | .ok rs => .ok (cam.miss, rs.any (·.1), rs.map (·.2))

/-! ### The image (R164) -/

/-- Enc: clamp to [0, 1], times 255, to the nearest integer. -/
def enc (v : Word) : Nat :=
  match f32Val (f32Min (f32Max v 0#32) f32OneW) with
  | .fin _ m e => (roundInt .ne false (m * 255) e).toNat
  | _ => 0

/-- The colour of a pixel over its background. -/
def pixelColour (p : Pixel) : Word :=
  let bg := match p.got with
    | some (c, _) => c
    | none => p.out
  let ch (c : Nat) : Nat := enc (f32Add ((p.cs[c]?).getD 0#32) (f32Mul p.trans (channel bg c)))
  let a := enc (f32Add (f32Sub f32OneW p.trans) (f32Mul p.trans (channel bg 3)))
  BitVec.ofNat 32 (packElems 8 [ch 0, ch 1, ch 2, a])

/-- The tile's words: the image, and the miss value outside it (R151). -/
def viewImage (v : View) : List Word :=
  let mode := viewMode v.w2
  (List.range 256).map (fun i =>
    match v.pixels.find? (fun p => p.x == i % 16 && p.y == i / 16) with
    | some p => if mode == 3 then pixelColour p else p.out
    | none => modeMiss mode v.miss)

end Sys2Proof.Machine
end

