-- ==== Sys2Proof/Machine/View.lean ====
section
/-!
DEFINITION. VIEW, VPIX, VSTAT and RAYQ (R149-R169, R301, R325-R327), and the traversal and landing of views.
-/
namespace Sys2Proof.Machine

/-- A word not among some used ones, counted up from a candidate. -/
def uniqueWord (used : List Word) : Nat → Word → Word
  | 0, w => w
  | n + 1, w => if used.contains w then uniqueWord used n (w + 1#32) else w

/-! ### VIEW -/

def viewCam (x : Ctx) (g : Arg) : Dword := x.crew.pair g.a
def viewCut (x : Ctx) (g : Arg) : Dword := x.crew.pair g.b

/-- SCOPE, ALIGN and BOUNDS of a descriptor address that is an operand (R150, R89). -/
def farFaults (act : Lanes) (ts : List (Dword × Nat)) : List (Option Precise) :=
  let first (bad : Dword × Nat → Bool) : Option Dword := (ts.find? bad).map (·.1)
  let fault (cls : FaultClass) (bad : Dword × Nat → Bool) : Option Precise :=
    onceFault cls act (first bad).isSome 0#64 ((first bad).getD 0#64)
  [fault .scope (fun t => 2 ≤ spaceOf t.1), fault .align (fun t => t.1.extractLsb' 0 4 != 0#4),
   fault .bounds (fun t => (taggedFar t.1 t.2).isNone)]

/-- View slots of a level that a partition holds on a cluster (R166); none when the level's material crew is empty. -/
def State.viewQuota (s : State) (part cluster level : Nat) : Nat :=
  if (((s.part part).quota.matCrew)[level - 1]?).getD Shape.nil == Shape.nil then 0
  else ((((s.quotaAt part cluster).views)[level - 1]?).getD Range.nil).len

/-- View slots of a level in use. -/
def State.viewsHeld (s : State) (part cluster level : Nat) : Nat :=
  (s.views.filter (fun e => e.2.part == part && (s.part part).resident == some e.2.tenant && e.2.cluster == cluster &&
    e.2.level == level)).length

/-- The status a VIEW lands with at once: 1 LIMIT, 2 NOSLOT (R150). -/
def viewRefused (s : State) (x : Ctx) : Option Nat :=
  if x.crew.vlevel == 6 then some 1
  else if s.viewQuota x.launch.part (clusterOfCore x.crew.core) (x.crew.vlevel + 1) == 0 then some 2
  else none

/-- Where MISS of the camera stands. -/
def missPlace (x : Ctx) (g : Arg) : VAddr := ((taggedFar (viewCam x g) 80).getD (.glob 0)).plus 60

/-- The mode's miss value comes from the camera. -/
def missRead (g : Arg) : Bool := viewMode g.w2 == 0 || viewMode g.w2 == 3

/-- MISS has yet to be read: the fibres' own writes to it come first (R112), and its page may not be there (R150). -/
def missUnread (s : State) (x : Ctx) (act : Lanes) (g : Arg) : Bool :=
  let t := s.catchUpLanes x.cur.wave act
  let a := missPlace x g
  missRead g && (t.blocked t.nextUid x.cur.wave act (x.wave.fibres act) a 4 ||
    ((t.taskWord? x.crewId a).isNone && !t.faultOn x.launch.part x.launch.tenant a true))

/-- Land an image and a status in a tile (R151). -/
def State.landTile (s : State) (wave n : Nat) (mode : Nat) (els : List Word) (status : Nat) : State :=
  s.modWave wave (fun w => w.setTile n (fun _ =>
    { tag := modeTag mode, elems := els, pend := false, status := BitVec.ofNat 32 status }))

/-- Handles of a partition's unlanded views. -/
def State.handles (s : State) (part : Nat) : List Word := (s.views.filter (fun e => e.2.part == part)).map (fun e => e.2.handle)

/-- VIEW (R150, R325). -/
def semView (g : Arg) : Sem :=
  let opds := [Opd.u g.a, .u (g.a + 1), .u g.b, .u (g.b + 1)]
  let n := g.d % 16
  { size := g.size, flow := fun _ => { g.flow opds [] with uses := [.tile], sets := [.tile, .image] },
    static := fun s => roleFault s.ctx rolesGV 25 0 false,
    check := fun s =>
      let x := s.ctx
      let act := x.act g.m
      firstFault ([inflightFault x act opds, onceFault .bounds act (x.crew.ntile ≤ n) 0#64 0#64] ++
        farFaults act [(viewCam x g, 80), (viewCut x g, 96)] ++ [tileError s x act n]),
    unknown := fun s =>
      let x := s.ctx
      x.act g.m != 0#32 && (viewRefused s x).isSome && missUnread s x (x.act g.m) g,
    guess := fun s =>
      let mode := viewMode g.w2
      s.landTile s.ctx.cur.wave n mode (List.replicate 256 (modeMiss mode (s.freeWord 0))) ((viewRefused s s.ctx).getD 0),
    wait := fun s =>
      let x := s.ctx
      let act := x.act g.m
      tileWait x act n
        (match viewRefused s x with
         | some _ => if missUnread s x act g then .park act (.missWord (missPlace x g) (x.wave.fibres act)) else .go
         | none =>
           let l := x.crew.vlevel + 1
           let c := clusterOfCore x.crew.core
           if s.viewQuota x.launch.part c l ≤ s.viewsHeld x.launch.part c l then .park act (.viewSlot l) else .go),
    eff := fun s =>
      let x := s.ctx
      let act := x.act g.m
      let mode := viewMode g.w2
      if act == 0#32 then s
      else
        let s := s.catchUpLanes x.cur.wave act
        match viewRefused s x with
        | some status =>
          let a := missPlace x g
          (match (if missRead g then s.taskWord? x.crewId a else some 0#32) with
           | some m => s.landTile x.cur.wave n mode (List.replicate 256 (modeMiss mode m)) status
           | none =>
             ((s.dropFatal x.launch.part x.launch.tenant a).landTile x.cur.wave n mode (List.replicate 256 (modeError mode)) 3).deferTranslate x.crewId a
               [.tile x.cur.wave n])
        | none =>
          let (k, s) := s.freeNext
          let used := s.handles x.launch.part
          let v : View :=
            { handle := uniqueWord used (used.length + 1) (Config.freeHandle k), part := x.launch.part, tenant := x.launch.tenant,
              cluster := clusterOfCore x.crew.core, core := x.crew.core, level := x.crew.vlevel + 1, crew := x.crewId,
              wave := x.cur.wave, tile := n, cam := viewCam x g, cut := viewCut x g, w2 := g.w2, opthr := x.crew.opthr,
              traced := false, pixels := [], miss := 0#32, badmat := false, error := none, fault := none, owed := [] }
          let s := s.modWave x.cur.wave (fun w => w.setTile n (fun t => { t with tag := modeTag mode, pend := true }))
          { s with views := s.views ++ [(s.nextUid, v)], nextUid := s.nextUid + 1 } }

/-! ### VPIX and VSTAT -/

/-- One lane's delivery: the first one of a pixel that sent a record counts (R163). What its VPIX releases must perform before the
view lands (R123). -/
def View.deliver (v : View) (pix colour : Word) (fibre : Nat) (released : List Nat) : View :=
  let hit (p : Pixel) : Bool := BitVec.ofNat 32 (p.x + 256 * p.y) == pix && p.sent && p.got.isNone
  if v.pixels.any hit then
    { v with
      pixels := v.pixels.map (fun p => if hit p then { p with got := some (colour, fibre) } else p),
      owed := dedup (v.owed ++ released) }
  else v

/-- A lane delivers to the unlanded view of its partition with that handle. -/
def State.deliverPixel (s : State) (part : Nat) (handle pix colour : Word) (fibre : Nat) (released : List Nat) : State :=
  { s with views := s.views.map (fun e =>
      if e.2.part == part && e.2.handle == handle then (e.1, e.2.deliver pix colour fibre released) else e) }

/-- VPIX (R163, R326). -/
def semVpix (g : Arg) : Sem :=
  let opds := [Opd.v g.a, .v g.b, .v g.c]
  Sem.simple g.size (fun _ => g.flow opds [])
    (fun s => firstFault [roleFault s.ctx rolesGV 25 2 false, windowFault s.ctx opds])
    (fun s =>
      let x := s.ctx
      let act := x.act g.m
      firstFault [inflightFault x act opds,
        formatFault x act (fun ln => let t := (ln.readV g.c).tag; if t == .n8x4 || t == .raw then none else some (t, none))])
    (fun s =>
      let x := s.ctx
      let act := x.act g.m
      if act == 0#32 then s
      else
        let s := (s.catchUpLanes x.cur.wave act).notReplayable x.gangId
        let released := s.accessesOf (x.wave.fibres act)
        (laneList act).foldl (fun s l =>
          let ln := x.wave.lane l
          s.deliverPixel x.launch.part (ln.readV g.a).val (ln.readV g.b).val (ln.readV g.c).val ln.fibre released) s)

/-- VSTAT (R165, R327). -/
def semVstat (g : Arg) : Sem :=
  let n := g.w2f 0 4
  Sem.simple g.size (fun _ => { g.flow [] [.u g.d] with uses := [.tile, .image], setp := [g.w2f 4 3] }) (fun s => roleFault s.ctx rolesGV 25 1 false)
    (fun s =>
      let x := s.ctx
      let act := x.act g.m
      firstFault [inflightFault x act [Opd.u g.d], onceFault .bounds act (x.crew.ntile ≤ n) 0#64 0#64])
    (fun s =>
      let x := s.ctx
      let act := x.act g.m
      let t := x.wave.tile n
      if act == 0#32 then s
      else
        let s := s.modWave x.cur.wave (fun w => w.mapLanes act (fun _ ln => ln.setPred (g.w2f 4 3) (!t.pend)))
        if t.pend then s else s.setUni x.crewId g.d (Reg.done t.status .n32))

/-! ### RAYQ -/

def rayOpds (g : Arg) : List Opd := (List.range 8).map (fun i => Opd.v (g.a + i))

/-- RAYQ (R169, R301). -/
def semRayq (g : Arg) : Sem :=
  let vs := [Opd.v g.d, .v (g.d + 1)] ++ rayOpds g
  let ray (ln : Lane) : List Reg := (List.range 8).map (fun i => ln.readV (g.a + i))
  { size := g.size, flow := fun _ => g.flow (rayOpds g ++ [.u g.b, .u (g.b + 1)]) [.v g.d, .v (g.d + 1)],
    static := fun s => firstFault [roleFault s.ctx rolesGV 25 3 false, windowFault s.ctx vs],
    check := fun s =>
      let x := s.ctx
      let act := x.act g.m
      firstFault ([inflightFault x act (vs ++ [Opd.u g.b, .u (g.b + 1)]), formatFault x act (fun ln => notF32 (ray ln))] ++
        farFaults act [(viewCut x g, 96)]),
    unknown := fun _ => false,
    wait := fun s =>
      let x := s.ctx
      let act := x.act g.m
      let n := (laneList act).length
      if act == 0#32 then .go
      else if !s.txnsFree x.crew.core n then .park act (.txns n)
      else if x.flagFull g.m.fsel then .hold s
      else .go,
    eff := fun s =>
      let x := s.ctx
      let act := x.act g.m
      if act == 0#32 then s
      else
        let flag := x.cur.flagOf g.m.fsel
        let s := s.catchUpLanes x.cur.wave act
        let (op, s) := s.countOp x.cur.wave flag
        let s := s.modWave x.cur.wave (fun w => w.mapLanes act (fun _ ln => (ln.pendV g.d).pendV (g.d + 1)))
        (laneList act).foldl (fun s l =>
          let ln := x.wave.lane l
          s.addFlight
            { op := op, wave := x.cur.wave, flag := flag, txns := 1, lines := [],
              payload := .rayq l (ln.wb + g.d) (viewCut x g) ((ray ln).map (·.val)), fault := none }) s }

/-! ### VIEW_TRAVERSAL and VIEW_LANDING -/

def State.modView (s : State) (k : Nat) (f : View → View) : State := { s with views := change k f s.views }

/-- Append a record to a node's queue. -/
def Node.push (n : Node) (r : Record) : Node := { n with queue := n.queue ++ [r] }
/-- The queue holds QCAP records (R183). -/
def Node.full (n : Node) : Bool := n.qcap ≤ n.queue.length

/-- A record is sent to a node. One whose launch has stopped discards it, as it discarded those that were there (R182; DESIGN CHOICE,
log 86). -/
def State.toNode (s : State) (node : Nat) (f : Node → Node) : State :=
  s.modNode node (fun n => if (s.launch n.launch).phase == .running then f n else n)

/-- Send the records not yet sent; a node closed meanwhile is an error of the view (R181). A view's record enters a queue that holds
QCAP records too: that limit holds REMIT back (R183), and a view must wait for no record of another level (R167; DESIGN CHOICE,
log 65). The record has no producer: its order key is empty (DESIGN CHOICE, log 77). -/
def State.sendPixels (s : State) (k : Nat) (v : View) : List Pixel → State
  | [] => s
  | p :: ps =>
    match p.need with
    | none => s.sendPixels k v ps
    | some (ident, ws) =>
      if p.sent then s.sendPixels k v ps
      else
        match s.nodeOf v.part ident with
        | none => s.modView k (fun v => { v with error := some (.descriptor, v.cut, 64#64) })
        | some (nk, _) =>
          let r : Record := { words := ws, producer := 0, order := [], seq := 0, lin := 0, cluster := v.cluster, vlevel := v.level }
          let s := s.toNode nk (fun n => n.push r)
          let s := s.modView k (fun v => { v with pixels := v.pixels.map (fun q =>
            if q.x == p.x && q.y == p.y then { q with sent := true } else q) })
          s.sendPixels k v ps

/-- A view that its cluster's splat sorter has work for: NOSPL is clear, and the cut has splats (R160). -/
def State.viewSorts (s : State) (v : View) : Bool :=
  !v.w2.getLsbD 10 && ((taggedFar v.cut 96).bind (fun a => s.taskWord? v.crew (a.plus 80))).any (· != 0#32)

/-- The traversal of a view may go on. -/
def State.viewGoes (s : State) (k : Nat) (v : View) : Bool :=
  !v.traced && v.error.isNone && v.fault.isNone && s.awake v.crew && s.quiet v.wave k

/-- It is the turn of a view's partition at the splat sorter of its cluster, when the sorter has work for it (R210). -/
def State.viewTurn (s : State) (v : View) : Bool :=
  !s.viewSorts v ||
  s.engineServes (.sorter v.cluster) (fun part => s.views.any (fun e =>
    e.2.cluster == v.cluster && e.2.part == part && s.viewGoes e.1 e.2 && s.viewSorts e.2)) == some v.part

/-- The sorter has served it. -/
def State.viewServed (s : State) (v : View) : State := if s.viewSorts v then s.engineServed (.sorter v.cluster) v.part else s

/-- VIEW_TRAVERSAL (R159): the traversal and splat passes finish, once, and the records are sent. -/
def State.traverseView (s : State) (k : Nat) : State :=
  match look k s.views with
  | none => s
  | some v =>
    if v.error.isSome || v.fault.isSome || !s.awake v.crew then s
    else if v.traced then s.sendPixels k v v.pixels
    else if !s.quiet v.wave k || !s.viewTurn v then s
    else
      let s := s.viewServed v
      match s.traceView v with
      | .ok (miss, bad, ps) =>
        (s.modView k (fun v => { v with traced := true, miss := miss, badmat := bad, pixels := ps })).sendPixels k v ps
      | .error (.bad a o) => s.modView k (fun v => { v with traced := true, error := some (.descriptor, a, BitVec.ofNat 64 o) })
      | .error (.miss a) =>
        let (f, s) := s.openFault v.crew v.wave a (s.toTagged a)
        s.modView k (fun v => { v with fault := some f })

/-- Every record was sent and its pixel delivered, and what the deliveries released has performed (R164, R123). -/
def State.viewDone (s : State) (v : View) : Bool :=
  v.pixels.all (fun p => p.need.isNone || (p.sent && p.got.isSome)) && !s.accesses.any (fun e => v.owed.contains e.1)

/-- VIEW_LANDING (R151): image and status together; the slot is free. An error is carried by the tile (R153), with status 3 whether a
bad material was met before it or not (DESIGN CHOICE, log 78). -/
def State.landView (s : State) (k : Nat) : State :=
  match look k s.views with
  | none => s
  | some v =>
    let mode := viewMode v.w2
    if !s.awake v.crew then s
    else
    match v.error with
    | some (cls, addr, info) =>
      (({ s with views := drop k s.views }).landTile v.wave v.tile mode (List.replicate 256 (modeError mode)) 3).defer
        { gang := (s.crew v.crew).gang, crew := v.crew, cls := cls, addr := addr, info := info, till := [.tile v.wave v.tile] }
    | none =>
      if v.traced && s.viewDone v then
        ({ s with views := drop k s.views }).landTile v.wave v.tile mode (viewImage v) (if v.badmat then 4 else 0)
      else s

end Sys2Proof.Machine
end

