-- ==== Sys2Proof/Machine/Record.lean ====
section
/-!
DEFINITION. Records and keyed nodes (10): REMIT (R183, R304), KSUSP and KRET (R186, R272, R273), deliveries (R184-R189), and the
keyed-context store (R188).
-/
namespace Sys2Proof.Machine

/-! ### REMIT -/

/-- The shelf address, of 34 bits, of the descriptor of a node: 64 times its identifier (R181). -/
def nodeTagged (ident : Word) : Dword := 1#2 ++ 0#28 ++ (ident.extractLsb' 0 28 ++ 0#6)

/-- Its place; none when bits 31 to 28 of the identifier are not zero. -/
def nodePlace (ident : Word) : Option VAddr :=
  if ident.extractLsb' 28 4 == 0#4 then taggedFar (nodeTagged ident) 64 else none

/-- The open node of the crew's partition that s[B] names, its descriptor readable. -/
def emitNode (s : State) (x : Ctx) (g : Arg) : Option (Nat × Node) :=
  let ident := (x.crew.uni g.b).val
  match nodePlace ident with
  | some a => if (s.taskMiss x.crewId a 64).isSome then none else s.nodeOf x.launch.part ident
  | none => none

/-- The identifier of a record's producer (R189): the task's, or for a node crew the order key of the record it is handling, extended
by its own sequence. -/
def emitOrder (x : Ctx) (ln : Lane) : List Nat :=
  if x.gang.node.isSome then ln.order ++ [ln.emitSeq] else taskPath x.crew x.gang x.launch

/-- One lane's record. -/
def emitRecord (x : Ctx) (g : Arg) (n : Node) (l : Nat) (ln : Lane) : Record :=
  { words := (List.range n.rw).map (fun i => (ln.readV (g.a + i)).val), producer := ln.fibre, order := emitOrder x ln,
    seq := ln.emitSeq, lin := x.wave.idx * 32 + l, cluster := clusterOfCore x.crew.core, vlevel := 0 }

/-- A record reaches its node: the queue, or the hold of its phase (R189). -/
def Node.take (n : Node) (r : Record) : Node :=
  if n.epoch.isSome then { n with heldRecs := n.heldRecs ++ [r] } else n.push r

/-- Append the records of lanes in order until the queue is full; true when all are appended. The first that is ends replayability
(R132). -/
def State.emitLanes (s : State) (x : Ctx) (g : Arg) (nk : Nat) : List Nat → Bool × State
  | [] => (true, s)
  | l :: ls =>
    match look nk s.nodes with
    | none => (true, s)
    | some n =>
      if n.full then (false, s)
      else
        let ln := (s.wave x.cur.wave).lane l
        let s := (s.toNode nk (fun n => n.take (emitRecord x g n l ln))).notReplayable x.gangId
        let s := s.modWave x.cur.wave (fun w => w.mapLanes (laneBit l) (fun _ y => { y with emitSeq := y.emitSeq + 1 }))
        let s : State := { s with cur := s.cur.map (fun c => { c with served := c.served ||| laneBit l }) }
        s.emitLanes x g nk ls

/-- The lanes still to serve: those active now that the held clause has not served yet. -/
def emitAll (g : Arg) (s : State) : Bool × State :=
  let x := s.ctx
  let act := x.act g.m
  match (if act == 0#32 then none else emitNode s x g) with
  | none => (true, s)
  | some (nk, _) =>
    (s.catchUpLanes x.cur.wave act).emitLanes x g nk (laneList (act &&& ~~~x.cur.served))

/-- REMIT (R183, R304). -/
def semRemit (g : Arg) : Sem :=
  let recOpds (n : Node) : List Opd := (List.range n.rw).map (fun i => Opd.v (g.a + i))
  { size := g.size, flow := fun s => { g.flow (Opd.u g.b :: (match emitNode s s.ctx g with
      | some (_, n) => recOpds n
      | none => [])) [] with keys := [.u g.b] },
    static := fun s => firstFault [roleFault s.ctx rolesGV 28 0 false, windowFault s.ctx [Opd.v g.a]],
    check := fun s =>
      let x := s.ctx
      let act := x.act g.m
      firstFault ([inflightFault x act [Opd.u g.b],
        onceFault .descriptor act (emitNode s x g).isNone 0#64 (nodeTagged (x.crew.uni g.b).val)] ++
        (match emitNode s x g with
         | some (_, n) =>
           [laneFault .bounds x (if act == 0#32 then 0#32 else x.cur.lanes) (fun _ ln =>
              if 252 < g.a + n.rw || x.crew.nreg < ln.wb + g.a + n.rw then some (0#64, 0#64) else none),
            inflightFault x (act &&& ~~~x.cur.served) (recOpds n)]
         | none => [])),
    unknown := fun _ => false,
    wait := fun s => let r := emitAll g s; if r.1 then .go else .hold r.2,
    eff := fun s => (emitAll g s).2 }

/-! ### KSUSP and KRET -/

def keyedRole (s : State) (sub : Nat) : Option Precise := roleFault s.ctx rolesAll 28 sub (!s.keyedCrew s.ctx)

/-- Context registers of the crew's node. -/
def State.kregsOf (s : State) (x : Ctx) : Nat :=
  match x.gang.node with
  | some k => (match look k s.nodes with | some n => n.kregs | none => 0)
  | none => 0

def keyOpds (n : Nat) : List Opd := (List.range n).map (fun i => Opd.v (20 + i))

/-- Change the context of a key. -/
def Node.modCtx (n : Node) (key : BitVec 64) (f : KeyCtx → KeyCtx) : Node :=
  { n with ctxs := n.ctxs.map (fun c => if c.key == key then f c else c) }
/-- Delete the context of a key. -/
def Node.dropCtx (n : Node) (key : BitVec 64) : Node := { n with ctxs := n.ctxs.filter (fun c => c.key != key) }

/-- The context of a lane's fibre ends. -/
def State.endContext (s : State) (ln : Lane) : State :=
  match ln.key with
  | some k => s.modNode k.node (fun n => n.dropCtx k.key)
  | none => s

/-- The context of a lane's fibre is saved to the store, or ends when it was resumed to retire. -/
def State.saveContext (s : State) (pc here : Word) (ln : Lane) : State :=
  match ln.key with
  | some k =>
    if k.retire then s.endContext ln
    else s.modNode k.node (fun n => n.modCtx k.key (fun c => { c with
      pc := pc, susp := here, preds := ln.preds, regs := (List.range n.kregs).map (fun i => ln.readV (20 + i)), place := .store }))
  | none => s

/-- KSUSP (R186, R273). -/
def semKsusp (g : Arg) : Sem :=
  Sem.simple g.size (fun s => g.flow (keyOpds (s.kregsOf s.ctx)) [])
    (fun s => firstFault [keyedRole s 1, windowFault s.ctx (keyOpds (s.kregsOf s.ctx))])
    (fun s => inflightFault s.ctx (s.ctx.act g.m) (keyOpds (s.kregsOf s.ctx)))
    (fun s =>
      let x := s.ctx
      let act := x.act g.m
      let pc := s.here + BitVec.ofNat 32 g.size
      let here := s.here
      let s := (laneList act).foldl (fun s l => s.saveContext pc here (x.wave.lane l)) s
      s.endLanesBy act Lane.dropFibre)

/-- KRET (R186, R272). -/
def semKret (g : Arg) : Sem :=
  Sem.simple g.size (fun _ => g.flow [] []) (fun s => keyedRole s 2) (fun _ => none)
    (fun s =>
      let x := s.ctx
      let act := x.act g.m
      let s := (laneList act).foldl (fun s l => s.endContext (x.wave.lane l)) s
      s.endLanes act)

/-! ### The keyed-context store (R188) -/

/-- Nodes whose contexts the store of a partition holds now: those of its resident tenant. -/
def State.storeNodes (s : State) (part : Nat) : List (Nat × Node) :=
  s.nodes.filter (fun e => e.2.part == part && s.onPart e.2.launch)

/-- A context is neither in the store nor in a lane. -/
def KeyCtx.away (c : KeyCtx) : Bool := c.place == .cellar || c.place == .shadow

/-- Contexts of a partition on a cluster that take an entry of its share: suspended in the store, or held in a lane. -/
def State.storeUsed (s : State) (part cluster : Nat) : Nat :=
  ((s.storeNodes part).map (fun e => (e.2.ctxs.filter (fun c => c.cluster == cluster && !c.away)).length)).sum

/-- The suspended context with the least LAST among a share, as (node, key). -/
def State.leastLast (s : State) (part cluster : Nat) : Option (Nat × BitVec 64) :=
  let all : List (Nat × Nat × BitVec 64) := (s.storeNodes part).flatMap (fun e =>
    (e.2.ctxs.filter (fun c => c.cluster == cluster && c.place == .store)).map (fun c => (c.last, e.1, c.key)))
  match all with
  | [] => none
  | a :: t => some (t.foldl (fun m b => if b.1 < m.1 then b else m) a).2

/-- Make an entry of the share free: none while that must wait. A store that holds more than the share gives no entry. -/
def State.makeRoom (s : State) (part cluster : Nat) : Option State :=
  let share := (s.quotaAt part cluster).keyed.len
  if s.storeUsed part cluster < share then some s
  else if share < s.storeUsed part cluster then none
  else
    match s.leastLast part cluster with
    | none => none
    | some (k, key) =>
      match look k s.nodes with
      | none => none
      | some n =>
        if (n.ctxs.filter (fun c => c.place == .cellar)).length < n.ccap then
          some (s.modNode k (fun n => n.modCtx key (fun c => { c with place := .cellar })))
        else none

/-- A tenant is restored where the partition's share on a cluster has become smaller: the suspended contexts with the least LAST, of
which the share holds no more, stay in the tenant's shadow area until they are fetched (R7, R188, R211; DESIGN CHOICE, log 84). -/
def State.leaveShadow (s : State) (part cluster : Nat) : Nat → State
  | 0 => s
  | n + 1 =>
    if s.storeUsed part cluster ≤ (s.quotaAt part cluster).keyed.len then s
    else
      match s.leastLast part cluster with
      | none => s
      | some (k, key) => (s.modNode k (fun n => n.modCtx key (fun c => { c with place := .shadow }))).leaveShadow part cluster n

/-- The stores of a tenant that is restored (R212). -/
def State.restoreStores (s : State) (part : Nat) : State :=
  (List.range 16).foldl (fun s c => s.leaveShadow part c (s.storeUsed part c)) s

/-! ### Deliveries -/

/-- The launch may run now: its tenant holds the partition and no ebb is under way. -/
def State.resides (s : State) (launch : Nat) : Bool :=
  let l := s.launch launch
  l.phase == .running && s.onPart launch && (s.part l.part).ebb.isNone

/-- The key of a record, low word first (R183). -/
def Record.key (r : Record) : BitVec 64 := ((r.words[1]?).getD 0#32) ++ ((r.words[0]?).getD 0#32)

/-- Its order key: identifier, then sequence (R189). -/
def Record.orderKey (r : Record) : List Nat := r.order ++ [r.seq]

/-- What the producer wrote before the REMIT has performed (R124). -/
def State.released (s : State) (r : Record) : Bool := r.producer == 0 || s.quietFibre r.producer

/-- A fibre started by a delivery (R184): the record, its status, the context registers. WB is 0 and the spill stack empty for a keyed
delivery too, whose context holds neither (DESIGN CHOICE, log 76). -/
def deliverLane (old : Lane) (words : List Word) (status : Nat) (pc : Word) (from_ : Option Word) (preds : BitVec 8)
    (ctx : List Reg) (key : Option LaneKey) (order : List Nat) (fibre : Nat) : Lane :=
  let v (i : Nat) : Reg := Reg.done ((words[i]?).getD 0#32) .raw
  let first := (List.range 16).map v ++ [Reg.done (BitVec.ofNat 32 status) .n32, Reg.zero, Reg.zero, Reg.zero] ++ ctx
  { old with
    status := .live, pc := pc, pos := 0, preds := preds, wb := 0, age := 0, regs := first ++ old.regs.drop first.length,
    temps := List.replicate 4 Reg.zero, spill := [], park := none, woken := false, yielded := false, xfer := from_, key := key, order := order,
    fibre := fibre, emitSeq := 0, detSeq := 0 }

/-- Put a fibre into a lane of a wave. -/
def State.startLane (s : State) (w l : Nat) (f : Lane → Nat → Lane) : State :=
  let (k, s) := s.fresh
  s.modWave w (fun x => x.mapLanes (laneBit l) (fun _ old => f old k))

/-- RECSTAT, KEY and KEYH of a delivery (Table 10.2). -/
def State.noteDelivery (s : State) (crew count : Nat) (pitch retire : Bool) (key : BitVec 64) : State :=
  s.modCrew crew (fun c => { c with
    recstat := BitVec.ofNat 32 (count + 256 * boolNat retire + 512 * boolNat pitch), key := key })

/-- The wave of a node crew. -/
def State.nodeWave (s : State) (crew : Nat) : Nat := (s.wavesOf crew).headD 0

/-- A node crew of a node on a cluster that still runs. -/
def State.nodeCrewOn (s : State) (node cluster crew : Nat) : Bool :=
  let c := s.crew crew
  (s.gang c.gang).node == some node && (s.gang c.gang).phase == .running && clusterOfCore c.core == cluster && !c.ended &&
  s.seated crew

/-- Records an ordinary node can deliver to a crew: those of its cluster and view level, in queue order, as far as what their
producers wrote before has performed. -/
def State.batch (s : State) (n : Node) (cluster vlevel : Nat) : List Record :=
  ((n.queue.filter (fun r => (n.home != 16 || r.cluster == cluster) && r.vlevel == vlevel)).takeWhile (fun r => s.released r)).take 32

/-- Take the first of some records out of a queue, those of one cluster and level. -/
def dropBatch (keep : Record → Bool) : Nat → List Record → List Record
  | 0, rs => rs
  | _, [] => []
  | k + 1, r :: rs => if keep r then r :: dropBatch keep (k + 1) rs else dropBatch keep k rs

/-- A delivery of an ordinary node: a batch into lanes 0 upward of a new crew (R184); a new crew that finds none ends. -/
def State.deliverBatch (s : State) (node : Nat) (n : Node) (cluster crew : Nat) : State :=
  let c := s.crew crew
  let rs := s.batch n cluster c.vlevel
  if c.recstat != 0#32 then s
  else if rs.isEmpty then s.settleWave (s.nodeWave crew)
  else
    let w := s.nodeWave crew
    let other (r : Record) : Bool := (n.home == 16 && r.cluster != cluster) || r.vlevel != c.vlevel
    let s := s.modNode node (fun n => { n with queue := dropBatch other rs.length n.queue })
    let s := (rs.mapIdx (fun i r => (i, r))).foldl (fun s e =>
      s.startLane w e.1 (fun old k => deliverLane old e.2.words 0 n.entry none 0#8 [] none e.2.orderKey k)) s
    s.noteDelivery crew rs.length false false 0#64

/-- Delivery count of a node on a cluster (R187). -/
def Node.count (n : Node) (cluster : Nat) : Nat := (look cluster n.counts).getD 0

/-- A context is being fetched: it is not in the store, and a record waits for it (R188). -/
def Node.fetching (n : Node) (c : KeyCtx) : Bool := c.away && n.queue.any (fun r => r.key == c.key)

/-- After a delivery on a cluster: suspended contexts that have been idle for long enough are marked to retire. One that is in a lane or
being fetched is not suspended: it is marked after the first delivery behind its next suspension, which for a fetched one is its return
to the store (R187). -/
def Node.marks (n : Node) (cluster : Nat) : Node :=
  { n with ctxs := n.ctxs.map (fun c =>
      if c.cluster == cluster && c.place != .lane && !n.fetching c && n.idle != 0 && n.idle ≤ n.count cluster - c.last then
        { c with mark := true }
      else c) }

/-- One more RESUME or PITCH delivery, of a context now in a lane: the count, LAST of the key, and the marks (R187). -/
def Node.counted (n : Node) (cluster : Nat) (key : BitVec 64) : Node :=
  let k := n.count cluster + 1
  let m : Node := { n with counts := n.counts.filter (fun e => e.1 != cluster) ++ [(cluster, k)] }
  (m.modCtx key (fun c => { c with last := k })).marks cluster

/-- The first record of a keyed queue that can be delivered on a cluster: the oldest of its key, its context suspended in the
store and not marked, or no context and the cluster the one where it would be pitched. -/
def State.nextKeyed (s : State) (n : Node) (cluster : Nat) : List (BitVec 64) → List Record → Option Record
  | _, [] => none
  | seen, r :: rs =>
    let ok :=
      !seen.contains r.key && s.released r &&
      (match n.ctxs.find? (fun c => c.key == r.key) with
       | some c => c.place == .store && !c.mark && c.cluster == cluster
       | none => (if n.home == 16 then r.cluster else n.home) == cluster)
    if ok then some r else s.nextKeyed n cluster (r.key :: seen) rs

/-- Remove the oldest record of a key. -/
def dropKey (key : BitVec 64) : List Record → List Record
  | [] => []
  | r :: rs => if r.key == key then rs else r :: dropKey key rs

/-- Deliver one record of a keyed node into a lane (R185): resumed or pitched; none while it must wait. True: pitched. -/
def State.deliverKeyed (s : State) (node cluster crew l : Nat) (r : Record) : Option (Bool × State) :=
  match look node s.nodes with
  | none => none
  | some n =>
    let w := s.nodeWave crew
    let key : LaneKey := { node := node, key := r.key, retire := false }
    match n.ctxs.find? (fun c => c.key == r.key) with
    | some c =>
      let s := s.modNode node (fun n => ({ n with queue := dropKey r.key n.queue }).modCtx r.key (fun c => { c with place := .lane }))
      let s := s.startLane w l (fun old k => deliverLane old r.words 0 c.pc (some c.susp) c.preds c.regs (some key) r.orderKey k)
      some (false, s.modNode node (fun n => n.counted cluster r.key))
    | none =>
      match s.makeRoom n.part cluster with
      | none => none
      | some s =>
        let zero := List.replicate n.kregs Reg.zero
        let c : KeyCtx :=
          { key := r.key, cluster := cluster, pc := n.tmpl, susp := 0#32, preds := 0#8, regs := zero, last := 0,
            place := .lane, mark := false }
        let s := s.modNode node (fun n => { n with queue := dropKey r.key n.queue, ctxs := n.ctxs ++ [c] })
        let s := s.startLane w l (fun old k => deliverLane old r.words 1 n.tmpl none 0#8 zero (some key) r.orderKey k)
        some (true, s.modNode node (fun n => n.counted cluster r.key))

/-- Fill lanes with records of a keyed node: how many were filled, whether one was pitched, the lowest lane's key. Records of a key
that must wait for room let those of other keys by (R188); `n` tries at most. -/
def State.fillKeyed (s : State) (node cluster crew : Nat) :
    Nat → List (BitVec 64) → List Nat → Nat × Bool × Option (BitVec 64) → (Nat × Bool × Option (BitVec 64)) × State
  | 0, _, _, acc => (acc, s)
  | _, _, [], acc => (acc, s)
  | n + 1, skip, l :: ls, acc =>
    match (look node s.nodes).bind (fun n => s.nextKeyed n cluster skip n.queue) with
    | none => (acc, s)
    | some r =>
      match s.deliverKeyed node cluster crew l r with
      | none => s.fillKeyed node cluster crew n (r.key :: skip) (l :: ls) acc
      | some (pitch, s) => s.fillKeyed node cluster crew n skip ls (acc.1 + 1, acc.2.1 || pitch, acc.2.2.or (some r.key))

/-- Free lanes of a wave, the lowest first: deliveries and retirements take them in that order, contexts that retire in the order in
which they were pitched (R185; DESIGN CHOICE, log 98). -/
def Wave.freeLanes (w : Wave) : List Nat := (List.range 32).filter (fun l => (w.lane l).status == .free)

/-- Crews of a keyed node with nothing left to do end (R185). -/
def State.settleNode (s : State) (node : Nat) : State :=
  (s.waves.filter (fun e => (s.gang (s.crew e.2.crew).gang).node == some node)).foldl
    (fun s e => s.settleWave e.1) s

/-- RECORD_DELIVERY (R184, R185). -/
def State.recordDelivery (s : State) (node cluster crew : Nat) : State :=
  match look node s.nodes with
  | none => s
  | some n =>
    if !(n.opened && s.resides n.launch && s.nodeCrewOn node cluster crew) then s
    else if !n.keyed then s.deliverBatch node n cluster crew
    else
      let ((count, pitch, key), s) := s.fillKeyed node cluster crew (32 + n.queue.length) [] (s.wave (s.nodeWave crew)).freeLanes (0, false, none)
      let s := if count == 0 then s else s.noteDelivery crew count pitch false (key.getD 0#64)
      s.settleNode node

/-- The suspended contexts due to be resumed with RETIRE on a cluster: those marked, or all at the end (R187, R182). -/
def State.retiring (s : State) (n : Node) (cluster : Nat) : List KeyCtx :=
  let last := s.nodesIdle n.launch
  n.ctxs.filter (fun c => c.cluster == cluster && c.place == .store && (c.mark || last))

/-- RETIRE_DELIVERY (R187, R184). No record is handled there: the order key is empty (DESIGN CHOICE, log 77). -/
def State.retireDelivery (s : State) (node cluster crew : Nat) : State :=
  match look node s.nodes with
  | none => s
  | some n =>
    let w := s.nodeWave crew
    let pairs := (s.wave w).freeLanes.zip (s.retiring n cluster)
    if !(n.opened && n.keyed && s.resides n.launch && s.nodeCrewOn node cluster crew) || pairs.isEmpty then s
    else
      let s := pairs.foldl (fun s e =>
        let c := e.2
        let s := s.modNode node (fun n => (n.modCtx c.key (fun c => { c with place := .lane })).marks cluster)
        s.startLane w e.1 (fun old k =>
          deliverLane old [c.key.extractLsb' 0 32, c.key.extractLsb' 32 32] 2 c.pc (some c.susp) c.preds c.regs
            (some { node := node, key := c.key, retire := true }) [] k)) s
      (s.noteDelivery crew pairs.length false true ((pairs.head?.map (fun e => e.2.key)).getD 0#64)).settleNode node

/-- CONTEXT_FETCH (R188): a context that a record waits for, or that must retire, comes back to the store from the cellar, or from the
shadow area (log 84). -/
def State.contextFetch (s : State) (node : Nat) (key : BitVec 64) : State :=
  match look node s.nodes with
  | none => s
  | some n =>
    match n.ctxs.find? (fun c => c.key == key) with
    | none => s
    | some c =>
      let due := n.queue.any (fun r => r.key == key) || c.mark || s.nodesIdle n.launch
      if !(n.opened && s.resides n.launch && c.away && due) then s
      else
        match s.makeRoom n.part c.cluster with
        | some s => s.modNode node (fun n => n.modCtx key (fun c => { c with place := .store }))
        | none => s

end Sys2Proof.Machine
end

