-- ==== Sys2Proof/Machine/System.lean ====
section
/-!
DEFINITION. LAUNCH (R274-R276), TRAP (R209, R324), SRD and SWR (R65, R66, R316, R317), FENCE and FWAIT (R119, R263, R267), WQRY
(R191, R331).
-/
namespace Sys2Proof.Machine

/-! ### LAUNCH -/

/-- Bytes of a launch descriptor (R197). -/
def launchBytes : Nat := 256

def launchAddr (x : Ctx) (g : Arg) : Dword := x.crew.pair g.a

/-- Lanes that parked at the LAUNCH being executed. -/
def launchParked (s : State) (w : Wave) : Lanes := laneSet (fun l => (w.lane l).park == some (.launch s.nextUid))

/-- LAUNCH (R275): only in crew 0 of a gang, and a node crew belongs to none (R26, R133). -/
def semLaunch (g : Arg) : Sem :=
  let opds := [Opd.u g.a, .u (g.a + 1), .u g.d, .u (g.d + 1)]
  let fresh (x : Ctx) (act : Lanes) : Lanes := laneSet (fun l => act.getLsbD l && !(x.wave.lane l).woken)
  { size := g.size, flow := fun _ => g.flow [.u g.a, .u (g.a + 1)] [.u g.d, .u (g.d + 1)],
    static := fun s => roleFault s.ctx rolesAll 29 0 (s.ctx.crew.idx != 0 || s.ctx.gang.node.isSome),
    check := fun s =>
      let x := s.ctx
      let act := x.act g.m
      let da := launchAddr x g
      firstFault [inflightFault x act opds, onceFault .scope act (spaceOf da == 3) 0#64 da,
        onceFault .align act (da.extractLsb' 0 4 != 0#4) 0#64 da,
        onceFault .bounds act (s.tagged x.crewId da launchBytes).isNone 0#64 da],
    unknown := fun s => s.ctx.launch.level != 10 && fresh s.ctx (s.ctx.act g.m) != 0#32,
    guess := fun s =>
      (s.setUni s.ctx.crewId g.d (Reg.done (s.freeWord 0) .n32)).setUni s.ctx.crewId (g.d + 1) (Reg.done (s.freeWord 1) .n32),
    wait := fun s =>
      let x := s.ctx
      let act := x.act g.m
      if x.launch.level == 10 || fresh x act == 0#32 then .go else .park (fresh x act) (.launch s.nextUid),
    eff := fun s =>
      let x := s.ctx
      let act := x.act g.m
      let asked := launchParked s x.wave
      let s :=
        if asked == 0#32 then s
        else
          let s := s.catchUpLanes x.cur.wave asked
          let r : LaunchReq :=
            { wave := x.cur.wave, crew := x.crewId, lanes := asked, d := g.d, desc := launchAddr x g,
              local_ := s.tagged x.crewId (launchAddr x g) launchBytes }
          let k := ((laneList asked).head?.bind (fun l => match (x.wave.lane l).park with
            | some (.launch k) => some k
            | _ => none)).getD s.nextUid
          { s with lreqs := s.lreqs ++ [(k, r)], nextUid := max s.nextUid (k + 1) }
      if act == 0#32 then s
      else if x.launch.level == 10 then
        (s.setUni x.crewId g.d (Reg.done 1#32 .n32)).setUni x.crewId (g.d + 1) (Reg.done 0#32 .n32)
      else s.modWave x.cur.wave (fun w => w.mapLanes act (fun _ ln => { ln with woken := false })) }

/-! ### TRAP -/

def trapVal (g : Arg) : Bool := g.w2.getLsbD 8
def trapNum (g : Arg) : Nat := g.w2f 0 8

/-- INFO of the record: the value, then n. -/
def trapInfo (x : Ctx) (act : Lanes) (g : Arg) : Dword :=
  let v := if trapVal g then ((x.wave.lane (lowestLane act)).readV g.a).val else 0#32
  v ++ BitVec.ofNat 32 (trapNum g)

/-- TRAP (R209): n of 128 or more stops the gang from the check step; a smaller n posts a record. Either record follows what it
releases. -/
def semTrap (g : Arg) : Sem :=
  let src : List Opd := if trapVal g then [.v g.a] else []
  Sem.simple g.size (fun _ => g.flow src [])
    (fun s => firstFault [roleFault s.ctx rolesAll 29 1 false, windowFault s.ctx src])
    (fun s =>
      let x := s.ctx
      let act := x.act g.m
      firstFault [inflightFault x act src, onceFault .trap act (128 ≤ trapNum g) (trapInfo x act g) 0#64])
    (fun s =>
      let x := s.ctx
      let act := x.act g.m
      if act == 0#32 then s
      else
        let info := trapInfo x act g
        let s := s.catchUpLanes x.cur.wave act
        s.issueAccess
          { op := s.nextUid, wave := x.cur.wave, crew := x.crewId, lane := lowestLane act, lanes := act,
            fibres := x.wave.fibres act, flag := none, scope := 4, rel := true, acq := false,
            what := .trap info x.cur.idx act x.cur.pc none, addr := .loc x.crewId 0, ret := none, txns := 0, fault := none })

/-! ### SRD and SWR -/

/-- Gangs of a launch: one for every set bit of MASK under MCAST, else the grid (R23, R65). -/
def Desc.ngang (d : Desc) : Nat :=
  if d.mcast then ((List.range 64).filter (fun i => d.mask.getLsbD i)).length else d.gx * d.gy * d.gz

/-- A special register as a lane reads it (Table 3.11). -/
def special (s : State) (x : Ctx) (l idx : Nat) : Word :=
  let c := x.crew
  match idx with
  | 0 => 32#32
  | 1 => BitVec.ofNat 32 l
  | 2 => BitVec.ofNat 32 c.idx
  | 3 => gangIdOf x.gang
  | 4 => BitVec.ofNat 32 c.core
  | 5 => BitVec.ofNat 32 (clusterOfCore c.core % 4)
  | 6 => BitVec.ofNat 32 (dieOfCore c.core)
  | 7 => x.launch.ident
  | 8 => BitVec.ofNat 32 x.launch.level
  | 9 => BitVec.ofNat 32 c.vlevel
  | 10 => BitVec.ofNat 32 (s.core c.core).cycles
  | 11 => x.wave.cyclesH
  | 12 => BitVec.ofNat 32 x.launch.part
  | 13 => x.launch.desc.seed.extractLsb' 0 32
  | 14 => x.launch.desc.seed.extractLsb' 32 32
  | 15 => taskIdOf c x.gang x.launch
  | 16 => BitVec.ofNat 32 (ncrewOf x.gang x.launch)
  | 17 => if x.gang.node.isSome then 0xFFFF_FFFF#32 else
      BitVec.ofNat 32 x.launch.desc.ngang
  | 18 => BitVec.ofNat 32 c.role
  | 19 => c.opthr
  | 20 => c.key.extractLsb' 0 32
  | 21 => c.key.extractLsb' 32 32
  | 22 => c.recstat
  | _ => 0#32

def srdUni (g : Arg) : Bool := g.w2.getLsbD 8
def srIndex (g : Arg) : Nat := g.w2f 0 6

/-- SRD (R316); a read of CYCLES latches the high half for the wave (R65). -/
def semSrd (g : Arg) : Sem :=
  let opds := [if srdUni g then Opd.u g.d else Opd.v g.d]
  Sem.simple g.size (fun _ => { g.flow [] opds with uses := if srIndex g == 19 then [.opthr] else [] })
    (fun s => firstFault [roleFault s.ctx rolesAll 29 2 false, windowFault s.ctx opds])
    (fun s => inflightFault s.ctx (s.ctx.act g.m) opds)
    (fun s =>
      let x := s.ctx
      let act := x.act g.m
      if act == 0#32 then s
      else
        let t :=
          if srdUni g then s.setUni x.crewId g.d (Reg.done (special s x (lowestLane act) (srIndex g)) .raw)
          else s.modWave x.cur.wave (fun w => w.mapLanes act (fun l ln => ln.writeV g.d (Reg.done (special s x l (srIndex g)) .raw)))
        if srIndex g == 10 then
          t.modWave x.cur.wave (fun w => { w with cyclesH := BitVec.ofNat 32 ((s.core x.crew.core).cycles / 2 ^ 32) })
        else t)

/-- What an SWR to OPTHR writes (R66). -/
def opthrOf (v : Word) : Word :=
  if f32Nan v then f32OneW
  else if f32Lt v 0#32 || v == 0x8000_0000#32 then 0#32
  else if f32Lt f32OneW v then f32OneW
  else v

/-- SWR (R317). -/
def semSwr (g : Arg) : Sem :=
  let opds := g.srcA.opds
  let value (x : Ctx) (l : Nat) : Word := (g.srcA.read x.crew (x.wave.lane l) .raw).val
  Sem.simple g.size (fun _ => { g.flow opds [] with sets := [.opthr] })
    (fun s => firstFault [roleFault s.ctx rolesAll 29 3 false, windowFault s.ctx opds])
    (fun s =>
      let x := s.ctx
      let act := x.act g.m
      firstFault [onceFault .nonuniform act ((laneList act).any (fun l => value x l != value x (lowestLane act)))
          (BitVec.ofNat 64 g.a) 0#64,
        inflightFault x act opds])
    (fun s =>
      let x := s.ctx
      let act := x.act g.m
      if act == 0#32 || srIndex g != 19 then s
      else s.modCrew x.crewId (fun c => { c with opthr := opthrOf (value x (lowestLane act)) }))

/-! ### FENCE and FWAIT -/

def fenceScope (g : Arg) : Nat := g.w2f 0 3
def fenceRange (g : Arg) : Bool := g.w2.getLsbD 3

/-- A base that is no shelf or global tagged address. -/
def fenceBad (t : Dword) : Bool :=
  match spaceOf t with
  | 0 => t.extractLsb' 52 10 != 0#10
  | 1 => t.extractLsb' 34 28 != 0#28
  | _ => true

/-- Where the range of a fence begins. -/
def fenceBase (t : Dword) : VAddr :=
  if spaceOf t == 1 then .shelf (t.extractLsb' 32 2).toNat (t.extractLsb' 0 32).toNat else .glob (t.extractLsb' 0 52).toNat

/-- The fence covers n bytes at an address: some of them lie in its range, or their space in its scope. -/
def fenceCovers (x : Ctx) (g : Arg) (a : VAddr) (n : Nat) : Bool :=
  if fenceRange g then (fenceBase (x.crew.pair g.a)).meets (x.crew.uni g.b).val.toNat a n else scopeCovers (fenceScope g) a

/-- Accesses of active fibres that a release covers, not yet performed; writes that a DET region buffers are none of them (R263). -/
def fenceCover (s : State) (x : Ctx) (act : Lanes) (g : Arg) : List Nat :=
  (s.accesses.filter (fun e =>
    e.2.of (x.wave.fibres act) && (s.buffersAt e.2).isNone && fenceCovers x g e.2.addr e.2.bytes)).map (·.1) ++
  (s.flights.filter (fun e => e.2.wave == x.cur.wave && (match e.2.payload with
    | .load l _ a _ => act.getLsbD l && fenceCovers x g a 4
    | _ => false))).map (·.1)

/-- FENCE (R119, R263). -/
def semFence (g : Arg) : Sem :=
  let opds := [Opd.u g.d] ++ (if fenceRange g then [.u g.a, .u (g.a + 1), .u g.b] else [])
  { size := g.size, flow := fun _ => g.flow (opds.drop 1) (opds.take 1),
    static := fun s => roleFault s.ctx rolesAll 29 4 false,
    check := fun s =>
      let x := s.ctx
      let act := x.act g.m
      let base := x.crew.pair g.a
      firstFault [inflightFault x act opds, onceFault .scope act (fenceRange g && fenceBad base) 0#64 base],
    unknown := fun s => s.ctx.act g.m != 0#32 && s.ctx.wave.fences.all (·.busy),
    guess := fun s => s.setUni s.ctx.crewId g.d (Reg.done (s.freeWord 0) .n32),
    wait := fun s =>
      let x := s.ctx
      if x.act g.m != 0#32 && x.wave.fences.all (·.busy) then .hold s else .go,
    eff := fun s =>
      let x := s.ctx
      let act := x.act g.m
      if act == 0#32 then s
      else
        let k := ((List.range 8).find? (fun i => !((x.wave.fences[i]?).getD Fence.idle).busy)).getD 0
        let gen := (((x.wave.fences[k]?).getD Fence.idle).gen + 1) % 2 ^ 29
        let cover := if g.m.rel then fenceCover s x act g else []
        let s := s.modWave x.cur.wave (fun w => { w with
          fences := w.fences.set k { gen := gen, busy := !cover.isEmpty, acq := g.m.acq, cover := cover } })
        s.setUni x.crewId g.d (Reg.done (BitVec.ofNat 32 (gen * 8 + k)) .n32) }

/-- The fence a token names has not completed. -/
def fenceOpen (x : Ctx) (g : Arg) : Option (Nat × Nat) :=
  let t := (x.crew.uni g.a).val.toNat
  let f := (x.wave.fences[t % 8]?).getD Fence.idle
  if f.busy && f.gen == t / 8 then some (t % 8, t / 8) else none

/-- FWAIT (R119, R267): deferred faults that no flag delivers reach the crew here (R108). -/
def semFwait (g : Arg) : Sem :=
  { size := g.size, flow := fun _ => g.flow [.u g.a] [],
    static := fun s => roleFault s.ctx rolesAll 29 5 false,
    check := fun s =>
      let x := s.ctx
      let act := x.act g.m
      firstFault [inflightFault x act [Opd.u g.a], formatFault x act (fun _ => oneTag .n32 (x.crew.uni g.a).tag)],
    unknown := fun _ => false,
    wait := fun s =>
      let x := s.ctx
      let act := x.act g.m
      if act == 0#32 then .go
      else
        match fenceOpen x g with
        | some (k, gen) => .park act (.fence k gen)
        | none =>
          (match s.deferredAt x.crewId .fwait with
           | some d => .stop (d.precise act)
           | none => .go),
    eff := fun s => s }

/-- FENCE_COMPLETE (R119): every covered access has performed. -/
def State.fenceComplete (s : State) (wave slot : Nat) : State :=
  let f := ((s.wave wave).fences[slot]?).getD Fence.idle
  let left := f.cover.any (fun k => (look k s.accesses).isSome || (match look k s.flights with
    | some fl => (match fl.payload with | .load _ _ _ _ => true | _ => false)
    | none => false))
  if f.busy && !left then s.modWave wave (fun w => { w with fences := w.fences.set slot { f with busy := false, cover := [] } })
  else s

/-! ### WQRY -/

/-- The two words of the end token (R191). -/
def endToken : Word := 0xFFFF_FFFF#32

def wqryPlace (s : State) (x : Ctx) (g : Arg) : Option VAddr := s.localAddr x.crewId (x.crew.uni g.a).val 8

/-- WQRY (R191, R331): node crews, and crews of a launch without items, are answered with the end token at once. -/
def semWqry (g : Arg) : Sem :=
  { size := g.size, flow := fun _ => g.flow [.u g.a] [],
    static := fun s => roleFault s.ctx rolesAll 29 6 false,
    check := fun s =>
      let x := s.ctx
      let act := x.act g.m
      let a := (x.crew.uni g.a).val
      firstFault [inflightFault x act [Opd.u g.a], onceFault .align act (a.extractLsb' 0 3 != 0#3) 0#64 (taggedLocal a),
        onceFault .bounds act (wqryPlace s x g).isNone 0#64 (taggedLocal a)],
    unknown := fun _ => false,
    wait := fun s => queryWait s.ctx s (s.ctx.act g.m) g.m.fsel,
    eff := fun s =>
      let x := s.ctx
      let act := x.act g.m
      match (if act == 0#32 then none else wqryPlace s x g) with
      | some (.loc yc off) =>
        let flag := x.cur.flagOf g.m.fsel
        let (op, s) := s.countOp x.cur.wave flag
        let r : WRequest := { op := op, wave := x.cur.wave, crew := x.crewId, flag := flag, ycrew := yc, off := off }
        if x.gang.node.isSome || x.launch.desc.wqx == 0 then
          s.addFlight { op := op, wave := x.cur.wave, flag := flag, txns := 1, lines := [],
                        payload := .answer yc off endToken endToken, fault := none }
        else { s with wreqs := s.wreqs ++ [(s.nextUid, r)], nextUid := s.nextUid + 1 }
      | _ => s }

end Sys2Proof.Machine
end

