-- ==== Sys2Proof/Machine/Engine.lean ====
section
/-!
DEFINITION. What the part's engines do on their own: landings (R53), copy packets, holds and signals (R94-R104), translation faults
serviced or declared fatal (R108), atomics at their home (R237), slack-water and final merges (R128-R131), peer traffic (R203).
-/
namespace Sys2Proof.Machine

/-! ### LANDING -/

/-- A flight is over: it leaves the table, its flag falls, and lanes it held draining may become free (R16, R53). -/
def State.endFlight (s : State) (k : Nat) (f : Flight) : State :=
  (({ s with flights := drop k s.flights }).lowerFlag f.op f.wave f.flag).settleWave f.wave

/-- Destinations are written, then the flight is over. -/
def State.landDests (s : State) (k : Nat) (f : Flight) (ds : List Dest) : State :=
  (ds.foldl (fun s d => s.writeDest f.wave d) s).endFlight k f

/-- What RAYQ writes: t and PRIM of the hit, a miss, or an error (R169). -/
def rayDests (lane phys : Nat) (t prim : Word) : List Dest := [.lane lane phys t .f32, .lane lane (phys + 1) prim .n32]

def rayErrorT : Word := 0x7FC0_0000#32
def rayErrorPrim : Word := 0xFFFF_FFFE#32

/-- Hold a flight at a translation fault. -/
def State.holdFlight (s : State) (k : Nat) (f : Flight) (crew : Nat) (a : VAddr) : State :=
  let (g, s) := s.faultFor crew f.wave a
  { s with flights := change k (fun x => { x with fault := some g }) s.flights }

/-- A RAYQ lane traces its ray and lands (R169). -/
def State.landRay (s : State) (k : Nat) (f : Flight) (lane phys : Nat) (cut : Dword) (ray : List Word) : State :=
  let crew := (s.wave f.wave).crew
  match s.rayQuery crew cut ray with
  | .ok (some h) => s.landDests k f (rayDests lane phys h.t h.prim)
  | .ok none => s.landDests k f (rayDests lane phys f32InfW 0xFFFF_FFFF#32)
  | .error (.miss a) => s.holdFlight k f crew a
  | .error (.bad addr off) =>
    (s.landDests k f (rayDests lane phys rayErrorT rayErrorPrim)).defer
      { gang := (s.crew crew).gang, crew := crew, cls := .descriptor, addr := addr, info := BitVec.ofNat 64 off,
        till := tillFlag f.wave f.flag }

def nearDests (d idx dist : Nat) : List Dest := [.uni d (BitVec.ofNat 32 idx) .n32, .uni (d + 1) (BitVec.ofNat 32 dist) .n32]

/-- HNEAR compares its items and lands (R179): every item word is read then (R180; DESIGN CHOICE, log 6). -/
def State.landNear (s : State) (k : Nat) (f : Flight) (d : Nat) (q : Hyper) (base : VAddr) (count : Nat) : State :=
  let crew := (s.wave f.wave).crew
  match s.nearest crew q base 0 count (0xFFFF_FFFF, 8193) with
  | .ok (i, dist) => s.landDests k f (nearDests d i dist)
  | .error a => s.holdFlight k f crew a

/-- It is the turn of a query's partition at the recall unit of its cluster (R210). -/
def State.recallTurn (s : State) (f : Flight) : Bool :=
  let unit (w : Nat) : Nat := clusterOfCore (s.coreOfWave w)
  s.engineServes (.recall (unit f.wave)) (fun part => s.flights.any (fun e =>
    (match e.2.payload with
     | .hnear _ _ _ _ => true
     | _ => false) && e.2.fault.isNone && unit e.2.wave == unit f.wave && s.partOf (s.wave e.2.wave).crew == part &&
    s.awake (s.wave e.2.wave).crew && s.quiet e.2.wave e.1)) == some (s.partOf (s.wave f.wave).crew)

/-- The flight of a name lands, where it may: of a WQRY one word, the first one first (R331). -/
def State.landFlight (s : State) (k : Nat) : State :=
  match look k s.flights with
  | none => s
  | some f =>
    if f.fault.isSome || !s.awake (s.wave f.wave).crew then s
    else
      match f.payload with
      | .regs ds => s.landDests k f ds
      | .hdist d v => s.landDests k f [.uni d v .n32]
      | .tile n tag els =>
        (s.modWave f.wave (fun w => w.setTile n (fun t => { t with tag := tag, elems := els, pend := false }))).endFlight k f
      | .answer crew off x y =>
        { s.putLmem crew off 4 x.toNat with flights := change k (fun w => { w with payload := .rest crew off y }) s.flights }
      | .rest crew off y => (s.putLmem crew (off + 4) 4 y.toNat).endFlight k f
      | .load _ _ _ _ =>
        let s := s.performLoad k f
        (match (look k s.flights).map (fun (x : Flight) => x.payload) with
         | some (.regs ds) => s.landDests k f ds
         | _ => s)
      | .rayq l phys cut ray => if s.quiet f.wave k then s.landRay k f l phys cut ray else s
      | .hnear d q base count =>
        if s.quiet f.wave k && s.recallTurn f then
          (s.engineServed (.recall (clusterOfCore (s.coreOfWave f.wave))) (s.partOf (s.wave f.wave).crew)).landNear k f d q base count
        else s

/-! ### Copies -/

/-- The status register of a copy is on its way: 0 done, 1 ended by a fatal fault (R102). -/
def State.finishCopy (s : State) (k : Nat) (c : Copy) (status : Nat) : State :=
  ({ s.modCrew c.crew (fun w => w.settleCharges k) with copies := drop k s.copies }).addFlight
    { op := c.op, wave := c.wave, flag := c.flag, txns := 1, lines := [], payload := .regs [.uni c.d (BitVec.ofNat 32 status) .n32], fault := none }

/-- The waits that deliver a copy's fault (R108): on its flag, or on the barrier it credits. -/
def State.tillCopy (s : State) (c : Copy) : List Until :=
  (match c.flag with
   | some f => [.flag c.wave f]
   | none => []) ++ s.tillBar c.crew c.desc.cred

/-- A copy ends by a fatal fault, or by a source found bad after issue (R96, R100). -/
def State.failCopy (s : State) (k : Nat) (c : Copy) (cls : FaultClass) (addr info : Dword) : State :=
  (s.finishCopy k c 1).defer
    { gang := (s.crew c.crew).gang, crew := c.crew, cls := cls, addr := addr, info := info, till := s.tillCopy c }

/-- Elements one after the other: how many landed, what stopped the packet, the state. -/
def State.moveElems (s : State) (k : Nat) (c : Copy) (first : Nat) : Nat → Nat → Nat × Option ElemStop × State
  | 0, done => (done, none, s)
  | n + 1, done =>
    match s.moveElem k c first with
    | .ok s => s.moveElems k c (first + 1) n (done + 1)
    | .error e => (done, some e, s)

/-- Some byte of a line is still to land. -/
def Copy.owes (c : Copy) (left : List Range) (line : Nat × Nat) : Bool :=
  left.any (fun r => (List.range r.len).any (fun i => (linesTouched (c.desc.dstOf (r.base + i)) c.desc.unit).contains line))

/-- After elements landed: what is left, and the claims on lines whose last byte has landed end (R94). -/
def Copy.landed (c : Copy) (first n : Nat) : Copy :=
  let left := takeRange first n c.left
  let touched := dedup ((List.range n).flatMap (fun i => linesTouched (c.desc.dstOf (first + i)) c.desc.unit))
  { c with left := left, claims := c.claims.filter (fun l => !touched.contains l || c.owes left l) }

/-- Elements have gone out of a peer port: they have yet to land (R203). -/
def Copy.goneOut (c : Copy) (first n : Nat) : Copy :=
  if n == 0 then c else { c with left := takeRange first n c.left, sent := c.sent ++ [{ base := first, len := n }] }

/-- Bytes of landed elements are credited (R102). -/
def State.creditLanded (s : State) (c : Copy) (n : Nat) : State :=
  match c.desc.cred with
  | some bar => if n == 0 then s else s.credit c.crew c.wave bar (n * c.desc.unit)
  | none => s

/-- A copy suspends at an element (R108); the record names its descriptor. -/
def State.suspendCopy (s : State) (k : Nat) (c : Copy) (elem : Nat) (a : VAddr) : State :=
  let (f, s) := s.openFault c.crew c.wave a c.desc.addr
  { s with copies := change k (fun x => { x with susp := some (elem, f) }) s.copies }

/-- A copy has an element or a signal that can go on, with the turn at the host link where it takes that link (R210). -/
def State.copyMay (s : State) (k : Nat) (c : Copy) : Bool :=
  s.awake c.crew &&
  (c.left.any (fun r => (List.range r.len).any (fun i =>
      s.elemGoes k c (r.base + i) && (!s.elemHost c (r.base + i) || s.hostTurn c.crew))) ||
   (c.signalDue && (!s.inHost c.crew c.desc.ctr || s.hostTurn c.crew)))

/-- A copy does not go out of a peer port, or it is the turn of its partition at the port's link (R210). Work that waits for its turn
at the host link is not ready there, so that no two links wait for one another (DESIGN CHOICE, log 82). -/
def State.linkTurn (s : State) (c : Copy) : Bool :=
  !c.toPeer ||
  s.engineServes (.link c.desc.port) (fun part => s.copies.any (fun e =>
    e.2.toPeer && e.2.desc.port == c.desc.port && s.partOf e.2.crew == part && s.copyMay e.1 e.2)) == some (s.partOf c.crew)

/-- The cluster whose copy engine runs a copy (R98). -/
def State.copyCluster (s : State) (c : Copy) : Nat := clusterOfCore (s.crew c.crew).core

/-- A copy has an element or a signal that can go on, with the turn at the links it takes (R210). -/
def State.copyWork (s : State) (k : Nat) (c : Copy) : Bool := s.linkTurn c && s.copyMay k c

/-- It is the turn of a copy's partition at its engine, and at the links that it takes: out of a peer port, and to the host (R210). -/
def State.copyTurn (s : State) (c : Copy) (host : Bool) : Bool :=
  s.linkTurn c && (!host || s.hostTurn c.crew) &&
  s.engineServes (.copies (s.copyCluster c)) (fun part => s.copies.any (fun e =>
    s.copyCluster e.2 == s.copyCluster c && s.partOf e.2.crew == part && s.copyWork e.1 e.2)) == some (s.partOf c.crew)

/-- The engine, and the links, have served a copy. -/
def State.copyServed (s : State) (c : Copy) (host : Bool) : State :=
  let t := (s.engineServed (.copies (s.copyCluster c)) (s.partOf c.crew)).hostServed host c.crew
  if c.toPeer then t.engineServed (.link c.desc.port) (s.partOf c.crew) else t

/-- Some of a packet's elements go over the host link. -/
def State.packetHost (s : State) (c : Copy) (first n : Nat) : Bool := (List.range n).any (fun i => s.elemHost c (first + i))

/-- COPY_PACKET (R102): elements land up to the first that is held, suspends the copy or ends it; what landed is credited. Of a
suspended copy only elements before the faulting one go on landing (R108), and of one that is held only those before the element it
is held at (R94, R97). -/
def State.copyPacket (s : State) (k first n : Nat) : State :=
  match look k s.copies with
  | none => s
  | some c =>
    let late := match c.susp with
      | some (e, _) => decide (e < first + n)
      | none => false
    if late || !s.awake c.crew || n == 0 || 64 < n * c.desc.unit || !allLeft c.left first n || !s.elemGoes k c first ||
        !s.copyTurn c (s.packetHost c first n) then s
    else
      let (done, stop, s) := (s.copyServed c (s.packetHost c first n)).moveElems k c first n 0
      let c := if c.toPeer then c.goneOut first done else c.landed first done
      let s : State := { s with copies := change k (fun _ => c) s.copies }
      let s := if c.toPeer then s else s.creditLanded c done
      match stop with
      | none => if c.left.isEmpty && !c.signal && c.susp.isNone then s.finishCopy k c 0 else s
      | some .held => s
      | some (.miss a) => if c.susp.isSome then s else s.suspendCopy k c (first + done) a
      | some .late => s.failCopy k c .descriptor c.desc.addr 80#64
      | some (.fatal a) => s.failCopy k c .translate (s.toTagged a) 0#64

/-- COPY_HOLD_RELEASE (R94): the lines that now have room take the copy's claim. -/
def State.copyRelease (s : State) (k : Nat) : State :=
  match look k s.copies with
  | none => s
  | some c =>
    let (p, t) := s.spaceOfCrew c.crew
    let free (l : Nat × Nat) : Bool := s.claimCount p t l < 15
    { s with copies := change k (fun x => { x with
        claims := c.claims ++ c.wants.filter free, wants := c.wants.filter (fun l => !free l) }) s.copies }

/-- COPYS_SIGNAL (R104): once every packet has landed. To a peer it goes out, and the copy is over when the peer has applied it
(R203). -/
def State.copysSignal (s : State) (k : Nat) : State :=
  match look k s.copies with
  | none => s
  | some c =>
    let (p, t) := s.spaceOfCrew c.crew
    let host := s.inHost c.crew c.desc.ctr
    if !c.signalDue || !s.awake c.crew || !s.copyTurn c host then s
    else
    let s := s.copyServed c host
    if s.copyUnreached c c.desc.ctr then s.failCopy k c .translate (s.toTagged c.desc.ctr) 0#64
    else
      match c.desc.ctr with
      | .peer a =>
        { s with
          peerOut := s.peerOut ++ [PeerMsg.signal c.desc.port k a c.desc.dec],
          copies := change k (fun x => { x with asked := true }) s.copies }
      | ctr =>
        match s.home? p t ctr with
        | some h => ((s.counterSignal p t h c.desc.dec).markDirty p t ctr).finishCopy k c 0
        | none => s.suspendCopy k c c.desc.total ctr

/-! ### Translation faults serviced or declared fatal -/

/-- Perform what a fault held, accesses and loads, in the order they were issued (R110). -/
def State.resumeHeld (s : State) (acc lds : List Nat) : State := s.performAll (inOrder acc lds)

/-- Two pages meet. -/
def Page.meets (p q : Page) : Bool := p.shelfDie == q.shelfDie && p.base < q.base + q.size && q.base < p.base + p.size

/-- The pages that can be added to some: those R108 allows that meet none already there (log 53). -/
def addedPages (old : List Page) : List Page → List Page
  | [] => []
  | p :: ps => if Page.ok p && !old.any (Page.meets p) then p :: addedPages (old ++ [p]) ps else addedPages old ps

/-- FAULT_SERVICED (R108): the pages are mapped, and what the fault held goes on. -/
def State.faultServiced (s : State) (f : Nat) (pages : List PageSpec) : State :=
  match look f s.tfaults with
  | none => s
  | some t =>
    if t.fatal then s
    else
      let acc := names (fun (a : Access) => a.fault == some f) s.accesses
      let lds := names (fun (x : Flight) => x.fault == some f) s.flights
      let new := addedPages (((s.tenant? t.part t.tenant).map (·.pages)).getD []) pages
      let s := (s.snapPages t.part t.tenant new).modPart t.part (fun p => { p with tenants := p.tenants.map (fun n =>
        if n.id == t.tenant then { n with pages := n.pages ++ new } else n) })
      let s : State := { s with
        tfaults := drop f s.tfaults,
        accesses := s.accesses.map (fun e => if e.2.fault == some f then (e.1, { e.2 with fault := none }) else e),
        flights := s.flights.map (fun e => if e.2.fault == some f then (e.1, { e.2 with fault := none }) else e),
        copies := s.copies.map (fun e => match e.2.susp with
          | some (_, g) => if g == f then (e.1, { e.2 with susp := none }) else e
          | none => e),
        views := s.views.map (fun e => if e.2.fault == some f then (e.1, { e.2 with fault := none }) else e) }
      (s.resumeHeld acc lds).postAgain

/-- A flight that a fatal fault held (R280, R169, R179). -/
def State.failFlight (s : State) (k : Nat) (f : Flight) (a : VAddr) : State :=
  let crew := (s.wave f.wave).crew
  let land (ds : List Dest) : State :=
    ({ s with flights := change k (fun x => { x with payload := .regs ds, fault := none }) s.flights }).deferTranslate crew a
      (tillFlag f.wave f.flag)
  match f.payload with
  | .load l phys _ tag => land [.lane l phys 0#32 tag]
  | .rayq l phys _ _ => land (rayDests l phys rayErrorT rayErrorPrim)
  | .hnear d _ _ _ => land (nearDests d 0xFFFF_FFFE 8194)
  | _ => s

/-- FAULT_DECLARED_FATAL (R108): every operation the fault held ends; one that nothing in flight held (`State.pageAsked`) stays until it
is met. -/
def State.faultFatal (s : State) (f : Nat) : State :=
  match look f s.tfaults with
  | none => s
  | some t =>
    if t.fatal then s
    else
      let acc := s.accesses.filter (fun e => e.2.fault == some f)
      let fls := s.flights.filter (fun e => e.2.fault == some f)
      let cps := s.copies.filter (fun e => match e.2.susp with | some (_, g) => g == f | none => false)
      let vws := names (fun (v : View) => v.fault == some f) s.views
      let s : State := { s with
        tfaults := if !s.faultHolds f then change f (fun t => { t with fatal := true }) s.tfaults else drop f s.tfaults }
      let s := acc.foldl (fun s e => s.failAccess e.1 e.2) s
      let s := fls.foldl (fun s e => s.failFlight e.1 e.2 t.addr) s
      let s := cps.foldl (fun s e => s.failCopy e.1 e.2 .translate (s.toTagged t.addr) 0#64) s
      (vws.foldl (fun s k => s.modView k (fun v => { v with
        fault := none, error := some (.translate, s.toTagged t.addr, 0#64) })) s).postAgain

/-! ### Pages the part itself needs -/

/-- Ask for a page that an engine or the launch unit needs, once (R108). -/
def State.askPage (s : State) (part tenant : Nat) (a : VAddr) : State :=
  if s.faultOn part tenant a false then s
  else
    let s : State := { s with
      tfaults := s.tfaults ++ [(s.nextUid, { part := part, tenant := tenant, addr := a, fatal := false })],
      nextUid := s.nextUid + 1 }
    s.postHost { FaultRec.plain .suspend part tenant with addr := s.toTagged a }

/-! ### Merges -/

/-- The first byte that sealed entries of a region touch whose page is missing, and not declared fatal. -/
def State.mergeMiss (s : State) (part tenant i : Nat) (r : Region) (tasks : List Nat) : Option VAddr :=
  (tasks.flatMap (fun k => ((s.crew k).sealed.filter (fun e => e.region == i)).flatMap (fun e =>
    (e.touches k).map (fun u => r.base.plus u.1)))).find? (fun a =>
      (s.home? part tenant a).isNone && !s.faultOn part tenant a true)

/-- Tasks with sealed entries for a region, in ascending identifier. -/
def State.mergers (launch : Nat) (s : State) (i : Nat) : List Nat := s.sortTasks (s.holders launch i)

/-- The first missing page of the regions to merge. -/
def State.mergeWants (s : State) (launch : Nat) (rs : List (Nat × Region)) : Option VAddr :=
  let l := s.launch launch
  rs.findSome? (fun e => s.mergeMiss l.part l.tenant e.1 e.2 (State.mergers launch s e.1))

/-- Regions of a launch by index, in table order. -/
def Launch.pick (l : Launch) (is : Nat → Region → Bool) : List (Nat × Region) :=
  (l.regions.mapIdx (fun i r => (i, r))).filter (fun e => is e.1 e.2)

/-- Operations that waited at the object, one after the other (R128). -/
def State.runHeld (s : State) (h : Home) (ops : List BarOp) : State := ops.foldl (fun s o => s.barOp h o) s

/-- Regions of a launch bound to one of its barriers, in table order. -/
def State.barRegions (s : State) (launch : Nat) (b : DetBar) : List (Nat × Region) :=
  (s.launch launch).pick (fun i r => r.det && b.regions.contains i)

/-- The regions that one launch binds to a barrier are merged: the gangs that a conflict stops, and the state (R128, R129). -/
def State.mergeLaunch (s : State) (launch : Nat) (b : DetBar) : List Nat × State :=
  let (bad, t) := s.mergeAll launch (State.mergers launch) (s.barRegions launch b)
  (if bad then dedup (b.arrived.map (fun k => (s.crew k).gang)) else [],
   t.modDetBar launch b.pa (fun b => { b with slack := false, arrived := [], held := [] }))

/-- Merge the regions of several launches one after the other, in the order of the launch table (DESIGN CHOICE, log 110). -/
def State.mergeLaunches (s : State) : List (Nat × DetBar) → List Nat × State
  | [] => ([], s)
  | e :: es =>
    let (gs, t) := s.mergeLaunch e.1 e.2
    let (hs, t) := t.mergeLaunches es
    (gs ++ hs, t)

/-- DET_MERGE (R128, R129): the regions bound to a barrier, by every launch that binds some, are merged in table order; the phase
completes, gangs whose tasks conflicted stop, and the held operations go on. -/
def State.detMerge (s : State) (launch pa : Nat) : State :=
  let bars := s.detBarsOf (.phys pa)
  if !bars.any (fun e => e.1 == launch && e.2.slack) then s
  else
    match bars.find? (fun e => (s.mergeWants e.1 (s.barRegions e.1 e.2)).isSome) with
    | some (k, b) =>
      s.askPage (s.launch k).part (s.launch k).tenant ((s.mergeWants k (s.barRegions k b)).getD (.glob 0))
    | none =>
      let (gangs, t) := s.mergeLaunches bars
      (gangs.foldl State.faultGang (t.completePhase (.phys pa))).runHeld (.phys pa) (bars.flatMap (fun e => e.2.held))

/-- A gang that has ended (R29, R207). -/
def Gang.over (g : Gang) : Bool := g.phase == .finished || g.phase == .stopped || g.phase == .retired

/-- Copies of a launch in the engines. -/
def State.copiesOf (s : State) (launch : Nat) : Bool := s.copies.any (fun e => (s.gang (s.crew e.2.crew).gang).launch == launch)

/-- Stores or reductions of a launch's tasks are on their way to a write buffer: they join the merge that ends the launch (R131). -/
def State.buffering (s : State) (launch : Nat) : Bool :=
  s.accesses.any (fun e =>
    let g := s.gang (s.crew e.2.crew).gang
    g.launch == launch && g.phase != .stopped && (s.buffersAt e.2).isSome)

/-- FINAL_MERGE (R131): every gang has ended and entries of ended tasks remain. -/
def State.finalMerge (s : State) (launch : Nat) : State :=
  let l := s.launch launch
  let mine := s.crews.filter (fun e => (s.gang e.2.gang).launch == launch && e.2.ended)
  if l.phase == .retired || !s.onPart launch || l.detBars.any (·.slack) || s.copiesOf launch || s.buffering launch ||
      !(s.gangs.filter (fun e => e.2.launch == launch && e.2.node.isNone)).all (fun e => e.2.over) ||
      mine.all (fun e => e.2.wbuf.isEmpty && e.2.sealed.isEmpty) then s
  else
    let rs := l.pick (fun _ r => r.det)
    let is := rs.map (·.1)
    let t : State := { s with crews := s.crews.map (fun e =>
      if (s.gang e.2.gang).launch == launch && e.2.ended then (e.1, e.2.seal (s.owedCharges e.1) is) else e) }
    match t.mergeWants launch rs with
    | some a => s.askPage l.part l.tenant a
    | none =>
      let (bad, t) := t.mergeAll launch (State.mergers launch) rs
      if bad then t.modLaunch launch (fun l => { l with status := if l.status == 0 then 1 else l.status }) else t

/-! ### Peer ports -/

/-- PEER_PORT_DOWN (R104): copies routed through the port end. -/
def State.portDown (s : State) (port : Nat) : State :=
  let s : State := { s with portsDown := if s.portsDown.contains port then s.portsDown else s.portsDown ++ [port] }
  (s.copies.filter (fun e => e.2.desc.tgt == 2 && e.2.desc.port == port)).foldl (fun s e =>
    s.failCopy e.1 e.2 .translate (s.toTagged e.2.desc.dst) 0#64) s

/-- The port a message goes through. -/
def peerPort : PeerMsg → Nat
  | .data p _ _ _ _ => p
  | .signal p _ _ _ => p
  | .landed p _ _ _ => p
  | .refused p _ _ => p

/-- A message goes out of a port. -/
def State.sendPeer (s : State) (m : PeerMsg) : State := { s with peerOut := s.peerOut ++ [m] }

/-- The copy a peer answers for: one that goes out of that port. -/
def State.peerCopy (s : State) (port k : Nat) : Option Copy :=
  (look k s.copies).filter (fun c => c.toPeer && c.desc.port == port)

/-- The peer has landed elements of a copy; with none, it has applied the signal, and the copy is done (R102, R104, R203). -/
def State.peerLanded (s : State) (port k first n : Nat) : State :=
  match s.peerCopy port k with
  | none => s
  | some c =>
    if n == 0 then (if c.asked then s.finishCopy k c 0 else s)
    else if allLeft c.sent first n then
      let c := { c with sent := takeRange first n c.sent }
      ({ s with copies := change k (fun _ => c) s.copies } : State).creditLanded c n
    else s

/-- A page does not translate on the peer: the copy ends with status 1 and TRANSLATE (R203). -/
def State.peerRefused (s : State) (port k a : Nat) : State :=
  match s.peerCopy port k with
  | none => s
  | some c => s.failCopy k c .translate (s.toTagged (.peer a)) 0#64

/-- Data of a peer's copy reach a partition: they land and it is told, or a page does not translate and it is told that (R203; the
answers: log 50). -/
def State.peerData (s : State) (port part k first a : Nat) (bs : List Byte) : State :=
  let tenant := (s.part part).owner
  match s.homes? part tenant (.glob a) bs.length with
  | some hs =>
    (((s.putPlain hs (bs.foldr (fun b n => b.toNat + 256 * n) 0)).markDirty part tenant (.glob a)).markDirty part tenant
      (.glob (a + (bs.length - 1)))).sendPeer (.landed port k first 1)
  | none => s.sendPeer (.refused port k a)

/-- The signal of a peer's copy reaches a partition. -/
def State.peerSignal (s : State) (port part k a : Nat) (dec : Word) : State :=
  let tenant := (s.part part).owner
  match s.homes? part tenant (.glob a) 8 with
  | some (h :: _) => ((s.counterSignal part tenant h dec).markDirty part tenant (.glob a)).sendPeer (.landed port k 0 0)
  | _ => s.sendPeer (.refused port k a)

/-- PEER_COPYS_TRAFFIC (R203): data and signals arrive on a port, in the tables of the partition it is bound to; on a port bound to
none nothing translates. Answers to what the part's own copies sent arrive there too. -/
def State.peerTraffic (s : State) (m : PeerMsg) : State :=
  if !s.up || s.halted || s.portsDown.contains (peerPort m) then s
  else
    match m, look (peerPort m) s.portPart with
    | .data p k e a bs, some part => s.peerData p part k e a bs
    | .data p k _ a _, none => s.sendPeer (.refused p k a)
    | .signal p k a dec, some part => s.peerSignal p part k a dec
    | .signal p k a _, none => s.sendPeer (.refused p k a)
    | .landed p k e n, _ => s.peerLanded p k e n
    | .refused p k a, _ => s.peerRefused p k a

end Sys2Proof.Machine
end

