-- ==== Sys2Proof/Machine/Place.lean ====
section
/-!
DEFINITION. Occupancy of cores and clusters (R31, R32, R166, R210), the start of crews (R12, R198), and placement of gangs (R22, R26,
R34, R35, R133, R193, R199) and node crews (R182).
-/
namespace Sys2Proof.Machine

/-! ### Usable units -/

def State.unitRetired (s : State) (u : UnitId) : Bool := s.retiredUnits.contains u

/-- A core works: neither its pair nor its cluster is retired (R9). -/
def State.coreWorks (s : State) (core : Nat) : Bool :=
  core < 256 && !s.unitRetired (.cluster (clusterOfCore core)) && !s.unitRetired (.pair (pairOfCore core))

/-- A core a partition may use: in its quota, and neither its pair nor its cluster retired (R9, R210). -/
def State.usableCore (s : State) (part core : Nat) : Bool := s.coreWorks core && (s.quotaOn part core).crewSlots.len != 0

/-- Usable clusters of a partition, ascending. -/
def State.usableClusters (s : State) (part : Nat) : List Nat :=
  (List.range 16).filter (fun c => (List.range 16).any (fun i => s.usableCore part (16 * c + i)))

/-! ### What a crew costs, and what is left (R32) -/

/-- A core has room for a cost (R32). -/
def State.roomOn (s : State) (part core : Nat) (need : Cost) : Bool :=
  s.usableCore part core && ((s.occupied part core).plus need).within (quotaOwned (s.quotaOn part core))

/-- Numbers from a range not in a list, the first n. -/
def freeNumbers (base len n : Nat) (used : List Nat) : List Nat :=
  (((List.range len).map (· + base)).filter (fun k => !used.contains k)).take n

/-- Crew slots and wave slots taken on a core. -/
def State.slotsTaken (s : State) (part core : Nat) : List Nat :=
  ((s.crewsOn part core).filter (fun e => (s.holds e.2).slots != 0)).map (fun e => e.2.crewSlot)
def State.waveSlotsTaken (s : State) (part core : Nat) : List Nat :=
  (s.crewsOn part core).flatMap (fun e =>
    if (s.holds e.2).slots == 0 then [] else (s.waves.filter (fun w => w.2.crew == e.1)).map (fun w => w.2.slot))

/-! ### Starting crews -/

/-- What a crew starts with. -/
structure CrewPlan where
  role : Nat
  nreg : Nat
  ntile : Nat
  nhyp : Nat
  nbun : Nat
  fibres : Nat
  lmem : Nat
  wins : List Range
  vlevel : Nat
  reserved : Option Nat
deriving DecidableEq, Repr

/-- Uniform registers at the start: PBUF when there is a payload, then the arguments, the rest zero (R198). -/
def Desc.uniforms (d : Desc) : List Reg :=
  let ws := (if d.plen == 0 then [] else [d.pbuf.extractLsb' 0 32, d.pbuf.extractLsb' 32 32]) ++ d.args
  (ws.map (fun w => Reg.done w .raw) ++ List.replicate 1024 Reg.zero).take 1024

/-- The slot a reserved crew takes on its core: the last one (log 13). -/
def reservedSlot : Nat := 15

/-- Put a crew on a core: its slots, the lowest free ones (DESIGN CHOICE, log 13), its waves with every lane free, its registers. -/
def State.seatCrew (s : State) (gang idx core : Nat) (p : CrewPlan) : State :=
  let g := s.gang gang
  let l := s.launch g.launch
  let d := l.desc
  let q := s.quotaOn l.part core
  let n := wavesFor p.fibres
  let slot := if p.reserved.isSome then reservedSlot else
    (freeNumbers q.crewSlots.base q.crewSlots.len 1 (s.slotsTaken l.part core)).headD 0
  let wslots := if p.reserved.isSome then (List.range n).map (· + 3 * reservedSlot) else
    freeNumbers (3 * q.crewSlots.base) (3 * q.crewSlots.len) n (s.waveSlotsTaken l.part core)
  let k := s.nextUid
  let c : Crew :=
    { gang := gang, idx := idx, core := core, role := p.role, nreg := p.nreg, ntile := p.ntile, nhyp := p.nhyp, nbun := p.nbun,
      fibres := p.fibres, lmemSize := p.lmem, lmem := [], unis := d.uniforms, wins := p.wins, spillMax := d.spill / 128,
      opthr := opthrReset, key := 0#64, recstat := 0#32, vlevel := p.vlevel, wbufCap := d.wbuf, wbuf := [], charges := [],
      sealed := [], sealedCharges := [], snaps := [], crewSlot := slot, reserved := p.reserved, ended := false }
  let ws := (List.range n).map (fun i => (k + 1 + i, Wave.fresh k i ((wslots[i]?).getD 0) p.nreg p.ntile p.nhyp p.nbun))
  { s with crews := s.crews ++ [(k, c)], waves := s.waves ++ ws, nextUid := k + 1 + n }

/-- A fibre at the start of a crew (R12, R198). -/
def bootLane (nreg : Nat) (entry : Word) (idx x y z rank fibre : Nat) : Lane :=
  let v (n : Nat) : Reg := Reg.done (BitVec.ofNat 32 n) .n32
  { Lane.idle nreg with
    status := .live, pc := entry, fibre := fibre,
    regs := ([v idx, v x, v y, v z, v rank] ++ List.replicate nreg Reg.zero).take nreg }

/-- Start the fibres of a crew's waves. -/
def State.startCrew (s : State) (crew : Nat) (entry : Word) (fibres x y z rank : Nat) : State :=
  let base := s.nextUid
  let nreg := (s.crew crew).nreg
  let s : State := { s with nextUid := base + fibres }
  (s.wavesOf crew).foldl (fun s w =>
    s.modWave w (fun v => { v with lanes := v.lanes.mapIdx (fun l old =>
      let n := 32 * v.idx + l
      if n < fibres then bootLane nreg entry n x y z rank (base + n) else old) })) s

/-! ### Where a gang fits -/

/-- Cores of a gang's span (R22). -/
def Desc.span (d : Desc) : Nat := (d.ncrew + d.cpc - 1) / d.cpc

/-- Crews of a gang that sit on the core i after its start. -/
def Desc.crewsAt (d : Desc) (i : Nat) : Nat := min d.cpc (d.ncrew - i * d.cpc)

/-- A gang holds shares on a pair: a PAIRED gang that is placed, with the leader in its span (R133). -/
def State.holdsPair (s : State) (gang : Nat) (pair : Nat) : Bool :=
  let g := s.gang gang
  let l := s.launch g.launch
  s.gangHolds gang && g.node.isNone && l.desc.paired &&
  g.start ≤ 2 * pair && 2 * pair < g.start + l.desc.span

/-- Another gang of the tenant holds shares on a pair, or a command of a gang that has finished is still to retire (R29). -/
def State.pairTaken (s : State) (part gang pair : Nat) : Bool :=
  s.gangs.any (fun e => e.1 != gang && (let l := s.launch e.2.launch
    l.part == part && (s.part part).resident == some l.tenant) && s.holdsPair e.1 pair) ||
  s.cmds.any (fun e => e.2.part == part && e.2.pair == pair && e.2.gang != gang)

/-- The gang fits at a start core now (R26, R32, R133); a PAIRED one has queue entries there (R134; DESIGN CHOICE, log 63). -/
def State.fitsAt (s : State) (gang cluster start : Nat) : Bool :=
  let l := s.launch (s.gang gang).launch
  let d := l.desc
  let core := 16 * cluster + start
  start + d.span ≤ 16 && !(d.paired && start % 2 == 1) && !(d.paired && (s.quotaAt l.part cluster).queue.len == 0) &&
  (List.range d.span).all (fun i =>
    s.roomOn l.part (core + i) (d.cost.times (d.crewsAt i)) &&
    !(d.paired && (core + i) % 2 == 0 && s.pairTaken l.part gang ((core + i) / 2)))

/-- Start cores of a cluster valid for a launch, whatever is placed there (R35). -/
def State.validStarts (s : State) (part cluster : Nat) (d : Desc) : List Nat :=
  (List.range 16).filter (fun i => i + d.span ≤ 16 && !(d.paired && i % 2 == 1) &&
    (List.range d.span).all (fun j => s.usableCore part (16 * cluster + i + j)))

/-- The start core that R35 chooses for counter c; none when no cluster has one. -/
def State.detStart (s : State) (part : Nat) (d : Desc) (c : Dword) : Option Nat :=
  let x := genWord d.seed c
  let cs := (s.usableClusters part).filter (fun k => !(s.validStarts part k d).isEmpty)
  match cs[(x.extractLsb' 0 32).toNat % cs.length]? with
  | none => none
  | some k =>
    let vs := s.validStarts part k d
    (vs[(x.extractLsb' 32 32).toNat % vs.length]?).map (fun i => 16 * k + i)

/-- The counter of a gang's attempt (R35, R36). -/
def detCounter (lin attempt : Nat) : Dword := BitVec.ofNat 64 (lin + 2 ^ 32 * attempt)

/-! ### Placing -/

/-- Start every crew of a gang at a start core (R23). -/
def State.placeGang (s : State) (gang core : Nat) : State :=
  let g := s.gang gang
  let l := s.launch g.launch
  let d := l.desc
  let s := s.modGang gang (fun g => { g with phase := .running, start := core, pairs := [] })
  let (x, y, z) := (g.lin % d.gx, g.lin / d.gx % d.gy, g.lin / (d.gx * d.gy))
  (List.range d.ncrew).foldl (fun s i =>
    let k := s.nextUid
    let s := s.seatCrew gang i (core + i / d.cpc)
      { role := (d.roles.extractLsb' (2 * i) 2).toNat, nreg := d.nreg, ntile := d.ntile, nhyp := d.nhyp, nbun := d.nbun,
        fibres := d.fibres, lmem := d.lmem, wins := d.wins, vlevel := 0, reserved := none }
    if d.mcast then s.startCrew k d.entry d.fibres 0 0 0 g.lin else s.startCrew k d.entry d.fibres x y z 0) s

/-- Gangs of a launch that wait to be placed, in ascending index. -/
def State.waitingOf (s : State) (launch : Nat) : List Nat := names (fun g => g.launch == launch && g.phase == .waiting) s.gangs

/-- The first place, cluster by cluster, that holds a gang now. -/
def State.anyPlace (s : State) (part gang : Nat) : Option Nat :=
  (s.usableClusters part).findSome? (fun c => ((List.range 16).find? (fun i => s.fitsAt gang c i)).map (fun i => 16 * c + i))

/-- Where a gang of a launch placed as one unit goes: its core under MCAST (R199), the first place that holds it otherwise. -/
def State.unitPlace (s : State) (part gang : Nat) : Option Nat :=
  let g := s.gang gang
  if (s.launch g.launch).desc.mcast then (if s.fitsAt gang (g.start / 16) (g.start % 16) then some g.start else none)
  else s.anyPlace part gang

/-- Place gangs one after the other; none when one has no place (R193). -/
def State.placeAll (s : State) (part : Nat) : List Nat → Option State
  | [] => some s
  | g :: gs =>
    match s.unitPlace part g with
    | some core => (s.placeGang g core).placeAll part gs
    | none => none

/-- A gang waits in a cluster's queues (R34); a launch placed as one unit waits in those of every usable cluster of its partition (R193).
Gangs of a tenant that is not resident, or ebbs, are saved and stand in no queue (DESIGN CHOICE, log 58). -/
def State.queuesAt (s : State) (cluster : Nat) (g : Gang) : Bool :=
  let l := s.launch g.launch
  g.phase == .waiting && s.resides g.launch && (g.cluster == some cluster || (l.unit && (s.usableClusters l.part).contains cluster))

/-- The head of a cluster's queues, the highest priority first (R34). -/
def State.clusterHead (s : State) (cluster : Nat) : Option Nat :=
  let q := s.gangs.filter (fun e => s.queuesAt cluster e.2)
  let top := q.foldl (fun m e => max m (s.launch e.2.launch).desc.prio) 0
  (q.find? (fun e => (s.launch e.2.launch).desc.prio == top)).map (·.1)

/-- The head, when it is a gang of some partition: until it is placed no other partition's gang is (R34). -/
def State.queueHead (s : State) (part cluster : Nat) : Option Nat :=
  (s.clusterHead cluster).filter (fun g => (s.launch (s.gang g).launch).part == part)

/-- A gang with a fixed start core: DET, MCAST (R35, R199). -/
def Desc.fixed (d : Desc) : Bool := d.det || d.mcast

/-- Gangs of lower rank are placed (R199). -/
def State.ranksPlaced (s : State) (g : Gang) : Bool :=
  !s.gangs.any (fun e => e.2.launch == g.launch && e.2.phase == .waiting && e.2.lin < g.lin)

/-- GANG_PLACEMENT (R34). -/
def State.gangPlacement (s : State) (part cluster : Nat) : State :=
  match s.queueHead part cluster with
  | none => s
  | some g =>
    let x := s.gang g
    let l := s.launch x.launch
    if l.unit then
      if (s.usableClusters part).all (fun c => match s.queueHead part c with
          | some h => (s.gang h).launch == x.launch
          | none => false) then
        (s.placeAll part (s.waitingOf x.launch)).getD s
      else s
    else if l.desc.fixed then
      if s.fitsAt g cluster (x.start % 16) && (!l.desc.mcast || s.ranksPlaced x) then s.placeGang g x.start else s
    else
      match (List.range 16).find? (fun i => s.fitsAt g cluster i) with
      | some i => s.placeGang g (16 * cluster + i)
      | none => s

/-! ### Node crews (R182) -/

/-- The view levels of the crews a node needs on a cluster, those of earlier records first: none when nothing is ready that no placed
crew will take. What belongs to a cluster without a usable core stays there undelivered, under HOME 16 too (DESIGN CHOICE, log 56). -/
def State.nodeNeed (s : State) (node cluster : Nat) (n : Node) : List Nat :=
  let mine := s.crews.filter (fun e => s.nodeCrewOn node cluster e.1)
  if n.keyed then
    if mine.any (fun e => !((s.wave (s.nodeWave e.1)).freeLanes.isEmpty)) then []
    else if (s.nextKeyed n cluster [] n.queue).isSome || !(s.retiring n cluster).isEmpty then [0] else []
  else
    dedup ((n.queue.filter (fun r => (n.home != 16 || r.cluster == cluster) && s.released r &&
      !mine.any (fun e => e.2.recstat == 0#32 && e.2.vlevel == r.vlevel))).map (·.vlevel))

/-- A reserved slot of a level that the partition holds on a core is free (R166), whatever ordinary slots it has there, and its room is
enough for a crew: a larger one, whose node was accepted before the level's quotas changed, goes to ordinary slots only (DESIGN CHOICE,
log 73). -/
def State.reservedFree (s : State) (part core level : Nat) (x : Shape) : Bool :=
  let i := core % 16
  1 ≤ level && s.coreWorks core && (i == 2 * level - 2 || i == 2 * level - 1) && (s.reservedRoom part level).roomFor (shapeCost x) &&
  (s.quotaAt part (clusterOfCore core)).reserved.contains (level, i % 2) &&
  !(s.crewsOn part core).any (fun e => e.2.reserved.isSome && (s.holds e.2).lmem + (s.holds e.2).slots != 0)

/-- A node crew of a level goes on a core: on a reserved slot of the level while one is free on the cluster, else in ordinary slots
(R166). -/
def State.nodeCrewFits (s : State) (n : Node) (cluster core level : Nat) : Bool :=
  if (List.range 16).any (fun i => s.reservedFree n.part (16 * cluster + i) level n.shape) then s.reservedFree n.part core level n.shape
  else s.roomOn n.part core (shapeCost n.shape)

/-- NODE_CREW_PLACEMENT (R182, R166): a crew of the first level that has a place on the core, so that no level waits for another
(R167). A node whose HOME has no usable core gets no crew (DESIGN CHOICE, log 56). -/
def State.nodeCrewPlacement (s : State) (node cluster core : Nat) : State :=
  match look node s.nodes with
  | none => s
  | some n =>
    if !(n.opened && s.resides n.launch && clusterOfCore core == cluster && (n.home == 16 || n.home == cluster)) then s
    else
      match (s.nodeNeed node cluster n).find? (s.nodeCrewFits n cluster core) with
      | none => s
      | some level =>
        let g := s.nextUid
        let x : Gang :=
          { launch := n.launch, lin := 0, node := some node, attempt := 0, start := core, cluster := some cluster,
            phase := .running, replayable := true, pairs := [] }
        let t : State := { s with gangs := s.gangs ++ [(g, x)], nextUid := g + 1 }
        t.seatCrew g 0 core
          { role := n.crole, nreg := n.shape.nreg, ntile := n.shape.ntile, nhyp := n.shape.nhyp, nbun := n.shape.nbun,
            fibres := 32, lmem := n.shape.lmem, wins := [], vlevel := level,
            reserved := if s.reservedFree n.part core level n.shape then some level else none }

end Sys2Proof.Machine
end

