-- ==== Sys2Proof/Machine/Accept.lean ====
section
/-!
DEFINITION. Acceptance of launches (R197-R202, R275): the descriptor of Table 11.2 with its region table (R115) and nodes (R181), every
condition that rejects it, and what an accepted launch creates.
-/
namespace Sys2Proof.Machine

/-! ### What stops an acceptance -/

/-- A page to wait for, a block that met a fatal fault (with the field that names it), or a rejection (offset, descriptor). -/
inductive Verdict where
  | wait (a : VAddr)
  | unread (off : Nat) (a : VAddr)
  | reject (off : Nat) (addr : Dword)
deriving DecidableEq, Repr

/-- The page of a first missing byte: to be waited for, or declared fatal. -/
def State.absent (s : State) (part tenant : Nat) (a : VAddr) (n off : Nat) : Verdict :=
  let m := (s.firstMiss part tenant a n).getD a
  if s.faultOn part tenant m true then .unread off m else .wait m

/-- n words the part reads for an acceptance. -/
def State.fetch (s : State) (part tenant : Nat) (a : VAddr) (n off : Nat) : Except Verdict (List Word) :=
  match s.readWords? part tenant a n with
  | some ws => .ok ws
  | none => .error (s.absent part tenant a (4 * n) off)

/-- Nothing is fetched when there is nothing to fetch. -/
def State.fetchIf (s : State) (part tenant : Nat) (a : Option VAddr) (n off : Nat) : Except Verdict (List Word) :=
  match a with
  | some a => if n == 0 then .ok [] else s.fetch part tenant a n off
  | none => .ok []

/-- The first offending field of a list. -/
def firstBad (l : List (Nat × Bool)) : Option Nat := (l.find? (·.2)).map (·.1)

/-! ### The descriptor -/

/-- A shelf or global address of n bytes with an alignment. -/
def farAt (t : Dword) (n align : Nat) : Option VAddr := if t.toNat % align == 0 then taggedFar t n else none

/-- A tile window (R93): base and length in bytes. -/
def winOf (w : Word) : Range := { base := 128 * (w.extractLsb' 0 13).toNat, len := 128 * (w.extractLsb' 13 13).toNat }

/-- The fields of Table 11.2; ARGS are filled in once read. -/
def rawDesc (ws : List Word) : Desc :=
  let fl := wordAt ws 8
  let sh := wordAt ws 28
  let cr := wordAt ws 20
  { entry := wordAt ws 0, det := fl.getLsbD 0, paired := fl.getLsbD 1, mcast := fl.getLsbD 2, policy := fl.getLsbD 3,
    prio := (fl.extractLsb' 4 3).toNat, retry := (fl.extractLsb' 8 2).toNat, gx := (halfAt ws 14).toNat, gy := (halfAt ws 16).toNat,
    gz := (halfAt ws 18).toNat, cpc := (cr.extractLsb' 8 4).toNat, ncrew := (cr.extractLsb' 0 4).toNat,
    fibres := (wordAt ws 24).toNat, nreg := (sh.extractLsb' 0 8).toNat, ntile := (sh.extractLsb' 8 5).toNat,
    nhyp := (sh.extractLsb' 16 4).toNat, nbun := (sh.extractLsb' 20 3).toNat, roles := wordAt ws 32, lmem := (wordAt ws 36).toNat,
    wbuf := (wordAt ws 40).toNat, spill := (wordAt ws 44).toNat, wins := (List.range 4).map (fun i => winOf (wordAt ws (48 + 4 * i))),
    seed := dwordAt ws 80, args := [], wqx := (wordAt ws 96).toNat, wqy := (wordAt ws 100).toNat, faultq := dwordAt ws 104,
    done := dwordAt ws 112, accept := dwordAt ws 120, pbuf := dwordAt ws 144, plen := (wordAt ws 152).toNat,
    mask := dwordAt ws 160, mdie := (wordAt ws 156).toNat }

def descRegions (ws : List Word) : Nat := ((wordAt ws 72).extractLsb' 0 6).toNat
def descNodes (ws : List Word) : Nat := ((wordAt ws 72).extractLsb' 8 6).toNat
def descArgs (ws : List Word) : Nat := (wordAt ws 76).toNat

/-- The code ranges of the object that holds a word address (R60). -/
def State.codeOf (s : State) (part : Nat) (entry : Word) : List Range :=
  ((s.part part).objects.find? (fun o => o.any (fun r => r.base ≤ entry.toNat && entry.toNat < r.base + r.len))).getD []

def inCode (code : List Range) (pc : Word) : Bool := code.any (fun r => r.base ≤ pc.toNat && pc.toNat < r.base + r.len)

/-- Set bits of MASK, ascending, as cores (R199). -/
def Desc.maskCores (d : Desc) : List Nat := ((List.range 64).filter (fun b => d.mask.getLsbD b)).map (· + 64 * d.mdie)

/-- Where a crew can never fit a core of its partition (R32): by rows or waves, or by local memory. -/
def State.neverFits (s : State) (part : Nat) (d : Desc) : Option Nat :=
  let cs := ((List.range 256).filter (fun c => s.usableCore part c)).map (fun c => quotaOwned (s.quotaOn part c))
  if cs.any (fun o => d.cost.within o) then none
  else if cs.any (fun o => { d.cost with lmem := 0 }.within o) then some 36
  else some 28

/-- A window that leaves the allocation or meets an earlier one (R93). -/
def winBad (d : Desc) (w : Word) (i : Nat) : Bool :=
  let r := winOf w
  w.extractLsb' 26 6 != 0#6 || 4096 * 128 < r.len || (r.len != 0 && d.lmem < r.base + r.len) ||
  (r.len != 0 && (d.wins.take i).any (fun q => q.len != 0 && q.base < r.base + r.len && r.base < q.base + q.len))

/-- The header of a FAULTQ is usable (R197); a page of it may have to be waited for. -/
def State.faultqOk (s : State) (part tenant : Nat) (q : Dword) : Except Verdict Bool :=
  match (if q == 0#64 then none else farAt q 64 64) with
  | none => .ok (q == 0#64)
  | some a =>
    match s.fetch part tenant a 4 104 with
    | .ok ws => .ok (1 ≤ (wordAt ws 8).toNat && (wordAt ws 8).toNat ≤ 65536 && (farAt (dwordAt ws 0) 64 64).isSome)
    | .error (.wait m) => .error (.wait m)
    | .error _ => .ok false

/-- The lowest offending field of a descriptor, the placement of a DET launch with items (R193) apart. PAIRED asks for a queue quota on
every usable cluster, since the launch's gangs are dealt to all of them (R134, R34; DESIGN CHOICE, log 63). A span that would leave the
cluster of a core MASK names (R22, R199) offends at MASK (DESIGN CHOICE, log 75); a gang that its named core cannot hold for another
reason waits (DESIGN CHOICE, log 91). NODES may lie in global space where NNODE is 0, as a zero does (R197; DESIGN CHOICE, log 100). -/
def State.descBad (s : State) (part : Nat) (ws : List Word) (qok : Bool) : Option Nat :=
  let d := rawDesc ws
  let cs := s.usableClusters part
  let shapeBad := (wordAt ws 28) &&& 0xFF80_E000#32 != 0#32 || d.nreg < 4 || 252 < d.nreg || d.nreg % 4 != 0 || 16 < d.ntile ||
    8 < d.nhyp || 4 < d.nbun
  let crewsBad := (wordAt ws 20) &&& 0xFFFF_F0F0#32 != 0#32 || d.ncrew == 0 || 12 < d.ncrew || d.cpc == 0 || 12 < d.cpc || 8 < d.span
  let fibBad := d.fibres == 0 || 1024 < d.fibres
  let lmemBad := d.lmem % 128 != 0 || 786432 < d.lmem
  let fit := if shapeBad || crewsBad || fibBad || lmemBad then none else s.neverFits part d
  let opt (off : Nat) : Bool := dwordAt ws off != 0#64 && (farAt (dwordAt ws off) 8 8).isNone
  firstBad
    ([(0, wordAt ws 4 != 0#32 || !inCode (s.codeOf part d.entry) d.entry),
      (8, (wordAt ws 8) &&& 0xFFFF_FC80#32 != 0#32 || (d.paired && cs.any (fun c => (s.quotaAt part c).queue.len == 0))),
      (12, halfAt ws 12 != 0#16), (14, d.gx == 0 || 2 ^ 32 ≤ d.gx * d.gy * d.gz || (d.mcast && d.gx != 1)),
      (16, d.gy == 0 || (d.mcast && d.gy != 1)), (18, d.gz == 0 || (d.mcast && d.gz != 1)),
      (20, crewsBad || (d.det && !d.mcast && cs.all (fun c => (s.validStarts part c d).isEmpty))),
      (24, fibBad), (28, shapeBad || fit == some 28), (32, (wordAt ws 32).extractLsb' 24 8 != 0#8),
      (36, lmemBad || fit == some 36), (40, d.wbuf % 64 != 0), (44, d.spill % 64 != 0)] ++
     (List.range 4).map (fun i => (48 + 4 * i, winBad d (wordAt ws (48 + 4 * i)) i)) ++
     [(64, (farAt (dwordAt ws 64) (32 * descRegions ws) 32).isNone),
      (72, (wordAt ws 72) &&& 0xFFFF_C0C0#32 != 0#32 || 32 < descRegions ws), (76, 512 < descArgs ws || descArgs ws % 4 != 0),
      (88, (farAt (dwordAt ws 88) (descArgs ws) 4).isNone), (100, d.wqx != 0 && d.wqy == 0), (104, !qok),
      (112, opt 112), (120, opt 120),
      (128, (descNodes ws != 0 && spaceOf (dwordAt ws 128) != 1) || (farAt (dwordAt ws 128) (4 * descNodes ws) 4).isNone),
      (136, (farAt (dwordAt ws 136) d.plen 1).isNone), (144, (farAt d.pbuf d.plen 64).isNone),
      (152, 4096 < d.plen), (156, d.mcast && 3 < d.mdie),
      (160, d.mcast && (d.mask == 0#64 || (d.mdie ≤ 3 && d.maskCores.any (fun c => !s.usableCore part c || 16 < c % 16 + d.span)))),
      (168, (List.range 22).any (fun i => wordAt ws (168 + 4 * i) != 0#32))])

/-! ### Region table (Table 6.2) -/

/-- The words of entry i. -/
def entryWords (ws : List Word) (n i : Nat) : List Word := (ws.drop (n * i)).take n

def regionOf (ws : List Word) : Region :=
  { base := (taggedFar (dwordAt ws 0) (dwordAt ws 8).toNat).getD (.glob 0), len := (dwordAt ws 8).toNat,
    det := (wordAt ws 24).extractLsb' 0 2 == 1#2, lock := (wordAt ws 24).getLsbD 2,
    sync := (taggedFar (dwordAt ws 16) 4).getD (.glob 0), snap0 := [], last := none }

def Region.overlaps (r q : Region) : Bool := r.base.meets r.len q.base q.len

/-- The offending field of an entry, given the entries before it. -/
def regionBad (ws : List Word) (before : List Region) : Option Nat :=
  let len := (dwordAt ws 8).toNat
  let sync := dwordAt ws 16
  let ctl := wordAt ws 24
  let lenBad := len == 0 || len % 64 != 0
  let lock := ctl.getLsbD 2
  let syncOk := if lock then (farAt sync 4 4).isSome else spaceOf sync == 1 && (farAt sync 16 16).isSome
  firstBad
    [(0, (farAt (dwordAt ws 0) (if lenBad then 0 else len) 64).isNone || (!lenBad && before.any (fun q => (regionOf ws).overlaps q))),
     (8, lenBad), (16, !syncOk),
     (24, ctl.extractLsb' 3 29 != 0#29 || ctl.getLsbD 1 || (ctl.getLsbD 0 && lock)), (28, wordAt ws 28 != 0#32)]

/-- Parse the table; the offset of the first offending field counts from its start. -/
def regionTable (ws : List Word) : Nat → Nat → List Region → Except Nat (List Region)
  | 0, _, acc => .ok acc
  | n + 1, i, acc =>
    let e := entryWords ws 8 i
    match regionBad e acc with
    | some o => .error (32 * i + o)
    | none => regionTable ws n (i + 1) (acc ++ [regionOf e])

/-! ### Nodes (Table 10.1) -/

def nodeShape (ws : List Word) : Shape :=
  let sh := wordAt ws 40
  { waves := 1, nreg := (sh.extractLsb' 0 8).toNat, ntile := (sh.extractLsb' 8 5).toNat, nhyp := (sh.extractLsb' 16 4).toNat,
    nbun := (sh.extractLsb' 20 3).toNat, lmem := (wordAt ws 44).toNat }

/-- The fields; CROLE 0 is role V, 1 is role G (Table 10.1). -/
def nodeOfWords (ident : Word) (launch part : Nat) (ws : List Word) : Node :=
  let c := wordAt ws 36
  { ident := ident, launch := launch, part := part, keyed := c.extractLsb' 0 2 == 1#2, crole := if c.getLsbD 2 then 0 else 3,
    home := (c.extractLsb' 4 5).toNat, rw := (c.extractLsb' 12 4).toNat + 1, kregs := (c.extractLsb' 16 6).toNat,
    shape := nodeShape ws, entry := wordAt ws 0, tmpl := wordAt ws 4, qcap := (wordAt ws 16).toNat, idle := (wordAt ws 20).toNat,
    ccap := (wordAt ws 32).toNat, epoch := none, queue := [], heldRecs := [], ctxs := [], counts := [], opened := true }

/-- A material node's crew is larger than the material crew of a level at which the partition holds view slots; a level whose material
crew is empty reserves nothing (R166). -/
def State.tooLarge (s : State) (part : Nat) (n : Node) (rows : Bool) : Bool :=
  n.material && (List.range 6).any (fun i =>
    (s.part part).quota.clusters.any (fun q => ((q.views[i]?).getD Range.nil).len != 0) &&
    ((s.part part).quota.matCrew[i]?).getD Shape.nil != Shape.nil &&
    (let m := shapeCost (((s.part part).quota.matCrew[i]?).getD Shape.nil)
     let c := shapeCost n.shape
     if rows then m.rows < c.rows else m.lmem < c.lmem))

/-- The offending field of a node descriptor (R181, R60, R166). LMEM beyond a core's local memory offends (DESIGN CHOICE, log 112); a
crew that its HOME cluster can never hold does not (R182; DESIGN CHOICE, log 113). -/
def State.nodeBad (s : State) (part : Nat) (det : Bool) (code : List Range) (ws : List Word) : Option Nat :=
  let n := nodeOfWords 0#32 0 part ws
  let c := wordAt ws 36
  let sh := wordAt ws 40
  let ep := dwordAt ws 48
  let ctlBad := c &&& 0xFFC0_0E08#32 != 0#32 || c.getLsbD 1 || 16 < n.home || 32 < n.kregs || (!n.keyed && n.kregs != 0)
  let shapeBad := sh &&& 0xFF80_E000#32 != 0#32 || n.shape.nreg % 4 != 0 || 252 < n.shape.nreg ||
    n.shape.nreg < 20 + n.kregs || 16 < n.shape.ntile || 8 < n.shape.nhyp || 4 < n.shape.nbun
  let qcapBad := n.qcap == 0 || 65536 < n.qcap
  firstBad
    [(0, !n.keyed && !inCode code n.entry), (4, n.keyed && !inCode code n.tmpl),
     (8, spaceOf (dwordAt ws 8) != 1 || (farAt (dwordAt ws 8) (if qcapBad then 0 else 64 * n.qcap) 64).isNone), (16, qcapBad),
     (24, n.keyed && (spaceOf (dwordAt ws 24) != 0 || (farAt (dwordAt ws 24) (256 * n.ccap) 256).isNone)), (36, ctlBad),
     (40, shapeBad || (!ctlBad && s.tooLarge part n true)),
     (44, n.shape.lmem % 128 != 0 || 786432 < n.shape.lmem || (!ctlBad && s.tooLarge part n false)),
     (48, if n.keyed && det then ep == 0#64 || spaceOf ep != 1 || (farAt ep 16 16).isNone else ep != 0#64),
     (56, wordAt ws 56 != 0#32 || wordAt ws 60 != 0#32)]

/-- The physical address of a barrier object. -/
def State.barrierAt (s : State) (part tenant : Nat) (a : VAddr) (off : Nat) : Except Verdict Nat :=
  match s.home? part tenant a with
  | some (.phys p) => .ok p
  | _ => .error (s.absent part tenant a 1 off)

/-- The words of the nodes a list names, each with its identifier; none of one whose identifier names no place. -/
def State.readNodes (s : State) (part tenant : Nat) : List Word → Except Verdict (List (Word × List Word))
  | [] => .ok []
  | i :: is => do
    let ws ← s.fetchIf part tenant (nodePlace i) 16 128
    let ns ← s.readNodes part tenant is
    .ok ((i, ws) :: ns)

/-- Check one node that has been read. -/
def State.checkNode (s : State) (part tenant launch : Nat) (det : Bool) (code : List Range) (ident : Word) (ws : List Word) :
    Except Verdict Node :=
  if (nodePlace ident).isNone then .error (.reject 128 0#64)
  else
    match s.nodeBad part det code ws with
    | some o => .error (.reject o (nodeTagged ident))
    | none =>
      let n := nodeOfWords ident launch part ws
      match (if n.keyed && det then farAt (dwordAt ws 48) 16 16 else none) with
      | some e => do
        let p ← s.barrierAt part tenant e 128
        .ok { n with epoch := some p }
      | none => .ok n

def State.checkNodes (s : State) (part tenant launch : Nat) (det : Bool) (code : List Range) :
    List (Word × List Word) → Except Verdict (List Node)
  | [] => .ok []
  | e :: es => do
    let n ← s.checkNode part tenant launch det code e.1 e.2
    let ns ← s.checkNodes part tenant launch det code es
    .ok (n :: ns)

/-! ### What an acceptance reads (R200, R275) -/

/-- The words of the blocks that a descriptor names. -/
structure LaunchBlocks where
  regions : List Word
  args : List Word
  nodes : List (Word × List Word)
deriving DecidableEq, Repr

/-- Where a block stands; none where it is empty, or where the fields that name it offend, which leaves it unread (DESIGN CHOICE, log
105). -/
def blockAt (ws : List Word) (off align len : Nat) (sound : Bool) : Option VAddr :=
  if sound && len != 0 then farAt (dwordAt ws off) len align else none

/-- Read the region table, the argument block, the node list and the nodes, before any condition of R197 is tested. -/
def State.readBlocks (s : State) (part tenant : Nat) (ws : List Word) : Except Verdict LaunchBlocks := do
  let rs ← s.fetchIf part tenant (blockAt ws 64 32 (32 * descRegions ws) (descRegions ws ≤ 32)) (8 * descRegions ws) 64
  let args ← s.fetchIf part tenant (blockAt ws 88 4 (descArgs ws) (descArgs ws ≤ 512 && descArgs ws % 4 == 0)) (descArgs ws / 4) 88
  let ids ← s.fetchIf part tenant (blockAt ws 128 4 (4 * descNodes ws) (spaceOf (dwordAt ws 128) == 1)) (descNodes ws) 128
  let ns ← s.readNodes part tenant ids
  .ok { regions := rs, args := args, nodes := ns }

/-- Copy the payload to PBUF. -/
def State.copyPayload (s : State) (part tenant : Nat) (ws : List Word) : Except Verdict State :=
  let n := (rawDesc ws).plen
  match blockAt ws 136 1 n (n ≤ 4096), blockAt ws 144 64 n (n ≤ 4096) with
  | some a, some b =>
    match s.readBytes? part tenant a n with
    | none => .error (s.absent part tenant a n 136)
    | some bs =>
      match s.writeNat? part tenant b n (bs.foldr (fun (x : Byte) m => x.toNat + 256 * m) 0) with
      | some s => .ok s
      | none => .error (s.absent part tenant b n 144)
  | _, _ => .ok s

/-! ### What an accepted launch creates -/

/-- Everything an acceptance has read. -/
structure LaunchPlan where
  desc : Desc
  regions : List Region
  syncs : List (Option Nat)  -- barrier of each DET region, physical
  nodes : List Node
  code : List Range

/-- DET regions grouped by barrier, and the EPOCH barriers of nodes (R128, R189). -/
def LaunchPlan.detBars (p : LaunchPlan) : List DetBar :=
  let pas := dedup (p.syncs.filterMap id ++ p.nodes.filterMap (·.epoch))
  pas.map (fun pa =>
    { pa := pa, regions := (List.range p.regions.length).filter (fun i => (p.syncs[i]?).join == some pa), slack := false,
      arrived := [], held := [] })

/-- The items of each usable cluster (R192). -/
def State.deal (s : State) (part : Nat) (d : Desc) : Distributor :=
  let cs := s.usableClusters part
  let t := d.wqx * d.wqy
  { ranges := cs.mapIdx (fun k c => (c, k * t / cs.length, (k + 1) * t / cs.length)), next := 0 }

/-- The launch is placed as one unit (R193). -/
def Desc.unit (d : Desc) : Bool := d.det && d.wqx != 0

/-- Where a gang waits and, when it is fixed, its start core (R34, R35, R199). -/
def State.seatOf (s : State) (part : Nat) (d : Desc) (lin attempt : Nat) : Option Nat × Nat :=
  let cs := s.usableClusters part
  if d.mcast then (let c := (d.maskCores[lin]?).getD 0; (some (clusterOfCore c), c))
  else if d.unit then (none, 0)
  else if d.det then
    (match s.detStart part d (detCounter lin attempt) with
     | some c => (some (clusterOfCore c), c)
     | none => (none, 0))
  else (cs[lin % cs.length]?, 0)

/-- The gangs of a launch, waiting. -/
def State.newGangs (s : State) (launch part : Nat) (d : Desc) : State :=
  let gs := (List.range d.ngang).map (fun i =>
    let seat := s.seatOf part d i 0
    (s.nextUid + i, ({ launch := launch, lin := i, node := none, attempt := 0, start := seat.2, cluster := seat.1, phase := .waiting,
                       replayable := true, pairs := [] } : Gang)))
  { s with gangs := s.gangs ++ gs, nextUid := s.nextUid + d.ngang }

/-- The launch as it is accepted. -/
def State.newLaunch (s : State) (part tenant level : Nat) (p : LaunchPlan) (ident tag : Word) (firing : Nat) (parent : Option Nat)
    (pref : List Nat) : Launch :=
  { ident := ident, part := part, tenant := tenant, level := level, desc := p.desc,
    regions := p.regions.map (fun r => if r.det then { r with snap0 := s.regionCells part tenant r } else r), code := p.code,
    tag := tag, firing := firing, parent := parent, pref := pref, phase := .running, status := 0, nodes := [],
    dist := s.deal part p.desc, detBars := p.detBars, unit := p.desc.unit }

/-- Enter a launch, its nodes and its gangs. -/
def State.enterLaunch (s : State) (l : Launch) (p : LaunchPlan) : State :=
  let k := s.nextUid
  let ns := p.nodes.mapIdx (fun i n => (k + 1 + i, { n with launch := k }))
  let s : State := { s with
    launches := s.launches ++ [(k, { l with nodes := ns.map (·.1) })], nodes := s.nodes ++ ns, nextUid := k + 1 + ns.length }
  s.newGangs k l.part p.desc

/-- Every gang of a unit can be placed at once in an otherwise empty partition (R193). -/
def State.unitFits (s : State) (part tenant : Nat) (p : LaunchPlan) : Bool :=
  let mine (g : Nat) : Bool := (s.launch (s.gang g).launch).part == part
  let t : State := { s with
    crews := s.crews.filter (fun e => !mine e.2.gang), gangs := s.gangs.filter (fun e => !mine e.1),
    cmds := s.cmds.filter (fun e => e.2.part != part) }
  let k := t.nextUid
  p.desc.ngang ≤ 4096 &&
  (((t.enterLaunch (t.newLaunch part tenant 1 p 0#32 0#32 0 none []) { p with nodes := [] })).placeAll part
    ((t.enterLaunch (t.newLaunch part tenant 1 p 0#32 0#32 0 none []) { p with nodes := [] }).waitingOf k)).isSome

/-- Test what has been read against every condition that rejects a launch (R197). -/
def State.plan (s : State) (part tenant : Nat) (da : Dword) (ws : List Word) (qok : Bool) (b : LaunchBlocks) :
    Except Verdict LaunchPlan :=
  match s.descBad part ws qok, regionTable b.regions (descRegions ws) 0 [] with
  | some o, _ => .error (.reject o da)
  | none, .error o => .error (.reject o (dwordAt ws 64))
  | none, .ok rs => do
    let d := rawDesc ws
    let code := s.codeOf part d.entry
    let nodes ← s.checkNodes part tenant 0 d.det code b.nodes
    let syncs ← rs.mapM (fun r => if r.det then (s.barrierAt part tenant r.sync 64).map some else .ok none)
    let p : LaunchPlan := { desc := { d with args := b.args }, regions := rs, syncs := syncs, nodes := nodes, code := code }
    if d.unit && !s.unitFits part tenant p then .error (.reject 96 da) else .ok p

/-! ### Signals and answers -/

/-- The signal word (Table 11.3). -/
def signalWord (status firing : Nat) (tag : Word) : Nat := tag.toNat + (firing % 65536) * 2 ^ 32 + status * 2 ^ 48

/-- Write a signal; one whose page was declared fatal is lost (log 14). -/
def State.signal (s : State) (part tenant : Nat) (t : Dword) (status firing : Nat) (tag : Word) : State :=
  match (if t == 0#64 then none else farAt t 8 8) with
  | none => s
  | some a => (s.writeNat? part tenant a 8 (signalWord status firing tag)).getD s

/-- The page of a signal that must be waited for. -/
def State.signalMiss (s : State) (part tenant : Nat) (t : Dword) : Option VAddr :=
  match (if t == 0#64 then none else farAt t 8 8) with
  | none => none
  | some a => (s.firstMiss part tenant a 8).bind (fun m => if s.faultOn part tenant m true then none else some m)

/-- Who asks for a launch. -/
structure Asker where
  part : Nat
  tenant : Nat
  level : Nat
  da : Dword
  place : Option VAddr       -- where the descriptor stands
  tag : Word
  firing : Nat
  parent : Option Nat
  pref : List Nat

/-- How an acceptance ends. -/
inductive Accepted where
  | waiting (s : State)
  | unreadable (s : State)
  | rejected (off : Nat) (s : State)
  | accepted (ident : Word) (s : State)

/-- A rejection: the acceptance signal with status 1, and the record (R200). A device LAUNCH that is rejected has no LAUNCHID. -/
def State.rejectLaunch (s : State) (k : Asker) (ws : List Word) (qok : Bool) (off : Nat) (addr : Dword) : State :=
  let r := { FaultRec.plain .descriptor k.part k.tenant with
    tag := k.tag, level := k.level, addr := addr, info := BitVec.ofNat 64 off }
  let s := s.signal k.part k.tenant (dwordAt ws 120) 1 k.firing k.tag
  if dwordAt ws 104 != 0#64 && qok then s.postTo (dwordAt ws 104) k.tenant r else s.postHost r

/-- An acceptance (R200): the launch is entered, the acceptance signal is written. -/
def State.takeLaunch (s : State) (k : Asker) (p : LaunchPlan) : Word × State :=
  let (n, s) := s.freeNext
  let used := (s.launches.filter (fun e => e.2.part == k.part)).map (fun e => e.2.ident)
  let ident := uniqueWord used (used.length + 1) (Config.freeLaunchId n)
  let s := s.enterLaunch (s.newLaunch k.part k.tenant k.level p ident k.tag k.firing k.parent k.pref) p
  (ident, s.signal k.part k.tenant p.desc.accept 0 k.firing (if k.parent.isSome then ident else k.tag))

/-- An acceptance that has come to `t` ends by a verdict: while it waits for a page nothing of it has happened. A block that met a
fatal fault answers a device LAUNCH, whatever else offends (R275); for a slot it counts as an offending field beside the others, of
which the lowest is named (DESIGN CHOICE, log 28). -/
def State.endBy (s t : State) (k : Asker) (ws : List Word) (qok : Bool) (v : Verdict) : Accepted :=
  match v with
  | .wait a => .waiting (s.askPage k.part k.tenant a)
  | .unread off a =>
    let t := t.dropFatal k.part k.tenant a
    if k.parent.isSome || ws.isEmpty then .unreadable t
    else
      let off := match s.descBad k.part ws qok with
        | some o => min o off
        | none => off
      .rejected off (t.rejectLaunch k ws qok off k.da)
  | .reject off addr => .rejected off (t.rejectLaunch k ws qok off (if addr == 0#64 then k.da else addr))

/-- Read, copy the payload, check, and accept or reject, in this order (R275, R200). -/
def State.acceptance (s : State) (k : Asker) : Accepted :=
  match k.place with
  | none => .unreadable s
  | some a =>
    match s.fetch k.part k.tenant a 64 0 with
    | .error v => s.endBy s k [] false v
    | .ok ws =>
      match s.faultqOk k.part k.tenant (dwordAt ws 104), s.signalMiss k.part k.tenant (dwordAt ws 120) with
      | .error v, _ => s.endBy s k ws false v
      | .ok qok, some m => s.endBy s k ws qok (.wait m)
      | .ok qok, none =>
        match s.readBlocks k.part k.tenant ws with
        | .error v => s.endBy s k ws qok v
        | .ok b =>
          match s.copyPayload k.part k.tenant ws with
          | .error v => s.endBy s k ws qok v
          | .ok t =>
            match t.plan k.part k.tenant k.da ws qok b with
            | .error v => s.endBy t k ws qok v
            | .ok p => let r := t.takeLaunch k p; .accepted r.1 r.2

/-! ### LAUNCH_ACCEPTANCE -/

/-- The oldest firing leaves its slot. -/
def State.popFiring (s : State) (part slot : Nat) : State := s.modSlot part slot (fun x => { x with waiting := x.waiting.drop 1 })

/-- A firing is accepted (R200), for the tenant that is resident then (DESIGN CHOICE, log 88) and outside an ebb (R212). -/
def State.acceptSlot (s : State) (part slot : Nat) : State :=
  let p := s.part part
  match (p.slot slot).waiting, p.resident with
  | f :: _, some t =>
    if !s.takesMessages part slot || p.ebb.isSome then s
    else
      let k : Asker :=
        { part := part, tenant := t, level := 1, da := f.desc, place := farAt f.desc launchBytes 16, tag := f.tag, firing := f.num,
          parent := none, pref := [] }
      match s.acceptance k with
      | .waiting s => s
      | .unreadable s =>
        (s.popFiring part slot).postHost { FaultRec.plain .descriptor part t with tag := f.tag, addr := f.desc }
      | .rejected _ s => s.popFiring part slot
      | .accepted _ s => s.popFiring part slot
  | _, _ => s

/-- The result of a device LAUNCH; its fibres resume (R275). -/
def State.answerLaunch (s : State) (k : Nat) (r : LaunchReq) (status : Nat) (v : Word) : State :=
  let s : State := { s with lreqs := drop k s.lreqs }
  let s := (s.setUni r.crew r.d (Reg.done (BitVec.ofNat 32 status) .n32)).setUni r.crew (r.d + 1) (Reg.done v .n32)
  s.modWave r.wave (fun w => w.mapLanes r.lanes (fun _ x => { x with woken := true }))

/-- A device LAUNCH is accepted, once what its fibres wrote before has performed (R275). An ebb does not hold it up (R276). -/
def State.acceptDevice (s : State) (k : Nat) : State :=
  match look k s.lreqs with
  | none => s
  | some r =>
    let c := s.crew r.crew
    let g := s.gang c.gang
    let l := s.launch g.launch
    if !s.quietLanes r.wave r.lanes || !s.awake r.crew then s
    else
      let a : Asker :=
        { part := l.part, tenant := l.tenant, level := l.level + 1, da := r.desc, place := r.local_, tag := 0#32, firing := 0,
          parent := some c.gang, pref := taskPath c g l }
      match s.acceptance a with
      | .waiting s => s
      | .unreadable s => s.answerLaunch k r 3 0#32
      | .rejected off s => s.answerLaunch k r 2 (BitVec.ofNat 32 off)
      | .accepted ident s => (s.notReplayable c.gang).answerLaunch k r 0 ident

/-- LAUNCH_ACCEPTANCE (R200). -/
def State.launchAcceptance (s : State) (src : AcceptSrc) : State :=
  match src with
  | .slot part slot => s.acceptSlot part slot
  | .device k => s.acceptDevice k

end Sys2Proof.Machine
end

