-- ==== Sys2Proof/Machine/Alu.lean ====
section
/-!
DEFINITION. Arithmetic: the two-source frame (R231), the one-source and bit-field operations, DOT4, IDIV, WELF and WMERGE.
-/
namespace Sys2Proof.Machine

/-- An operation of the two-source frame (R231): its tag rule and its value with the result's tag. -/
def frame2 (g : Arg) (op : Nat) (fmt : List Tag → Option (Tag × Option Tag)) (val : Tag → Modes → Word → Word → Word)
    (res : Tag → Tag) : RegOp :=
  { g := g, roles := rolesAll, op := op, srcs := [g.srcA, g.srcB], uni := uniformForm g [g.srcA, g.srcB],
    fmt := fun rs => fmt (rs.map (·.tag)),
    val := fun _ _ rs =>
      let a := srcAt rs 0
      Reg.done (val a.tag (Modes.of g.m) a.val (srcAt rs 1).val) (res a.tag) }

def anyTags (_ : List Tag) : Option (Tag × Option Tag) := none
def sameTag (t : Tag) : Tag := t
def rawTag (_ : Tag) : Tag := .raw

/-- SHL and SHR check the tag of A alone (R313). -/
def shiftTags (ts : List Tag) : Option (Tag × Option Tag) := sameTags shiftRow (ts.take 1)

def semAdd (g : Arg) : Sem := (frame2 g 1 (sameTags addRow) addWord sameTag).sem
def semSub (g : Arg) : Sem := (frame2 g 1 (sameTags addRow) subWord sameTag).sem
def semMul (g : Arg) : Sem := (frame2 g 2 (sameTags mulRow) mulWord sameTag).sem
def semMulh (g : Arg) : Sem := (frame2 g 2 (sameTags intRow) (fun t _ a b => mulhWord t a b) sameTag).sem
def semMin (g : Arg) : Sem := (frame2 g 4 (sameTags addRow) minWord sameTag).sem
def semMax (g : Arg) : Sem := (frame2 g 4 (sameTags addRow) maxWord sameTag).sem
def semAnd (g : Arg) : Sem := (frame2 g 5 anyTags (fun _ _ a b => a &&& b) rawTag).sem
def semOr (g : Arg) : Sem := (frame2 g 5 anyTags (fun _ _ a b => a ||| b) rawTag).sem
def semXor (g : Arg) : Sem := (frame2 g 6 anyTags (fun _ _ a b => a ^^^ b) rawTag).sem
def semAndn (g : Arg) : Sem := (frame2 g 6 anyTags (fun _ _ a b => a &&& ~~~b) rawTag).sem
def semShl (g : Arg) : Sem := (frame2 g 7 shiftTags (fun t _ a b => shlWord t a b) sameTag).sem
def semShr (g : Arg) : Sem := (frame2 g 7 shiftTags (fun t _ a b => shrWord t a b) sameTag).sem
def semIdiv (g : Arg) : Sem := (frame2 g 20 (sameTags intRow) (fun t _ a b => idivWord t a b) sameTag).sem

/-- SEL (R309): the predicate is p0 in the base forms, C[2:0] with C[3] inverting in the extended ones. -/
def selRegOp (g : Arg) : RegOp :=
  { g := g, roles := rolesAll, op := 8, srcs := [g.srcA, g.srcB], uni := uniformForm g [g.srcA, g.srcB],
    fmt := fun _ => none,
    val := fun ln _ rs =>
      let r := if ln.preds.getLsbD (g.c % 8) != g.m.c.getLsbD 3 then srcAt rs 0 else srcAt rs 1
      Reg.done r.val r.tag,
    more := fun f => { f with preds := [g.c % 8], picks := true } }
def semSel (g : Arg) : Sem := (selRegOp g).sem

/-- FMA and FMS (R265); in the base forms C is v0. -/
def fmaRegOp (g : Arg) (neg : Bool) : RegOp :=
  { g := g, roles := rolesAll, op := 3, srcs := [g.srcA, g.srcB, g.srcC], uni := uniformForm g [g.srcA, g.srcB, g.srcC],
    fmt := fun rs => sameTags fmaRow (rs.map (·.tag)),
    val := fun _ _ rs =>
      let a := srcAt rs 0
      Reg.done (fmaWord a.tag (Modes.of g.m) neg a.val (srcAt rs 1).val (srcAt rs 2).val) a.tag }
def semFma (g : Arg) : Sem := (fmaRegOp g false).sem
def semFms (g : Arg) : Sem := (fmaRegOp g true).sem

/-- CMPP (R255, R256): a predicate of every active fibre. -/
def semCmpp (g : Arg) : Sem :=
  let srcs := [g.srcA, g.srcB]
  let opds := srcs.flatMap Src.opds
  Sem.simple g.size (fun _ => { g.flow opds [] with setp := [g.d % 8] })
    (fun s => firstFault [roleFault s.ctx rolesAll 8 0 false, windowFault s.ctx opds])
    (fun s =>
      let x := s.ctx
      let act := x.act g.m
      firstFault [inflightFault x act opds,
        formatFault x act (fun ln => sameTags addRow ((readAll x.crew ln srcs).map (·.tag)))])
    (fun s =>
      let x := s.ctx
      s.modWave x.cur.wave (fun w => w.mapLanes (x.act g.m) (fun _ ln =>
        let rs := readAll x.crew ln srcs
        ln.setPred (g.d % 8) (cmpWord (srcAt rs 0).tag g.m.ftz (g.d / 16) (srcAt rs 0).val (srcAt rs 1).val))))

/-- An operation of one source (R232, R249, R254, R294, R300). -/
def frame1 (g : Arg) (fmt : List Tag → Option (Tag × Option Tag)) (val : Tag → Bool → Word → Word) (res : Tag → Tag) : RegOp :=
  { g := g, roles := rolesAll, op := 20, srcs := [g.srcA], uni := uniformForm g [g.srcA],
    fmt := fun rs => fmt (rs.map (·.tag)),
    val := fun _ _ rs => Reg.done (val (srcAt rs 0).tag g.m.ftz (srcAt rs 0).val) (res (srcAt rs 0).tag) }

def n32Tag (_ : Tag) : Tag := .n32

def semAbs (g : Arg) : Sem := (frame1 g (sameTags addRow) absWord sameTag).sem
def semNeg (g : Arg) : Sem := (frame1 g (sameTags addRow) negWord sameTag).sem
def semPopc (g : Arg) : Sem := (frame1 g anyTags (fun _ _ a => BitVec.ofNat 32 (popcount a)) n32Tag).sem
def semClz (g : Arg) : Sem := (frame1 g anyTags (fun _ _ a => BitVec.ofNat 32 (clzWord a)) n32Tag).sem
def semBrev (g : Arg) : Sem := (frame1 g anyTags (fun _ _ a => brevWord a) rawTag).sem

/-- VAR of BFX and BFI: the field's place comes from a register (R246). -/
def bfVar (g : Arg) : Bool := g.w2.getLsbD 12
/-- Position and length: from word 2, or from a control word. -/
def bfPlace (g : Arg) (k : Word) : Nat × Nat :=
  if bfVar g then ((k.extractLsb' 0 5).toNat, (k.extractLsb' 8 6).toNat) else (g.w2f 0 5, g.w2f 5 6)

/-- BFX (R246). -/
def bfxRegOp (g : Arg) : RegOp :=
  let srcs := if bfVar g then [g.srcA, g.srcB] else [g.srcA]
  { g := g, roles := rolesAll, op := 20, srcs := srcs, uni := uniformForm g srcs, fmt := fun _ => none,
    val := fun _ _ rs =>
      let p := bfPlace g (srcAt rs 1).val
      Reg.done (bfxWord (g.w2.getLsbD 11) p.1 p.2 (srcAt rs 0).val) .raw }
def semBfx (g : Arg) : Sem := (bfxRegOp g).sem

/-- BFI (R246). -/
def bfiRegOp (g : Arg) : RegOp :=
  let srcs := if bfVar g then [g.srcA, g.srcB, g.srcC] else [g.srcA, g.srcB]
  { g := g, roles := rolesAll, op := 20, srcs := srcs, uni := uniformForm g srcs, fmt := fun _ => none,
    val := fun _ _ rs =>
      let p := bfPlace g (srcAt rs 2).val
      Reg.done (bfiWord p.1 p.2 (srcAt rs 0).val (srcAt rs 1).val) .raw }
def semBfi (g : Arg) : Sem := (bfiRegOp g).sem

/-- The tag rule of DOT4 (R261). -/
def dot4Tags : List Tag → Option (Tag × Option Tag)
  | [a, b, c] => firstTag [sameTags (fun t => t == .i8x4 || t == .n8x4) [a, b], oneTag .i32 c]
  | _ => none

/-- DOT4 (R261). -/
def dot4RegOp (g : Arg) : RegOp :=
  let srcs := [g.srcA, g.srcB, g.srcC]
  { g := g, roles := rolesAll, op := 20, srcs := srcs, uni := uniformForm g srcs,
    fmt := fun rs => dot4Tags (rs.map (·.tag)),
    val := fun _ _ rs =>
      Reg.done (dot4Word (srcAt rs 0).tag g.m.sat (srcAt rs 0).val (srcAt rs 1).val (srcAt rs 2).val) .i32 }
def semDot4 (g : Arg) : Sem := (dot4RegOp g).sem

/-- n consecutive registers of one kind. -/
def opdRange (uni : Bool) (a n : Nat) : List Opd := (List.range n).map (fun i => if uni then .u (a + i) else .v (a + i))

/-- A register of either kind. -/
def readOpd (c : Crew) (ln : Lane) (uni : Bool) (n : Nat) : Reg := if uni then c.uni n else ln.readV n

/-- The tag rule of a Welford triple (R329, R330). -/
def tripleTags : List Tag → List (Option (Tag × Option Tag))
  | [n, mu, mm] => [oneTag .n32 n, oneTag .f32 mu, oneTag .f32 mm]
  | _ => []

/-- WELF (R329, R85): the triple vd..vd+2 takes the sample vx. -/
def semWelf (g : Arg) : Sem :=
  let opds := [Opd.v g.a] ++ opdRange false g.d 3
  Sem.simple g.size (fun _ => g.flow opds (opdRange false g.d 3))
    (fun s => firstFault [roleFault s.ctx rolesGV 13 0 false, windowFault s.ctx opds])
    (fun s =>
      let x := s.ctx
      let act := x.act g.m
      firstFault [inflightFault x act opds,
        formatFault x act (fun ln => firstTag (oneTag .f32 (ln.readV g.a).tag ::
          tripleTags [(ln.readV g.d).tag, (ln.readV (g.d + 1)).tag, (ln.readV (g.d + 2)).tag]))])
    (fun s =>
      let x := s.ctx
      s.modWave x.cur.wave (fun w => w.mapLanes (x.act g.m) (fun _ ln =>
        let r := welfStep (ln.readV g.d).val (ln.readV (g.d + 1)).val (ln.readV (g.d + 2)).val (ln.readV g.a).val
        ((ln.writeV g.d (Reg.done r.1 .n32)).writeV (g.d + 1) (Reg.done r.2.1 .f32)).writeV (g.d + 2) (Reg.done r.2.2 .f32))))

/-- WMERGE of the triples a fibre reads (R330, R86). -/
def wmergeOf (c : Crew) (ln : Lane) (g : Arg) : Word × Word × Word :=
  let r (uni : Bool) (n : Nat) : Word := (readOpd c ln uni n).val
  wmergeStep (r g.m.au g.a) (r g.m.au (g.a + 1)) (r g.m.au (g.a + 2)) (r g.m.bu g.b) (r g.m.bu (g.b + 1)) (r g.m.bu (g.b + 2))

/-- WMERGE (R330). -/
def semWmerge (g : Arg) : Sem :=
  let uni := g.m.au && g.m.bu
  let opds := opdRange g.m.au g.a 3 ++ opdRange g.m.bu g.b 3 ++ opdRange uni g.d 3
  Sem.simple g.size (fun _ => g.flow (opdRange g.m.au g.a 3 ++ opdRange g.m.bu g.b 3) (opdRange uni g.d 3))
    (fun s => firstFault [roleFault s.ctx rolesAll 20 9 false, windowFault s.ctx opds])
    (fun s =>
      let x := s.ctx
      let act := x.act g.m
      let t (ln : Lane) (u : Bool) (n : Nat) : Tag := (readOpd x.crew ln u n).tag
      firstFault [inflightFault x act opds,
        formatFault x act (fun ln => firstTag (groupOrder
          (tripleTags [t ln g.m.au g.a, t ln g.m.au (g.a + 1), t ln g.m.au (g.a + 2)])
          (tripleTags [t ln g.m.bu g.b, t ln g.m.bu (g.b + 1), t ln g.m.bu (g.b + 2)])))])
    (fun s =>
      let x := s.ctx
      let act := x.act g.m
      if uni then
        (if act == 0#32 then s
         else
           let r := wmergeOf x.crew (x.wave.lane (lowestLane act)) g
           ((s.setUni x.crewId g.d (Reg.done r.1 .n32)).setUni x.crewId (g.d + 1) (Reg.done r.2.1 .f32)).setUni x.crewId (g.d + 2)
             (Reg.done r.2.2 .f32))
      else
        s.modWave x.cur.wave (fun w => w.mapLanes act (fun _ ln =>
          let r := wmergeOf x.crew ln g
          ((ln.writeV g.d (Reg.done r.1 .n32)).writeV (g.d + 1) (Reg.done r.2.1 .f32)).writeV (g.d + 2) (Reg.done r.2.2 .f32))))

end Sys2Proof.Machine
end

