-- ==== Sys2Proof/Machine/Atomic.lean ====
section
/-!
DEFINITION. ATOM and ATOMC (R235-R238): addresses by scope, what each lane sends to its home, reduction entries in DET regions.
-/
namespace Sys2Proof.Machine

/-- The fields of an atomic (R64, Table 19.3). -/
structure AtomArg where
  g : Arg
  sub : Nat
  cas : Bool
deriving DecidableEq, Repr

namespace AtomArg

def op (a : AtomArg) : Nat := a.sub % 16
def scope (a : AtomArg) : Nat := a.sub / 16 % 8
def wide (a : AtomArg) : Bool := 128 ≤ a.sub
def noret (a : AtomArg) : Bool := a.g.w2.getLsbD 0
def isGlobal (a : AtomArg) : Bool := a.g.w2.getLsbD 1
def offs (a : AtomArg) : Nat := a.g.w2f 16 16

/-- A register of either kind and, in the wide form, the one after it. -/
def regs (uni wide : Bool) (n : Nat) : List Opd :=
  let one (k : Nat) : Opd := if uni then .u k else .v k
  if wide then [one n, one (n + 1)] else [one n]

def addrOpds (a : AtomArg) : List Opd := regs a.g.m.au a.isGlobal a.g.a
def srcOpds (a : AtomArg) : List Opd := if a.g.lit.isSome then [] else regs a.g.m.bu a.wide a.g.b
def cmpOpds (a : AtomArg) : List Opd := if a.cas then regs a.g.m.cu a.wide a.g.c else []
def dstOpds (a : AtomArg) : List Opd := if a.noret then [] else regs false a.wide a.g.d
def opds (a : AtomArg) : List Opd := a.addrOpds ++ a.srcOpds ++ a.cmpOpds ++ a.dstOpds

end AtomArg

/-- The register of an operand for a fibre. -/
def readOne (c : Crew) (ln : Lane) : Opd → Reg
  | .v n => ln.readV n
  | .u n => c.uni n

/-- The value of one register, or of a pair with the low half first. -/
def readPair (c : Crew) (ln : Lane) : List Opd → Dword
  | [lo] => (readOne c ln lo).val.zeroExtend 64
  | lo :: hi :: _ => (readOne c ln hi).val ++ (readOne c ln lo).val
  | [] => 0#64

/-- The operand of an atomic; a literal is used whole when the operand is 64 bits wide (R40). -/
def AtomArg.x (a : AtomArg) (c : Crew) (ln : Lane) : Dword :=
  match a.g.lit with
  | some l => if a.wide then l else (l.extractLsb' 0 32).zeroExtend 64
  | none => readPair c ln a.srcOpds

/-- The tag of the operand; a literal takes that of A (R40). -/
def AtomArg.tag (a : AtomArg) (c : Crew) (ln : Lane) : Tag :=
  match a.g.lit with
  | some _ => ((a.addrOpds.head?).map (fun o => (readOne c ln o).tag)).getD .raw
  | none => ((a.srcOpds.head?).map (fun o => (readOne c ln o).tag)).getD .raw

/-- Base plus OFFS (R236), as 64 bits under GLOBAL and as 32 bits otherwise: a sum past them wraps (DESIGN CHOICE, log 92). -/
def AtomArg.addr (a : AtomArg) (c : Crew) (ln : Lane) : Dword :=
  let base := readPair c ln a.addrOpds
  if a.isGlobal then base + BitVec.ofNat 64 a.offs
  else (base.extractLsb' 0 32 + BitVec.ofNat 32 a.offs).zeroExtend 64

def AtomArg.bytes (a : AtomArg) : Nat := if a.wide then 8 else 4

/-- The address as records give it. -/
def AtomArg.tagged (a : AtomArg) (v : Dword) : Dword :=
  if a.isGlobal then v else if a.scope < 2 then taggedLocal (v.extractLsb' 0 32) else taggedShelf (v.extractLsb' 0 32)

/-- The place of an address; none raises BOUNDS (R236). -/
def AtomArg.place (a : AtomArg) (s : State) (x : Ctx) (v : Dword) : Option VAddr :=
  if a.isGlobal then
    (if v.extractLsb' 52 12 == 0#12 && v.toNat + a.bytes ≤ globalLimit then some (.glob v.toNat) else none)
  else if a.scope < 2 then s.localAddr x.crewId (v.extractLsb' 0 32) a.bytes
  else shelfAddr (v.extractLsb' 0 32) a.bytes

/-- The scope does not reach the place (R236, Table 5.9). -/
def AtomArg.outOfScope (a : AtomArg) (x : Ctx) (p : VAddr) : Bool :=
  match a.scope, p with
  | 0, .loc c _ => c != x.crewId
  | 2, .shelf d _ => d != dieOfCore x.crew.core
  | _, _ => false

/-- FORMAT of FADD, AMAX and AMAXR (R107). -/
def AtomArg.format (a : AtomArg) (c : Crew) (ln : Lane) : Option (Tag × Option Tag) :=
  if !a.cas && (a.op == 1 || a.op == 9 || a.op == 10) then oneTag .f32 (a.tag c ln) else none

/-- The active lanes with their addresses, ascending. -/
def AtomArg.lanes (a : AtomArg) (s : State) (x : Ctx) : List (Nat × VAddr) :=
  (laneList (x.act a.g.m)).filterMap (fun l => (a.place s x (a.addr x.crew (x.wave.lane l))).map (fun p => (l, p)))

/-- What a lane sends. -/
def AtomArg.what (a : AtomArg) (c : Crew) (ln : Lane) : AccessOp :=
  if a.cas then .cas a.wide (a.x c ln) (readPair c ln a.cmpOpds) (a.tag c ln)
  else .atom a.op a.wide (a.x c ln) (a.tag c ln)

/-- Charges of the reduction entries (Table 6.4). -/
def AtomArg.charges (a : AtomArg) (s : State) (x : Ctx) : List Charge :=
  ((a.lanes s x).filterMap (fun e => s.detAt x.crewId e.2)).map (fun h =>
    { region := h.1, line := none, copy := none, owes := 0, bytes := if a.wide then 24 else 16 })

/-- Rows of local memory the lanes touch. -/
def AtomArg.rows (a : AtomArg) (s : State) (x : Ctx) : List (Nat × Nat) :=
  dedup ((a.lanes s x).flatMap (fun e => match e.2 with
    | .loc c o => rowsTouched c o a.bytes
    | _ => []))

/-- The reduction entry of a lane, the next of its fibre (R128). -/
def AtomArg.red (a : AtomArg) (x : Ctx) (s : State) (l : Nat) : AccessOp :=
  .red a.op a.wide (a.x x.crew (x.wave.lane l)) (a.tag x.crew (x.wave.lane l)) (x.wave.idx * 32 + l)
    ((s.wave x.cur.wave).lane l).detSeq

/-- One lane: an access on its way to its home, which ends replayability (R132, R237), local memory included (R238); in a DET region
a reduction entry, buffered once what its fibre must do first is done (R112, R118, R127). -/
def AtomArg.send (a : AtomArg) (x : Ctx) (op : Nat) (flag : Option Nat) (s : State) (l : Nat) (p : VAddr) : State :=
  let ln := x.wave.lane l
  let access (what : AccessOp) : Access :=
    { op := op, wave := x.cur.wave, crew := x.crewId, lane := l, lanes := laneBit l, fibres := [ln.fibre], flag := flag,
      scope := a.scope, rel := a.g.m.rel, acq := a.g.m.acq, what := what, addr := p,
      ret := if a.noret then none else some (ln.wb + a.g.d), txns := if a.scope < 2 then 0 else 1, fault := none }
  match s.detAt x.crewId p with
  | some _ =>
    let t := (s.modWave x.cur.wave (fun w => w.mapLanes (laneBit l) (fun _ y => { y with detSeq := y.detSeq + 1 }))).catchUp
      x.cur.wave (laneBit l) [ln.fibre] p a.bytes
    t.issueAccess (access (a.red x s l))
  | none => (s.notReplayable x.gangId).addAccess (access (a.what x.crew ln))

/-- The parks of an atomic (R97, R109), OVERFLOW of its reduction entries, and a full flag. -/
def AtomArg.wait (a : AtomArg) (s : State) : Wait :=
  let x := s.ctx
  let act := x.act a.g.m
  if act == 0#32 then .go
  else if a.scope < 2 && s.anyPinned (a.rows s x) then .park act (.pinned (a.rows s x))
  else if 2 ≤ a.scope && !s.txnsFree x.crew.core (laneList act).length then .park act (.txns (laneList act).length)
  else
    match overflowWait s x act (a.charges s x) with
    | .go => if !a.noret && x.flagFull a.g.m.fsel then .hold s else .go
    | w => w

/-- ATOM and ATOMC (R237). -/
def atomSem (a : AtomArg) : Sem :=
  let g := a.g
  { size := g.size, flow := fun _ => { g.flow (a.addrOpds ++ a.srcOpds ++ a.cmpOpds) a.dstOpds with sets := [.mem] },
    static := fun s => firstFault [roleFault s.ctx rolesAll 21 a.sub false, windowFault s.ctx a.opds],
    check := fun s =>
      let x := s.ctx
      let act := x.act g.m
      let here (ln : Lane) : Dword := a.addr x.crew ln
      let rec' (bad : Lane → Bool) (_ : Nat) (ln : Lane) : Option (Dword × Dword) :=
        if bad ln then some (0#64, a.tagged (here ln)) else none
      firstFault [inflightFault x act a.opds, formatFault x act (a.format x.crew),
        laneFault .align x act (rec' (fun ln => (here ln).toNat % a.bytes != 0)),
        laneFault .bounds x act (rec' (fun ln => (a.place s x (here ln)).isNone)),
        laneFault .scope x act (rec' (fun ln => match a.place s x (here ln) with
          | some p => a.outOfScope x p
          | none => false)),
        laneFault .detret x act (rec' (fun ln => (a.cas || !a.noret) && (match a.place s x (here ln) with
          | some p => (s.detAt x.crewId p).isSome
          | none => false)))],
    unknown := fun _ => false,
    wait := a.wait,
    eff := fun s =>
      let x := s.ctx
      let act := x.act g.m
      if act == 0#32 then s
      else
        let flag := if a.noret then none else x.cur.flagOf g.m.fsel
        let ls := a.lanes s x
        let s := s.buffer x.crewId [] (a.charges s x)
        let (op, s) := s.countOp x.cur.wave flag
        let s := if a.noret then s else
          s.modWave x.cur.wave (fun w => w.mapLanes act (fun _ ln =>
            if a.wide then (ln.pendV g.d).pendV (g.d + 1) else ln.pendV g.d))
        ls.foldl (fun s e => a.send x op flag s e.1 e.2) s }

def semAtom (g : Arg) (sub : Nat) : Sem := atomSem { g := g, sub := sub, cas := false }
def semAtomc (g : Arg) (sub : Nat) : Sem := atomSem { g := g, sub := sub, cas := true }

end Sys2Proof.Machine
end

