-- ==== Sys2Proof/Machine/Barrier.lean ====
section
/-!
DEFINITION. Barrier instructions: BARINIT, BARARR, BAREXP, BARWAIT and BARTEST (R239-R245).
-/
namespace Sys2Proof.Machine

def barLocal (g : Arg) : Bool := g.w2.getLsbD 1

/-- The object's place (R239). -/
def barPlace (s : State) (x : Ctx) (g : Arg) : Option VAddr :=
  let a := (x.crew.uni g.a).val
  if barLocal g then s.localAddr x.crewId a 16 else shelfAddr a 16

def barTagged (x : Ctx) (g : Arg) : Dword :=
  if barLocal g then taggedLocal (x.crew.uni g.a).val else taggedShelf (x.crew.uni g.a).val

/-- Uniform registers a barrier instruction reads. -/
def barOpds (g : Arg) : List Opd := Opd.u g.a :: (if g.m.bu then [.u g.b] else [])

/-- The object's home, when its page is there. -/
def barHome (s : State) (x : Ctx) (g : Arg) : Option Home :=
  (barPlace s x g).bind (fun a => s.home? x.launch.part x.launch.tenant a)

/-- What its fibres, and its core, must do at the object before an instruction reads it (R110, R112): done, where it can be. -/
def State.barCaught (s : State) (x : Ctx) (g : Arg) (act : Lanes) : State :=
  match barPlace s x g with
  | some a => s.catchUp x.cur.wave act (x.wave.fibres act) a 16
  | none => s

/-- BARTEST, which never parks (R243), waits for its fibres' own accesses to the object (R112, R114, R118, R245), for those of its core
(R110), for its page (log 12), and for slack water to end (R128). -/
def barReady (s : State) (x : Ctx) (g : Arg) (act : Lanes) : Wait :=
  match barPlace s x g with
  | none => .go
  | some a =>
    let t := s.barCaught x g act
    if t.waitsAt x.cur.wave act a 16 then .later t
    else
      match t.home? x.launch.part x.launch.tenant a with
      | none => .miss act a
      | some h => if t.inSlack h then .later t else .go

/-- Role, window, INFLIGHT, the tag of a count, ALIGN and BOUNDS (R239). -/
def barSem (g : Arg) (sub : Nat) (tag badCount : Ctx → Bool) (unknown : State → Bool) (wait : State → Wait)
    (eff : State → State) : Sem :=
  { size := g.size, flow := fun _ => { g.flow (barOpds g) [] with sets := [.mem] },
    static := fun s => roleFault s.ctx rolesAll 22 sub false,
    check := fun s =>
      let x := s.ctx
      let act := x.act g.m
      firstFault [inflightFault x act (barOpds g),
        formatFault x act (fun _ => if tag x then oneTag .n32 (x.crew.uni g.b).tag else none),
        onceFault .align act ((x.crew.uni g.a).val.extractLsb' 0 4 != 0#4) 0#64 (barTagged x g),
        onceFault .bounds act ((barPlace s x g).isNone || badCount x) 0#64 (barTagged x g)],
    unknown := unknown, wait := wait, eff := eff }

/-- Send an operation of the active fibres to the object's home, after their own accesses that it must follow: with a scope, those it
releases (R114, R118). One whose page is missing waits for it. -/
def State.barSend (s : State) (x : Ctx) (act : Lanes) (a : VAddr) (op : BarOp) (rel : Option Nat) : State :=
  let t := (s.catchUpLanes x.cur.wave act).catchUp x.cur.wave act (x.wave.fibres act) a 16
  t.issueAccess
    { op := t.nextUid, wave := x.cur.wave, crew := x.crewId, lane := lowestLane act, lanes := act, fibres := x.wave.fibres act,
      flag := none, scope := rel.getD 0, rel := rel.isSome, acq := false, what := .bar op, addr := a, ret := none, txns := 0,
      fault := none }

/-- The effect of an operation on the object: an update in shelf is no effect a rerun could repeat (R132, log 29). -/
def barEff (g : Arg) (op : Ctx → Lanes → BarOp) (rel : Ctx → Option Nat) (s : State) : State :=
  let x := s.ctx
  let act := x.act g.m
  if act == 0#32 then s
  else
    match barPlace s x g with
    | some a =>
      let s := match a with
        | .loc _ _ => s
        | _ => s.notReplayable x.gangId
      s.barSend x act a (op x act) (rel x)
    | none => s

/-- BARINIT (R242). -/
def semBarinit (g : Arg) : Sem :=
  let n (x : Ctx) : Nat := if g.m.bu then (x.crew.uni g.b).val.toNat else g.w2f 16 16
  barSem g 0 (fun _ => false) (fun x => 65535 < n x) (fun _ => false) (fun _ => .go)
    (barEff g (fun x _ => .init (n x)) (fun _ => none))

/-- What an arrival releases: writes to the gang's local memory (R114), and to shelf and global memory too with REL (R118) or where
the launch binds regions (R116). -/
def barRel (x : Ctx) (g : Arg) : Nat := if g.m.rel || !x.launch.regions.isEmpty then 3 else 1

/-- BARARR (R240): one arrival per active fibre, or one in all. -/
def semBararr (g : Arg) : Sem :=
  barSem g 1 (fun _ => false) (fun _ => false) (fun _ => false) (fun _ => .go)
    (barEff g (fun x act => .arrive x.crewId (if g.w2.getLsbD 0 then 1 else (laneList act).length))
      (fun x => some (barRel x g)))

/-- BAREXP (R241). -/
def semBarexp (g : Arg) : Sem :=
  barSem g 2 (fun _ => true) (fun x => (x.crew.uni g.b).val.getLsbD 31) (fun _ => false) (fun _ => .go)
    (barEff g (fun x _ => .expect (x.crew.uni g.b).val) (fun _ => none))

/-- The parity waited for. -/
def barParity (x : Ctx) (g : Arg) : Bool := (x.crew.uni g.b).val.getLsbD 0

/-- What a fibre at BARWAIT is parked on at its object's home. -/
def State.barPark (s : State) (h : Home) (q : Bool) : ParkReason := if s.inSlack h then .slack h q else .barrier h q

/-- The active fibres that no completion has woken. -/
def barDue (x : Ctx) (act : Lanes) : Lanes := laneSet (fun l => act.getLsbD l && !(x.wave.lane l).woken)

/-- BARWAIT's parks (R17, R244): for the object's page (R108), behind what must perform first there (R110, R112), while the phase lasts,
and through slack water (R128); and the deferred faults that reach the crew there (R108). A page declared fatal is met there. A fibre
that a completion has woken waits for none of these. -/
def barwaitWait (g : Arg) (s : State) : Wait :=
  let x := s.ctx
  let act := x.act g.m
  match (if act == 0#32 then none else barPlace s x g) with
  | none => .go
  | some a =>
    let t := s.barCaught x g act
    match barHome t x g with
    | none => if t.pageFatal a then .miss act a else .park act (.object a)
    | some h =>
      match t.deferredAt x.crewId (.barrier h) with
      | some d => .stop (d.precise act)
      | none =>
        let due := barDue x act
        if due == 0#32 then .go
        else if t.waitsAt x.cur.wave due a 16 then .park due (.object a)
        else if t.inSlack h || t.barPhase h == barParity x g then .park due (t.barPark h (barParity x g))
        else .go

/-- BARWAIT (R244): the fibres that return acquire, and take a new snapshot (R126). -/
def semBarwait (g : Arg) : Sem :=
  barSem g 3 (fun _ => false) (fun _ => false) (fun _ => false) (barwaitWait g)
    (fun s =>
      let x := s.ctx
      let act := x.act g.m
      if act == 0#32 then s
      else
        let s := (s.barCaught x g act).modWave x.cur.wave (fun w => w.mapLanes act (fun _ ln => { ln with woken := false }))
        match barHome s x g with
        | some h => (s.markBarrier h).newSnaps x.crewId h
        | none => s)

/-- BARTEST's wait: it never parks (R243). -/
def bartestWait (g : Arg) (s : State) : Wait :=
  if s.ctx.act g.m == 0#32 then .go else barReady s s.ctx g (s.ctx.act g.m)

/-- Set the predicate of the active fibres. -/
def State.setTest (s : State) (g : Arg) (v : Bool) : State :=
  s.modWave s.ctx.cur.wave (fun w => w.mapLanes (s.ctx.act g.m) (fun _ ln => ln.setPred (g.d % 8) v))

/-- BARTEST (R243). Its task's snapshots stay as they are: R126 has BARWAIT renew them (DESIGN CHOICE, log 108). -/
def semBartest (g : Arg) : Sem :=
  { barSem g 4 (fun _ => false) (fun _ => false) (fun s => !(bartestWait g s).isGo) (bartestWait g)
      (fun s =>
        let x := s.ctx
        if x.act g.m == 0#32 then s
        else
          let t := s.barCaught x g (x.act g.m)
          match barHome t x g with
          | some h => (t.markBarrier h).setTest g (t.barPhase h != barParity x g)
          | none => t) with
    flow := fun _ => { g.flow (barOpds g) [] with uses := [.mem], setp := [g.d % 8] },
    guess := fun s => s.setTest g ((s.freeWord 0).getLsbD 0) }

end Sys2Proof.Machine
end

