-- ==== Sys2Proof/Machine/Cross.lean ====
section
/-!
DEFINITION. Instructions across the lanes of a wave: PERM (R298), SHFL (R312), REDUCE (R302) and SCAN (R307).
-/
namespace Sys2Proof.Machine

/-- Registers of PERM's table. -/
def permTable (g : Arg) : List Opd := opdsFrom g.m.au g.a
where
  opdsFrom (uni : Bool) (a : Nat) : List Opd := (List.range 4).map (fun i => if uni then .u (a + i) else .v (a + i))

/-- Byte i of a word. -/
def byteOf (w : Word) (i : Nat) : Byte := w.extractLsb' (8 * i) 8

/-- PERM of a table and a selector (R299). -/
def permWord (t : List Word) (sel : Word) : Word :=
  BitVec.ofNat 32 (packElems 8 ((List.range 4).map (fun k =>
    let b := (byteOf sel k).toNat
    if b < 128 then (byteOf ((t[b % 16 / 4]?).getD 0#32) (b % 4)).toNat else 0)))

/-- PERM (R298, R299); it has no uniform form. -/
def semPerm (g : Arg) : Sem :=
  let opds := permTable g ++ g.srcB.opds ++ [Opd.v g.d]
  Sem.simple g.size (fun _ => g.flow (permTable g ++ g.srcB.opds) [.v g.d])
    (fun s => firstFault [roleFault s.ctx rolesGV 11 0 false, windowFault s.ctx opds])
    (fun s => inflightFault s.ctx (s.ctx.act g.m) opds)
    (fun s =>
      let x := s.ctx
      s.modWave x.cur.wave (fun w => w.mapLanes (x.act g.m) (fun _ ln =>
        let t := (permTable g).map (fun o => match o with | .v n => (ln.readV n).val | .u n => (x.crew.uni n).val)
        ln.writeV g.d (Reg.done (permWord t (g.srcB.read x.crew ln .raw).val) .raw))))

/-- What a lane supplies to SHFL (R312). -/
def shflSource (x : Ctx) (a k : Nat) : Reg :=
  let ln := x.wave.lane k
  if 252 ≤ a then
    (if x.cur.lanes.getLsbD k then (ln.temps[a - 252]?).getD Reg.zero else Reg.zero)
  else
    let wb := if ln.status == .free then 0 else ln.wb
    if x.crew.nreg ≤ wb + a then Reg.zero else (ln.regs[wb + a]?).getD Reg.zero

/-- The lane an active lane names: its index modulo W. -/
def shflLane (x : Ctx) (g : Arg) (ln : Lane) : Nat := (g.srcB.read x.crew ln .raw).val.toNat % 32

/-- SHFL (R312). -/
def semShfl (g : Arg) : Sem :=
  let own := g.srcB.opds ++ [Opd.v g.d]
  Sem.simple g.size (fun _ => { g.flow (Opd.v g.a :: g.srcB.opds) [.v g.d] with keys := g.srcB.opds, cross := true, picks := true })
    (fun s => firstFault [roleFault s.ctx rolesGV 12 0 false, windowFault s.ctx ([Opd.v g.a] ++ own)])
    (fun s =>
      let x := s.ctx
      let act := x.act g.m
      firstFault [inflightFault x act own,
        laneFault .inflight x act (fun _ ln =>
          if (shflSource x g.a (shflLane x g ln)).pend then some (BitVec.ofNat 64 g.a, 0#64) else none)])
    (fun s =>
      let x := s.ctx
      s.modWave x.cur.wave (fun w => w.mapLanes (x.act g.m) (fun _ ln =>
        let r := shflSource x g.a (shflLane x g ln)
        ln.writeV g.d (Reg.done r.val r.tag))))

/-! ### REDUCE and SCAN -/

/-- The identity of an operation (Tables 4.6, 21.4). -/
def redIdentity (op : Nat) (t : Tag) : Word :=
  match op with
  | 0 => if t == .f32 then 0x8000_0000#32 else 0#32
  | 1 => if t == .f32 then f32InfW else if t == .i32 then 0x7FFF_FFFF#32 else 0xFFFF_FFFF#32
  | 2 => if t == .f32 then 0xFF80_0000#32 else if t == .i32 then 0x8000_0000#32 else 0#32
  | 3 => 0xFFFF_FFFF#32
  | _ => 0#32

/-- One step of the tree (R83, R303). -/
def redStep (op : Nat) (t : Tag) (ftz : Bool) (a b : Word) : Word :=
  let m : Modes := { rnd := .ne, sat := false, ftz := ftz }
  match op with
  | 0 => addWord t m a b
  | 1 => minWord t m a b
  | 2 => maxWord t m a b
  | 3 => a &&& b
  | 4 => a ||| b
  | _ => a ^^^ b

/-- One level of the tree: element l takes Op(l, l + d) for l below d. -/
def treeLevel (f : Word → Word → Word) (d : Nat) (xs : List Word) : List Word :=
  (List.range d).map (fun l => f ((xs[l]?).getD 0#32) ((xs[l + d]?).getD 0#32))

/-- The tree of R83 over 32 lanes. -/
def reduceTree (f : Word → Word → Word) (xs : List Word) : Word :=
  ([16, 8, 4, 2, 1].foldl (fun ys d => treeLevel f d ys) xs).headD 0#32

/-- The lanes' values with the identity in place of the lanes outside a set. -/
def laneVals (x : Ctx) (act : Lanes) (a : Nat) (idn : Word) : List Word :=
  (List.range 32).map (fun l => if act.getLsbD l then ((x.wave.lane l).readV a).val else idn)

/-- The tags an operation allows (Table 21.4). -/
def redTagOk (op : Nat) (t : Tag) : Bool := t == .i32 || t == .n32 || (t == .f32 && op < 3)

/-- Checks of REDUCE and SCAN: every active lane carries one allowed tag. -/
def redFormat (x : Ctx) (act : Lanes) (g : Arg) : Option Precise :=
  let first := ((x.wave.lane (lowestLane act)).readV g.a).tag
  formatFault x act (fun ln =>
    let t := (ln.readV g.a).tag
    if !redTagOk (g.b % 16) first then (if redTagOk (g.b % 16) t then none else some (t, none))
    else if t == first then none else some (t, some first))

/-- REDUCE and SCAN: every active lane gets the tree over the lanes up to its own, or over all (R83, R84). -/
def redSem (g : Arg) (op : Nat) (scan : Bool) : Sem :=
  let opds := [Opd.v g.a, .v g.d]
  Sem.simple g.size (fun _ => { g.flow [.v g.a] [.v g.d] with cross := true })
    (fun s => firstFault [roleFault s.ctx rolesGV op 0 false, windowFault s.ctx opds])
    (fun s =>
      let x := s.ctx
      let act := x.act g.m
      firstFault [inflightFault x act opds, redFormat x act g])
    (fun s =>
      let x := s.ctx
      let act := x.act g.m
      let t := ((x.wave.lane (lowestLane act)).readV g.a).tag
      let f := redStep (g.b % 16) t g.m.ftz
      let vals (upto : Nat) := laneVals x (laneSet (fun l => act.getLsbD l && l ≤ upto)) g.a (redIdentity (g.b % 16) t)
      s.modWave x.cur.wave (fun w => w.mapLanes act (fun l ln =>
        ln.writeV g.d (Reg.done (reduceTree f (vals (if scan then l else 31))) t))))

def semReduce (g : Arg) : Sem := redSem g 12 false
def semScan (g : Arg) : Sem := redSem g 13 true

end Sys2Proof.Machine
end

