-- ==== Sys2Proof/Machine/Move.lean ====
section
/-!
DEFINITION. Moves and conversions: MOV with its wide form (R43, R286), MOVI (R288), CVT (R259), VTAG (R328), SFU (R310), NOP and
YIELD (R296, R333).
-/
namespace Sys2Proof.Machine

/-- NOP (R296). -/
def semNop : Sem := Sem.simple 1 (fun _ => Flow.nil) (fun _ => none) (fun _ => none) (fun s => s)

/-- YIELD (R333): once the clause is over, the wave is passed over until every other ready wave of the core has had an
opportunity. -/
def semYield (g : Arg) : Sem :=
  Sem.simple g.size (fun _ => g.flow [] []) (fun _ => none) (fun _ => none)
    (fun s =>
      if s.ctx.act g.m == 0#32 then s else { s with cur := s.cur.map (fun (c : Cursor) => { c with yielded := true }) })

/-- MOV without the wide form (R287): register, or literal with the tag in its bits 35 to 32. -/
def movRegOp (g : Arg) : RegOp :=
  match g.lit with
  | some l =>
    { g := g, roles := rolesAll, op := 9, srcs := [.i (l.extractLsb' 0 32)], uni := g.ext && g.m.au, fmt := fun _ => none,
      val := fun _ _ rs => Reg.done (srcAt rs 0).val ((Tag.ofCode (l.extractLsb' 32 4)).getD .raw) }
  | none =>
    { g := g, roles := rolesAll, op := 9, srcs := [g.srcA], uni := g.ext && g.m.au, fmt := fun _ => none,
      val := fun _ _ rs => Reg.done (srcAt rs 0).val (srcAt rs 0).tag }
def semMov (g : Arg) : Sem := (movRegOp g).sem

/-- MOVI (R288). -/
def moviRegOp (g : Arg) (imm : Word) : RegOp :=
  { g := g, roles := rolesAll, op := 9, srcs := [.i imm], uni := g.ext && g.m.au, fmt := fun _ => none,
    val := fun _ _ rs => Reg.done (srcAt rs 0).val .i32 }
def semMovi (g : Arg) (imm : Word) : Sem := (moviRegOp g imm).sem

/-- The wide MOV (R43): kind, destination and source from word 2. A vector source is read in the lowest active lane alone. -/
def semMovWide (g : Arg) : Sem :=
  let kind := g.w2f 20 2
  let dst := g.w2f 0 10
  let src := g.w2f 10 10
  let opds := [if kind == 2 then Opd.v src else .u src, if kind == 1 then .v dst else .u dst]
  Sem.simple g.size (fun _ => { g.flow (opds.take 1) (opds.drop 1) with cross := kind == 2 })
    (fun s => firstFault [roleFault s.ctx rolesAll 9 0 false, windowFault s.ctx opds])
    (fun s =>
      let act := s.ctx.act g.m
      inflightBy s.ctx act (fun l => if kind == 2 && l != lowestLane act then opds.drop 1 else opds))
    (fun s =>
      let x := s.ctx
      let act := x.act g.m
      if act == 0#32 then s
      else
        match kind with
        | 0 => s.setUni x.crewId dst (Reg.done (x.crew.uni src).val (x.crew.uni src).tag)
        | 1 => s.modWave x.cur.wave (fun w => w.mapLanes act (fun _ ln =>
            ln.writeV dst (Reg.done (x.crew.uni src).val (x.crew.uni src).tag)))
        | _ =>
          let r := (x.wave.lane (lowestLane act)).readV src
          s.setUni x.crewId dst (Reg.done r.val r.tag))

/-- The tag rule of CVT (R260): not RAW, and PART within range. -/
def cvtTags (td : Tag) (part : Nat) (rs : List Reg) : Option (Tag × Option Tag) :=
  let ts := (srcAt rs 0).tag
  if ts == .raw || !cvtPartOk ts td part then some (ts, none) else none

/-- CVT (R259, R260). -/
def cvtRegOp (g : Arg) : RegOp :=
  let td := tagOf (g.b % 16)
  let part := g.b / 16
  { g := g, roles := rolesAll, op := 10, srcs := [g.srcA], uni := uniformForm g [g.srcA], fmt := cvtTags td part,
    val := fun _ old rs =>
      Reg.done (cvtWord (Modes.of g.m) (srcAt rs 0).tag td part old.val (srcAt rs 0).val) td,
    more := fun f => { f with reads := f.reads ++ f.writes } }
def semCvt (g : Arg) : Sem := (cvtRegOp g).sem

/-- VTAG (R328). -/
def vtagRegOp (g : Arg) : RegOp :=
  { g := g, roles := rolesAll, op := 10, srcs := [g.srcA], uni := uniformForm g [g.srcA], fmt := fun _ => none,
    val := fun _ _ rs => Reg.done (srcAt rs 0).val (tagOf g.b) }
def semVtag (g : Arg) : Sem := (vtagRegOp g).sem

/-- SFU (R310, R311): long-latency; the source is read at issue and each fibre's result is on its way to landing. -/
def semSfu (g : Arg) : Sem :=
  let opds := g.srcA.opds ++ [Opd.v g.d]
  { size := g.size, flow := fun _ => g.flow g.srcA.opds [.v g.d],
    static := fun s => firstFault [roleFault s.ctx rolesGV 11 0 false, windowFault s.ctx opds],
    check := fun s =>
      let x := s.ctx
      let act := x.act g.m
      firstFault [inflightFault x act opds,
        formatFault x act (fun ln => sameTags (fun t => t == .f32 || t == .f16x2) [(g.srcA.read x.crew ln .raw).tag])],
    unknown := fun _ => false,
    wait := fun s => if s.ctx.act g.m != 0#32 && s.ctx.flagFull g.m.fsel then .hold s else .go,
    eff := fun s =>
      let x := s.ctx
      let act := x.act g.m
      if act == 0#32 then s
      else
        let flag := x.cur.flagOf g.m.fsel
        let ds := (laneList act).map (fun l =>
          let ln := x.wave.lane l
          let r := g.srcA.read x.crew ln .raw
          Dest.lane l (ln.wb + g.d) (sfuWord r.tag g.m.ftz (g.b % 16) r.val) r.tag)
        let (op, s) := s.countOp x.cur.wave flag
        let s := s.modWave x.cur.wave (fun w => w.mapLanes act (fun _ ln => ln.pendV g.d))
        s.addFlight { op := op, wave := x.cur.wave, flag := flag, txns := 0, lines := [], payload := .regs ds, fault := none } }

end Sys2Proof.Machine
end

