-- ==== Sys2Proof/Machine/Meaning.lean ====
section
/-!
DEFINITION. The meaning of every instruction: `Instr.sem`, which the check step of a clause reads for all its instructions (R58),
and one `exec` definition per constructor, which runs it.
-/
namespace Sys2Proof

open Machine in
/-- What an instruction does; events of the part are not instructions. -/
def Instr.sem : Instr → Option Sem
  | .issueOpportunity _ => none
  | .clauseContinue _ => none
  | .landing _ => none
  | .copyPacket _ _ _ => none
  | .copyHoldRelease _ => none
  | .faultServiced _ _ => none
  | .faultDeclaredFatal _ => none
  | .copysSignal _ => none
  | .arm _ _ _ => none
  | .fire _ _ _ => none
  | .launchAcceptance _ => none
  | .gangPlacement _ _ => none
  | .nodeCrewPlacement _ _ _ => none
  | .gangRetirement _ => none
  | .launchRetirement _ => none
  | .finalMerge _ => none
  | .detMerge _ _ => none
  | .matrixCommandRetire _ _ => none
  | .smvPacket _ _ _ => none
  | .atomicPerform _ => none
  | .fenceComplete _ _ => none
  | .viewTraversal _ => none
  | .viewLanding _ => none
  | .recordDelivery _ _ _ => none
  | .retireDelivery _ _ _ => none
  | .contextFetch _ _ => none
  | .workItemAssign _ => none
  | .wqryRound _ => none
  | .sliceExpiry _ => none
  | .stopRequest _ _ => none
  | .contextSave _ => none
  | .quotaWrite _ _ => none
  | .unitRetirement _ => none
  | .uncorrectableError _ _ => none
  | .correctableError _ _ => none
  | .telemetryRead _ _ _ => none
  | .telemetryStatusClear _ _ => none
  | .securityAlarm => none
  | .bringUp _ => none
  | .nop => some (semNop)
  | .yield => some (semYield Arg.plain)
  | .yieldExt f => some (semYield f.arg)
  | .add f => some (semAdd f.arg)
  | .addExt f => some (semAdd f.arg)
  | .addLit f => some (semAdd f.arg)
  | .addExtLit f => some (semAdd f.arg)
  | .sub f => some (semSub f.arg)
  | .subExt f => some (semSub f.arg)
  | .subLit f => some (semSub f.arg)
  | .subExtLit f => some (semSub f.arg)
  | .mul f => some (semMul f.arg)
  | .mulExt f => some (semMul f.arg)
  | .mulLit f => some (semMul f.arg)
  | .mulExtLit f => some (semMul f.arg)
  | .mulh f => some (semMulh f.arg)
  | .mulhExt f => some (semMulh f.arg)
  | .mulhLit f => some (semMulh f.arg)
  | .mulhExtLit f => some (semMulh f.arg)
  | .fma f => some (semFma f.arg)
  | .fmaExt f => some (semFma f.arg)
  | .fmaLit f => some (semFma f.arg)
  | .fmaExtLit f => some (semFma f.arg)
  | .fms f => some (semFms f.arg)
  | .fmsExt f => some (semFms f.arg)
  | .fmsLit f => some (semFms f.arg)
  | .fmsExtLit f => some (semFms f.arg)
  | .min f => some (semMin f.arg)
  | .minExt f => some (semMin f.arg)
  | .minLit f => some (semMin f.arg)
  | .minExtLit f => some (semMin f.arg)
  | .max f => some (semMax f.arg)
  | .maxExt f => some (semMax f.arg)
  | .maxLit f => some (semMax f.arg)
  | .maxExtLit f => some (semMax f.arg)
  | .and f => some (semAnd f.arg)
  | .andExt f => some (semAnd f.arg)
  | .andLit f => some (semAnd f.arg)
  | .andExtLit f => some (semAnd f.arg)
  | .or f => some (semOr f.arg)
  | .orExt f => some (semOr f.arg)
  | .orLit f => some (semOr f.arg)
  | .orExtLit f => some (semOr f.arg)
  | .xor f => some (semXor f.arg)
  | .xorExt f => some (semXor f.arg)
  | .xorLit f => some (semXor f.arg)
  | .xorExtLit f => some (semXor f.arg)
  | .andn f => some (semAndn f.arg)
  | .andnExt f => some (semAndn f.arg)
  | .andnLit f => some (semAndn f.arg)
  | .andnExtLit f => some (semAndn f.arg)
  | .shl f => some (semShl f.arg)
  | .shlExt f => some (semShl f.arg)
  | .shlLit f => some (semShl f.arg)
  | .shlExtLit f => some (semShl f.arg)
  | .shr f => some (semShr f.arg)
  | .shrExt f => some (semShr f.arg)
  | .shrLit f => some (semShr f.arg)
  | .shrExtLit f => some (semShr f.arg)
  | .cmpp f => some (semCmpp f.arg)
  | .cmppExt f => some (semCmpp f.arg)
  | .cmppLit f => some (semCmpp f.arg)
  | .cmppExtLit f => some (semCmpp f.arg)
  | .sel f => some (semSel f.arg)
  | .selExt f => some (semSel f.arg)
  | .selLit f => some (semSel f.arg)
  | .selExtLit f => some (semSel f.arg)
  | .mov f => some (semMov f.arg)
  | .movExt f => some (semMov f.arg)
  | .movWide f => some (semMovWide f.arg)
  | .movLit f => some (semMov f.arg)
  | .movExtLit f => some (semMov f.arg)
  | .movi d imm => some (semMovi { Arg.plain with d := d.toNat } (imm.signExtend 32))
  | .moviExt f => some (semMovi f.arg f.w2)
  | .cvt f => some (semCvt f.arg)
  | .cvtExt f => some (semCvt f.arg)
  | .vtag f => some (semVtag f.arg)
  | .vtagExt f => some (semVtag f.arg)
  | .sfu f => some (semSfu f.arg)
  | .sfuExt f => some (semSfu f.arg)
  | .perm f => some (semPerm f.arg)
  | .permExt f => some (semPerm f.arg)
  | .shfl f => some (semShfl f.arg)
  | .shflExt f => some (semShfl f.arg)
  | .reduce f => some (semReduce f.arg)
  | .reduceExt f => some (semReduce f.arg)
  | .scan f => some (semScan f.arg)
  | .scanExt f => some (semScan f.arg)
  | .welf f => some (semWelf f.arg)
  | .welfExt f => some (semWelf f.arg)
  | .ldl f => some (semLdl f.arg)
  | .ldlExt f => some (semLdl f.arg)
  | .stl f => some (semStl f.arg)
  | .stlExt f => some (semStl f.arg)
  | .lds f => some (semLds f.arg)
  | .ldsExt f => some (semLds f.arg)
  | .sts f => some (semSts f.arg)
  | .stsExt f => some (semSts f.arg)
  | .spush f => some (semSpush f.arg)
  | .spushExt f => some (semSpush f.arg)
  | .spop f => some (semSpop f.arg)
  | .spopExt f => some (semSpop f.arg)
  | .bra off => some (semBra Arg.plain (off.signExtend 32))
  | .braExt f => some (semBra f.arg f.w2)
  | .brc off ng p => some (semBrc (off.signExtend 32) ng p.toNat)
  | .call off => some (semCall Arg.plain (off.signExtend 32))
  | .callExt f => some (semCall f.arg f.w2)
  | .ret => some (semRet Arg.plain)
  | .retExt f => some (semRet f.arg)
  | .fork pd off => some (semFork Arg.plain pd.toNat 0 (off.signExtend 32))
  | .forkExt f => some (semFork f.arg f.d.toNat f.m.c.toNat f.w2)
  | .fend => some (semFend Arg.plain)
  | .fendExt f => some (semFend f.arg)
  | .abs f => some (semAbs f.arg)
  | .neg f => some (semNeg f.arg)
  | .popc f => some (semPopc f.arg)
  | .clz f => some (semClz f.arg)
  | .brev f => some (semBrev f.arg)
  | .bfx f => some (semBfx f.arg)
  | .bfi f => some (semBfi f.arg)
  | .idiv f => some (semIdiv f.arg)
  | .dot4 f => some (semDot4 f.arg)
  | .wmerge f => some (semWmerge f.arg)
  | .atom f => some (semAtom f.e.arg f.sub.toNat)
  | .atomLit f => some (semAtom f.e.arg f.sub.toNat)
  | .atomc f => some (semAtomc f.e.arg f.sub.toNat)
  | .atomcLit f => some (semAtomc f.e.arg f.sub.toNat)
  | .barinit f => some (semBarinit f.arg)
  | .bararr f => some (semBararr f.arg)
  | .barexp f => some (semBarexp f.arg)
  | .barwait f => some (semBarwait f.arg)
  | .bartest f => some (semBartest f.arg)
  | .copy f => some (semCopy f.arg)
  | .copyb f => some (semCopyb f.arg)
  | .copyg f => some (semCopyg f.arg)
  | .copys f => some (semCopys f.arg)
  | .mma f => some (semMma f.arg)
  | .mmaq f => some (semMmaq f.arg)
  | .mcommit f => some (semMcommit f.arg)
  | .mwait f => some (semMwait f.arg)
  | .mrd f => some (semMrd f.arg)
  | .mwr f => some (semMwr f.arg)
  | .mzero f => some (semMzero f.arg)
  | .smv f => some (semSmv f.arg)
  | .view f => some (semView f.arg)
  | .vstat f => some (semVstat f.arg)
  | .vpix f => some (semVpix f.arg)
  | .rayq f => some (semRayq f.arg)
  | .tld f => some (semTld f.arg)
  | .tst f => some (semTst f.arg)
  | .trd f => some (semTrd f.arg)
  | .twr f => some (semTwr f.arg)
  | .bxunion f => some (semBxunion f.arg)
  | .sahcost f => some (semSahcost f.arg)
  | .nodepack f => some (semNodepack f.arg)
  | .hld f => some (semHld f.arg)
  | .hst f => some (semHst f.arg)
  | .hbind f => some (semHbind f.arg)
  | .hperm f => some (semHperm f.arg)
  | .hbund f => some (semHbund f.arg)
  | .hclr f => some (semHclr f.arg)
  | .hthr f => some (semHthr f.arg)
  | .hdist f => some (semHdist f.arg)
  | .hnear f => some (semHnear f.arg)
  | .hgen f => some (semHgen f.arg)
  | .remit f => some (semRemit f.arg)
  | .ksusp f => some (semKsusp f.arg)
  | .kret f => some (semKret f.arg)
  | .launch f => some (semLaunch f.arg)
  | .trap f => some (semTrap f.arg)
  | .srd f => some (semSrd f.arg)
  | .swr f => some (semSwr f.arg)
  | .fence f => some (semFence f.arg)
  | .fwait f => some (semFwait f.arg)
  | .wqry f => some (semWqry f.arg)
  | .brx f => some (semBrx f.arg)
  | .launchStop _ => none
  | .peerPortDown _ => none
  | .peerCopysTraffic _ => none
  | .reservedKindMessage _ _ _ => none
  | .tenantCreation _ _ => none
  | .allowListLoad _ _ _ => none
  | .objectLoad _ _ => none
  | .attestationReport _ => none

end Sys2Proof

namespace Sys2Proof.Machine

/-- NOP (R296). -/
def execNop (s : State) : Host.Outcome State Fault Refusal := runSem (semNop) s

/-- YIELD (R333). -/
def execYield (s : State) : Host.Outcome State Fault Refusal := runSem (semYield Arg.plain) s

/-- ?p YIELD. -/
def execYieldExt (f : Ext) (s : State) : Host.Outcome State Fault Refusal := runSem (semYield f.arg) s

/-- ADD (R233), base form. -/
def execAdd (f : Base) (s : State) : Host.Outcome State Fault Refusal := runSem (semAdd f.arg) s

/-- ADD (R233), extended form. -/
def execAddExt (f : Ext) (s : State) : Host.Outcome State Fault Refusal := runSem (semAdd f.arg) s

/-- ADD (R233), base form with literal. -/
def execAddLit (f : Lit) (s : State) : Host.Outcome State Fault Refusal := runSem (semAdd f.arg) s

/-- ADD (R233), extended form with literal. -/
def execAddExtLit (f : ExtLit) (s : State) : Host.Outcome State Fault Refusal := runSem (semAdd f.arg) s

/-- SUB (R320), base form. -/
def execSub (f : Base) (s : State) : Host.Outcome State Fault Refusal := runSem (semSub f.arg) s

/-- SUB (R320), extended form. -/
def execSubExt (f : Ext) (s : State) : Host.Outcome State Fault Refusal := runSem (semSub f.arg) s

/-- SUB (R320), base form with literal. -/
def execSubLit (f : Lit) (s : State) : Host.Outcome State Fault Refusal := runSem (semSub f.arg) s

/-- SUB (R320), extended form with literal. -/
def execSubExtLit (f : ExtLit) (s : State) : Host.Outcome State Fault Refusal := runSem (semSub f.arg) s

/-- MUL (R290), base form. -/
def execMul (f : Base) (s : State) : Host.Outcome State Fault Refusal := runSem (semMul f.arg) s

/-- MUL (R290), extended form. -/
def execMulExt (f : Ext) (s : State) : Host.Outcome State Fault Refusal := runSem (semMul f.arg) s

/-- MUL (R290), base form with literal. -/
def execMulLit (f : Lit) (s : State) : Host.Outcome State Fault Refusal := runSem (semMul f.arg) s

/-- MUL (R290), extended form with literal. -/
def execMulExtLit (f : ExtLit) (s : State) : Host.Outcome State Fault Refusal := runSem (semMul f.arg) s

/-- MULH (R291), base form. -/
def execMulh (f : Base) (s : State) : Host.Outcome State Fault Refusal := runSem (semMulh f.arg) s

/-- MULH (R291), extended form. -/
def execMulhExt (f : Ext) (s : State) : Host.Outcome State Fault Refusal := runSem (semMulh f.arg) s

/-- MULH (R291), base form with literal. -/
def execMulhLit (f : Lit) (s : State) : Host.Outcome State Fault Refusal := runSem (semMulh f.arg) s

/-- MULH (R291), extended form with literal. -/
def execMulhExtLit (f : ExtLit) (s : State) : Host.Outcome State Fault Refusal := runSem (semMulh f.arg) s

/-- FMA (R264), base form. -/
def execFma (f : Base) (s : State) : Host.Outcome State Fault Refusal := runSem (semFma f.arg) s

/-- FMA (R264), extended form. -/
def execFmaExt (f : Ext) (s : State) : Host.Outcome State Fault Refusal := runSem (semFma f.arg) s

/-- FMA (R264), base form with literal. -/
def execFmaLit (f : Lit) (s : State) : Host.Outcome State Fault Refusal := runSem (semFma f.arg) s

/-- FMA (R264), extended form with literal. -/
def execFmaExtLit (f : ExtLit) (s : State) : Host.Outcome State Fault Refusal := runSem (semFma f.arg) s

/-- FMS (R264), base form. -/
def execFms (f : Base) (s : State) : Host.Outcome State Fault Refusal := runSem (semFms f.arg) s

/-- FMS (R264), extended form. -/
def execFmsExt (f : Ext) (s : State) : Host.Outcome State Fault Refusal := runSem (semFms f.arg) s

/-- FMS (R264), base form with literal. -/
def execFmsLit (f : Lit) (s : State) : Host.Outcome State Fault Refusal := runSem (semFms f.arg) s

/-- FMS (R264), extended form with literal. -/
def execFmsExtLit (f : ExtLit) (s : State) : Host.Outcome State Fault Refusal := runSem (semFms f.arg) s

/-- MIN (R283), base form. -/
def execMin (f : Base) (s : State) : Host.Outcome State Fault Refusal := runSem (semMin f.arg) s

/-- MIN (R283), extended form. -/
def execMinExt (f : Ext) (s : State) : Host.Outcome State Fault Refusal := runSem (semMin f.arg) s

/-- MIN (R283), base form with literal. -/
def execMinLit (f : Lit) (s : State) : Host.Outcome State Fault Refusal := runSem (semMin f.arg) s

/-- MIN (R283), extended form with literal. -/
def execMinExtLit (f : ExtLit) (s : State) : Host.Outcome State Fault Refusal := runSem (semMin f.arg) s

/-- MAX (R283), base form. -/
def execMax (f : Base) (s : State) : Host.Outcome State Fault Refusal := runSem (semMax f.arg) s

/-- MAX (R283), extended form. -/
def execMaxExt (f : Ext) (s : State) : Host.Outcome State Fault Refusal := runSem (semMax f.arg) s

/-- MAX (R283), base form with literal. -/
def execMaxLit (f : Lit) (s : State) : Host.Outcome State Fault Refusal := runSem (semMax f.arg) s

/-- MAX (R283), extended form with literal. -/
def execMaxExtLit (f : ExtLit) (s : State) : Host.Outcome State Fault Refusal := runSem (semMax f.arg) s

/-- AND (R234), base form. -/
def execAnd (f : Base) (s : State) : Host.Outcome State Fault Refusal := runSem (semAnd f.arg) s

/-- AND (R234), extended form. -/
def execAndExt (f : Ext) (s : State) : Host.Outcome State Fault Refusal := runSem (semAnd f.arg) s

/-- AND (R234), base form with literal. -/
def execAndLit (f : Lit) (s : State) : Host.Outcome State Fault Refusal := runSem (semAnd f.arg) s

/-- AND (R234), extended form with literal. -/
def execAndExtLit (f : ExtLit) (s : State) : Host.Outcome State Fault Refusal := runSem (semAnd f.arg) s

/-- OR (R297), base form. -/
def execOr (f : Base) (s : State) : Host.Outcome State Fault Refusal := runSem (semOr f.arg) s

/-- OR (R297), extended form. -/
def execOrExt (f : Ext) (s : State) : Host.Outcome State Fault Refusal := runSem (semOr f.arg) s

/-- OR (R297), base form with literal. -/
def execOrLit (f : Lit) (s : State) : Host.Outcome State Fault Refusal := runSem (semOr f.arg) s

/-- OR (R297), extended form with literal. -/
def execOrExtLit (f : ExtLit) (s : State) : Host.Outcome State Fault Refusal := runSem (semOr f.arg) s

/-- XOR (R332), base form. -/
def execXor (f : Base) (s : State) : Host.Outcome State Fault Refusal := runSem (semXor f.arg) s

/-- XOR (R332), extended form. -/
def execXorExt (f : Ext) (s : State) : Host.Outcome State Fault Refusal := runSem (semXor f.arg) s

/-- XOR (R332), base form with literal. -/
def execXorLit (f : Lit) (s : State) : Host.Outcome State Fault Refusal := runSem (semXor f.arg) s

/-- XOR (R332), extended form with literal. -/
def execXorExtLit (f : ExtLit) (s : State) : Host.Outcome State Fault Refusal := runSem (semXor f.arg) s

/-- ANDN (R234), base form. -/
def execAndn (f : Base) (s : State) : Host.Outcome State Fault Refusal := runSem (semAndn f.arg) s

/-- ANDN (R234), extended form. -/
def execAndnExt (f : Ext) (s : State) : Host.Outcome State Fault Refusal := runSem (semAndn f.arg) s

/-- ANDN (R234), base form with literal. -/
def execAndnLit (f : Lit) (s : State) : Host.Outcome State Fault Refusal := runSem (semAndn f.arg) s

/-- ANDN (R234), extended form with literal. -/
def execAndnExtLit (f : ExtLit) (s : State) : Host.Outcome State Fault Refusal := runSem (semAndn f.arg) s

/-- SHL (R313), base form. -/
def execShl (f : Base) (s : State) : Host.Outcome State Fault Refusal := runSem (semShl f.arg) s

/-- SHL (R313), extended form. -/
def execShlExt (f : Ext) (s : State) : Host.Outcome State Fault Refusal := runSem (semShl f.arg) s

/-- SHL (R313), base form with literal. -/
def execShlLit (f : Lit) (s : State) : Host.Outcome State Fault Refusal := runSem (semShl f.arg) s

/-- SHL (R313), extended form with literal. -/
def execShlExtLit (f : ExtLit) (s : State) : Host.Outcome State Fault Refusal := runSem (semShl f.arg) s

/-- SHR (R313), base form. -/
def execShr (f : Base) (s : State) : Host.Outcome State Fault Refusal := runSem (semShr f.arg) s

/-- SHR (R313), extended form. -/
def execShrExt (f : Ext) (s : State) : Host.Outcome State Fault Refusal := runSem (semShr f.arg) s

/-- SHR (R313), base form with literal. -/
def execShrLit (f : Lit) (s : State) : Host.Outcome State Fault Refusal := runSem (semShr f.arg) s

/-- SHR (R313), extended form with literal. -/
def execShrExtLit (f : ExtLit) (s : State) : Host.Outcome State Fault Refusal := runSem (semShr f.arg) s

/-- CMPP (R255), base form. -/
def execCmpp (f : Base) (s : State) : Host.Outcome State Fault Refusal := runSem (semCmpp f.arg) s

/-- CMPP (R255), extended form. -/
def execCmppExt (f : Ext) (s : State) : Host.Outcome State Fault Refusal := runSem (semCmpp f.arg) s

/-- CMPP (R255), base form with literal. -/
def execCmppLit (f : Lit) (s : State) : Host.Outcome State Fault Refusal := runSem (semCmpp f.arg) s

/-- CMPP (R255), extended form with literal. -/
def execCmppExtLit (f : ExtLit) (s : State) : Host.Outcome State Fault Refusal := runSem (semCmpp f.arg) s

/-- SEL (R309), base form. -/
def execSel (f : Base) (s : State) : Host.Outcome State Fault Refusal := runSem (semSel f.arg) s

/-- SEL (R309), extended form. -/
def execSelExt (f : Ext) (s : State) : Host.Outcome State Fault Refusal := runSem (semSel f.arg) s

/-- SEL (R309), base form with literal. -/
def execSelLit (f : Lit) (s : State) : Host.Outcome State Fault Refusal := runSem (semSel f.arg) s

/-- SEL (R309), extended form with literal. -/
def execSelExtLit (f : ExtLit) (s : State) : Host.Outcome State Fault Refusal := runSem (semSel f.arg) s

/-- MOV (R286). -/
def execMov (f : Base) (s : State) : Host.Outcome State Fault Refusal := runSem (semMov f.arg) s

/-- MOV, extended form. -/
def execMovExt (f : Ext) (s : State) : Host.Outcome State Fault Refusal := runSem (semMov f.arg) s

/-- the wide MOV (R43). -/
def execMovWide (f : Ext) (s : State) : Host.Outcome State Fault Refusal := runSem (semMovWide f.arg) s

/-- MOV.TAG vd, value. -/
def execMovLit (f : Lit) (s : State) : Host.Outcome State Fault Refusal := runSem (semMov f.arg) s

/-- MOV.TAG, extended form with literal. -/
def execMovExtLit (f : ExtLit) (s : State) : Host.Outcome State Fault Refusal := runSem (semMov f.arg) s

/-- MOVI (R288), base form. -/
def execMovi (d : BitVec 8) (imm : BitVec 16) (s : State) : Host.Outcome State Fault Refusal := runSem (semMovi { Arg.plain with d := d.toNat } (imm.signExtend 32)) s

/-- MOVI, extended form. -/
def execMoviExt (f : Ext) (s : State) : Host.Outcome State Fault Refusal := runSem (semMovi f.arg f.w2) s

/-- CVT (R259), base form. -/
def execCvt (f : Base) (s : State) : Host.Outcome State Fault Refusal := runSem (semCvt f.arg) s

/-- CVT, extended form. -/
def execCvtExt (f : Ext) (s : State) : Host.Outcome State Fault Refusal := runSem (semCvt f.arg) s

/-- VTAG (R328), base form. -/
def execVtag (f : Base) (s : State) : Host.Outcome State Fault Refusal := runSem (semVtag f.arg) s

/-- VTAG, extended form. -/
def execVtagExt (f : Ext) (s : State) : Host.Outcome State Fault Refusal := runSem (semVtag f.arg) s

/-- SFU (R310), base form. -/
def execSfu (f : Base) (s : State) : Host.Outcome State Fault Refusal := runSem (semSfu f.arg) s

/-- SFU, extended form. -/
def execSfuExt (f : Ext) (s : State) : Host.Outcome State Fault Refusal := runSem (semSfu f.arg) s

/-- PERM (R298), base form. -/
def execPerm (f : Base) (s : State) : Host.Outcome State Fault Refusal := runSem (semPerm f.arg) s

/-- PERM, extended form. -/
def execPermExt (f : Ext) (s : State) : Host.Outcome State Fault Refusal := runSem (semPerm f.arg) s

/-- SHFL (R312), base form. -/
def execShfl (f : Base) (s : State) : Host.Outcome State Fault Refusal := runSem (semShfl f.arg) s

/-- SHFL, extended form. -/
def execShflExt (f : Ext) (s : State) : Host.Outcome State Fault Refusal := runSem (semShfl f.arg) s

/-- REDUCE (R302), base form. -/
def execReduce (f : Base) (s : State) : Host.Outcome State Fault Refusal := runSem (semReduce f.arg) s

/-- REDUCE, extended form. -/
def execReduceExt (f : Ext) (s : State) : Host.Outcome State Fault Refusal := runSem (semReduce f.arg) s

/-- SCAN (R307), base form. -/
def execScan (f : Base) (s : State) : Host.Outcome State Fault Refusal := runSem (semScan f.arg) s

/-- SCAN, extended form. -/
def execScanExt (f : Ext) (s : State) : Host.Outcome State Fault Refusal := runSem (semScan f.arg) s

/-- WELF (R329), base form. -/
def execWelf (f : Base) (s : State) : Host.Outcome State Fault Refusal := runSem (semWelf f.arg) s

/-- WELF, extended form. -/
def execWelfExt (f : Ext) (s : State) : Host.Outcome State Fault Refusal := runSem (semWelf f.arg) s

/-- LDL (R277), base form. -/
def execLdl (f : Base) (s : State) : Host.Outcome State Fault Refusal := runSem (semLdl f.arg) s

/-- LDL, extended form. -/
def execLdlExt (f : Ext) (s : State) : Host.Outcome State Fault Refusal := runSem (semLdl f.arg) s

/-- STL (R318), base form. -/
def execStl (f : Base) (s : State) : Host.Outcome State Fault Refusal := runSem (semStl f.arg) s

/-- STL, extended form. -/
def execStlExt (f : Ext) (s : State) : Host.Outcome State Fault Refusal := runSem (semStl f.arg) s

/-- LDS (R277), base form. -/
def execLds (f : Base) (s : State) : Host.Outcome State Fault Refusal := runSem (semLds f.arg) s

/-- LDS, extended form. -/
def execLdsExt (f : Ext) (s : State) : Host.Outcome State Fault Refusal := runSem (semLds f.arg) s

/-- STS (R318), base form. -/
def execSts (f : Base) (s : State) : Host.Outcome State Fault Refusal := runSem (semSts f.arg) s

/-- STS, extended form. -/
def execStsExt (f : Ext) (s : State) : Host.Outcome State Fault Refusal := runSem (semSts f.arg) s

/-- SPUSH (R315), base form. -/
def execSpush (f : Base) (s : State) : Host.Outcome State Fault Refusal := runSem (semSpush f.arg) s

/-- SPUSH, extended form. -/
def execSpushExt (f : Ext) (s : State) : Host.Outcome State Fault Refusal := runSem (semSpush f.arg) s

/-- SPOP (R315), base form. -/
def execSpop (f : Base) (s : State) : Host.Outcome State Fault Refusal := runSem (semSpop f.arg) s

/-- SPOP, extended form. -/
def execSpopExt (f : Ext) (s : State) : Host.Outcome State Fault Refusal := runSem (semSpop f.arg) s

/-- BRA (R247), base form. -/
def execBra (off : BitVec 24) (s : State) : Host.Outcome State Fault Refusal := runSem (semBra Arg.plain (off.signExtend 32)) s

/-- BRA, extended form. -/
def execBraExt (f : Ext) (s : State) : Host.Outcome State Fault Refusal := runSem (semBra f.arg f.w2) s

/-- BRC (R248). -/
def execBrc (off : BitVec 20) (ng : Bool) (p : BitVec 3) (s : State) : Host.Outcome State Fault Refusal := runSem (semBrc (off.signExtend 32) ng p.toNat) s

/-- CALL (R253), base form. -/
def execCall (off : BitVec 24) (s : State) : Host.Outcome State Fault Refusal := runSem (semCall Arg.plain (off.signExtend 32)) s

/-- CALL, extended form. -/
def execCallExt (f : Ext) (s : State) : Host.Outcome State Fault Refusal := runSem (semCall f.arg f.w2) s

/-- RET (R305), base form. -/
def execRet (s : State) : Host.Outcome State Fault Refusal := runSem (semRet Arg.plain) s

/-- RET, extended form. -/
def execRetExt (f : Ext) (s : State) : Host.Outcome State Fault Refusal := runSem (semRet f.arg) s

/-- FORK (R13), base form. -/
def execFork (pd : BitVec 3) (off : BitVec 16) (s : State) : Host.Outcome State Fault Refusal := runSem (semFork Arg.plain pd.toNat 0 (off.signExtend 32)) s

/-- FORK, extended form. -/
def execForkExt (f : Ext) (s : State) : Host.Outcome State Fault Refusal := runSem (semFork f.arg f.d.toNat f.m.c.toNat f.w2) s

/-- FEND (R13), base form. -/
def execFend (s : State) : Host.Outcome State Fault Refusal := runSem (semFend Arg.plain) s

/-- FEND, extended form. -/
def execFendExt (f : Ext) (s : State) : Host.Outcome State Fault Refusal := runSem (semFend f.arg) s

/-- ABS (R232). -/
def execAbs (f : Ext) (s : State) : Host.Outcome State Fault Refusal := runSem (semAbs f.arg) s

/-- NEG (R294). -/
def execNeg (f : Ext) (s : State) : Host.Outcome State Fault Refusal := runSem (semNeg f.arg) s

/-- POPC (R300). -/
def execPopc (f : Ext) (s : State) : Host.Outcome State Fault Refusal := runSem (semPopc f.arg) s

/-- CLZ (R254). -/
def execClz (f : Ext) (s : State) : Host.Outcome State Fault Refusal := runSem (semClz f.arg) s

/-- BREV (R249). -/
def execBrev (f : Ext) (s : State) : Host.Outcome State Fault Refusal := runSem (semBrev f.arg) s

/-- BFX (R246). -/
def execBfx (f : Ext) (s : State) : Host.Outcome State Fault Refusal := runSem (semBfx f.arg) s

/-- BFI (R246). -/
def execBfi (f : Ext) (s : State) : Host.Outcome State Fault Refusal := runSem (semBfi f.arg) s

/-- IDIV (R271). -/
def execIdiv (f : Ext) (s : State) : Host.Outcome State Fault Refusal := runSem (semIdiv f.arg) s

/-- DOT4 (R261). -/
def execDot4 (f : Ext) (s : State) : Host.Outcome State Fault Refusal := runSem (semDot4 f.arg) s

/-- WMERGE (R330). -/
def execWmerge (f : Ext) (s : State) : Host.Outcome State Fault Refusal := runSem (semWmerge f.arg) s

/-- ATOM (R235), operand in a register. -/
def execAtom (f : AtomF) (s : State) : Host.Outcome State Fault Refusal := runSem (semAtom f.e.arg f.sub.toNat) s

/-- ATOM (R235), literal operand. -/
def execAtomLit (f : AtomLitF) (s : State) : Host.Outcome State Fault Refusal := runSem (semAtom f.e.arg f.sub.toNat) s

/-- ATOMC (R235), operand in a register. -/
def execAtomc (f : AtomF) (s : State) : Host.Outcome State Fault Refusal := runSem (semAtomc f.e.arg f.sub.toNat) s

/-- ATOMC (R235), literal operand. -/
def execAtomcLit (f : AtomLitF) (s : State) : Host.Outcome State Fault Refusal := runSem (semAtomc f.e.arg f.sub.toNat) s

/-- BARINIT (R239). -/
def execBarinit (f : Ext) (s : State) : Host.Outcome State Fault Refusal := runSem (semBarinit f.arg) s

/-- BARARR (R239). -/
def execBararr (f : Ext) (s : State) : Host.Outcome State Fault Refusal := runSem (semBararr f.arg) s

/-- BAREXP (R239). -/
def execBarexp (f : Ext) (s : State) : Host.Outcome State Fault Refusal := runSem (semBarexp f.arg) s

/-- BARWAIT (R239). -/
def execBarwait (f : Ext) (s : State) : Host.Outcome State Fault Refusal := runSem (semBarwait f.arg) s

/-- BARTEST (R239). -/
def execBartest (f : Ext) (s : State) : Host.Outcome State Fault Refusal := runSem (semBartest f.arg) s

/-- COPY (R257). -/
def execCopy (f : Ext) (s : State) : Host.Outcome State Fault Refusal := runSem (semCopy f.arg) s

/-- COPYB (R257). -/
def execCopyb (f : Ext) (s : State) : Host.Outcome State Fault Refusal := runSem (semCopyb f.arg) s

/-- COPYG (R257). -/
def execCopyg (f : Ext) (s : State) : Host.Outcome State Fault Refusal := runSem (semCopyg f.arg) s

/-- COPYS (R257). -/
def execCopys (f : Ext) (s : State) : Host.Outcome State Fault Refusal := runSem (semCopys f.arg) s

/-- MMA (R138). -/
def execMma (f : Ext) (s : State) : Host.Outcome State Fault Refusal := runSem (semMma f.arg) s

/-- MMAQ (R138). -/
def execMmaq (f : Ext) (s : State) : Host.Outcome State Fault Refusal := runSem (semMmaq f.arg) s

/-- MCOMMIT (R140). -/
def execMcommit (f : Ext) (s : State) : Host.Outcome State Fault Refusal := runSem (semMcommit f.arg) s

/-- MWAIT (R140). -/
def execMwait (f : Ext) (s : State) : Host.Outcome State Fault Refusal := runSem (semMwait f.arg) s

/-- MRD (R289). -/
def execMrd (f : Ext) (s : State) : Host.Outcome State Fault Refusal := runSem (semMrd f.arg) s

/-- MWR (R293). -/
def execMwr (f : Ext) (s : State) : Host.Outcome State Fault Refusal := runSem (semMwr f.arg) s

/-- MZERO (R293). -/
def execMzero (f : Ext) (s : State) : Host.Outcome State Fault Refusal := runSem (semMzero f.arg) s

/-- SMV (R146). -/
def execSmv (f : Ext) (s : State) : Host.Outcome State Fault Refusal := runSem (semSmv f.arg) s

/-- VIEW (R149). -/
def execView (f : Ext) (s : State) : Host.Outcome State Fault Refusal := runSem (semView f.arg) s

/-- VSTAT (R165). -/
def execVstat (f : Ext) (s : State) : Host.Outcome State Fault Refusal := runSem (semVstat f.arg) s

/-- VPIX (R163). -/
def execVpix (f : Ext) (s : State) : Host.Outcome State Fault Refusal := runSem (semVpix f.arg) s

/-- RAYQ (R169). -/
def execRayq (f : Ext) (s : State) : Host.Outcome State Fault Refusal := runSem (semRayq f.arg) s

/-- TLD (R321). -/
def execTld (f : Ext) (s : State) : Host.Outcome State Fault Refusal := runSem (semTld f.arg) s

/-- TST (R321). -/
def execTst (f : Ext) (s : State) : Host.Outcome State Fault Refusal := runSem (semTst f.arg) s

/-- TRD (R321). -/
def execTrd (f : Ext) (s : State) : Host.Outcome State Fault Refusal := runSem (semTrd f.arg) s

/-- TWR (R321). -/
def execTwr (f : Ext) (s : State) : Host.Outcome State Fault Refusal := runSem (semTwr f.arg) s

/-- BXUNION (R251). -/
def execBxunion (f : Ext) (s : State) : Host.Outcome State Fault Refusal := runSem (semBxunion f.arg) s

/-- SAHCOST (R306). -/
def execSahcost (f : Ext) (s : State) : Host.Outcome State Fault Refusal := runSem (semSahcost f.arg) s

/-- NODEPACK (R295). -/
def execNodepack (f : Ext) (s : State) : Host.Outcome State Fault Refusal := runSem (semNodepack f.arg) s

/-- HLD (R175). -/
def execHld (f : Ext) (s : State) : Host.Outcome State Fault Refusal := runSem (semHld f.arg) s

/-- HST (R175). -/
def execHst (f : Ext) (s : State) : Host.Outcome State Fault Refusal := runSem (semHst f.arg) s

/-- HBIND (R175). -/
def execHbind (f : Ext) (s : State) : Host.Outcome State Fault Refusal := runSem (semHbind f.arg) s

/-- HPERM (R175). -/
def execHperm (f : Ext) (s : State) : Host.Outcome State Fault Refusal := runSem (semHperm f.arg) s

/-- HBUND (R175). -/
def execHbund (f : Ext) (s : State) : Host.Outcome State Fault Refusal := runSem (semHbund f.arg) s

/-- HCLR (R175). -/
def execHclr (f : Ext) (s : State) : Host.Outcome State Fault Refusal := runSem (semHclr f.arg) s

/-- HTHR (R175). -/
def execHthr (f : Ext) (s : State) : Host.Outcome State Fault Refusal := runSem (semHthr f.arg) s

/-- HDIST (R175). -/
def execHdist (f : Ext) (s : State) : Host.Outcome State Fault Refusal := runSem (semHdist f.arg) s

/-- HNEAR (R175). -/
def execHnear (f : Ext) (s : State) : Host.Outcome State Fault Refusal := runSem (semHnear f.arg) s

/-- HGEN (R175). -/
def execHgen (f : Ext) (s : State) : Host.Outcome State Fault Refusal := runSem (semHgen f.arg) s

/-- REMIT (R183). -/
def execRemit (f : Ext) (s : State) : Host.Outcome State Fault Refusal := runSem (semRemit f.arg) s

/-- KSUSP (R186). -/
def execKsusp (f : Ext) (s : State) : Host.Outcome State Fault Refusal := runSem (semKsusp f.arg) s

/-- KRET (R186). -/
def execKret (f : Ext) (s : State) : Host.Outcome State Fault Refusal := runSem (semKret f.arg) s

/-- LAUNCH (R274). -/
def execLaunch (f : Ext) (s : State) : Host.Outcome State Fault Refusal := runSem (semLaunch f.arg) s

/-- TRAP (R209). -/
def execTrap (f : Ext) (s : State) : Host.Outcome State Fault Refusal := runSem (semTrap f.arg) s

/-- SRD (R316). -/
def execSrd (f : Ext) (s : State) : Host.Outcome State Fault Refusal := runSem (semSrd f.arg) s

/-- SWR (R316). -/
def execSwr (f : Ext) (s : State) : Host.Outcome State Fault Refusal := runSem (semSwr f.arg) s

/-- FENCE (R119). -/
def execFence (f : Ext) (s : State) : Host.Outcome State Fault Refusal := runSem (semFence f.arg) s

/-- FWAIT (R119). -/
def execFwait (f : Ext) (s : State) : Host.Outcome State Fault Refusal := runSem (semFwait f.arg) s

/-- WQRY (R191). -/
def execWqry (f : Ext) (s : State) : Host.Outcome State Fault Refusal := runSem (semWqry f.arg) s

/-- BRX (R250). -/
def execBrx (f : Ext) (s : State) : Host.Outcome State Fault Refusal := runSem (semBrx f.arg) s

end Sys2Proof.Machine
end

