-- ==== Sys2Proof/Machine/Doubt.lean ====
section
/-!
DEFINITION. The check step of a clause (R58, R59): the faults of its instructions in clause order, each after the effects of those
before it, and what counts as a fault behind an instruction whose result is not known before its wait is over (log 60).
-/
namespace Sys2Proof.Machine

/-! ### What is not known yet -/

/-- Registers whose value is not known in some lanes; registers of which not even the tag, or whether they are pending, is known;
predicates; spots. A uniform register stands with all lanes. -/
structure Doubt where
  vals : List (Opd × Lanes)
  tags : List (Opd × Lanes)
  preds : List (Nat × Lanes)
  spots : List Spot
deriving DecidableEq, Repr

def Doubt.nil : Doubt := { vals := [], tags := [], preds := [], spots := [] }

def allLanes : Lanes := 0xFFFF_FFFF#32

/-- Some lanes, or all of them when there are some and the lanes read one another. -/
def spread (cross : Bool) (m : Lanes) : Lanes := if cross && m != 0#32 then allLanes else m

/-- Lanes of some names in a list. -/
def lanesOf {α : Type} [BEq α] (names : List α) (l : List (α × Lanes)) : Lanes :=
  l.foldl (fun m e => if names.contains e.1 then m ||| e.2 else m) 0#32

def anySpot (a b : List Spot) : Lanes := if a.any (fun x => b.contains x) then allLanes else 0#32

/-- Lanes of which it is not known whether they are active. -/
def Doubt.guard (d : Doubt) (f : Flow) : Lanes :=
  match f.guard with
  | some (p, _) => lanesOf [p] d.preds
  | none => 0#32

/-- Lanes in which it is not known whether the instruction meets a pending register, or what tags it meets. -/
def Doubt.hazy (d : Doubt) (f : Flow) : Lanes :=
  d.guard f ||| spread f.cross (lanesOf (f.reads ++ f.writes) d.tags ||| lanesOf f.keys d.vals) |||
  anySpot (f.uses.filter (fun x => x == .tile || x == .acc)) d.spots

/-- Lanes in which anything that the instruction reads is not known. -/
def Doubt.unsure (d : Doubt) (f : Flow) : Lanes :=
  d.hazy f ||| spread f.cross (lanesOf f.reads d.vals ||| lanesOf f.preds d.preds) ||| anySpot f.uses d.spots

/-- Names become known in some lanes, and not known in others; a name that all lanes share is in doubt when one of them is. -/
def restate {α : Type} [BEq α] (shared : α → Bool) (names : List α) (known unknown : Lanes) (l : List (α × Lanes)) : List (α × Lanes) :=
  let all (x : α) : Bool := shared x && known != 0#32
  let kept := l.map (fun e => if names.contains e.1 then (e.1, if all e.1 then 0#32 else e.2 &&& ~~~known) else e)
  (kept ++ names.map (fun x => (x, if shared x && unknown != 0#32 then allLanes else unknown))).filter (fun e => e.2 != 0#32)

def Opd.shared : Opd → Bool
  | .v _ => false
  | .u _ => true

/-- Active lanes as the state has them. -/
def Flow.act (f : Flow) (x : Ctx) : Lanes :=
  match f.guard with
  | some (p, neg) => laneSet (fun l => x.cur.lanes.getLsbD l && ((x.wave.lane l).preds.getLsbD p != neg))
  | none => x.cur.lanes

/-- What is in doubt after an instruction that is run (R58): what it writes in lanes where something it reads is not known, and what
it would have written in lanes that may not be active. -/
def Doubt.after (d : Doubt) (f : Flow) (may sure : Lanes) : Doubt :=
  let b := d.unsure f &&& may
  let a := (if f.picks then b else d.hazy f &&& may)
  let known := sure &&& ~~~b
  { vals := restate Opd.shared f.writes known b d.vals, tags := restate Opd.shared f.writes (sure &&& ~~~a) a d.tags,
    preds := restate (fun _ => false) f.setp known b d.preds,
    spots := d.spots ++ f.sets.filter (fun x => if x == .tile || x == .depth then a != 0#32 else b != 0#32) }

/-- What is in doubt after an instruction whose results are not known before its wait is over: their values, the words it stores, the
elements of a tile, and the tags only where those are not known either (`vague`). -/
def Doubt.late (d : Doubt) (f : Flow) (may : Lanes) (vague : Bool) : Doubt :=
  { vals := restate Opd.shared f.writes 0#32 may d.vals,
    tags := if vague then restate Opd.shared f.writes 0#32 may d.tags else d.tags,
    preds := restate (fun _ => false) f.setp 0#32 may d.preds,
    spots := d.spots ++ f.sets.filter (fun x => x == .image || x == .mem || (vague && x == .tile)) }

/-! ### Faults of one instruction -/

/-- The state with the cohort less some lanes. -/
def State.without (s : State) (m : Lanes) : State :=
  { s with cur := s.cur.map (fun c => { c with lanes := c.lanes &&& ~~~m }) }

/-- Classes that no value of an operand decides: a pending register (R56), a tag (R55), and TRAP. -/
def FaultClass.byTag : FaultClass → Bool
  | .inflight => true
  | .format => true
  | .trap => true
  | _ => false

/-- The fault that an instruction meets whatever is in doubt: ROLE and the register window; a pending register, a tag or TRAP in lanes
known to be active; anything in lanes where all that it reads is known. -/
def Sem.faultBehind (m : Sem) (d : Doubt) (s : State) : Option Precise :=
  let f := m.flow s
  firstFault [m.static s, (m.fault (s.without (d.hazy f))).filter (fun p => p.cls.byTag), m.fault (s.without (d.unsure f))]

/-- What is in doubt after the instruction; behind one that waits, what memory will hold when the wait is over. -/
def Sem.doubt (m : Sem) (d : Doubt) (s : State) : Doubt :=
  let f := m.flow s
  let act := f.act s.ctx
  let may := (act ||| d.guard f) &&& s.ctx.cur.lanes
  let e := d.after f may (act &&& ~~~(d.guard f))
  let e := if m.unknown s then e.late f may (m.vague s) else e
  if (m.wait s).isGo then e else { e with spots := .mem :: e.spots }

/-- The check step can go on behind the instruction only with something in doubt. -/
def Sem.doubtful (m : Sem) (s : State) : Bool := m.unknown s || !(m.wait s).isGo

/-- The state behind the instruction, for the check of later ones. -/
def Sem.passed (m : Sem) (s : State) : State := (if m.unknown s then m.guess s else m.eff s).advance m.size

/-! ### The check step -/

/-- The check step behind a result that is not known: a fault counts that does not depend on it. The others are found after the wait,
when the rest of the clause is checked again (log 60). -/
def checkBehind : List Instr → Doubt → State → Option (Cursor × Precise)
  | [], _, _ => none
  | i :: is, d, s =>
    match i.sem with
    | none => none
    | some m =>
      match m.faultBehind d s with
      | some p => some (s.cur.getD Cursor.nil, p)
      | none => checkBehind is (m.doubt d s) (m.passed s)

/-- The check step of instructions in clause order (R58, R59): the first that faults, the effects of each applied before the next is
checked. -/
def checkAll : List Instr → State → Option (Cursor × Precise)
  | [], _ => none
  | i :: is, s =>
    match i.sem with
    | none => none
    | some m =>
      match m.fault s with
      | some p => some (s.cur.getD Cursor.nil, p)
      | none =>
        if m.doubtful s then checkBehind is (m.doubt Doubt.nil s) (m.passed s) else checkAll is (m.passed s)

end Sys2Proof.Machine
end

