-- ==== Sys2Proof/Machine/Issue.lean ====
section
/-!
DEFINITION. How clauses issue: headers and whole-clause decoding (R47, R48), ready fibres (R17), the choice of position (R18), the
round-robin of a core (R20, R333), the issue of a clause (R58, R59), held clauses (R52), and TARGET (R60).
-/
namespace Sys2Proof.Machine

/-! ### Clause headers (Table 3.6) -/

/-- The fields of a clause header. -/
structure Header where
  count : Nat
  wait : BitVec 12
  setA : Nat
  setB : Nat
deriving DecidableEq, Repr

def isHeader (w : Word) : Bool := w.extractLsb' 0 7 == 0x7C#7

def Header.of (w : Word) : Header :=
  { count := (w.extractLsb' 19 5).toNat, wait := w.extractLsb' 7 12, setA := (w.extractLsb' 24 4).toNat,
    setB := (w.extractLsb' 28 4).toNat }

def flagFieldOk (n : Nat) : Bool := n < 12 || n == 15

/-- COUNT, SETA and SETB are legal (Table 3.6). -/
def Header.ok (h : Header) : Bool := 1 ≤ h.count && h.count ≤ 24 && flagFieldOk h.setA && flagFieldOk h.setB

/-! ### Decoding a clause (R48) -/

/-- A control instruction (R48). -/
def isControl : Instr → Bool
  | .bra _ | .braExt _ | .brc _ _ _ | .call _ | .callExt _ | .ret | .retExt _ | .brx _ | .fork _ _ | .forkExt _ | .fend
  | .fendExt _ | .ksusp _ | .kret _ => true
  | _ => false

/-- The FSEL of a long-latency instruction (R49); none for any other. -/
def longFsel : Instr → Option Bool
  | .ldl _ | .lds _ | .spop _ | .sfu _ => some false
  | .ldlExt f | .ldsExt f | .spopExt f | .sfuExt f | .copy f | .copyb f | .copyg f | .copys f | .mrd f | .rayq f | .hnear f
  | .hdist f | .wqry f => some f.m.fsel
  | .atom f | .atomc f => if f.e.w2.getLsbD 0 then none else some f.e.m.fsel
  | .atomLit f | .atomcLit f => if f.e.w2.getLsbD 0 then none else some f.e.m.fsel
  | _ => none

/-- A long-latency instruction whose selected flag field is 15 is ILLEGAL (R50). -/
def flagless (h : Header) (i : Instr) : Bool :=
  match longFsel i with
  | some b => (if b then h.setB else h.setA) == 15
  | none => false

/-- The word at an address of the launch's code; none outside it (R60). -/
def State.codeWord (s : State) (launch : Nat) (a : Word) : Option Word :=
  let l := s.launch launch
  if inCode l.code a then look a.toNat (s.part l.part).code else none

/-- The word loaded at an address in a launch's partition: a clause that starts in the launch's code takes in the words that follow its
header wherever they lie, the next header among them, which at the end of a section lies outside its range (R48, R226). -/
def State.loadedWord (s : State) (launch : Nat) (a : Word) : Option Word := look a.toNat (s.part (s.launch launch).part).code

/-- Words loaded from an address on, up to n. -/
def State.codeWords (s : State) (launch : Nat) (a : Word) : Nat → List Word
  | 0 => []
  | n + 1 =>
    match s.loadedWord launch a with
    | some w => w :: s.codeWords launch (a + 1#32) n
    | none => []

/-- A clause, decoded: its header and its instructions. -/
structure Clause where
  head : Header
  instrs : List Instr
deriving DecidableEq, Repr

/-- Decode n instructions from an address on, the header standing at `pc`; an error is the index of the first offending word. The word
that follows them is a header (R47, R48, R61). -/
def State.decodeInstrs (s : State) (launch : Nat) (h : Header) (pc : Word) : Nat → Word → Except Nat (List Instr)
  | 0, a =>
    match s.loadedWord launch a with
    | some w => if isHeader w then .ok [] else .error (a - pc).toNat
    | none => .error (a - pc).toNat
  | n + 1, a =>
    let ws := s.codeWords launch a 5
    match decodeWords ws with
    | none => .error ((a - pc).toNat + offendingWord ws)
    | some i =>
      if isControl i && n != 0 then .error (a - pc).toNat
      else if flagless h i then .error ((a - pc).toNat + (if i.size == 1 then 0 else 1))
      else (s.decodeInstrs launch h pc n (a + BitVec.ofNat 32 i.size)).map (fun t => i :: t)

/-- The clause at an address: TARGET where no header stands (R60), ILLEGAL where it does not decode (R61). -/
def State.decodeClause (s : State) (launch : Nat) (pc : Word) : Except (FaultClass × Nat) Clause :=
  match s.codeWord launch pc with
  | none => .error (.target, 0)
  | some w =>
    if !isHeader w then .error (.target, 0)
    else
      let h := Header.of w
      if !h.ok then .error (.illegal, 0)
      else
        match s.decodeInstrs launch h pc h.count (pc + 1#32) with
        | .error k => .error (.illegal, k)
        | .ok is => .ok { head := h, instrs := is }

/-! ### Ready fibres (R17) -/

/-- A parked fibre still waits for what it parked on (R17). One parked at BARWAIT also goes on when a fault of a copy that credits the
object has become fatal, which it then meets there (R108; log 46). -/
def State.stillParked (s : State) (wave : Nat) (x : Lane) (r : ParkReason) : Bool :=
  let w := s.wave wave
  let c := s.crew w.crew
  let (p, t) := s.spaceOfCrew w.crew
  match r with
  | .barrier h q => !x.woken && s.barPhase h == q && (s.deferredAt w.crew (.barrier h)).isNone
  | .batch n => !((s.gang c.gang).pairOf (pairOfCore c.core)).retired n
  | .fence k gen => (let f := (w.fences[k]?).getD Fence.idle; f.busy && f.gen == gen)
  | .launch _ => !x.woken
  | .absent lines => lines.any (fun l => s.lineAbsent p t l)
  | .pinned rows => s.anyPinned rows
  | .tile n => ((w.tiles[n]?).getD Tile.zero).pend
  | .txns n => !s.txnsFree c.core n
  | .viewSlot l =>
    (let k := clusterOfCore c.core
     s.viewQuota p k l ≤ s.viewsHeld p k l)
  | .object a =>
    (let m := laneSet (fun l => (w.lane l).fibre == x.fibre)
     let u := s.catchUp wave m [x.fibre] a 16
     u.waitsAt wave m a 16 || ((u.home? p t a).isNone && u.pageAwaited p t a))
  | .slack h _ => !x.woken && (s.deferredAt w.crew (.barrier h)).isNone
  | .missWord a fs => fs.any (fun f => !s.quietFibre f) || ((s.taskWord? w.crew a).isNone && s.pageAwaited p t a)

/-- The flags of a WAIT mask are all zero (R17). -/
def waitMet (w : Wave) (mask : BitVec 12) : Bool := (List.range 12).all (fun f => !mask.getLsbD f || w.flag f == 0)

/-- The WAIT mask at a header; a word that is no header asks for nothing: the fibre issues and meets TARGET (R60). -/
def State.waitMask (s : State) (launch : Nat) (pc : Word) : BitVec 12 :=
  match s.codeWord launch pc with
  | some w => if isHeader w then (Header.of w).wait else 0#12
  | none => 0#12

/-- A fibre is ready (R17). -/
def State.laneReady (s : State) (launch wave : Nat) (x : Lane) : Bool :=
  x.status == .live &&
  (match x.park with
   | some r => !s.stillParked wave x r
   | none => true) &&
  (x.pos != 0 || waitMet (s.wave wave) (s.waitMask launch x.pc))

/-- The ready fibres of a wave. -/
def State.readyLanes (s : State) (wave : Nat) : Lanes :=
  let w := s.wave wave
  let launch := (s.gang (s.crew w.crew).gang).launch
  laneSet (fun l => s.laneReady launch wave (w.lane l))

/-- The wave may get an issue opportunity: its gang runs and holds the slots of all its crews (R23; log 62), its tenant holds the
partition, its clause does not hold (R52). -/
def State.waveMayIssue (s : State) (wave : Nat) : Bool :=
  let w := s.wave wave
  let g := s.gang (s.crew w.crew).gang
  !w.ended && w.hold.isNone && g.phase == .running && s.resides g.launch && s.gangSeated (s.crew w.crew).gang

def State.waveReady (s : State) (wave : Nat) : Bool := s.waveMayIssue wave && s.readyLanes wave != 0#32

/-! ### The position (R18) -/

/-- The aged fibre that goes first: greatest AGE, ties to the lower PC, then the greater Pos. -/
def agedFirst (a b : Lane) : Lane :=
  if a.age < b.age || (a.age == b.age && (b.pc < a.pc || (b.pc == a.pc && a.pos < b.pos))) then b else a

/-- The fibre at the lowest PC, the greatest Pos first. -/
def lowFirst (a b : Lane) : Lane := if b.pc < a.pc || (b.pc == a.pc && a.pos < b.pos) then b else a

/-- The position a wave chooses among its ready fibres. -/
def choosePosition : List Lane → Option (Word × Nat)
  | [] => none
  | x :: xs =>
    match (x :: xs).filter (fun y => 64 ≤ y.age) with
    | a :: as => (let y := as.foldl agedFirst a; some (y.pc, y.pos))
    | [] => (let y := xs.foldl lowFirst x; some (y.pc, y.pos))

/-- Ready fibres outside the cohort grow older; those of the cohort start again from 0. -/
def ageLanes (w : Wave) (ready cohort : Lanes) : Wave :=
  w.mapLanes ready (fun l x => { x with age := if cohort.getLsbD l then 0 else min (x.age + 1) 64 })

/-! ### Issue of a clause (R58, R59) -/

/-- Words before instruction k of a clause, the header included. -/
def offsetOf (is : List Instr) (k : Nat) : Nat := 1 + ((is.take k).map Instr.size).sum

/-- Issue a clause to a cohort from instruction k: TARGET, ILLEGAL, a deferred fault that its WAIT names, the check step; then the
clause is the one being issued. -/
def State.issueClause (s : State) (wave : Nat) (cohort : Lanes) (pc : Word) (pos : Nat) : State :=
  let w := s.wave wave
  let crew := w.crew
  let launch := (s.gang (s.crew crew).gang).launch
  let c0 : Cursor := { Cursor.nil with wave := wave, lanes := cohort, pc := pc, idx := pos - 1, addr := pc }
  match s.decodeClause launch pc with
  | .error (cls, k) =>
    let xpc := if cls == .target then ((w.lane (lowestLane cohort)).xfer).getD 0#32 else 0#32
    s.takeFault { c0 with idx := 0 } { Precise.of cls cohort with info := BitVec.ofNat 64 k } xpc
  | .ok cl =>
    let named := (List.range 12).filter (fun f => pos == 0 && cl.head.wait.getLsbD f)
    match named.findSome? (fun f => s.deferredAt crew (.flag wave f)) with
    | some d => s.takeFault { c0 with idx := 0 } (d.precise cohort) 0#32
    | none =>
      let c : Cursor := { c0 with
        idx := pos - 1, addr := pc + BitVec.ofNat 32 (offsetOf cl.instrs (pos - 1)), count := cl.head.count,
        setA := cl.head.setA, setB := cl.head.setB, yielded := (laneList cohort).any (fun l => (w.lane l).yielded) }
      let s : State := { s with cur := some c }
      let s := s.modWave wave (fun w => w.mapLanes cohort (fun _ x =>
        { x with park := none, yielded := false, temps := if pos == 0 then List.replicate 4 Reg.zero else x.temps }))
      match checkAll (cl.instrs.drop (pos - 1)) s with
      | some (c, p) => s.meetFault c p
      | none => s

/-- One issue opportunity of a wave (R18). -/
def State.issueWave (s : State) (wave : Nat) : State :=
  let w := s.wave wave
  let ready := s.readyLanes wave
  match choosePosition ((laneList ready).map w.lane) with
  | none => s
  | some (pc, pos) =>
    let cohort := laneSet (fun l => ready.getLsbD l && (w.lane l).pc == pc && (w.lane l).pos == pos)
    (s.modWave wave (fun w => ageLanes w ready cohort)).issueClause wave cohort pc pos

/-! ### The round-robin of a core (R20, R333) -/

/-- The ready waves of a core. -/
def State.readyOn (s : State) (core : Nat) : List Nat :=
  (s.waves.filter (fun e => (s.crew e.2.crew).core == core && s.waveReady e.1)).map (·.1)

/-- A wave that yielded is passed over while a wave it lets by is ready and not yet served (R333). -/
def State.passedOver (s : State) (ready : List Nat) (wave : Nat) : Bool :=
  match (s.wave wave).passTo with
  | some ws => ws.any (fun k => ready.contains k)
  | none => false

/-- Between clauses: a wave that is not ready is waited for no longer, and a wave that waits for no other is passed over no longer, so
that no waves wait for one another (R333; DEDUCED, log 47). -/
def State.endPasses (s : State) : State :=
  { s with waves := s.waves.map (fun e =>
      match e.2.passTo with
      | none => e
      | some ws =>
        let left := ws.filter s.waveReady
        (e.1, { e.2 with passTo := if left.isEmpty then none else some left })) }

/-- Of some waves, the first by slot number after a slot, going round. -/
def nextSlot (rr : Nat) : List (Nat × Nat) → Option (Nat × Nat)
  | [] => none
  | e :: es => some (es.foldl (fun a b => if (b.2 + 47 - rr) % 48 < (a.2 + 47 - rr) % 48 then b else a) e)

/-- A wave is served: it is passed over no longer, and the others wait for it no longer (R333). -/
def State.serve (s : State) (wave : Nat) : State :=
  { s with waves := s.waves.map (fun e =>
      (e.1, { e.2 with passTo := if e.1 == wave then none else e.2.passTo.map (fun ws => ws.filter (fun k => k != wave)) })) }

/-- ISSUE_OPPORTUNITY (R18, R20): the core's clocks advance (R65), and the next ready wave by slot number issues. -/
def State.issueOpportunity (s : State) (core : Nat) : State :=
  if s.cur.isSome then s
  else
    let (n, s) := s.freeNext
    let s := s.modCore core (fun c => { c with cycles := (c.cycles + Config.freeClocks n) % 2 ^ 64 })
    let ready := s.readyOn core
    let open_ := ready.filter (fun k => !s.passedOver ready k)
    match nextSlot (s.core core).rr (open_.map (fun k => (k, (s.wave k).slot))) with
    | none => s
    | some (k, slot) => ((s.modCore core (fun c => { c with rr := slot })).serve k).issueWave k

/-- The instruction a clause has come to. -/
def State.fetchInstr (s : State) (c : Cursor) : Option Instr :=
  decodeWords (s.codeWords (s.ctxOf c).launchId c.addr 5)

/-- HLD and HST, which an ebb lets end once they have begun (R269). -/
def isHyperMove : Instr → Bool
  | .hld _ | .hst _ => true
  | _ => false

/-- A wave whose clause stands at an HLD or HST that has begun. -/
def State.moving (s : State) (w : Wave) : Bool :=
  match w.hold with
  | some c => !w.ended && !c.ebbed && (s.gang (s.crew w.crew).gang).phase == .running && (s.fetchInstr c).any isHyperMove
  | none => false

/-- In an ebb the instruction a clause stands at is run alone; the clause stays before the next one (R269). -/
def State.finishMove (s : State) (c : Cursor) : State :=
  match (s.fetchInstr c).bind Instr.sem with
  | none => s
  | some m =>
    let t := m.step { (s.modWave c.wave (fun w => { w with hold := none })) with cur := some c }
    match t.cur with
    | some d => ({ t with cur := some { d with ebbed := true } } : State).holdClause
    | none => t

/-- The clause still holds at its instruction, which has done nothing meanwhile. A REMIT that could append one more record (R304) goes
on: its hold is over for the lanes that it serves, and the check step comes first (R58). -/
def State.holdsOn (s : State) (w : Wait) : Option State :=
  match w with
  | .hold t => if t.ctx.cur.served == s.ctx.cur.served then some t else none
  | _ => none

/-- CLAUSE_CONTINUE (R58): once what held the clause has ended, the instructions from there on pass the check step again, and the
clause goes on; in an ebb only an HLD or HST that has begun ends (R269). -/
def State.clauseContinue (s : State) (wave : Nat) : State :=
  let w := s.wave wave
  let g := s.gang (s.crew w.crew).gang
  match w.hold with
  | none => s
  | some c =>
    if s.cur.isSome || w.ended || g.phase != .running || !s.awake w.crew then s
    else if !s.resides g.launch then (if s.moving w then s.finishMove c else s)
    else
      let c : Cursor := { c with ebbed := false }
      let s : State := { (s.modWave wave (fun w => { w with hold := none })) with cur := some c }
      match s.decodeClause g.launch c.pc with
      | .error (cls, k) => s.takeFault c { Precise.of cls c.lanes with info := BitVec.ofNat 64 k } 0#32
      | .ok cl =>
        let rest := cl.instrs.drop c.idx
        match ((rest.head?.bind Instr.sem).bind (fun m => s.holdsOn (m.wait s))) with
        | some t => t.holdClause
        | none =>
          match checkAll rest s with
          | some (c, p) => s.meetFault c p
          | none => s

/-! ### The instruction a step runs -/

/-- No instruction stands there: system software has replaced the code since the clause was decoded. -/
def State.fetchFault (s : State) (c : Cursor) : State :=
  s.takeFault c { Precise.of .illegal c.lanes with info := ((c.addr - c.pc).toNat : Nat) } 0#32

/-- Take the next event of the agenda, or else the next core's issue opportunity (log 1); the passing over of waves ends first where
it is time (R333). -/
def State.nextEvent (s : State) : Instr × State :=
  let s := s.endPasses
  match s.agenda with
  | i :: is => (i, { s with agenda := is })
  | [] => (.issueOpportunity s.nextCore, { s with nextCore := (s.nextCore + 1) % 256 })

end Sys2Proof.Machine
end

