-- ==== Sys2Proof/Machine/Retire.lean ====
section
/-!
DEFINITION. How gangs and launches retire (R29, R131, R182, R200, R207), the stop of a launch by system software (R145), and the work
distributor (R192, R193).
-/
namespace Sys2Proof.Machine

/-! ### Retirement -/

/-- Work of a gang's crews that has been sent and has not ended (R207). -/
def State.gangBusy (s : State) (g : Nat) : Bool :=
  let crews := s.crewsOf g
  let of (k : Nat) : Bool := crews.contains k
  s.flights.any (fun e => of (s.wave e.2.wave).crew) || s.accesses.any (fun e => of e.2.crew) || s.copies.any (fun e => of e.2.crew) ||
  s.smvs.any (fun e => of e.2.crew) || s.wreqs.any (fun e => of e.2.crew) || s.views.any (fun e => of e.2.crew) ||
  s.lreqs.any (fun e => of e.2.crew) || s.cmds.any (fun e => e.2.gang == g)

/-- Launches a gang started that have not retired. -/
def State.childrenOf (s : State) (g : Nat) : List Nat := names (fun l => l.parent == some g) s.launches

/-- Entries of a gang's tasks still await a merge (R131). -/
def State.gangBuffers (s : State) (g : Nat) : Bool :=
  s.crews.any (fun e => e.2.gang == g && (!e.2.wbuf.isEmpty || !e.2.sealed.isEmpty))

/-- The gang may retire (R29, R207). -/
def State.gangDone (s : State) (g : Nat) : Bool :=
  let x := s.gang g
  (x.phase == .finished || x.phase == .stopped) && s.onPart x.launch && !s.gangBusy g && (s.childrenOf g).isEmpty &&
  !s.gangBuffers g

/-- GANG_RETIREMENT (R29): the gang counts toward its launch; nothing of it is left. -/
def State.gangRetirement (s : State) (g : Nat) : State :=
  if !s.gangDone g then s
  else
    let crews := s.crewsOf g
    { s with
      crews := s.crews.filter (fun e => !crews.contains e.1),
      waves := s.waves.filter (fun e => !crews.contains e.2.crew),
      gangs := if (s.gang g).node.isSome then drop g s.gangs else change g (fun x => { x with phase := .retired, pairs := [] }) s.gangs }

/-- The launch may retire (R29, R182). Records that a phase of EPOCH still holds (R189) keep it, as queued ones do (DESIGN CHOICE,
log 79). -/
def State.launchDone (s : State) (k : Nat) : Bool :=
  (look k s.launches).isSome && s.onPart k &&
  (s.gangs.filter (fun e => e.2.launch == k)).all (fun e => e.2.phase == .retired) &&
  (s.nodes.filter (fun e => e.2.launch == k)).all (fun e => e.2.queue.isEmpty && e.2.heldRecs.isEmpty && e.2.ctxs.isEmpty)

/-- LAUNCH_RETIREMENT (R200): the completion signal is written, and the launch with its nodes is gone. -/
def State.launchRetirement (s : State) (k : Nat) : State :=
  let l := s.launch k
  if !s.launchDone k then s
  else
    match s.signalMiss l.part l.tenant l.desc.done with
    | some a => s.askPage l.part l.tenant a
    | none =>
      let s : State := { s with
        launches := drop k s.launches, gangs := s.gangs.filter (fun e => e.2.launch != k),
        nodes := s.nodes.filter (fun e => e.2.launch != k) }
      s.signal l.part l.tenant l.desc.done l.status l.firing (if l.parent.isSome then l.ident else l.tag)

/-- LAUNCH_STOP (R145, R207): system software stops a launch. -/
def State.launchStop (s : State) (k : Nat) : State :=
  if (s.launch k).phase == .running then s.stopLaunch k 2 else s

/-! ### The work distributor -/

/-- An answer is on its way to local memory (R191). -/
def State.answerQuery (s : State) (k : Nat) (r : WRequest) (x y : Word) : State :=
  ({ s with wreqs := drop k s.wreqs }).addFlight
    { op := r.op, wave := r.wave, flag := r.flag, txns := 1, lines := [], payload := .answer r.ycrew r.off x y, fault := none }

/-- Item i, or the end token. -/
def State.answerItem (s : State) (k : Nat) (r : WRequest) (d : Desc) (i : Option Nat) : State :=
  match i with
  | some i => s.answerQuery k r (BitVec.ofNat 32 (i % d.wqx)) (BitVec.ofNat 32 (i / d.wqx))
  | none => s.answerQuery k r endToken endToken

/-- Take the lowest item of a cluster's own range. -/
def takeOwn (cluster : Nat) : List (Nat × Nat × Nat) → Option (Nat × List (Nat × Nat × Nat))
  | [] => none
  | (c, lo, hi) :: t =>
    if c == cluster && lo < hi then some (lo, (c, lo + 1, hi) :: t)
    else (takeOwn cluster t).map (fun r => (r.1, (c, lo, hi) :: r.2))

/-- Take the highest item of a cluster's range. -/
def takeTop (cluster : Nat) : List (Nat × Nat × Nat) → Option (Nat × List (Nat × Nat × Nat))
  | [] => none
  | (c, lo, hi) :: t =>
    if c == cluster && lo < hi then some (hi - 1, (c, lo, hi - 1) :: t)
    else (takeTop cluster t).map (fun r => (r.1, (c, lo, hi) :: r.2))

/-- Clusters in ascending cyclic order after one. -/
def victims (cluster : Nat) (rs : List (Nat × Nat × Nat)) : List Nat :=
  (rs.filter (fun r => cluster < r.1)).map (·.1) ++ (rs.filter (fun r => r.1 < cluster)).map (·.1)

/-- The item a request of a cluster gets, and the ranges left (R192). -/
def Distributor.take (d : Distributor) (cluster : Nat) : Option Nat × Distributor :=
  match (takeOwn cluster d.ranges).or ((victims cluster d.ranges).findSome? (fun c => takeTop c d.ranges)) with
  | some (i, rs) => (some i, { d with ranges := rs })
  | none => (none, d)

/-- WORK_ITEM_ASSIGN (R192). -/
def State.assignItem (s : State) (k : Nat) : State :=
  match look k s.wreqs with
  | none => s
  | some r =>
    let c := s.crew r.crew
    let n := (s.gang c.gang).launch
    let l := s.launch n
    if l.desc.det || !s.awake r.crew then s
    else
      let (i, d) := l.dist.take (clusterOfCore c.core)
      (s.modLaunch n (fun l => { l with dist := d })).answerItem k r l.desc i

/-- A crew of a DET launch that a round waits for (R193). -/
def State.roundReady (s : State) (k : Nat) : Bool :=
  !s.gangs.any (fun e => e.2.launch == k && e.2.phase == .waiting) &&
  (s.crews.filter (fun e => let g := s.gang e.2.gang; g.launch == k && g.node.isNone && g.phase == .running && !e.2.ended)).all
    (fun e => s.wreqs.any (fun r => r.2.crew == e.1))

/-- The oldest request of a crew. -/
def State.oldestRequest (s : State) (crew : Nat) : Option (Nat × WRequest) := s.wreqs.find? (fun r => r.2.crew == crew)

/-- Crews with a request of a launch, in ascending task identifier. -/
def State.askers (s : State) (k : Nat) : List Nat :=
  s.sortTasks (dedup ((s.wreqs.filter (fun r => (s.gang (s.crew r.2.crew).gang).launch == k)).map (fun r => r.2.crew)))

/-- Answer crews in order with the next items. -/
def State.roundAnswers (s : State) (k : Nat) : List Nat → State
  | [] => s
  | c :: cs =>
    let l := s.launch k
    match s.oldestRequest c with
    | none => s.roundAnswers k cs
    | some (q, r) =>
      if l.dist.next < l.desc.wqx * l.desc.wqy then
        ((s.answerItem q r l.desc (some l.dist.next)).modLaunch k (fun l => { l with
          dist := { l.dist with next := l.dist.next + 1 } })).roundAnswers k cs
      else (s.answerItem q r l.desc none).roundAnswers k cs

/-- WQRY_ROUND (R193): once the items are exhausted every request is answered. -/
def State.queryRound (s : State) (k : Nat) : State :=
  let l := s.launch k
  if !l.desc.det || !s.onPart k then s
  else
    let s := if s.roundReady k then s.roundAnswers k (s.askers k) else s
    if (s.launch k).dist.next < l.desc.wqx * l.desc.wqy then s
    else
      (s.wreqs.filter (fun r => (s.gang (s.crew r.2.crew).gang).launch == k)).foldl (fun s e => s.answerItem e.1 e.2 l.desc none) s

end Sys2Proof.Machine
end

