-- ==== Sys2Proof/Machine/Partitions.lean ====
section
/-!
DEFINITION. Partitions and tenants: quotas (R210, R166), the ebb (R212, R213), retired units and guarantees (R9, R211, R214), soft
errors (R214, R132), telemetry (R215), security (R217), bring-up (R218), loaded objects (R60).
-/
namespace Sys2Proof.Machine

/-! ### Tenants -/

def tenantOf (t : TenantSpec) : Tenant :=
  { id := t.id, slice := t.slice, status := t.status, shadow := t.shadow, pages := addedPages [] t.pages, allow := t.allow, ebbs := 0,
    runnable := true }

def State.modTenant (s : State) (part tenant : Nat) (f : Tenant → Tenant) : State :=
  s.modPart part (fun p => { p with tenants := p.tenants.map (fun t => if t.id == tenant then f t else t) })

/-- Write the word at an offset from a tenant's status word; without a page for it, it is lost (log 14). -/
def State.writeStatus (s : State) (part tenant off v : Nat) : State :=
  match s.tenant? part tenant with
  | none => s
  | some t =>
    match taggedFar (BitVec.ofNat 64 t.status) 8 with
    | none => s
    | some a => (s.writeNat? part tenant (a.plus off) 4 v).getD s

/-- The status word (R213): state, and the tenant's ebbs. -/
def statusWord (state ebbs : Nat) : Nat := state + ebbs % 65536 * 65536

/-- A tenant's slice begins: its status word reads running (R212). -/
def State.beginSlice (s : State) (part tenant : Nat) : State :=
  let n := ((s.tenant? part tenant).map (·.ebbs)).getD 0
  (s.modPart part (fun p => { p with resident := some tenant })).writeStatus part tenant 0 (statusWord 0 n)

/-- Ranges that meet. -/
def rangesMeet (a b : Range) : Bool := a.len != 0 && b.len != 0 && a.base < b.base + b.len && b.base < a.base + a.len
def rangeEnd (a : Range) : Nat := if a.len == 0 then 0 else a.base + a.len

/-- A range of a die's shelf meets the shadow area of no tenant (R210, R212; log 61). -/
def State.clearOfShadow (s : State) (die : Nat) (r : Range) : Bool :=
  !s.parts.any (fun p => p.tenants.any (fun t => rangesMeet ((t.shadow[die]?).getD Range.nil) r))

/-- A shadow area lies in the shelf, outside every partition's quota and every other tenant's shadow area (log 61). -/
def State.shadowOk (s : State) (sh : List Range) : Bool :=
  (List.range 4).all (fun d =>
    let r := (sh[d]?).getD Range.nil
    rangeEnd r ≤ 464 && s.clearOfShadow d r &&
    !s.parts.any (fun p => p.configured && rangesMeet ((p.quota.shelf[d]?).getD Range.nil) r))

/-- TENANT_CREATION (R212, R213): up to 16 tenants; the status word reads never run. There is none before bring-up (R218). -/
def State.createTenant (s : State) (part : Nat) (t : TenantSpec) : State :=
  let p := s.part part
  if !s.up || 8 ≤ part || 16 ≤ t.id || 16 ≤ p.tenants.length || p.tenants.any (fun x => x.id == t.id) || !s.shadowOk t.shadow then s
  else (s.modPart part (fun p => { p with tenants := p.tenants ++ [tenantOf t] })).writeStatus part t.id 0 (statusWord 3 0)

/-- ALLOW_LIST_LOAD (R215). -/
def State.loadAllow (s : State) (part tenant : Nat) (bits : BitVec 1024) : State :=
  s.modTenant part tenant (fun t => { t with allow := bits })

/-! ### Waiting gangs when usable units change (R35) -/

/-- No usable cluster has a start core that is valid for a DET launch (R35). -/
def State.startless (s : State) (l : Launch) : Bool :=
  l.desc.det && !l.desc.mcast && (s.usableClusters l.part).all (fun c => (s.validStarts l.part c l.desc).isEmpty)

/-- Gangs wait of a launch that can start nowhere any more: it stops as by a fault under its POLICY, with a DESCRIPTOR record (R35). -/
def State.strand (s : State) (k : Nat) : State :=
  let l := s.launch k
  let ws := s.waitingOf k
  if l.phase != .running || ws.isEmpty || !s.startless l then s
  else
    let s := s.postLaunch k { s.recOfLaunch .descriptor k with stop := true, lstop := l.desc.policy, info := 20#64 }
    if l.desc.policy then s.stopLaunch k 1 else ws.foldl State.faultGang s

/-- A waiting gang whose place is gone is seated afresh (R35; log 16 outside DET launches), and keeps its rank among the gangs that
wait (DESIGN CHOICE, log 56). One of an MCAST launch, or of a launch placed as one unit, waits on, and so does one for which there is no
seat (DESIGN CHOICE, log 56). -/
def State.reseat (s : State) (g : Nat) : State :=
  let x := s.gang g
  let l := s.launch x.launch
  let d := l.desc
  let lost := match x.cluster with
    | some c => if d.det then !(s.validStarts l.part c d).contains (x.start % 16) else !(s.usableClusters l.part).contains c
    | none => false
  if x.phase != .waiting || d.mcast || d.unit || !lost then s
  else
    let seat := s.seatOf l.part d x.lin x.attempt
    match seat.1 with
    | some _ => s.modGang g (fun x => { x with cluster := seat.1, start := seat.2 })
    | none => s

/-- The usable units have changed: launches that can start nowhere stop, waiting gangs are seated afresh (R35). -/
def State.reseatAll (s : State) : State :=
  let s := (s.launches.map (·.1)).foldl State.strand s
  (s.gangs.map (·.1)).foldl State.reseat s

/-! ### The ebb -/

/-- SLICE_EXPIRY (R212): issue stops. -/
def State.sliceExpiry (s : State) (part : Nat) : State :=
  let p := s.part part
  if p.resident.isSome && p.ebb.isNone then s.modPart part (fun p => { p with ebb := some { stop := false } }) else s

/-- STOP_REQUEST (R212): one that arrives during an ebb takes effect when the ebb ends. A tenant that is not resident has no slice to
end: it is not taken again (DESIGN CHOICE, log 74). -/
def State.stopRequest (s : State) (part tenant : Nat) : State :=
  let p := s.part part
  if p.ebb.isSome then s.modPart part (fun p => { p with stopNext := p.stopNext ++ [tenant] })
  else if p.resident == some tenant then s.modPart part (fun p => { p with ebb := some { stop := true } })
  else s.modTenant part tenant (fun t => { t with runnable := false })

/-- Work that stays as a replay entry (R170, R180, R194). -/
def Flight.replays (f : Flight) : Bool :=
  match f.payload with
  | .rayq _ _ _ _ => true
  | .hnear _ _ _ _ => true
  | .hdist _ _ => true
  | .answer _ _ _ _ => true
  | _ => false

/-- A TRAP record of a tenant is posted and not yet written: its queue's page is missing (R206). -/
def State.trapWaits (s : State) (part tenant : Nat) : Bool :=
  s.waitingRecs.any (fun w => w.rec'.cls == .trap && w.rec'.part == part && w.rec'.tenant == tenant)

/-- Everything in flight of a tenant has come to rest (Table 12.5), an HLD or HST that has begun too (R269), and its TRAP records are
written (R324). Copies, queries and views stay as replay entries, but for a stopped gang's: none of those is replayed, so they run on
to their end first (R207). -/
def State.atRest (s : State) (part tenant : Nat) : Bool :=
  let lch (k : Nat) : Bool := let l := s.launch k; l.part == part && l.tenant == tenant
  let of (crew : Nat) : Bool := lch (s.gang (s.crew crew).gang).launch
  let stopped (crew : Nat) : Bool := of crew && (s.gang (s.crew crew).gang).phase == .stopped
  !s.flights.any (fun e => of (s.wave e.2.wave).crew && !e.2.replays) && !s.flights.any (fun e => stopped (s.wave e.2.wave).crew) &&
  !s.copies.any (fun e => stopped e.2.crew) && !s.accesses.any (fun e => of e.2.crew) &&
  !s.smvs.any (fun e => of e.2.crew) && !s.cmds.any (fun e => lch (s.gang e.2.gang).launch) && !s.lreqs.any (fun e => of e.2.crew) &&
  !s.wreqs.any (fun e => of e.2.crew && !(s.launch (s.gang (s.crew e.2.crew).gang).launch).desc.det) &&
  !s.trapWaits part tenant && !s.launches.any (fun e => lch e.1 && e.2.detBars.any (·.slack)) && !s.waves.any (fun e => of e.2.crew && s.moving e.2) &&
  (match s.cur with
   | some c => !of (s.wave c.wave).crew
   | none => true)

/-- The outgoing tenant's last effects, in the order of R213: the dirty-page count, then the status word. -/
def State.lastEffects (s : State) (part tenant : Nat) (stop : Bool) : State :=
  let s := s.modTenant part tenant (fun t => { t with ebbs := t.ebbs + 1, runnable := t.runnable && !stop })
  match s.tenant? part tenant with
  | none => s
  | some t =>
    (s.writeStatus part tenant 4 (t.pages.filter (·.dirty)).length).writeStatus part tenant 0
      (statusWord (if stop then 2 else 1) t.ebbs)

/-- The runnable tenant after one, round-robin in entry order. -/
def nextTenant (ts : List Tenant) (out : Option Nat) : Option Nat :=
  let k := match out with
    | some t => (ts.findIdx (fun x => x.id == t)) + 1
    | none => 0
  ((ts.drop k ++ ts.take k).find? (·.runnable)).map (·.id)

/-- Usable clusters of a partition fall short of its guarantee (R211). -/
def State.short (s : State) (part : Nat) : Bool := (s.usableClusters part).length < (s.part part).quota.minCl

/-- Partitions in descending priority, the lower number first among equals. -/
def State.byPriority (s : State) : List Nat :=
  ((List.range 8).reverse).flatMap (fun r => (List.range 8).filter (fun p => (s.part p).configured && (s.part p).quota.prio == r))

/-- A cluster on which a partition owns quotas and another owns none: the other takes no more where it has some (R211; DESIGN CHOICE,
log 103). -/
def State.canGive (s : State) (giver taker : Nat) : Option Nat :=
  (s.usableClusters giver).find? (fun c => !clusterHeld (s.quotaAt taker c))

/-- Move the quotas of one cluster to another partition. Crews of the giver that are saved there are not restored while the taker has
it (`State.seated`; DESIGN CHOICE, log 62), and its saved keyed contexts stay in its shadow area (`State.leaveShadow`; log 84). -/
def State.moveCluster (s : State) (giver taker c : Nat) : State :=
  let q := s.quotaAt giver c
  let none' : ClusterQuota :=
    { front := List.replicate 6 CoreQuota.nil, back := CoreQuota.nil, views := List.replicate 6 Range.nil, reserved := [],
      keyed := Range.nil, accRows := Range.nil, queue := Range.nil }
  let set (x : ClusterQuota) (p : Partition) : Partition := { p with quota := { p.quota with clusters := p.quota.clusters.set c x } }
  (s.modPart taker (set q)).modPart giver (set none')

/-- A taker takes clusters of a giver until its minimum is met. -/
def State.takeClusters (s : State) (giver taker : Nat) : Nat → State
  | 0 => s
  | n + 1 =>
    if !s.short taker then s
    else
      match s.canGive giver taker with
      | some c => (s.moveCluster giver taker c).takeClusters giver taker n
      | none => s

/-- Honoured partitions that fall short of MINCL, the highest priority first. -/
def State.takers (s : State) : List Nat := s.byPriority.filter (fun p => (s.part p).honoured && s.short p)

/-- Degraded partitions that have a cluster to give to one that falls short, the lowest priority first. -/
def State.givers (s : State) : List Nat :=
  (s.byPriority.reverse).filter (fun p => !(s.part p).honoured && s.takers.any (fun t => (s.canGive p t).isSome))

/-- At the ebb of the lowest-priority degraded partition that has clusters to give, honoured partitions that fall short of MINCL
take them (R211). No other ebb gives any, so what such a partition does not give waits for it (DESIGN CHOICE, log 104). -/
def State.giveQuotas (s : State) (part : Nat) : State :=
  if s.givers.head? != some part then s else s.takers.foldl (fun s p => s.takeClusters part p 16) s

/-- An answer is written, and its flag falls (R194). -/
def State.landAnswer (s : State) (k : Nat) (f : Flight) : State :=
  match f.payload with
  | .answer crew off x y => (s.putLmem crew off 8 (x.toNat + 2 ^ 32 * y.toNat)).endFlight k f
  | .rest crew off y => (s.putLmem crew (off + 4) 4 y.toNat).endFlight k f
  | _ => s

/-- Answers that stayed as replay entries are written, and their flags fall, before any fibre of the tenant issues (R194, R229): those of
crews that are not restored yet (log 62) too. -/
def State.replayAnswers (s : State) (part tenant : Nat) : State :=
  (s.flights.filter (fun e => s.spaceOfCrew (s.wave e.2.wave).crew == (part, tenant))).foldl (fun s e => s.landAnswer e.1 e.2) s

/-- The next tenant is restored; stop requests that waited take effect. -/
def State.nextSlice (s : State) (part : Nat) (out : Option Nat) : State :=
  let s := match nextTenant (s.part part).tenants out with
    | some t => ((s.beginSlice part t).restoreStores part).replayAnswers part t
    | none => s
  (s.part part).stopNext.foldl (fun s u => s.stopRequest part u) (s.modPart part (fun p => { p with stopNext := [] }))

/-- CONTEXT_SAVE (R212, R213): once everything is at rest. The context is kept where it stands (log 15). With no tenant resident
the next one is restored. -/
def State.contextSave (s : State) (part : Nat) : State :=
  let p := s.part part
  match p.ebb, p.resident with
  | some e, some t =>
    if !s.atRest part t then s
    else
      let s := s.lastEffects part t e.stop
      let s := s.modPart part (fun p => { p with ebb := none, resident := none })
      ((s.giveQuotas part).reseatAll).nextSlice part (some t)
  | none, none => if p.configured then s.nextSlice part none else s
  | _, _ => s

/-! ### Quotas (R210, R166) -/

/-- Ranges on a core that meet. -/
def coresMeet (a b : CoreQuota) : Bool :=
  rangesMeet a.crewSlots b.crewSlots || rangesMeet a.rows b.rows || rangesMeet a.lmem b.lmem

/-- Where ordinary ranges end on a core: crew slots, rows by 8, local memory by 128. -/
structure CoreLimit where
  slots : Nat
  rows : Nat
  lmem : Nat
deriving DecidableEq, Repr

/-- What a core has (Table 12.4). -/
def CoreLimit.full : CoreLimit := { slots := 16, rows := 384, lmem := 6144 }

/-- Ordinary ranges on the two cores of a level end before the last slot and the room of the largest material crew configured for
it; a level that no partition configures reserves nothing (R166). -/
def levelLimit (qs : List QuotaSpec) (i : Nat) : CoreLimit :=
  match (qs.map (fun q => (q.matCrew[i]?).getD Shape.nil)).filter (fun x => x != Shape.nil) with
  | [] => CoreLimit.full
  | xs =>
    { slots := 15, rows := 384 - xs.foldl (fun m x => max m (((shapeCost x).rows + 7) / 8)) 0,
      lmem := 6144 - xs.foldl (fun m x => max m ((x.lmem + 127) / 128)) 0 }

/-- Ranges end within a limit. -/
def coreEnds (q : CoreQuota) (l : CoreLimit) : Bool :=
  rangeEnd q.crewSlots ≤ l.slots && rangeEnd q.rows ≤ l.rows && rangeEnd q.lmem ≤ l.lmem

/-- A range of cores 0 to 11 is that of cores 12 to 15, or ends where what is reserved begins (log 20). -/
def sameButReserved (f b : Range) (limit : Nat) : Bool :=
  f.len == 0 && (b.len == 0 || limit ≤ b.base) || f.base == b.base && (f.len == b.len || (f.len < b.len && f.base + f.len == limit))

/-- The quotas of a cluster on the cores of a level. -/
def levelOf (q : ClusterQuota) (i : Nat) : CoreQuota := (q.front[i]?).getD CoreQuota.nil
def viewsOf (q : ClusterQuota) (i : Nat) : Range := (q.views[i]?).getD Range.nil

/-- A range ends within its total and meets none of others. -/
def rangeOk (r : Range) (total : Nat) (others : List Range) : Bool := rangeEnd r ≤ total && !others.any (rangesMeet r)

/-- Quotas on the cores of a level: no partition's reach into what is reserved there, and those written meet no other's (R166,
R210). -/
def levelOk (q : ClusterQuota) (others : List ClusterQuota) (i : Nat) (lim : CoreLimit) : Bool :=
  let f := levelOf q i
  (q :: others).all (fun o => coreEnds (levelOf o i) lim) && !others.any (fun o => coresMeet (levelOf o i) f) &&
  sameButReserved f.crewSlots q.back.crewSlots lim.slots && sameButReserved f.rows q.back.rows lim.rows &&
  sameButReserved f.lmem q.back.lmem lim.lmem

/-- One cluster's quotas keep the rules of R166 and Table 12.4, beside those of the other partitions there. -/
def clusterOk (q : ClusterQuota) (others : List ClusterQuota) (lim : Nat → CoreLimit) : Bool :=
  (List.range 6).all (fun i => levelOk q others i (lim i)) &&
  coreEnds q.back CoreLimit.full && !others.any (fun o => coresMeet o.back q.back) &&
  rangeOk q.keyed 8192 (others.map (·.keyed)) && rangeOk q.accRows 8192 (others.map (·.accRows)) &&
  rangeOk q.queue 64 (others.map (·.queue)) &&
  (List.range 6).all (fun i => rangeOk (viewsOf q i) 64 (others.map (fun o => viewsOf o i)) &&
    ((viewsOf q i).len == 0 || q.reserved.any (fun r => r.1 == i + 1))) &&
  q.reserved.all (fun r => 1 ≤ r.1 && r.1 ≤ 6 && r.2 < 2 && !others.any (fun o => o.reserved.contains r))

/-- Quotas that the management interface takes. -/
def State.quotaOk (s : State) (part : Nat) (q : QuotaSpec) : Bool :=
  let others := ((List.range 8).filter (fun p => p != part && (s.part p).configured)).map (fun p => (s.part p).quota)
  q.clusters.length == 16 && q.prio < 8 &&
  (List.range 16).all (fun c => match q.clusters[c]? with
    | some x => clusterOk x (others.filterMap (fun o => o.clusters[c]?)) (levelLimit (q :: others))
    | none => false) &&
  (List.range 4).all (fun d =>
    let r := (q.shelf[d]?).getD Range.nil
    rangeOk r 464 (others.map (fun o => (o.shelf[d]?).getD Range.nil)) && s.clearOfShadow d r)

/-- QUOTA_WRITE (R210): before bring-up, which gives the first partition every quota (R218), there is nothing to divide. -/
def State.quotaWrite (s : State) (part : Nat) (q : QuotaSpec) : State :=
  let p := s.part part
  if s.up && part < 8 && p.resident.isNone && p.ebb.isNone && s.quotaOk part q then
    s.modPart part (fun p => { p with configured := true, quota := q, honoured := true })
  else { s with mgmt := s.mgmt ++ [.quotaRefused part] }

/-! ### Retired units -/

/-- INFO of a RETIRED record (Table 12.6). -/
def unitInfo (u : UnitId) : Dword :=
  match u with
  | .pair n => BitVec.ofNat 64 (1 + n % 256 * 256)
  | .cluster n => BitVec.ofNat 64 (2 + n % 256 * 256)
  | .channel st ch => BitVec.ofNat 64 (3 + st % 256 * 256 + ch % 256 * 65536)
  | .port n => BitVec.ofNat 64 (4 + n % 256 * 256)

def unitExists (u : UnitId) : Bool :=
  match u with
  | .pair n => n < 128
  | .cluster n => n < 16
  | .channel st ch => st < 8 && ch < 32
  | .port n => n < 12

/-- A partition that holds quotas on a unit, or uses it (R214). -/
def State.heldUnit (s : State) (part : Nat) (u : UnitId) : Bool :=
  (s.part part).configured &&
  (match u with
   | .pair n => s.ownsPair part n
   | .cluster n => clusterHeld (s.quotaAt part n)
   | .channel _ _ => true
   | .port n => s.portPart.contains (n, part))

/-- Usable HBM in GiB: 512, less 2 for each retired channel. -/
def State.hbmLeft (s : State) : Nat :=
  512 - 2 * (s.retiredUnits.filter (fun u => match u with
    | .channel _ _ => true
    | _ => false)).length

/-- Clusters of the part with a core left. -/
def State.clustersLeft (s : State) : Nat :=
  ((List.range 16).filter (fun c => !s.unitRetired (.cluster c) && (List.range 8).any (fun i => !s.unitRetired (.pair (8 * c + i))))).length

/-- Mark partitions honoured while their minima fit, and every later one degraded (R211). -/
def State.markFrom (s : State) : List Nat → Nat → Nat → State
  | [], _, _ => s
  | p :: ps, cl, hbm =>
    let q := (s.part p).quota
    if cl + q.minCl ≤ s.clustersLeft && hbm + q.minHbm ≤ s.hbmLeft then
      (s.modPart p (fun x => { x with honoured := true })).markFrom ps (cl + q.minCl) (hbm + q.minHbm)
    else (p :: ps).foldl (fun s p => s.modPart p (fun x => { x with honoured := false })) s

/-- UNIT_RETIREMENT (R9, R211, R214). The bytes in a retired HBM4E channel stay readable and writable (DESIGN CHOICE, log 43). -/
def State.retireUnit (s : State) (u : UnitId) : State :=
  if s.unitRetired u || !unitExists u then s
  else
    let s : State := { s with retiredUnits := s.retiredUnits ++ [u], mgmt := s.mgmt ++ [.retired u] }
    let s := ((List.range 8).filter (fun p => s.heldUnit p u)).foldl (fun s p =>
      s.postHost { s.recOfPart .retired p with info := unitInfo u }) s
    let s := match u with
      | .port n => s.portDown n
      | _ => s
    (s.markFrom s.byPriority 0 0).reseatAll

/-! ### Soft errors -/

/-- A record of a gang as a whole: CORE is the core it starts at, and what belongs to one crew is zero (R205; DESIGN CHOICE, log 102). -/
def State.recOfGang (s : State) (cls : FaultClass) (g : Nat) : FaultRec :=
  let x := s.gang g
  { s.recOfLaunch cls x.launch with core := x.start, gangId := gangIdOf x }

/-- A gang goes back to the start (R132, R36): nothing of the attempt is left, and it waits behind all waiting gangs, for good
where it finds no seat (DESIGN CHOICE, log 56). -/
def State.rerunGang (s : State) (g : Nat) : State :=
  let x := s.gang g
  let l := s.launch x.launch
  let crews := s.crewsOf g
  let of (k : Nat) : Bool := crews.contains k
  let seat := s.seatOf l.part l.desc x.lin (x.attempt + 1)
  let y : Gang :=
    { x with attempt := x.attempt + 1, phase := .waiting, replayable := true, pairs := [], cluster := seat.1, start := seat.2 }
  let s : State := { s with
    flights := s.flights.filter (fun e => !of (s.wave e.2.wave).crew), accesses := s.accesses.filter (fun e => !of e.2.crew),
    copies := s.copies.filter (fun e => !of e.2.crew), smvs := s.smvs.filter (fun e => !of e.2.crew),
    wreqs := s.wreqs.filter (fun e => !of e.2.crew), views := s.views.filter (fun e => !of e.2.crew),
    lreqs := s.lreqs.filter (fun e => !of e.2.crew), cmds := s.cmds.filter (fun e => e.2.gang != g),
    deferred := s.deferred.filter (fun d => d.gang != g),
    cur := match s.cur with
      | some c => if of (s.wave c.wave).crew then none else s.cur
      | none => none }
  { s with
    waves := s.waves.filter (fun e => !of e.2.crew), crews := s.crews.filter (fun e => !of e.1),
    gangs := drop g s.gangs ++ [(g, y)],
    launches := s.launches.map (fun e => (e.1, { e.2 with
      detBars := e.2.detBars.map (fun b => { b with arrived := b.arrived.filter (fun k => !of k) }) })) }

/-- A gang owns or reads state: it runs, or it has finished and keeps buffers, or work of it is still in flight (R29, R214). -/
def State.owns (s : State) (g : Nat) : Bool :=
  let x := s.gang g
  x.phase == .running || x.phase == .finished && (s.gangBuffers g || s.gangBusy g)

/-- UNCORRECTABLE_ERROR (R214, R132): HWERROR, with RERUN set and STOP clear when the gang is replayable and a retry remains. -/
def State.softError (s : State) (g code : Nat) : State :=
  let x := s.gang g
  let d := (s.launch x.launch).desc
  if !s.owns g || code == 0 || 6 < code then s
  else
    let r := { s.recOfGang .hwerror g with info := BitVec.ofNat 64 code }
    if x.replayable && x.node.isNone && x.attempt < d.retry then (s.postLaunch x.launch { r with rerun := true }).rerunGang g
    else (s.postLaunch x.launch { r with stop := true, lstop := d.policy }).faultGang g

/-- CORRECTABLE_ERROR (R214): counted in telemetry. -/
def State.correctable (s : State) (part counter : Nat) : State :=
  { (s.modPart part (fun p => { p with counters := p.counters.modify counter (· + 1) })) with
    mgmt := s.mgmt ++ [.correctable part counter] }

/-! ### Telemetry and soundings (R215, R216) -/

/-- A counter is read (R215): outside the tenant's list it returns 0 and sets DENIED. -/
def State.readTelemetry (s : State) (part tenant counter : Nat) : State :=
  let ok := counter < 1024 && (match s.tenant? part tenant with
    | some t => t.allow.getLsbD counter
    | none => false)
  if ok then { s with mgmt := s.mgmt ++ [.telemetry part tenant counter (((s.part part).counters[counter]?).getD 0)] }
  else
    { (s.modPart part (fun p => { p with tstat := p.tstat ||| 1#32 })) with
      mgmt := s.mgmt ++ [.telemetry part tenant counter 0] }

/-- A sounding as it is set up: one latency or level, and sixteen empty bins (R216). -/
def Sounding.fresh (what base shift : Nat) : Sounding :=
  { what := what, base := base, shift := shift, range := none, bins := List.replicate 16 0 }

/-- The bin of a value: values below bin 0 fall into it, and values above bin 15 into that one. -/
def Sounding.bin (x : Sounding) (v : Nat) : Nat := min ((v - x.base) / 2 ^ x.shift) 15

/-- A sounding records a value. -/
def Sounding.record (x : Sounding) (v : Nat) : Sounding :=
  { x with
    range := some (match x.range with
      | some (lo, hi) => (min lo v, max hi v)
      | none => (v, v)),
    bins := x.bins.modify (x.bin v) (· + 1) }

/-- A sounding is read: it has recorded what it measured since it was read last (free values, log 2). -/
def State.readSounding (s : State) (part n : Nat) : State :=
  match ((s.part part).soundings)[n]? with
  | none => s
  | some x =>
    let (k, s) := s.freeNext
    let y := (Config.freeSounding k).foldl Sounding.record x
    { (s.modPart part (fun p => { p with soundings := p.soundings.set n y })) with mgmt := s.mgmt ++ [.sounding part n y] }

/-- TELEMETRY_READ: a counter, or a sounding that is set up or read. -/
def State.telemetry (s : State) (part tenant : Nat) (ask : TelemetryAsk) : State :=
  match ask with
  | .counter n => s.readTelemetry part tenant n
  | .sound what base shift => s.modPart part (fun p => { p with soundings := p.soundings ++ [Sounding.fresh what base shift] })
  | .sounding n => s.readSounding part n

/-- TELEMETRY_STATUS_CLEAR: bits written 1 clear. -/
def State.clearTelemetry (s : State) (part : Nat) (ones : Word) : State :=
  s.modPart part (fun p => { p with tstat := p.tstat &&& ~~~ones })

/-! ### Security, bring-up, objects -/

/-- SECURITY_ALARM (R217): the part stops; the fuses decide whether the keys are erased. -/
def State.alarm (s : State) : State :=
  { s with halted := true, keysErased := s.keysErased || Config.fuseErases 0, mgmt := s.mgmt ++ [.alarm] }

/-- ATTESTATION_REPORT (R217): a report is signed with the one-time key of a leaf, and the state of the keys advances past it. A leaf
already passed raises the alarm; with no key left the part refuses. -/
def State.attest (s : State) (leaf : Nat) (digest : BitVec 256) : State :=
  if leaf < s.leaf then s.alarm
  else if s.halted || s.keysErased || Config.leafCount 0 ≤ leaf then s
  else
    { s with
      leaf := leaf + 1, attested := s.attested ++ [(leaf, digest)],
      mgmt := s.mgmt ++ [.attestation leaf digest (Config.lmsSign leaf digest)] }

/-- All of a core (Table 12.4). -/
def coreWhole : CoreQuota :=
  { crewSlots := { base := 0, len := 16 }, rows := { base := 0, len := 384 }, lmem := { base := 0, len := 6144 } }

/-- The shelf of a die beside a shadow area: the longer of the two sides (log 61). -/
def shelfBeside (r : Range) : Range :=
  if r.len == 0 then { base := 0, len := 464 }
  else if 464 - (r.base + r.len) ≤ r.base then { base := 0, len := r.base }
  else { base := r.base + r.len, len := 464 - (r.base + r.len) }

/-- Every quota (Table 12.4); no material crew is configured yet, so nothing is reserved (R166). -/
def quotaWhole (hostQ : Nat) (shadow : List Range) : QuotaSpec :=
  { QuotaSpec.nil with
    clusters := List.replicate 16
      { front := List.replicate 6 coreWhole, back := coreWhole, views := List.replicate 6 { base := 0, len := 64 },
        reserved := (List.range 6).flatMap (fun i => [(i + 1, 0), (i + 1, 1)]), keyed := { base := 0, len := 8192 },
        accRows := { base := 0, len := 8192 }, queue := { base := 0, len := 64 } },
    shelf := (List.range 4).map (fun d => shelfBeside ((shadow[d]?).getD Range.nil)), hostQ := hostQ }

/-- BRING_UP (R218): firmware that does not verify raises the alarm (R217); otherwise failed units are retired, one partition with
one tenant owns every quota, and the part reports ready. A shadow area that does not fit in the shelf is not reserved (R7). The peer
ports are bound to partitions here, and not again (R203; DESIGN CHOICE, log 99). -/
def State.bringUp (s : State) (b : BringUpSpec) : State :=
  if s.up || s.halted then s
  else if !Config.lmsVerifies b.firmware.image b.firmware.signature then s.alarm
  else if !s.shadowOk b.tenant.shadow then s
  else
    let s := b.failed.foldl State.retireUnit { s with portPart := b.ports }
    let s : State := { s with mgmt := s.mgmt ++ [.ready], up := true }
    (s.modPart 0 (fun p => { p with
      configured := true, quota := quotaWhole b.hostQ b.tenant.shadow, tenants := [tenantOf b.tenant] })).beginSlice 0
      b.tenant.id

/-- Instruction words of an object, by word address. -/
def putCode (base : Nat) : List Word → List (Nat × Word) → List (Nat × Word)
  | [], c => c
  | w :: ws, c => putCode (base + 1) ws (c.filter (fun e => e.1 != base) ++ [(base, w)])

/-- OBJECT_LOAD (R60). The words lie in a table of the partition, apart from the memory that loads, stores and copies reach (DESIGN
CHOICE, log 106). -/
def State.loadObject (s : State) (part : Nat) (o : ObjectSpec) : State :=
  s.modPart part (fun p => { p with code := putCode o.base o.words p.code, objects := p.objects ++ [o.ranges] })

end Sys2Proof.Machine
end

