-- ==== Sys2Proof/Machine/Events.lean ====
section
/-!
DEFINITION. The meaning of every event of the part, of software and of a peer: one definition per constructor. An event that
cannot happen in a state leaves it as it is (log 1).
-/
namespace Sys2Proof.Machine

/-- ISSUE_OPPORTUNITY (R18): the core's next issue opportunity. -/
def execIssueOpportunity (core : Nat) (s : State) : Host.Outcome State Fault Refusal := .next (s.issueOpportunity core)

/-- CLAUSE_CONTINUE (R58): the wave's held clause is tried again. -/
def execClauseContinue (wave : Nat) (s : State) : Host.Outcome State Fault Refusal := .next (s.clauseContinue wave)

/-- LANDING (R53): the operation of that name lands. -/
def execLanding (flight : Nat) (s : State) : Host.Outcome State Fault Refusal := .next (s.landFlight flight)

/-- COPY_PACKET (R102): elements first to first + n - 1 of the copy land, at most 64 bytes. -/
def execCopyPacket (copy first n : Nat) (s : State) : Host.Outcome State Fault Refusal := .next (s.copyPacket copy first n)

/-- COPY_HOLD_RELEASE (R97): the engine looks again at a copy it holds. -/
def execCopyHoldRelease (copy : Nat) (s : State) : Host.Outcome State Fault Refusal := .next (s.copyRelease copy)

/-- FAULT_SERVICED (R108): system software maps the pages and services the fault. -/
def execFaultServiced (fault : Nat) (pages : List PageSpec) (s : State) : Host.Outcome State Fault Refusal := .next (s.faultServiced fault pages)

/-- FAULT_DECLARED_FATAL (R108). -/
def execFaultDeclaredFatal (fault : Nat) (s : State) : Host.Outcome State Fault Refusal := .next (s.faultFatal fault)

/-- COPYS_SIGNAL (R104). -/
def execCopysSignal (copy : Nat) (s : State) : Host.Outcome State Fault Refusal := .next (s.copysSignal copy)

/-- ARM (R195, R196): a command message of KIND 1 for a slot arrives, or is processed. -/
def execArm (part slot : Nat) (m : MsgStep) (s : State) : Host.Outcome State Fault Refusal :=
  .next (s.command part (fun f => msgKind f == 1 && msgSlot f == slot) m)

/-- FIRE (R195, R196): a command message of KIND 2 for a slot arrives, or is processed. -/
def execFire (part slot : Nat) (m : MsgStep) (s : State) : Host.Outcome State Fault Refusal :=
  .next (s.command part (fun f => msgKind f == 2 && msgSlot f == slot) m)

/-- LAUNCH_ACCEPTANCE (R200). -/
def execLaunchAcceptance (src : AcceptSrc) (s : State) : Host.Outcome State Fault Refusal := .next (s.launchAcceptance src)

/-- GANG_PLACEMENT (R34): the cluster placer looks at the head of the partition's queue. -/
def execGangPlacement (part cluster : Nat) (s : State) : Host.Outcome State Fault Refusal := .next (s.gangPlacement part cluster)

/-- NODE_CREW_PLACEMENT (R182). -/
def execNodeCrewPlacement (node cluster core : Nat) (s : State) : Host.Outcome State Fault Refusal := .next (s.nodeCrewPlacement node cluster core)

/-- GANG_RETIREMENT (R29). -/
def execGangRetirement (gang : Nat) (s : State) : Host.Outcome State Fault Refusal := .next (s.gangRetirement gang)

/-- LAUNCH_RETIREMENT (R200). -/
def execLaunchRetirement (launch : Nat) (s : State) : Host.Outcome State Fault Refusal := .next (s.launchRetirement launch)

/-- FINAL_MERGE (R131). -/
def execFinalMerge (launch : Nat) (s : State) : Host.Outcome State Fault Refusal := .next (s.finalMerge launch)

/-- DET_MERGE (R128): barrier is the physical address of the object in slack water. -/
def execDetMerge (launch barrier : Nat) (s : State) : Host.Outcome State Fault Refusal := .next (s.detMerge launch barrier)

/-- MATRIX_COMMAND_RETIRE (R134): the partition's oldest command on the pair finishes. -/
def execMatrixCommandRetire (pair part : Nat) (s : State) : Host.Outcome State Fault Refusal := .next (s.retireCommand pair part)

/-- SMV_PACKET (R146): elements first to first + n - 1 of y land, at most 16. -/
def execSmvPacket (smv first n : Nat) (s : State) : Host.Outcome State Fault Refusal := .next (s.smvLand smv first n)

/-- ATOMIC_PERFORM (R237): the access performs at its home. -/
def execAtomicPerform (access : Nat) (s : State) : Host.Outcome State Fault Refusal := .next (s.performAccess access)

/-- FENCE_COMPLETE (R119). -/
def execFenceComplete (wave slot : Nat) (s : State) : Host.Outcome State Fault Refusal := .next (s.fenceComplete wave slot)

/-- VIEW_TRAVERSAL (R159): the view's traversal and splat passes finish. -/
def execViewTraversal (view : Nat) (s : State) : Host.Outcome State Fault Refusal := .next (s.traverseView view)

/-- VIEW_LANDING (R151). -/
def execViewLanding (view : Nat) (s : State) : Host.Outcome State Fault Refusal := .next (s.landView view)

/-- RECORD_DELIVERY (R184). -/
def execRecordDelivery (node cluster crew : Nat) (s : State) : Host.Outcome State Fault Refusal := .next (s.recordDelivery node cluster crew)

/-- RETIRE_DELIVERY (R187). -/
def execRetireDelivery (node cluster crew : Nat) (s : State) : Host.Outcome State Fault Refusal := .next (s.retireDelivery node cluster crew)

/-- CONTEXT_FETCH (R188). -/
def execContextFetch (node : Nat) (key : BitVec 64) (s : State) : Host.Outcome State Fault Refusal := .next (s.contextFetch node key)

/-- WORK_ITEM_ASSIGN (R192). -/
def execWorkItemAssign (request : Nat) (s : State) : Host.Outcome State Fault Refusal := .next (s.assignItem request)

/-- WQRY_ROUND (R193). -/
def execWqryRound (launch : Nat) (s : State) : Host.Outcome State Fault Refusal := .next (s.queryRound launch)

/-- SLICE_EXPIRY (R212). -/
def execSliceExpiry (part : Nat) (s : State) : Host.Outcome State Fault Refusal := .next (s.sliceExpiry part)

/-- STOP_REQUEST (R212). -/
def execStopRequest (part tenant : Nat) (s : State) : Host.Outcome State Fault Refusal := .next (s.stopRequest part tenant)

/-- CONTEXT_SAVE (R212). -/
def execContextSave (part : Nat) (s : State) : Host.Outcome State Fault Refusal := .next (s.contextSave part)

/-- QUOTA_WRITE (R210). -/
def execQuotaWrite (part : Nat) (q : QuotaSpec) (s : State) : Host.Outcome State Fault Refusal := .next (s.quotaWrite part q)

/-- UNIT_RETIREMENT (R9). -/
def execUnitRetirement (u : UnitId) (s : State) : Host.Outcome State Fault Refusal := .next (s.retireUnit u)

/-- UNCORRECTABLE_ERROR (R214). -/
def execUncorrectableError (gang code : Nat) (s : State) : Host.Outcome State Fault Refusal := .next (s.softError gang code)

/-- CORRECTABLE_ERROR (R214). -/
def execCorrectableError (part counter : Nat) (s : State) : Host.Outcome State Fault Refusal := .next (s.correctable part counter)

/-- TELEMETRY_READ (R215, R216). -/
def execTelemetryRead (part tenant : Nat) (ask : TelemetryAsk) (s : State) : Host.Outcome State Fault Refusal := .next (s.telemetry part tenant ask)

/-- TELEMETRY_STATUS_CLEAR (R215): the word written to the W1C status word. -/
def execTelemetryStatusClear (part : Nat) (ones : Word) (s : State) : Host.Outcome State Fault Refusal := .next (s.clearTelemetry part ones)

/-- SECURITY_ALARM (R217). -/
def execSecurityAlarm (s : State) : Host.Outcome State Fault Refusal := .next (s.alarm)

/-- BRING_UP (R218). -/
def execBringUp (b : BringUpSpec) (s : State) : Host.Outcome State Fault Refusal := .next (s.bringUp b)

/-- LAUNCH_STOP (R145): system software stops a launch. -/
def execLaunchStop (launch : Nat) (s : State) : Host.Outcome State Fault Refusal := .next (s.launchStop launch)

/-- PEER_PORT_DOWN (R104). -/
def execPeerPortDown (port : Nat) (s : State) : Host.Outcome State Fault Refusal := .next (s.portDown port)

/-- PEER_COPYS_TRAFFIC (R203): data or a signal arrives at a peer port. -/
def execPeerCopysTraffic (m : PeerMsg) (s : State) : Host.Outcome State Fault Refusal := .next (s.peerTraffic m)

/-- RESERVED_KIND_MESSAGE (R195, R196): a command message of another KIND arrives, or is processed. -/
def execReservedKindMessage (part kind : Nat) (m : MsgStep) (s : State) : Host.Outcome State Fault Refusal :=
  .next (s.command part (fun f => msgKind f == kind && kind != 1 && kind != 2) m)

/-- TENANT_CREATION (R213). -/
def execTenantCreation (part : Nat) (t : TenantSpec) (s : State) : Host.Outcome State Fault Refusal := .next (s.createTenant part t)

/-- ALLOW_LIST_LOAD (R215). -/
def execAllowListLoad (part tenant : Nat) (bits : BitVec 1024) (s : State) : Host.Outcome State Fault Refusal := .next (s.loadAllow part tenant bits)

/-- OBJECT_LOAD (R60). -/
def execObjectLoad (part : Nat) (o : ObjectSpec) (s : State) : Host.Outcome State Fault Refusal := .next (s.loadObject part o)

/-- ATTESTATION_REPORT (R217). -/
def execAttestationReport (ask : AttestSpec) (s : State) : Host.Outcome State Fault Refusal := .next (s.attest ask.leaf ask.digest)

end Sys2Proof.Machine
end

