-- ==== Sys2Proof/Machine/Dispatch.lean ====
section
/-!
DEFINITION. One arm per constructor of `Instr`.
-/
namespace Sys2Proof.Machine

def exec (i : Instr) (s : State) : Host.Outcome State Fault Refusal :=
  match i with
  | .issueOpportunity core => Sys2Proof.Machine.execIssueOpportunity core s
  | .clauseContinue wave => Sys2Proof.Machine.execClauseContinue wave s
  | .landing flight => Sys2Proof.Machine.execLanding flight s
  | .copyPacket copy first n => Sys2Proof.Machine.execCopyPacket copy first n s
  | .copyHoldRelease copy => Sys2Proof.Machine.execCopyHoldRelease copy s
  | .faultServiced fault pages => Sys2Proof.Machine.execFaultServiced fault pages s
  | .faultDeclaredFatal fault => Sys2Proof.Machine.execFaultDeclaredFatal fault s
  | .copysSignal copy => Sys2Proof.Machine.execCopysSignal copy s
  | .arm part slot m => Sys2Proof.Machine.execArm part slot m s
  | .fire part slot m => Sys2Proof.Machine.execFire part slot m s
  | .launchAcceptance src => Sys2Proof.Machine.execLaunchAcceptance src s
  | .gangPlacement part cluster => Sys2Proof.Machine.execGangPlacement part cluster s
  | .nodeCrewPlacement node cluster core => Sys2Proof.Machine.execNodeCrewPlacement node cluster core s
  | .gangRetirement gang => Sys2Proof.Machine.execGangRetirement gang s
  | .launchRetirement launch => Sys2Proof.Machine.execLaunchRetirement launch s
  | .finalMerge launch => Sys2Proof.Machine.execFinalMerge launch s
  | .detMerge launch barrier => Sys2Proof.Machine.execDetMerge launch barrier s
  | .matrixCommandRetire pair part => Sys2Proof.Machine.execMatrixCommandRetire pair part s
  | .smvPacket smv first n => Sys2Proof.Machine.execSmvPacket smv first n s
  | .atomicPerform access => Sys2Proof.Machine.execAtomicPerform access s
  | .fenceComplete wave slot => Sys2Proof.Machine.execFenceComplete wave slot s
  | .viewTraversal view => Sys2Proof.Machine.execViewTraversal view s
  | .viewLanding view => Sys2Proof.Machine.execViewLanding view s
  | .recordDelivery node cluster crew => Sys2Proof.Machine.execRecordDelivery node cluster crew s
  | .retireDelivery node cluster crew => Sys2Proof.Machine.execRetireDelivery node cluster crew s
  | .contextFetch node key => Sys2Proof.Machine.execContextFetch node key s
  | .workItemAssign request => Sys2Proof.Machine.execWorkItemAssign request s
  | .wqryRound launch => Sys2Proof.Machine.execWqryRound launch s
  | .sliceExpiry part => Sys2Proof.Machine.execSliceExpiry part s
  | .stopRequest part tenant => Sys2Proof.Machine.execStopRequest part tenant s
  | .contextSave part => Sys2Proof.Machine.execContextSave part s
  | .quotaWrite part q => Sys2Proof.Machine.execQuotaWrite part q s
  | .unitRetirement u => Sys2Proof.Machine.execUnitRetirement u s
  | .uncorrectableError gang code => Sys2Proof.Machine.execUncorrectableError gang code s
  | .correctableError part counter => Sys2Proof.Machine.execCorrectableError part counter s
  | .telemetryRead part tenant ask => Sys2Proof.Machine.execTelemetryRead part tenant ask s
  | .telemetryStatusClear part ones => Sys2Proof.Machine.execTelemetryStatusClear part ones s
  | .securityAlarm => Sys2Proof.Machine.execSecurityAlarm s
  | .bringUp b => Sys2Proof.Machine.execBringUp b s
  | .nop => Sys2Proof.Machine.execNop s
  | .yield => Sys2Proof.Machine.execYield s
  | .yieldExt f => Sys2Proof.Machine.execYieldExt f s
  | .add f => Sys2Proof.Machine.execAdd f s
  | .addExt f => Sys2Proof.Machine.execAddExt f s
  | .addLit f => Sys2Proof.Machine.execAddLit f s
  | .addExtLit f => Sys2Proof.Machine.execAddExtLit f s
  | .sub f => Sys2Proof.Machine.execSub f s
  | .subExt f => Sys2Proof.Machine.execSubExt f s
  | .subLit f => Sys2Proof.Machine.execSubLit f s
  | .subExtLit f => Sys2Proof.Machine.execSubExtLit f s
  | .mul f => Sys2Proof.Machine.execMul f s
  | .mulExt f => Sys2Proof.Machine.execMulExt f s
  | .mulLit f => Sys2Proof.Machine.execMulLit f s
  | .mulExtLit f => Sys2Proof.Machine.execMulExtLit f s
  | .mulh f => Sys2Proof.Machine.execMulh f s
  | .mulhExt f => Sys2Proof.Machine.execMulhExt f s
  | .mulhLit f => Sys2Proof.Machine.execMulhLit f s
  | .mulhExtLit f => Sys2Proof.Machine.execMulhExtLit f s
  | .fma f => Sys2Proof.Machine.execFma f s
  | .fmaExt f => Sys2Proof.Machine.execFmaExt f s
  | .fmaLit f => Sys2Proof.Machine.execFmaLit f s
  | .fmaExtLit f => Sys2Proof.Machine.execFmaExtLit f s
  | .fms f => Sys2Proof.Machine.execFms f s
  | .fmsExt f => Sys2Proof.Machine.execFmsExt f s
  | .fmsLit f => Sys2Proof.Machine.execFmsLit f s
  | .fmsExtLit f => Sys2Proof.Machine.execFmsExtLit f s
  | .min f => Sys2Proof.Machine.execMin f s
  | .minExt f => Sys2Proof.Machine.execMinExt f s
  | .minLit f => Sys2Proof.Machine.execMinLit f s
  | .minExtLit f => Sys2Proof.Machine.execMinExtLit f s
  | .max f => Sys2Proof.Machine.execMax f s
  | .maxExt f => Sys2Proof.Machine.execMaxExt f s
  | .maxLit f => Sys2Proof.Machine.execMaxLit f s
  | .maxExtLit f => Sys2Proof.Machine.execMaxExtLit f s
  | .and f => Sys2Proof.Machine.execAnd f s
  | .andExt f => Sys2Proof.Machine.execAndExt f s
  | .andLit f => Sys2Proof.Machine.execAndLit f s
  | .andExtLit f => Sys2Proof.Machine.execAndExtLit f s
  | .or f => Sys2Proof.Machine.execOr f s
  | .orExt f => Sys2Proof.Machine.execOrExt f s
  | .orLit f => Sys2Proof.Machine.execOrLit f s
  | .orExtLit f => Sys2Proof.Machine.execOrExtLit f s
  | .xor f => Sys2Proof.Machine.execXor f s
  | .xorExt f => Sys2Proof.Machine.execXorExt f s
  | .xorLit f => Sys2Proof.Machine.execXorLit f s
  | .xorExtLit f => Sys2Proof.Machine.execXorExtLit f s
  | .andn f => Sys2Proof.Machine.execAndn f s
  | .andnExt f => Sys2Proof.Machine.execAndnExt f s
  | .andnLit f => Sys2Proof.Machine.execAndnLit f s
  | .andnExtLit f => Sys2Proof.Machine.execAndnExtLit f s
  | .shl f => Sys2Proof.Machine.execShl f s
  | .shlExt f => Sys2Proof.Machine.execShlExt f s
  | .shlLit f => Sys2Proof.Machine.execShlLit f s
  | .shlExtLit f => Sys2Proof.Machine.execShlExtLit f s
  | .shr f => Sys2Proof.Machine.execShr f s
  | .shrExt f => Sys2Proof.Machine.execShrExt f s
  | .shrLit f => Sys2Proof.Machine.execShrLit f s
  | .shrExtLit f => Sys2Proof.Machine.execShrExtLit f s
  | .cmpp f => Sys2Proof.Machine.execCmpp f s
  | .cmppExt f => Sys2Proof.Machine.execCmppExt f s
  | .cmppLit f => Sys2Proof.Machine.execCmppLit f s
  | .cmppExtLit f => Sys2Proof.Machine.execCmppExtLit f s
  | .sel f => Sys2Proof.Machine.execSel f s
  | .selExt f => Sys2Proof.Machine.execSelExt f s
  | .selLit f => Sys2Proof.Machine.execSelLit f s
  | .selExtLit f => Sys2Proof.Machine.execSelExtLit f s
  | .mov f => Sys2Proof.Machine.execMov f s
  | .movExt f => Sys2Proof.Machine.execMovExt f s
  | .movWide f => Sys2Proof.Machine.execMovWide f s
  | .movLit f => Sys2Proof.Machine.execMovLit f s
  | .movExtLit f => Sys2Proof.Machine.execMovExtLit f s
  | .movi d imm => Sys2Proof.Machine.execMovi d imm s
  | .moviExt f => Sys2Proof.Machine.execMoviExt f s
  | .cvt f => Sys2Proof.Machine.execCvt f s
  | .cvtExt f => Sys2Proof.Machine.execCvtExt f s
  | .vtag f => Sys2Proof.Machine.execVtag f s
  | .vtagExt f => Sys2Proof.Machine.execVtagExt f s
  | .sfu f => Sys2Proof.Machine.execSfu f s
  | .sfuExt f => Sys2Proof.Machine.execSfuExt f s
  | .perm f => Sys2Proof.Machine.execPerm f s
  | .permExt f => Sys2Proof.Machine.execPermExt f s
  | .shfl f => Sys2Proof.Machine.execShfl f s
  | .shflExt f => Sys2Proof.Machine.execShflExt f s
  | .reduce f => Sys2Proof.Machine.execReduce f s
  | .reduceExt f => Sys2Proof.Machine.execReduceExt f s
  | .scan f => Sys2Proof.Machine.execScan f s
  | .scanExt f => Sys2Proof.Machine.execScanExt f s
  | .welf f => Sys2Proof.Machine.execWelf f s
  | .welfExt f => Sys2Proof.Machine.execWelfExt f s
  | .ldl f => Sys2Proof.Machine.execLdl f s
  | .ldlExt f => Sys2Proof.Machine.execLdlExt f s
  | .stl f => Sys2Proof.Machine.execStl f s
  | .stlExt f => Sys2Proof.Machine.execStlExt f s
  | .lds f => Sys2Proof.Machine.execLds f s
  | .ldsExt f => Sys2Proof.Machine.execLdsExt f s
  | .sts f => Sys2Proof.Machine.execSts f s
  | .stsExt f => Sys2Proof.Machine.execStsExt f s
  | .spush f => Sys2Proof.Machine.execSpush f s
  | .spushExt f => Sys2Proof.Machine.execSpushExt f s
  | .spop f => Sys2Proof.Machine.execSpop f s
  | .spopExt f => Sys2Proof.Machine.execSpopExt f s
  | .bra off => Sys2Proof.Machine.execBra off s
  | .braExt f => Sys2Proof.Machine.execBraExt f s
  | .brc off ng p => Sys2Proof.Machine.execBrc off ng p s
  | .call off => Sys2Proof.Machine.execCall off s
  | .callExt f => Sys2Proof.Machine.execCallExt f s
  | .ret => Sys2Proof.Machine.execRet s
  | .retExt f => Sys2Proof.Machine.execRetExt f s
  | .fork pd off => Sys2Proof.Machine.execFork pd off s
  | .forkExt f => Sys2Proof.Machine.execForkExt f s
  | .fend => Sys2Proof.Machine.execFend s
  | .fendExt f => Sys2Proof.Machine.execFendExt f s
  | .abs f => Sys2Proof.Machine.execAbs f s
  | .neg f => Sys2Proof.Machine.execNeg f s
  | .popc f => Sys2Proof.Machine.execPopc f s
  | .clz f => Sys2Proof.Machine.execClz f s
  | .brev f => Sys2Proof.Machine.execBrev f s
  | .bfx f => Sys2Proof.Machine.execBfx f s
  | .bfi f => Sys2Proof.Machine.execBfi f s
  | .idiv f => Sys2Proof.Machine.execIdiv f s
  | .dot4 f => Sys2Proof.Machine.execDot4 f s
  | .wmerge f => Sys2Proof.Machine.execWmerge f s
  | .atom f => Sys2Proof.Machine.execAtom f s
  | .atomLit f => Sys2Proof.Machine.execAtomLit f s
  | .atomc f => Sys2Proof.Machine.execAtomc f s
  | .atomcLit f => Sys2Proof.Machine.execAtomcLit f s
  | .barinit f => Sys2Proof.Machine.execBarinit f s
  | .bararr f => Sys2Proof.Machine.execBararr f s
  | .barexp f => Sys2Proof.Machine.execBarexp f s
  | .barwait f => Sys2Proof.Machine.execBarwait f s
  | .bartest f => Sys2Proof.Machine.execBartest f s
  | .copy f => Sys2Proof.Machine.execCopy f s
  | .copyb f => Sys2Proof.Machine.execCopyb f s
  | .copyg f => Sys2Proof.Machine.execCopyg f s
  | .copys f => Sys2Proof.Machine.execCopys f s
  | .mma f => Sys2Proof.Machine.execMma f s
  | .mmaq f => Sys2Proof.Machine.execMmaq f s
  | .mcommit f => Sys2Proof.Machine.execMcommit f s
  | .mwait f => Sys2Proof.Machine.execMwait f s
  | .mrd f => Sys2Proof.Machine.execMrd f s
  | .mwr f => Sys2Proof.Machine.execMwr f s
  | .mzero f => Sys2Proof.Machine.execMzero f s
  | .smv f => Sys2Proof.Machine.execSmv f s
  | .view f => Sys2Proof.Machine.execView f s
  | .vstat f => Sys2Proof.Machine.execVstat f s
  | .vpix f => Sys2Proof.Machine.execVpix f s
  | .rayq f => Sys2Proof.Machine.execRayq f s
  | .tld f => Sys2Proof.Machine.execTld f s
  | .tst f => Sys2Proof.Machine.execTst f s
  | .trd f => Sys2Proof.Machine.execTrd f s
  | .twr f => Sys2Proof.Machine.execTwr f s
  | .bxunion f => Sys2Proof.Machine.execBxunion f s
  | .sahcost f => Sys2Proof.Machine.execSahcost f s
  | .nodepack f => Sys2Proof.Machine.execNodepack f s
  | .hld f => Sys2Proof.Machine.execHld f s
  | .hst f => Sys2Proof.Machine.execHst f s
  | .hbind f => Sys2Proof.Machine.execHbind f s
  | .hperm f => Sys2Proof.Machine.execHperm f s
  | .hbund f => Sys2Proof.Machine.execHbund f s
  | .hclr f => Sys2Proof.Machine.execHclr f s
  | .hthr f => Sys2Proof.Machine.execHthr f s
  | .hdist f => Sys2Proof.Machine.execHdist f s
  | .hnear f => Sys2Proof.Machine.execHnear f s
  | .hgen f => Sys2Proof.Machine.execHgen f s
  | .remit f => Sys2Proof.Machine.execRemit f s
  | .ksusp f => Sys2Proof.Machine.execKsusp f s
  | .kret f => Sys2Proof.Machine.execKret f s
  | .launch f => Sys2Proof.Machine.execLaunch f s
  | .trap f => Sys2Proof.Machine.execTrap f s
  | .srd f => Sys2Proof.Machine.execSrd f s
  | .swr f => Sys2Proof.Machine.execSwr f s
  | .fence f => Sys2Proof.Machine.execFence f s
  | .fwait f => Sys2Proof.Machine.execFwait f s
  | .wqry f => Sys2Proof.Machine.execWqry f s
  | .brx f => Sys2Proof.Machine.execBrx f s
  | .launchStop launch => Sys2Proof.Machine.execLaunchStop launch s
  | .peerPortDown port => Sys2Proof.Machine.execPeerPortDown port s
  | .peerCopysTraffic m => Sys2Proof.Machine.execPeerCopysTraffic m s
  | .reservedKindMessage part kind m => Sys2Proof.Machine.execReservedKindMessage part kind m s
  | .tenantCreation part t => Sys2Proof.Machine.execTenantCreation part t s
  | .allowListLoad part tenant bits => Sys2Proof.Machine.execAllowListLoad part tenant bits s
  | .objectLoad part o => Sys2Proof.Machine.execObjectLoad part o s
  | .attestationReport ask => Sys2Proof.Machine.execAttestationReport ask s

end Sys2Proof.Machine
end

