-- ==== Sys2Proof/Machine/Step.lean ====
section
/-!
DEFINITION. One step of the machine, and the placing of an instruction where the next step fetches it.
-/
namespace Sys2Proof.Machine

/-- One step: nothing once the part has stopped (R217); the next instruction of the clause being issued (R58); otherwise the next
event (log 1). -/
def step (s : State) : Host.Outcome State Fault Refusal :=
  if s.halted then .fault .partStopped
  else
    match s.cur with
    | some c =>
      (match s.fetchInstr c with
       | some i => exec i s
       | none => .next (s.fetchFault c))
    | none => exec s.nextEvent.1 s.nextEvent.2

/-! ### A machine with one clause being issued (log 18) -/

/-- A launch with one gang of one crew of one wave, whose code is words 0 to 15 of the partition. -/
def oneLaunch : Launch :=
  { Launch.nil with
    ident := 1#32, phase := .running, code := [{ base := 0, len := 16 }],
    desc := { Desc.nil with ntile := 2, nhyp := 2, nbun := 2, lmem := 4096, spill := 16 } }
def oneGang : Gang := { Gang.nil with launch := 1, phase := .running, start := 0, replayable := true }
def oneCrew : Crew :=
  { Crew.nil with
    gang := 1, nreg := 32, ntile := 2, nhyp := 2, nbun := 2, fibres := 1, lmemSize := 4096, unis := List.replicate 1024 Reg.zero, spillMax := 16 }
def oneWave : Wave :=
  let w := Wave.fresh 1 0 0 32 2 2 2
  { w with lanes := w.lanes.modify 0 (fun x => { x with status := .live, fibre := 1 }) }

/-- The cursor of a clause of one instruction at word 1, its cohort the fibre in lane 0, its flags f0 and f1. -/
def oneCursor : Cursor :=
  { Cursor.nil with wave := 1, lanes := 1#32, pc := 0#32, idx := 0, addr := 1#32, count := 1, setA := 0, setB := 1 }

/-- The instruction of those bits, in a clause of its own between two headers, where the next step fetches it (log 18). -/
def State.withFetchWord (s : State) (nbits w : Nat) : State :=
  let ws := tableWords nbits w
  let n := match decodeWords ws with | some i => i.size | none => 5
  let code := putCode 0 ([0x1008_007C#32] ++ ws.take n ++ [0xFF08_007C#32]) []
  { s with
    halted := false,
    parts := s.parts.modify 0 (fun p => { p with code := code, configured := true, resident := some 0 }),
    launches := [(1, oneLaunch)], gangs := [(1, oneGang)], crews := [(1, oneCrew)], waves := [(1, oneWave)],
    nextUid := 2, cur := some oneCursor }

end Sys2Proof.Machine
end

