-- ==== Sys2Proof/Safety.lean ====
section
/-!
DEFINITION. The terms the statements use: good states (memories in canonical form, log 4; the part and its waves laid out as the manual
lays them out), and when an instruction of the clause being issued passes the checks that every instruction shares (R59).
-/
namespace Sys2Proof.Machine

/-! ### Good states -/

/-- The machine's memory and every crew's local memory are in canonical form. -/
def State.memoriesWf (s : State) : Bool := Memory.wf s.mem && s.crews.all (fun e => Memory.wf e.2.lmem)

/-- The part has its 256 cores (R4) and eight partitions (R210). -/
def State.laidOut (s : State) : Bool := s.cores.length == 256 && s.parts.length == 8

/-- A wave has 32 lanes (02_execution.md, Fibres and lanes) and twelve completion flags from 0 to 63 (R50). -/
def Wave.laidOut (w : Wave) : Bool := w.lanes.length == 32 && w.flags.length == 12 && w.flags.all (fun n => decide (n ≤ 63))

/-- Every wave is laid out so. -/
def State.wavesLaidOut (s : State) : Bool := s.waves.all (fun e => e.2.laidOut)

/-- A run of steps from one state to another, all of them next states. -/
inductive Reaches : State → State → Prop where
  | refl (s : State) : Reaches s s
  | step {s t u : State} (h : step s = .next t) (r : Reaches t u) : Reaches s u

/-! ### The checks every instruction shares -/

/-- A register operand lies in the fibre's window (R11): a vector register below NREG, or a temporary, or a uniform register. -/
def Opd.inWindow (c : Crew) (ln : Lane) : Opd → Bool
  | .v n => 252 ≤ n || decide (ln.wb + n < c.nreg)
  | .u _ => true

/-- A property of the lanes of a set of the wave being served. -/
abbrev State.OnLanes (s : State) (m : Lanes) (P : Lane → Prop) : Prop :=
  ∀ l, l < 32 → m.getLsbD l = true → P (s.ctx.wave.lane l)

/-- A clause is being issued. -/
abbrev State.Issuing (s : State) : Prop := s.cur.isSome = true

/-- Some fibre of the cohort is active (R44). -/
abbrev State.Active (s : State) (g : Arg) : Prop := s.ctx.act g.m ≠ 0#32

/-- The crew's role may run the instruction (R25). -/
abbrev State.HasRole (s : State) (roles : List Nat) : Prop := s.ctx.crew.role ∈ roles

/-- The register operands lie in the window of every fibre of the cohort (R11, R44). -/
abbrev State.InWindow (s : State) (os : List Opd) : Prop :=
  s.OnLanes s.ctx.cur.lanes (fun ln => ∀ o ∈ os, o.inWindow s.ctx.crew ln = true)

/-- No register an active fibre reads or names is pending (R56). -/
abbrev State.Landed (s : State) (g : Arg) (os : List Opd) : Prop :=
  s.OnLanes (s.ctx.act g.m) (fun ln => ∀ o ∈ os, o.pending s.ctx.crew ln = false)

/-- Role, window and pending registers: an instruction passes the checks of R59 that do not depend on its kind. -/
abbrev State.Clear (s : State) (g : Arg) (roles : List Nat) (os : List Opd) : Prop :=
  s.Issuing ∧ s.HasRole roles ∧ s.InWindow os ∧ s.Landed g os

/-- The flag the instruction counts against is below 63 (R51), or it counts on none. -/
abbrev State.FlagFree (s : State) (fsel : Bool) : Prop := s.ctx.flagFull fsel = false

end Sys2Proof.Machine
end

