-- ==== Sys2Proof/Certificates/Slice0/Obligations.lean ====
section
/-!
DEFINITION. The statements for the provers. Before them, what they name: which instructions are of one shape, with the fields each form
gives them, and the conditions under which an instruction of a shape completes.
-/
open Sys2Proof Sys2Proof.Machine

namespace Sys2Proof.Machine

/-- The instructions that compute one register per fibre, each with its sources, tag rule and value (R231, R249, R254, R259, R261, R265,
R246, R287, R288, R300, R309, R313, R328). -/
def regOpOf : Instr → Option RegOp
  | .add f => some (frame2 f.arg 1 (sameTags addRow) addWord sameTag)
  | .addExt f => some (frame2 f.arg 1 (sameTags addRow) addWord sameTag)
  | .addLit f => some (frame2 f.arg 1 (sameTags addRow) addWord sameTag)
  | .addExtLit f => some (frame2 f.arg 1 (sameTags addRow) addWord sameTag)
  | .sub f => some (frame2 f.arg 1 (sameTags addRow) subWord sameTag)
  | .subExt f => some (frame2 f.arg 1 (sameTags addRow) subWord sameTag)
  | .subLit f => some (frame2 f.arg 1 (sameTags addRow) subWord sameTag)
  | .subExtLit f => some (frame2 f.arg 1 (sameTags addRow) subWord sameTag)
  | .mul f => some (frame2 f.arg 2 (sameTags mulRow) mulWord sameTag)
  | .mulExt f => some (frame2 f.arg 2 (sameTags mulRow) mulWord sameTag)
  | .mulLit f => some (frame2 f.arg 2 (sameTags mulRow) mulWord sameTag)
  | .mulExtLit f => some (frame2 f.arg 2 (sameTags mulRow) mulWord sameTag)
  | .mulh f => some (frame2 f.arg 2 (sameTags intRow) (fun t _ a b => mulhWord t a b) sameTag)
  | .mulhExt f => some (frame2 f.arg 2 (sameTags intRow) (fun t _ a b => mulhWord t a b) sameTag)
  | .mulhLit f => some (frame2 f.arg 2 (sameTags intRow) (fun t _ a b => mulhWord t a b) sameTag)
  | .mulhExtLit f => some (frame2 f.arg 2 (sameTags intRow) (fun t _ a b => mulhWord t a b) sameTag)
  | .fma f => some (fmaRegOp f.arg false)
  | .fmaExt f => some (fmaRegOp f.arg false)
  | .fmaLit f => some (fmaRegOp f.arg false)
  | .fmaExtLit f => some (fmaRegOp f.arg false)
  | .fms f => some (fmaRegOp f.arg true)
  | .fmsExt f => some (fmaRegOp f.arg true)
  | .fmsLit f => some (fmaRegOp f.arg true)
  | .fmsExtLit f => some (fmaRegOp f.arg true)
  | .min f => some (frame2 f.arg 4 (sameTags addRow) minWord sameTag)
  | .minExt f => some (frame2 f.arg 4 (sameTags addRow) minWord sameTag)
  | .minLit f => some (frame2 f.arg 4 (sameTags addRow) minWord sameTag)
  | .minExtLit f => some (frame2 f.arg 4 (sameTags addRow) minWord sameTag)
  | .max f => some (frame2 f.arg 4 (sameTags addRow) maxWord sameTag)
  | .maxExt f => some (frame2 f.arg 4 (sameTags addRow) maxWord sameTag)
  | .maxLit f => some (frame2 f.arg 4 (sameTags addRow) maxWord sameTag)
  | .maxExtLit f => some (frame2 f.arg 4 (sameTags addRow) maxWord sameTag)
  | .and f => some (frame2 f.arg 5 anyTags (fun _ _ a b => a &&& b) rawTag)
  | .andExt f => some (frame2 f.arg 5 anyTags (fun _ _ a b => a &&& b) rawTag)
  | .andLit f => some (frame2 f.arg 5 anyTags (fun _ _ a b => a &&& b) rawTag)
  | .andExtLit f => some (frame2 f.arg 5 anyTags (fun _ _ a b => a &&& b) rawTag)
  | .or f => some (frame2 f.arg 5 anyTags (fun _ _ a b => a ||| b) rawTag)
  | .orExt f => some (frame2 f.arg 5 anyTags (fun _ _ a b => a ||| b) rawTag)
  | .orLit f => some (frame2 f.arg 5 anyTags (fun _ _ a b => a ||| b) rawTag)
  | .orExtLit f => some (frame2 f.arg 5 anyTags (fun _ _ a b => a ||| b) rawTag)
  | .xor f => some (frame2 f.arg 6 anyTags (fun _ _ a b => a ^^^ b) rawTag)
  | .xorExt f => some (frame2 f.arg 6 anyTags (fun _ _ a b => a ^^^ b) rawTag)
  | .xorLit f => some (frame2 f.arg 6 anyTags (fun _ _ a b => a ^^^ b) rawTag)
  | .xorExtLit f => some (frame2 f.arg 6 anyTags (fun _ _ a b => a ^^^ b) rawTag)
  | .andn f => some (frame2 f.arg 6 anyTags (fun _ _ a b => a &&& ~~~b) rawTag)
  | .andnExt f => some (frame2 f.arg 6 anyTags (fun _ _ a b => a &&& ~~~b) rawTag)
  | .andnLit f => some (frame2 f.arg 6 anyTags (fun _ _ a b => a &&& ~~~b) rawTag)
  | .andnExtLit f => some (frame2 f.arg 6 anyTags (fun _ _ a b => a &&& ~~~b) rawTag)
  | .shl f => some (frame2 f.arg 7 shiftTags (fun t _ a b => shlWord t a b) sameTag)
  | .shlExt f => some (frame2 f.arg 7 shiftTags (fun t _ a b => shlWord t a b) sameTag)
  | .shlLit f => some (frame2 f.arg 7 shiftTags (fun t _ a b => shlWord t a b) sameTag)
  | .shlExtLit f => some (frame2 f.arg 7 shiftTags (fun t _ a b => shlWord t a b) sameTag)
  | .shr f => some (frame2 f.arg 7 shiftTags (fun t _ a b => shrWord t a b) sameTag)
  | .shrExt f => some (frame2 f.arg 7 shiftTags (fun t _ a b => shrWord t a b) sameTag)
  | .shrLit f => some (frame2 f.arg 7 shiftTags (fun t _ a b => shrWord t a b) sameTag)
  | .shrExtLit f => some (frame2 f.arg 7 shiftTags (fun t _ a b => shrWord t a b) sameTag)
  | .sel f => some (selRegOp f.arg)
  | .selExt f => some (selRegOp f.arg)
  | .selLit f => some (selRegOp f.arg)
  | .selExtLit f => some (selRegOp f.arg)
  | .mov f => some (movRegOp f.arg)
  | .movExt f => some (movRegOp f.arg)
  | .movLit f => some (movRegOp f.arg)
  | .movExtLit f => some (movRegOp f.arg)
  | .movi d imm => some (moviRegOp { Arg.plain with d := d.toNat } (imm.signExtend 32))
  | .moviExt f => some (moviRegOp f.arg f.w2)
  | .cvt f => some (cvtRegOp f.arg)
  | .cvtExt f => some (cvtRegOp f.arg)
  | .vtag f => some (vtagRegOp f.arg)
  | .vtagExt f => some (vtagRegOp f.arg)
  | .abs f => some (frame1 f.arg (sameTags addRow) absWord sameTag)
  | .neg f => some (frame1 f.arg (sameTags addRow) negWord sameTag)
  | .popc f => some (frame1 f.arg anyTags (fun _ _ a => BitVec.ofNat 32 (popcount a)) n32Tag)
  | .clz f => some (frame1 f.arg anyTags (fun _ _ a => BitVec.ofNat 32 (clzWord a)) n32Tag)
  | .brev f => some (frame1 f.arg anyTags (fun _ _ a => brevWord a) rawTag)
  | .bfx f => some (bfxRegOp f.arg)
  | .bfi f => some (bfiRegOp f.arg)
  | .idiv f => some (frame2 f.arg 20 (sameTags intRow) (fun t _ a b => idivWord t a b) sameTag)
  | .dot4 f => some (dot4RegOp f.arg)
  | _ => none

/-- The forms of CMPP, with their fields. -/
def cmppOf : Instr → Option Arg
  | .cmpp f => some f.arg
  | .cmppExt f => some f.arg
  | .cmppLit f => some f.arg
  | .cmppExtLit f => some f.arg
  | _ => none

/-- The forms of WELF. -/
def welfOf : Instr → Option Arg
  | .welf f => some f.arg
  | .welfExt f => some f.arg
  | _ => none

/-- The forms of PERM. -/
def permOf : Instr → Option Arg
  | .perm f => some f.arg
  | .permExt f => some f.arg
  | _ => none

/-- The forms of SHFL. -/
def shflOf : Instr → Option Arg
  | .shfl f => some f.arg
  | .shflExt f => some f.arg
  | _ => none

/-- The forms of REDUCE (`false`) and SCAN (`true`). -/
def treeOf : Instr → Option (Arg × Bool)
  | .reduce f => some (f.arg, false)
  | .reduceExt f => some (f.arg, false)
  | .scan f => some (f.arg, true)
  | .scanExt f => some (f.arg, true)
  | _ => none

/-- The forms of SFU. -/
def sfuOf : Instr → Option Arg
  | .sfu f => some f.arg
  | .sfuExt f => some f.arg
  | _ => none

/-- The forms of SPUSH. -/
def spushOf : Instr → Option Arg
  | .spush f => some f.arg
  | .spushExt f => some f.arg
  | _ => none

/-- The forms of SPOP. -/
def spopOf : Instr → Option Arg
  | .spop f => some f.arg
  | .spopExt f => some f.arg
  | _ => none

/-- What a long-latency operation of one destination register per lane does at issue (R49, R50, R56): its flag rises, the
destinations are pending, and one operation with those results is on its way to landing. -/
def State.issued (s : State) (g : Arg) (lane : Lane → Lane) (ds : List Dest) : State :=
  (((s.countOp s.ctx.cur.wave (s.ctx.cur.flagOf g.m.fsel)).2.modWave s.ctx.cur.wave (fun w =>
    w.mapLanes (s.ctx.act g.m) (fun _ ln => (lane ln).pendV g.d))).addFlight
      { op := s.nextUid, wave := s.ctx.cur.wave, flag := s.ctx.cur.flagOf g.m.fsel, txns := 0, lines := [], payload := .regs ds,
        fault := none })

/-- The forms of LDL (`false`) and LDS (`true`). -/
def loadOf : Instr → Option (Arg × Bool)
  | .ldl f => some (f.arg, false)
  | .ldlExt f => some (f.arg, false)
  | .lds f => some (f.arg, true)
  | .ldsExt f => some (f.arg, true)
  | _ => none

/-- The forms of STL (`false`) and STS (`true`). -/
def storeOf : Instr → Option (Arg × Bool)
  | .stl f => some (f.arg, false)
  | .stlExt f => some (f.arg, false)
  | .sts f => some (f.arg, true)
  | .stsExt f => some (f.arg, true)
  | _ => none

/-- Every active fibre's address is a multiple of 4 inside its space (R88, R89, R91). -/
abbrev State.Reachable (s : State) (g : Arg) (shelf : Bool) : Prop :=
  s.OnLanes (s.ctx.act g.m) (fun ln => (lsAddr g s.ctx.crew ln).extractLsb' 0 2 = 0#2 ∧
    (lsPlace s s.ctx shelf (lsAddr g s.ctx.crew ln)).isSome = true)

/-- No shelf line the fibres touch is absent, and the transactions they need are free (R95, R109). -/
abbrev State.LinesReady (s : State) (lines : List (Nat × Nat)) : Prop :=
  (∀ k ∈ lines, s.lineAbsent s.ctx.launch.part s.ctx.launch.tenant k = false) ∧
    s.txnsFree s.ctx.crew.core lines.length = true

/-- Some shelf line the fibres touch is absent (R95). -/
abbrev State.SomeAbsent (s : State) (lines : List (Nat × Nat)) : Prop :=
  ∃ k ∈ lines, s.lineAbsent s.ctx.launch.part s.ctx.launch.tenant k = true

/-- The clause holds at the instruction it has come to (R51, R52): its wave keeps it, and no clause is being issued. -/
def State.held (s : State) : State :=
  { (s.modWave s.ctx.cur.wave (fun w => { w with hold := some s.ctx.cur })) with cur := none }

/-- Nothing of the part is under way that a plain access must follow: no access and no load waits. -/
abbrev State.NothingQueued (s : State) : Prop := s.accesses = [] ∧ s.flights = []

/-- A word's home is there, as R108 has pages aligned, on no live barrier object, and, in local memory, of a crew that is there. -/
abbrev State.PlainHome (s : State) (a : VAddr) : Prop :=
  ∃ h, s.home? s.ctx.launch.part s.ctx.launch.tenant a = some h ∧ s.barLive h.object = false ∧
    (∀ b, h = .phys b → b % 4 = 0) ∧ ∀ c o, h = .loc c o → (look c s.crews).isSome = true

/-- The forms of ATOM and ATOMC. -/
def atomOf : Instr → Option AtomArg
  | .atom f => some { g := f.e.arg, sub := f.sub.toNat, cas := false }
  | .atomLit f => some { g := f.e.arg, sub := f.sub.toNat, cas := false }
  | .atomc f => some { g := f.e.arg, sub := f.sub.toNat, cas := true }
  | .atomcLit f => some { g := f.e.arg, sub := f.sub.toNat, cas := true }
  | _ => none

/-- Every active fibre's address is aligned, in bounds and within the scope, and outside DET regions where a value comes back. -/
abbrev State.AtomReachable (s : State) (a : AtomArg) : Prop :=
  s.OnLanes (s.ctx.act a.g.m) (fun ln => a.format s.ctx.crew ln = none ∧ (a.addr s.ctx.crew ln).toNat % a.bytes = 0 ∧
    match a.place s s.ctx (a.addr s.ctx.crew ln) with
    | some p => a.outOfScope s.ctx p = false ∧ ((a.cas || !a.noret) = true → s.detAt s.ctx.crewId p = none)
    | none => False)

/-- The instructions that transfer control to a fixed or computed place, with their fields and the new PC of a fibre that takes the
transfer. -/
def branchOf (s : State) : Instr → Option (Arg × (Lane → Word))
  | .bra off => some (Arg.plain, fun _ => s.here + off.signExtend 32)
  | .braExt f => some (f.arg, fun _ => s.here + f.w2)
  | .brx f => some (f.arg, fun ln => (f.arg.srcA.read s.ctx.crew ln .raw).val)
  | .call off => some (Arg.plain, fun _ => s.here + off.signExtend 32)
  | .callExt f => some (f.arg, fun _ => s.here + f.w2)
  | .ret => some (Arg.plain, fun ln => ln.top 1)
  | .retExt f => some (f.arg, fun ln => ln.top 1)
  | _ => none

/-- What a transfer asks of a fibre beyond the shared checks: a landed register for BRX, room on the stack and in the window for
CALL, and two entries with a sound window base for RET. -/
abbrev branchOk (s : State) (i : Instr) (ln : Lane) : Prop :=
  match i with
  | .brx f => ∀ o ∈ f.arg.srcA.opds, o.pending s.ctx.crew ln = false
  | .call _ => ln.wb < s.ctx.crew.nreg ∧ ln.spill.length + 2 ≤ s.ctx.crew.spillMax
  | .callExt f => ln.wb + f.arg.c < s.ctx.crew.nreg ∧ ln.spill.length + 2 ≤ s.ctx.crew.spillMax
  | .ret => 2 ≤ ln.spill.length ∧ (ln.top 0).extractLsb' 0 2 = 0#2 ∧ (ln.top 0).toNat < s.ctx.crew.nreg
  | .retExt _ => 2 ≤ ln.spill.length ∧ (ln.top 0).extractLsb' 0 2 = 0#2 ∧ (ln.top 0).toNat < s.ctx.crew.nreg
  | _ => True

/-- What a transfer does to a fibre beside its PC: CALL pushes the return address and the window base and moves the window, RET
takes both back (R253, R305). -/
def branchLane (s : State) (i : Instr) (ln : Lane) : Lane :=
  match i with
  | .call _ => { (ln.push (s.here + 1#32)).push (BitVec.ofNat 32 ln.wb) with wb := ln.wb }
  | .callExt f => { (ln.push (s.here + 3#32)).push (BitVec.ofNat 32 ln.wb) with wb := ln.wb + f.arg.c }
  | .ret => { ln.pop 2 with wb := (ln.top 0).toNat }
  | .retExt _ => { ln.pop 2 with wb := (ln.top 0).toNat }
  | _ => ln

/-- The forms of FORK: fields, predicate, arguments, offset. -/
def forkOf : Instr → Option (Arg × Nat × Nat × Word)
  | .fork pd off => some (Arg.plain, pd.toNat, 0, off.signExtend 32)
  | .forkExt f => some (f.arg, f.d.toNat, f.m.c.toNat, f.w2)
  | _ => none

/-- The forms of FEND. -/
def fendOf : Instr → Option Arg
  | .fend => some Arg.plain
  | .fendExt f => some f.arg
  | _ => none

/-- The forms of YIELD. -/
def yieldOf : Instr → Option Arg
  | .yield => some Arg.plain
  | .yieldExt f => some f.arg
  | _ => none

/-- The copy instructions, with their SUB. -/
def copyOf : Instr → Option (Arg × Nat)
  | .copy f => some (f.arg, 0)
  | .copyb f => some (f.arg, 1)
  | .copyg f => some (f.arg, 2)
  | .copys f => some (f.arg, 3)
  | _ => none

/-- BARINIT, BARARR and BAREXP: their fields, the operation they do at the object's home, and the scope of the writes it releases
(R240, R241, R242, R114, R116, R118). -/
def barrierOf (s : State) : Instr → Option (Arg × BarOp × Option Nat)
  | .barinit f => some (f.arg, .init (if f.arg.m.bu then (s.ctx.crew.uni f.arg.b).val.toNat else f.arg.w2f 16 16), none)
  | .bararr f => some (f.arg, .arrive s.ctx.crewId (if f.arg.w2.getLsbD 0 then 1 else (laneList (s.ctx.act f.arg.m)).length),
      some (if f.arg.m.rel = true ∨ s.ctx.launch.regions ≠ [] then 3 else 1))
  | .barexp f => some (f.arg, .expect (s.ctx.crew.uni f.arg.b).val, none)
  | _ => none

/-- A count in range (R242), a byte count that is a positive N32 value (R241). -/
abbrev barrierOk (s : State) (i : Instr) : Prop :=
  match i with
  | .barinit f => (if f.arg.m.bu then (s.ctx.crew.uni f.arg.b).val.toNat else f.arg.w2f 16 16) ≤ 65535
  | .barexp f => (s.ctx.crew.uni f.arg.b).tag = .n32 ∧ (s.ctx.crew.uni f.arg.b).val.getLsbD 31 = false
  | _ => True

/-- The barrier object an instruction names stands at an aligned address a, in bounds, in a page that is there: its home is h. -/
abbrev State.BarrierAt (s : State) (g : Arg) (a : VAddr) (h : Home) : Prop :=
  (s.ctx.crew.uni g.a).val.extractLsb' 0 4 = 0#4 ∧ barPlace s s.ctx g = some a ∧
    s.home? s.ctx.launch.part s.ctx.launch.tenant a = some h

/-- The state in which BARWAIT and BARTEST read their object: what their fibres and their core must do at it first is done, where it
can be (R110, R112, R114, R118, R245). -/
def State.atBarrier (s : State) (g : Arg) (a : VAddr) : State :=
  s.catchUp s.ctx.cur.wave (s.ctx.act g.m) (s.ctx.wave.fibres (s.ctx.act g.m)) a 16

/-- Its page is there then too. -/
abbrev State.BarrierThere (s : State) (g : Arg) (a : VAddr) (h : Home) : Prop :=
  barHome (s.atBarrier g a) s.ctx g = some h ∧ (s.atBarrier g a).home? s.ctx.launch.part s.ctx.launch.tenant a = some h

/-- Nothing is left that must be done at the object first, its page is there, and it is not in slack water (R128). -/
abbrev State.BarrierRead (s : State) (g : Arg) (a : VAddr) (h : Home) : Prop :=
  (s.atBarrier g a).waitsAt s.ctx.cur.wave (s.ctx.act g.m) a 16 = false ∧ s.BarrierThere g a h ∧ (s.atBarrier g a).inSlack h = false

/-- MMA (`false`) and MMAQ (`true`). -/
def multiplyOf : Instr → Option (Arg × Bool)
  | .mma f => some (f.arg, false)
  | .mmaq f => some (f.arg, true)
  | _ => none

/-- The crew may use the accumulator: a PAIRED launch, no node crew, on a leader core where one is needed (R25, R138). -/
abbrev State.HasArray (s : State) (roles : List Nat) (leader : Bool) : Prop :=
  s.HasRole roles ∧ s.ctx.launch.desc.paired = true ∧ s.ctx.gang.node = none ∧ (leader = true → s.ctx.crew.core % 2 ≠ 1)

/-- Rows of the accumulator within the partition's share, that no unretired command writes (R141). -/
abbrev State.RowsFree (s : State) (rs : List Range) : Prop :=
  rowsBeyond s s.ctx rs = false ∧ rs.filterMap (fun r => s.ctx.share.busyRow r.base r.len) = []

/-- A tile of the crew that neither waits for its contents nor carries an error (R57, R153). -/
abbrev State.TileReady (s : State) (n : Nat) : Prop :=
  n < s.ctx.crew.ntile ∧ (s.ctx.wave.tile n).pend = false ∧ s.deferredAt s.ctx.crewId (.tile s.ctx.cur.wave n) = none

/-- The same tile, which may wait for its contents (R57). -/
abbrev State.TileWaits (s : State) (n : Nat) : Prop :=
  n < s.ctx.crew.ntile ∧ s.deferredAt s.ctx.crewId (.tile s.ctx.cur.wave n) = none

/-- An instruction that acts once, for a crew of some role, with its registers landed and a fibre active. -/
abbrev State.Ready (s : State) (g : Arg) (roles : List Nat) (os : List Opd) : Prop :=
  s.Issuing ∧ s.HasRole roles ∧ s.Landed g os ∧ s.Active g

/-- The hypervector instructions that change registers of the wave only: registers they name, and what they do. -/
def hyperOf : Instr → Option (Arg × List Opd × List Nat × List Nat × (Ctx → Wave → Wave))
  | .hbind f => some (f.arg, [], [f.arg.d, f.arg.a, f.arg.b], [], fun _ w => w.setHyp f.arg.d (w.hyp f.arg.a ^^^ w.hyp f.arg.b))
  | .hperm f => some (f.arg, if f.arg.m.bi then [] else [.u f.arg.b], [f.arg.d, f.arg.a], [], fun x w =>
      w.setHyp f.arg.d ((w.hyp f.arg.a).rotateLeft
        ((if f.arg.m.bi then f.arg.w2.toNat else (x.crew.uni f.arg.b).val.toNat) % 8192)))
  | .hbund f => some (f.arg, [], [f.arg.a], [f.arg.d], fun _ w =>
      w.setBun f.arg.d ((w.bun f.arg.d).mapIdx (fun j c => max (-127) (min 127
        (if (w.hyp f.arg.a).getLsbD j then c + ((f.arg.w2f 0 4 : Nat) : Int) else c - ((f.arg.w2f 0 4 : Nat) : Int))))))
  | .hclr f => some (f.arg, [], [], [f.arg.d], fun _ w => w.setBun f.arg.d (List.replicate 8192 0))
  | .hthr f => some (f.arg, [], [f.arg.d, f.arg.b], [f.arg.a], fun _ w =>
      w.setHyp f.arg.d (hypOfBits ((w.bun f.arg.a).mapIdx (fun j c =>
        if c == 0 then (w.hyp f.arg.b).getLsbD j else decide (0 < c)))))
  | .hgen f => some (f.arg, [.u f.arg.a, .u (f.arg.a + 1), .u f.arg.b], [f.arg.d], [], fun x w =>
      w.setHyp f.arg.d (hypGen (x.crew.pair f.arg.a) (BitVec.ofNat 64 (128 * (x.crew.uni f.arg.b).val.toNat))))
  | _ => none

/-- A far descriptor address is in shelf or global space, aligned to 16 bytes and in bounds (R150, R89). -/
abbrev farOk (t : Dword) (n : Nat) : Prop := spaceOf t < 2 ∧ t.extractLsb' 0 4 = 0#4 ∧ (taggedFar t n).isSome = true

/-- TLD and TST: their tile and its place, aligned to 64 bytes (R321, R322). -/
abbrev State.TileAt (s : State) (g : Arg) (c o : Nat) : Prop :=
  (s.ctx.crew.uni g.a).val.extractLsb' 0 6 = 0#6 ∧ tilePlace s s.ctx g = some (.loc c o)

/-- The queries of one transaction whose answer lands in uniform registers. -/
abbrev State.MayQuery (s : State) (g : Arg) : Prop := s.txnsFree s.ctx.crew.core 1 = true ∧ s.FlagFree g.m.fsel

/-- Where a query of one transaction parks (R109), where its clause holds (R51), and where it goes on. -/
abbrev State.Queries (s : State) (g : Arg) (i : Instr) (sent : Prop) : Prop :=
  (s.txnsFree s.ctx.crew.core 1 = false → exec i s = .next ((s.parkLanes (s.ctx.act g.m) (.txns 1)).advance 3)) ∧
  (s.txnsFree s.ctx.crew.core 1 = true → ¬ s.FlagFree g.m.fsel → exec i s = .next s.held) ∧
  (s.MayQuery g → sent)

/-- An instruction that must read words at issue which are behind its own accesses, or whose page is missing, is not executed at this
issue opportunity (log 12): its fibres stand before it, neither parked nor held, the page asked for; a page declared fatal is met. -/
abbrev State.WordsBehind (s : State) (i : Instr) (w : Wait) : Prop :=
  (∀ v, w = .later v → exec i s = .next v.giveBack) ∧
  (∀ ls a, w = .miss ls a →
    (s.faultOn s.ctx.launch.part s.ctx.launch.tenant a true = false → exec i s = .next (s.askWord a).giveBack) ∧
    (s.faultOn s.ctx.launch.part s.ctx.launch.tenant a true = true →
      exec i s = .next ((s.dropFatal s.ctx.launch.part s.ctx.launch.tenant a).takeFault s.ctx.cur
        { Precise.of .translate ls with addr := s.toTagged a } 0#32)))

/-- HLD or HST stands at a missing page (R177, R52): the clause holds, with its transactions, and the page is asked for; a page declared
fatal is met. -/
abbrev State.PageHolds (s : State) (i : Instr) (act : Lanes) (a : VAddr) (n : Nat) : Prop :=
  (s.faultOn s.ctx.launch.part s.ctx.launch.tenant a true = false → exec i s = .next ((s.askWord a).takeEntries n).holdClause) ∧
  (s.faultOn s.ctx.launch.part s.ctx.launch.tenant a true = true →
    exec i s = .next ((s.dropFatal s.ctx.launch.part s.ctx.launch.tenant a).takeFault s.ctx.cur
      { Precise.of .translate act with addr := s.toTagged a } 0#32))

/-- The numbers of hypervector and bundle registers are within the crew's (R173). -/
abbrev State.HyperIn (s : State) (hs bs : List Nat) : Prop := (∀ n ∈ hs, n < s.ctx.crew.nhyp) ∧ (∀ n ∈ bs, n < s.ctx.crew.nbun)

/-- HLD and HST: the place of the hypervector, aligned to 64 bytes and in bounds (R177). -/
abbrev State.HyperAt (s : State) (g : Arg) (a : VAddr) : Prop :=
  (s.ctx.crew.uni g.a).val.extractLsb' 0 6 = 0#6 ∧ hypPlace s s.ctx g = some a

/-- The fibres of HLD or HST park for a line that is absent, and for the transactions of a shelf access where they are not all free
and the clause does not hold them yet (R95, R109). -/
abbrev State.LineParks (s : State) (act : Lanes) (lines : List (Nat × Nat)) (i : Instr) : Prop :=
  (s.SomeAbsent lines → exec i s = .next ((s.parkLanes act (.absent lines)).advance 3)) ∧
    (¬ s.SomeAbsent lines → s.ctx.cur.txns = 0 → s.txnsFree s.ctx.crew.core lines.length = false →
      exec i s = .next ((s.parkLanes act (.txns lines.length)).advance 3))

/-- No line is absent, and the clause holds the transactions of a shelf access or can have them. -/
abbrev State.LinesHeld (s : State) (g : Arg) (lines : List (Nat × Nat)) : Prop :=
  hypShelf g = true → ¬ s.SomeAbsent lines ∧ (s.ctx.cur.txns ≠ 0 ∨ s.txnsFree s.ctx.crew.core lines.length = true)

/-- Instructions that not every crew may run: the OP and SUB that INFO of a ROLE fault holds, and where the fault arises: the roles of
Table 2.4, the crew a LAUNCH needs, the array a matrix instruction needs, and crews of keyed nodes (R25, R26, R138, R186, R204). -/
def roleOf (s : State) : Instr → Option (Nat × Nat × Prop)
  | .sfu _ => some (11, 0, ¬ s.HasRole rolesGV) | .sfuExt _ => some (11, 0, ¬ s.HasRole rolesGV)
  | .perm _ => some (11, 0, ¬ s.HasRole rolesGV) | .permExt _ => some (11, 0, ¬ s.HasRole rolesGV)
  | .shfl _ => some (12, 0, ¬ s.HasRole rolesGV) | .shflExt _ => some (12, 0, ¬ s.HasRole rolesGV)
  | .reduce _ => some (12, 0, ¬ s.HasRole rolesGV) | .reduceExt _ => some (12, 0, ¬ s.HasRole rolesGV)
  | .scan _ => some (13, 0, ¬ s.HasRole rolesGV) | .scanExt _ => some (13, 0, ¬ s.HasRole rolesGV)
  | .welf _ => some (13, 0, ¬ s.HasRole rolesGV) | .welfExt _ => some (13, 0, ¬ s.HasRole rolesGV)
  | .fork _ _ => some (19, 0, s.keyedCrew s.ctx = true) | .forkExt _ => some (19, 0, s.keyedCrew s.ctx = true)
  | .fend => some (19, 0, s.keyedCrew s.ctx = true) | .fendExt _ => some (19, 0, s.keyedCrew s.ctx = true)
  | .copy _ => some (23, 0, ¬ s.HasRole rolesGC) | .copyb _ => some (23, 1, ¬ s.HasRole rolesGC)
  | .copyg _ => some (23, 2, ¬ s.HasRole rolesGC) | .copys _ => some (23, 3, ¬ s.HasRole rolesGC)
  | .mma _ => some (24, 0, ¬ s.HasArray rolesGM true) | .mmaq _ => some (24, 1, ¬ s.HasArray rolesGM true)
  | .mcommit _ => some (24, 2, ¬ s.HasArray rolesGM true) | .mwait _ => some (24, 3, ¬ s.HasArray rolesGMV false)
  | .mrd _ => some (24, 4, ¬ s.HasArray rolesGV false) | .mwr _ => some (24, 5, ¬ s.HasArray rolesGV false)
  | .mzero _ => some (24, 6, ¬ s.HasArray rolesGMV false)
  | .smv _ => some (24, 7, ¬ s.HasRole rolesGM ∨ s.ctx.crew.core % 2 = 1)
  | .view _ => some (25, 0, ¬ s.HasRole rolesGV) | .vstat _ => some (25, 1, ¬ s.HasRole rolesGV)
  | .vpix _ => some (25, 2, ¬ s.HasRole rolesGV) | .rayq _ => some (25, 3, ¬ s.HasRole rolesGV)
  | .tld _ => some (26, 0, ¬ s.HasRole rolesGV) | .tst _ => some (26, 1, ¬ s.HasRole rolesGV)
  | .trd _ => some (26, 2, ¬ s.HasRole rolesGV) | .twr _ => some (26, 3, ¬ s.HasRole rolesGV)
  | .bxunion _ => some (26, 0, ¬ s.HasRole rolesGV) | .sahcost _ => some (26, 1, ¬ s.HasRole rolesGV)
  | .nodepack _ => some (26, 2, ¬ s.HasRole rolesGV)
  | .hld _ => some (27, 0, ¬ s.HasRole rolesGV) | .hst _ => some (27, 1, ¬ s.HasRole rolesGV)
  | .hbind _ => some (27, 2, ¬ s.HasRole rolesGV) | .hperm _ => some (27, 3, ¬ s.HasRole rolesGV)
  | .hbund _ => some (27, 4, ¬ s.HasRole rolesGV) | .hclr _ => some (27, 5, ¬ s.HasRole rolesGV)
  | .hthr _ => some (27, 6, ¬ s.HasRole rolesGV) | .hdist _ => some (27, 7, ¬ s.HasRole rolesGV)
  | .hnear _ => some (27, 8, ¬ s.HasRole rolesGV) | .hgen _ => some (27, 9, ¬ s.HasRole rolesGV)
  | .remit _ => some (28, 0, ¬ s.HasRole rolesGV)
  | .ksusp _ => some (28, 1, s.keyedCrew s.ctx = false) | .kret _ => some (28, 2, s.keyedCrew s.ctx = false)
  | .launch _ => some (29, 0, s.ctx.crew.idx ≠ 0 ∨ s.ctx.gang.node ≠ none)
  | _ => none

/-- The active lanes whose address is not a multiple of 4 (R88). -/
def State.misaligned (s : State) (g : Arg) : Lanes :=
  laneSet (fun l => (s.ctx.act g.m).getLsbD l && (lsAddr g s.ctx.crew (s.ctx.wave.lane l)).extractLsb' 0 2 != 0#2)

end Sys2Proof.Machine

/-- RegisterResult (R42, R44, R58, R231, R287, R288). An instruction that computes one register per fibre (79 forms), when the
shared checks and its tag rule find nothing, completes: every active fibre's destination takes the value, tagged and not pending,
or the uniform register takes it once; nothing else changes but the place in the clause. -/
def Obligations.RegisterResult : Prop :=
  ∀ (i : Instr) (o : RegOp) (s : State), regOpOf i = some o → s.Clear o.g o.roles o.opds →
    s.OnLanes (s.ctx.act o.g.m) (fun ln => o.fmt (readAll s.ctx.crew ln o.srcs) = none) →
    exec i s = .next (State.advance
      (if o.uni then
        (if s.ctx.act o.g.m = 0#32 then s
         else s.setUni s.ctx.crewId o.g.d
          (o.val (s.ctx.wave.lane (lowestLane (s.ctx.act o.g.m))) (s.ctx.crew.uni o.g.d)
            (readAll s.ctx.crew (s.ctx.wave.lane (lowestLane (s.ctx.act o.g.m))) o.srcs)))
       else s.modWave s.ctx.cur.wave (fun w => w.mapLanes (s.ctx.act o.g.m) (fun _ ln =>
        ln.writeV o.g.d (o.val ln (ln.readV o.g.d) (readAll s.ctx.crew ln o.srcs))))) i.size)

/-- CompareResult (R255, R256, R44). CMPP, in every form, completes when the checks find nothing: each active fibre's named
predicate is the comparison of its two operands; nothing else changes. -/
def Obligations.CompareResult : Prop :=
  ∀ (i : Instr) (g : Arg) (s : State), cmppOf i = some g → s.Clear g rolesAll (g.srcA.opds ++ g.srcB.opds) →
    s.OnLanes (s.ctx.act g.m) (fun ln => sameTags addRow ((readAll s.ctx.crew ln [g.srcA, g.srcB]).map (·.tag)) = none) →
    exec i s = .next (State.advance (s.modWave s.ctx.cur.wave (fun w => w.mapLanes (s.ctx.act g.m) (fun _ ln =>
      ln.setPred (g.d % 8) (cmpWord (g.srcA.read s.ctx.crew ln .raw).tag g.m.ftz (g.d / 16)
        (g.srcA.read s.ctx.crew ln .raw).val
        (g.srcB.read s.ctx.crew ln (g.srcA.read s.ctx.crew ln .raw).tag).val)))) i.size)

/-- WideMoveResult (R43, R287). The wide form of MOV copies value and tag between the full uniform space and a vector register of
the active fibres; into a uniform register it writes once, from the lowest active lane, which alone is read. -/
def Obligations.WideMoveResult : Prop :=
  ∀ (f : Ext) (s : State),
    let g := f.arg
    let src := g.w2f 10 10
    let dst := g.w2f 0 10
    let low := s.ctx.wave.lane (lowestLane (s.ctx.act g.m))
    s.Issuing → s.HasRole rolesAll → s.InWindow [if g.w2f 20 2 = 2 then Opd.v src else .u src, if g.w2f 20 2 = 1 then .v dst else .u dst] →
    s.Landed g [if g.w2f 20 2 = 1 then .v dst else .u dst] →
    (if g.w2f 20 2 = 2 then (low.readV src).pend = false else (s.ctx.crew.uni src).pend = false) → s.Active g →
    (g.w2f 20 2 = 0 → exec (.movWide f) s =
      .next ((s.setUni s.ctx.crewId dst (Reg.done (s.ctx.crew.uni src).val (s.ctx.crew.uni src).tag)).advance 3)) ∧
    (g.w2f 20 2 = 1 → exec (.movWide f) s =
      .next ((s.modWave s.ctx.cur.wave (fun w => w.mapLanes (s.ctx.act g.m) (fun _ ln =>
        ln.writeV dst (Reg.done (s.ctx.crew.uni src).val (s.ctx.crew.uni src).tag)))).advance 3)) ∧
    (g.w2f 20 2 = 2 → exec (.movWide f) s =
      .next ((s.setUni s.ctx.crewId dst
        (Reg.done (low.readV src).val (low.readV src).tag)).advance 3))

/-- TripleResult (R329, R330, R85, R86). WELF replaces the triple of every active fibre by the triple with the sample taken in;
WMERGE writes the merged triple to every active fibre, or once to three uniform registers when both sources are uniform. -/
def Obligations.TripleResult : Prop :=
  (∀ (i : Instr) (g : Arg) (s : State), welfOf i = some g →
    s.Clear g rolesGV [.v g.a, .v g.d, .v (g.d + 1), .v (g.d + 2)] →
    s.OnLanes (s.ctx.act g.m) (fun ln => (ln.readV g.a).tag = .f32 ∧ (ln.readV g.d).tag = .n32 ∧ (ln.readV (g.d + 1)).tag = .f32 ∧
      (ln.readV (g.d + 2)).tag = .f32) →
    exec i s = .next (State.advance (s.modWave s.ctx.cur.wave (fun w => w.mapLanes (s.ctx.act g.m) (fun _ ln =>
      let r := welfStep (ln.readV g.d).val (ln.readV (g.d + 1)).val (ln.readV (g.d + 2)).val (ln.readV g.a).val
      ((ln.writeV g.d (Reg.done r.1 .n32)).writeV (g.d + 1) (Reg.done r.2.1 .f32)).writeV (g.d + 2) (Reg.done r.2.2 .f32)))) i.size)) ∧
  (∀ (f : Ext) (s : State),
    let g := f.arg
    let u := g.m.au && g.m.bu
    let reg (uni : Bool) (n : Nat) : Opd := if uni then .u n else .v n
    s.Clear g rolesAll [reg g.m.au g.a, reg g.m.au (g.a + 1), reg g.m.au (g.a + 2), reg g.m.bu g.b, reg g.m.bu (g.b + 1),
      reg g.m.bu (g.b + 2), reg u g.d, reg u (g.d + 1), reg u (g.d + 2)] →
    s.OnLanes (s.ctx.act g.m) (fun ln =>
      let t (uni : Bool) (n : Nat) : Tag := (readOpd s.ctx.crew ln uni n).tag
      t g.m.au g.a = .n32 ∧ t g.m.bu g.b = .n32 ∧ t g.m.au (g.a + 1) = .f32 ∧ t g.m.au (g.a + 2) = .f32 ∧
      t g.m.bu (g.b + 1) = .f32 ∧ t g.m.bu (g.b + 2) = .f32) → s.Active g →
    (u = true → exec (.wmerge f) s =
      (let r := wmergeOf s.ctx.crew (s.ctx.wave.lane (lowestLane (s.ctx.act g.m))) g
       .next ((((s.setUni s.ctx.crewId g.d (Reg.done r.1 .n32)).setUni s.ctx.crewId (g.d + 1) (Reg.done r.2.1 .f32)).setUni
        s.ctx.crewId (g.d + 2) (Reg.done r.2.2 .f32)).advance 3))) ∧
    (u = false → exec (.wmerge f) s =
      .next ((s.modWave s.ctx.cur.wave (fun w => w.mapLanes (s.ctx.act g.m) (fun _ ln =>
        let r := wmergeOf s.ctx.crew ln g
        ((ln.writeV g.d (Reg.done r.1 .n32)).writeV (g.d + 1) (Reg.done r.2.1 .f32)).writeV (g.d + 2) (Reg.done r.2.2 .f32)))).advance 3)))

/-- CrossLaneResult (R298, R299, R312). PERM writes, in every active fibre, the four bytes its selector names, tagged RAW; SHFL
writes, in every active fibre, value and tag of the lane it names, read before any write. -/
def Obligations.CrossLaneResult : Prop :=
  (∀ (i : Instr) (g : Arg) (s : State), permOf i = some g → s.Clear g rolesGV (permTable g ++ g.srcB.opds ++ [.v g.d]) →
    exec i s = .next (State.advance (s.modWave s.ctx.cur.wave (fun w => w.mapLanes (s.ctx.act g.m) (fun _ ln =>
      ln.writeV g.d (Reg.done (permWord ((permTable g).map (fun o => (readOne s.ctx.crew ln o).val))
        (g.srcB.read s.ctx.crew ln .raw).val) .raw)))) i.size)) ∧
  (∀ (i : Instr) (g : Arg) (s : State), shflOf i = some g → s.Issuing → s.HasRole rolesGV →
    s.InWindow (.v g.a :: (g.srcB.opds ++ [.v g.d])) → s.Landed g (g.srcB.opds ++ [.v g.d]) →
    s.OnLanes (s.ctx.act g.m) (fun ln => (shflSource s.ctx g.a (shflLane s.ctx g ln)).pend = false) →
    exec i s = .next (State.advance (s.modWave s.ctx.cur.wave (fun w => w.mapLanes (s.ctx.act g.m) (fun _ ln =>
      let r := shflSource s.ctx g.a ((g.srcB.read s.ctx.crew ln .raw).val.toNat % 32)
      ln.writeV g.d (Reg.done r.val r.tag)))) i.size))

/-- TreeResult (R83, R84, R303, R308). REDUCE gives every active fibre the tree over the active lanes, SCAN the tree over the
active lanes up to its own, every other lane contributing the identity. -/
def Obligations.TreeResult : Prop :=
  ∀ (i : Instr) (g : Arg) (scan : Bool) (t : Tag) (s : State), treeOf i = some (g, scan) → s.Clear g rolesGV [.v g.a, .v g.d] →
    redTagOk (g.b % 16) t = true → s.OnLanes (s.ctx.act g.m) (fun ln => (ln.readV g.a).tag = t) → s.Active g →
    exec i s = .next (State.advance (s.modWave s.ctx.cur.wave (fun w => w.mapLanes (s.ctx.act g.m) (fun l ln =>
      ln.writeV g.d (Reg.done (reduceTree (redStep (g.b % 16) t g.m.ftz)
        (laneVals s.ctx (laneSet (fun k => (s.ctx.act g.m).getLsbD k && decide (k ≤ (if scan then l else 31)))) g.a
          (redIdentity (g.b % 16) t))) t)))) i.size)

/-- FunctionIssues (R310, R311, R49, R50, R51, R56). SFU reads its source at issue; its destination is pending, its flag one
higher, and the results are on their way to landing. While the flag stands at 63 the clause holds there. -/
def Obligations.FunctionIssues : Prop :=
  ∀ (i : Instr) (g : Arg) (s : State), sfuOf i = some g → s.Clear g rolesGV (g.srcA.opds ++ [.v g.d]) →
    s.OnLanes (s.ctx.act g.m) (fun ln => (g.srcA.read s.ctx.crew ln .raw).tag = .f32 ∨ (g.srcA.read s.ctx.crew ln .raw).tag = .f16x2) →
    s.Active g →
    (s.FlagFree g.m.fsel → exec i s = .next ((s.issued g id ((laneList (s.ctx.act g.m)).map (fun l =>
      let ln := s.ctx.wave.lane l
      let r := g.srcA.read s.ctx.crew ln .raw
      .lane l (ln.wb + g.d) (sfuWord r.tag g.m.ftz (g.b % 16) r.val) r.tag))).advance i.size)) ∧
    (¬ s.FlagFree g.m.fsel → exec i s = .next s.held)

/-- SpillResult (R315, R90, R49, R51). SPUSH puts its operand on top of the spill stack of every active fibre; SPOP takes the top
entry off at issue, and it lands with the named tag; while the flag of SPOP stands at 63 the clause holds there. -/
def Obligations.SpillResult : Prop :=
  (∀ (i : Instr) (g : Arg) (s : State), spushOf i = some g → s.Clear g rolesAll g.srcA.opds →
    s.OnLanes (s.ctx.act g.m) (fun ln => ln.spill.length < s.ctx.crew.spillMax) →
    exec i s = .next (State.advance (s.modWave s.ctx.cur.wave (fun w => w.mapLanes (s.ctx.act g.m) (fun _ ln =>
      { ln with spill := ln.spill ++ [(g.srcA.read s.ctx.crew ln .raw).val] }))) i.size)) ∧
  (∀ (i : Instr) (g : Arg) (s : State), spopOf i = some g → s.Clear g rolesAll [.v g.d] →
    s.OnLanes (s.ctx.act g.m) (fun ln => ln.spill ≠ []) → s.Active g →
    (s.FlagFree g.m.fsel → exec i s = .next ((s.issued g (fun ln => { ln with spill := ln.spill.take (ln.spill.length - 1) })
      ((laneList (s.ctx.act g.m)).map (fun l =>
        .lane l ((s.ctx.wave.lane l).wb + g.d) ((s.ctx.wave.lane l).top 0) (tagOf (g.b / 16))))).advance i.size)) ∧
    (¬ s.FlagFree g.m.fsel → exec i s = .next s.held))

/-- LoadIssues (R277, R278, R112, R50, R51, R88, R95, R109). LDL and LDS, in every form, complete when the checks find nothing and
nothing makes them wait: the loads of the active fibres are sent, their destinations are pending and their flag is one higher. With
nothing under way that a load must follow and every address
translated, the words are read at once and land together, each with the named tag, and nothing else changes: that they are read at issue,
where R121 and R280 allow a later read, is the model's choice (log 23, log 6). An LDS of an absent shelf line, or without the transactions it
needs, parks its fibres there, and a full flag holds the clause. -/
def Obligations.LoadIssues : Prop :=
  (∀ (i : Instr) (g : Arg) (shelf : Bool) (s : State), loadOf i = some (g, shelf) →
    s.Clear g rolesAll (g.srcA.opds ++ [.v g.d]) → s.Reachable g shelf → s.Active g →
    let lines := lsLines (lsLanes s s.ctx g shelf)
    (s.FlagFree g.m.fsel → (shelf = true → s.LinesReady lines) →
      exec i s = .next ((sendLoads s s.ctx g (lsLanes s s.ctx g shelf)).advance i.size)) ∧
    (¬ s.FlagFree g.m.fsel → (shelf = true → s.LinesReady lines) → exec i s = .next s.held) ∧
    (shelf = true → s.SomeAbsent lines → exec i s = .next ((s.parkLanes (s.ctx.act g.m) (.absent lines)).advance i.size)) ∧
    (shelf = true → ¬ s.SomeAbsent lines → s.txnsFree s.ctx.crew.core lines.length = false →
      exec i s = .next ((s.parkLanes (s.ctx.act g.m) (.txns lines.length)).advance i.size))) ∧
  (∀ (g : Arg) (ls : List (Nat × VAddr)) (s : State),
    let t := ls.foldl (fun t e => t.catchUp s.ctx.cur.wave (laneBit e.1) [(s.ctx.wave.lane e.1).fibre] e.2 4) s
    let up (u : State) : State := match s.ctx.cur.flagOf g.m.fsel with
      | some f => u.modWave s.ctx.cur.wave (fun w => w.flagUp f)
      | none => u
    (s.NothingQueued → t = s) ∧
    (sendLoads s s.ctx g ls).waves = ((up t).modWave s.ctx.cur.wave (fun w =>
      w.mapLanes (s.ctx.act g.m) (fun _ ln => ln.pendV g.d))).waves) ∧
  (∀ (g : Arg) (shelf : Bool) (s : State), s.NothingQueued → s.Active g →
    (∀ e ∈ lsLanes s s.ctx g shelf, (s.taskWord? s.ctx.crewId e.2).isSome = true) → lsLanes s s.ctx g shelf ≠ [] →
    sendLoads s s.ctx g (lsLanes s s.ctx g shelf) =
      ((s.countOp s.ctx.cur.wave (s.ctx.cur.flagOf g.m.fsel)).2.modWave s.ctx.cur.wave (fun w =>
        w.mapLanes (s.ctx.act g.m) (fun _ ln => ln.pendV g.d))).addFlight
        { op := s.nextUid, wave := s.ctx.cur.wave, flag := s.ctx.cur.flagOf g.m.fsel,
          txns := 0, lines := lsLines (lsLanes s s.ctx g shelf),
          payload := .regs ((lsLanes s s.ctx g shelf).map (fun e =>
            .lane e.1 ((s.ctx.wave.lane e.1).wb + g.d) ((s.taskWord? s.ctx.crewId e.2).getD 0#32) (tagOf (g.b / 16)))),
          fault := none })

/-- StoreResult (R318, R319, R107, R127, R88, R95, R97, R109). STL and STS, in every form, complete when the checks find nothing
and nothing makes them wait: the active fibres store in ascending lane order, each the value of its vs, buffered in a DET region
and at its home elsewhere. With nothing queued before them, each home outside DET regions then holds the value of the highest lane that
stores there. An STL to a pinned row, and an STS of an absent shelf line or without the transactions it needs, park
their fibres there; a write buffer without room stops the gang with OVERFLOW and the bytes needed in INFO. That a line which keeps
its charge from an earlier phase is not charged again is the model's choice (log 72). -/
def Obligations.StoreResult : Prop :=
  ∀ (i : Instr) (g : Arg) (shelf : Bool) (s : State), storeOf i = some (g, shelf) →
    s.Clear g rolesAll (g.srcA.opds ++ [.v g.d]) →
    s.OnLanes (s.ctx.act g.m) (fun ln => tagOf (g.b / 16) = .raw ∨ (ln.readV g.d).tag = tagOf (g.b / 16)) →
    s.Reachable g shelf → s.Active g →
    let lines := lsLines (lsLanes s s.ctx g shelf)
    let rows := lsRows (lsLanes s s.ctx g shelf)
    let charges := storeCharges s s.ctx (lsLanes s s.ctx g shelf)
    let b := s.buffer s.ctx.crewId [] charges
    ((shelf = true → s.LinesReady lines ∧ (charges = [] ∨ s.ctx.crew.overflows charges = none)) →
      (shelf = false → s.anyPinned rows = false) →
      exec i s = .next (((lsLanes s s.ctx g shelf).foldl
        (fun t e => storeOne t s.ctx b.nextUid e.1 e.2 ((s.ctx.wave.lane e.1).readV g.d).val)
        { b with nextUid := b.nextUid + 1 }).advance i.size)) ∧
    (shelf = false → s.anyPinned rows = true → exec i s = .next ((s.parkLanes (s.ctx.act g.m) (.pinned rows)).advance i.size)) ∧
    (shelf = true → s.SomeAbsent lines → exec i s = .next ((s.parkLanes (s.ctx.act g.m) (.absent lines)).advance i.size)) ∧
    (shelf = true → ¬ s.SomeAbsent lines → s.txnsFree s.ctx.crew.core lines.length = false →
      exec i s = .next ((s.parkLanes (s.ctx.act g.m) (.txns lines.length)).advance i.size)) ∧
    (∀ need, shelf = true → s.LinesReady lines → charges ≠ [] → s.ctx.crew.overflows charges = some need →
      need = (charges.map (·.bytes)).sum ∧ s.ctx.crew.wbufCap < s.ctx.crew.charged + need ∧
        exec i s = .next (s.takeFault s.ctx.cur
          { cls := .overflow, info := BitVec.ofNat 64 need, addr := 0#64, lanes := s.ctx.act g.m } 0#32)) ∧
    ((shelf = true → s.LinesReady lines ∧ (charges = [] ∨ s.ctx.crew.overflows charges = none)) →
      (shelf = false → s.anyPinned rows = false) → s.NothingQueued → s.memoriesWf = true →
      (∀ e ∈ lsLanes s s.ctx g shelf, s.detAt s.ctx.crewId e.2 = none → s.PlainHome e.2) →
      ∃ t, exec i s = .next t ∧ ∀ l a h, (l, a) ∈ lsLanes s s.ctx g shelf → s.detAt s.ctx.crewId a = none →
        s.home? s.ctx.launch.part s.ctx.launch.tenant a = some h →
        (∀ k b j, (k, b) ∈ lsLanes s s.ctx g shelf → l < k → s.detAt s.ctx.crewId b = none →
          s.home? s.ctx.launch.part s.ctx.launch.tenant b = some j → j ≠ h) →
        t.homeWord h = ((s.ctx.wave.lane l).readV g.d).val)

/-- AtomicIssues (R236, R237, R127, R51, R97, R109). ATOM and ATOMC, in every form, complete when the checks find nothing and
nothing makes them wait: their destination is pending, and each active fibre's operation is on its way to its address, with its
operand, its comparand and its scope, or, in a DET region and with nothing queued before it, stands as a reduction entry in the task's
write buffer, with the fibre and the fibre's sequence number. A local one on a pinned row, and another without the transactions it needs, park their fibres; a write buffer without room
stops the gang with OVERFLOW and the bytes needed in INFO; a full flag holds the clause. -/
def Obligations.AtomicIssues : Prop :=
  ∀ (i : Instr) (a : AtomArg) (s : State), atomOf i = some a → s.Clear a.g rolesAll a.opds → s.AtomReachable a → s.Active a.g →
    let n := (laneList (s.ctx.act a.g.m)).length
    let charges := a.charges s s.ctx
    let may := (a.scope < 2 → s.anyPinned (a.rows s s.ctx) = false) ∧ (2 ≤ a.scope → s.txnsFree s.ctx.crew.core n = true)
    let free := may ∧ (charges = [] ∨ s.ctx.crew.overflows charges = none)
    let flag := if a.noret then none else s.ctx.cur.flagOf a.g.m.fsel
    let c := (s.buffer s.ctx.crewId [] charges).countOp s.ctx.cur.wave flag
    let named := if a.noret then c.2 else c.2.modWave s.ctx.cur.wave (fun w => w.mapLanes (s.ctx.act a.g.m) (fun _ ln =>
      if a.wide then (ln.pendV a.g.d).pendV (a.g.d + 1) else ln.pendV a.g.d))
    (free → (a.noret = false → s.FlagFree a.g.m.fsel) →
      exec i s = .next (((a.lanes s s.ctx).foldl (fun t e => a.send s.ctx c.1 flag t e.1 e.2) named).advance i.size)) ∧
    (free → a.noret = false → ¬ s.FlagFree a.g.m.fsel → exec i s = .next s.held) ∧
    (a.scope < 2 → s.anyPinned (a.rows s s.ctx) = true →
      exec i s = .next ((s.parkLanes (s.ctx.act a.g.m) (.pinned (a.rows s s.ctx))).advance i.size)) ∧
    (2 ≤ a.scope → s.txnsFree s.ctx.crew.core n = false →
      exec i s = .next ((s.parkLanes (s.ctx.act a.g.m) (.txns n)).advance i.size)) ∧
    (∀ need, may → charges ≠ [] → s.ctx.crew.overflows charges = some need →
      need = (charges.map (·.bytes)).sum ∧ s.ctx.crew.wbufCap < s.ctx.crew.charged + need ∧
        exec i s = .next (s.takeFault s.ctx.cur
          { cls := .overflow, info := BitVec.ofNat 64 need, addr := 0#64, lanes := s.ctx.act a.g.m } 0#32)) ∧
    (free → (a.noret = false → s.FlagFree a.g.m.fsel) → (∀ e ∈ a.lanes s s.ctx, s.detAt s.ctx.crewId e.2 = none) →
      ∃ t, exec i s = .next t ∧ ∀ l p, (l, p) ∈ a.lanes s s.ctx →
        let ln := s.ctx.wave.lane l
        let x := a.x s.ctx.crew ln
        let tag := a.tag s.ctx.crew ln
        ∃ k, (k, ({ op := c.1, wave := s.ctx.cur.wave, crew := s.ctx.crewId, lane := l, lanes := laneBit l, fibres := [ln.fibre],
                    flag := flag, scope := a.scope, rel := a.g.m.rel, acq := a.g.m.acq,
                    what := if a.cas then .cas a.wide x (readPair s.ctx.crew ln a.cmpOpds) tag else .atom a.op a.wide x tag,
                    addr := p, ret := if a.noret then none else some (ln.wb + a.g.d), txns := if a.scope < 2 then 0 else 1,
                    fault := none } : Access)) ∈ t.accesses) ∧
    (∀ k0, free → s.NothingQueued → (∀ e ∈ a.lanes s s.ctx, s.detAt s.ctx.crewId e.2 ≠ none) →
      look s.ctx.crewId s.crews = some k0 → s.ctx.gang.phase ≠ .stopped →
      ∃ t, exec i s = .next t ∧ (t.crew s.ctx.crewId).wbuf = k0.wbuf ++ (a.lanes s s.ctx).filterMap (fun e =>
        let ln := s.ctx.wave.lane e.1
        (s.detAt s.ctx.crewId e.2).map (fun r =>
          .red r.1 r.2 a.op a.wide (a.x s.ctx.crew ln) (a.tag s.ctx.crew ln) (s.ctx.wave.idx * 32 + e.1) ln.detSeq)))

/-- TransferResult (R247, R248, R250, R253, R305, R48). BRA, BRX, CALL and RET, in every form, complete when the checks find
nothing: every active fibre leaves the clause at its new PC, with its stack and window as CALL and RET leave them; BRC sends the
fibres whose predicate is as named to its target. -/
def Obligations.TransferResult : Prop :=
  (∀ (i : Instr) (g : Arg) (pc : Lane → Word) (s : State), branchOf s i = some (g, pc) → s.Issuing → s.HasRole rolesAll →
    (match i with | .brx f => s.InWindow f.arg.srcA.opds | _ => True) →
    s.OnLanes (s.ctx.act g.m) (branchOk s i) →
    exec i s = .next ((s.transfer (s.ctx.act g.m) (fun _ ln => { branchLane s i ln with pc := pc ln })).advance i.size)) ∧
  (∀ (off : BitVec 20) (neg : Bool) (p : BitVec 3) (s : State), s.Issuing → s.HasRole rolesAll →
    exec (.brc off neg p) s = .next ((s.transfer
      (laneSet (fun l => s.ctx.cur.lanes.getLsbD l && ((s.ctx.wave.lane l).preds.getLsbD p.toNat != neg)))
      (fun _ ln => { ln with pc := s.here + off.signExtend 32 })).advance 1))

/-- ClauseLeft (R48, R18). After a transfer that stands last in its clause, the clause is over: the fibres that took it stand at
their new PC, the other fibres of the cohort at the next header, and every other lane where it was. -/
def Obligations.ClauseLeft : Prop :=
  ∀ (s : State) (c : Cursor) (w : Wave) (m : Lanes) (f : Nat → Lane → Lane) (n : Nat), s.cur = some c → c.count ≤ c.idx + 1 →
    look c.wave s.waves = some w → w.lanes.length = 32 → (∀ l, m.getLsbD l = true → c.lanes.getLsbD l = true) →
    ((s.transfer m f).advance n).cur = none ∧
    ∀ l, l < 32 →
      (m.getLsbD l = true → (((s.transfer m f).advance n).wave c.wave).lane l =
        { f l (w.lane l) with pos := 0, xfer := some c.addr }) ∧
      (m.getLsbD l = false → c.lanes.getLsbD l = true → (((s.transfer m f).advance n).wave c.wave).lane l =
        { w.lane l with pc := c.addr + BitVec.ofNat 32 n, pos := 0, xfer := none }) ∧
      (c.lanes.getLsbD l = false → (((s.transfer m f).advance n).wave c.wave).lane l = w.lane l)

/-- ForkResult (R14, R266). FORK, in both forms, completes outside keyed-node crews: active lanes and free lanes are paired in
ascending order, each pair's free lane takes a child, and each active fibre's predicate says whether it got one. That a child in an
ordinary node's crew has its parent's order key is the model's choice (log 77). -/
def Obligations.ForkResult : Prop :=
  ∀ (i : Instr) (g : Arg) (pd n : Nat) (off : Word) (s : State), forkOf i = some (g, pd, n, off) →
    s.Clear g rolesAll ((List.range n).map (fun k => .v (g.a + k))) → s.keyedCrew s.ctx = false →
    s.OnLanes (s.ctx.act g.m) (fun ln => ln.wb + g.a + n ≤ s.ctx.crew.nreg) →
    let act := laneList (s.ctx.act g.m)
    let free := (List.range 32).filter (fun l => (s.ctx.wave.lane l).status == .free)
    exec i s = .next ((((act.zip free).foldl
        (fun t e => t.forkOne s.ctx.cur.wave e.1 e.2 g.a n (s.here + off) s.ctx.cur.addr) s).modWave s.ctx.cur.wave (fun w =>
      w.mapLanes (s.ctx.act g.m) (fun l ln => ln.setPred pd ((act.take free.length).contains l)))).advance i.size)

/-- EndResult (R15, R16, R186, R272, R273). FEND, in both forms, ends every active fibre outside keyed-node crews; in a keyed-node
crew KSUSP saves the contexts of the active fibres and KRET ends them, and both end the fibres. -/
def Obligations.EndResult : Prop :=
  (∀ (i : Instr) (g : Arg) (s : State), fendOf i = some g → s.Issuing → s.HasRole rolesAll → s.keyedCrew s.ctx = false →
    exec i s = .next ((s.endLanes (s.ctx.act g.m)).advance i.size)) ∧
  ((∀ (f : Ext) (s : State),
    let g := f.arg
    s.Clear g rolesAll (keyOpds (s.kregsOf s.ctx)) → s.keyedCrew s.ctx = true →
    exec (.ksusp f) s = .next ((((laneList (s.ctx.act g.m)).foldl (fun t l => t.saveContext (s.here + 3#32) s.here (s.ctx.wave.lane l)) s).endLanesBy
      (s.ctx.act g.m) Lane.dropFibre).advance 3)) ∧
  (∀ (f : Ext) (s : State),
    let g := f.arg
    s.Issuing → s.HasRole rolesAll → s.keyedCrew s.ctx = true →
    exec (.kret f) s = .next ((((laneList (s.ctx.act g.m)).foldl (fun t l => t.endContext (s.ctx.wave.lane l)) s).endLanes
      (s.ctx.act g.m)).advance 3)))

/-- NopAndYield (R296, R333, R20). NOP changes nothing but the place in the clause; YIELD, with a fibre active, has the wave
passed over, from the end of its clause on, until the other waves of its core have had an opportunity, and does nothing else; with
none it does nothing. That the waves waited for are those on the core when the clause ends, and that one of them is waited for no
longer when it is not ready, is the model's choice (log 47). -/
def Obligations.NopAndYield : Prop :=
  (∀ s : State, s.Issuing → exec .nop s = .next (s.advance 1)) ∧
  ∀ (i : Instr) (g : Arg) (s : State), yieldOf i = some g → s.Issuing →
    (s.Active g → exec i s = .next (({ s with cur := some { s.ctx.cur with yielded := true } } : State).advance i.size) ∧
      (s.ctx.cur.count ≤ s.ctx.cur.idx + 1 →
        let u := s.modWave s.ctx.cur.wave (fun w => w.mapLanes s.ctx.cur.lanes (fun _ x =>
          { x with pc := s.ctx.cur.addr + BitVec.ofNat 32 i.size, pos := 0, xfer := none }))
        exec i s = .next { (u.modWave s.ctx.cur.wave (fun w => { w with passTo := some (u.othersOnCore s.ctx.cur.wave) })) with
          cur := none })) ∧
    (¬ s.Active g → exec i s = .next (s.advance i.size))

/-- CopyIssues (R98, R258, R99, R100, R51, R109, R112). COPY, COPYB, COPYG and COPYS complete with a sound descriptor that can be read:
the copy goes to the engine with all its elements to come, its status register is pending, its flag rises. Without the transaction
it needs the fibres park there; a full flag holds the clause. A descriptor behind the fibres' own accesses, or on a page that is missing,
cannot be read at this issue opportunity: that the fibres then stand before the instruction, neither parked nor held, the page asked
for, and that a page declared fatal is met there, is the model's choice (log 12). -/
def Obligations.CopyIssues : Prop :=
  (∀ (c : Cursor) (v : State), v.cur = some c → v.giveBack = { (v.modWave c.wave (fun w => w.mapLanes c.lanes (fun _ x =>
    { x with park := none, pos := c.idx + 1, pc := c.pc, woken := false, yielded := c.yielded }))) with cur := none }) ∧
  (∀ (i : Instr) (g : Arg) (sub : Nat) (s : State), copyOf i = some (g, sub) → s.Issuing → s.HasRole rolesGC →
    s.Landed g [.u g.a, .u (g.a + 1), .u g.d] → s.Active g →
    (spaceOf (copyAddr s.ctx g) = 1 ∨ spaceOf (copyAddr s.ctx g) = 2) → (copyAddr s.ctx g).extractLsb' 0 4 = 0#4 →
    (copyPlace s s.ctx g sub).isSome = true → copyFault s s.ctx g sub = none → s.WordsBehind i (copyReady s s.ctx g sub)) ∧
  ∀ (i : Instr) (g : Arg) (sub : Nat) (d : CopyDesc) (s : State), copyOf i = some (g, sub) → s.Issuing → s.HasRole rolesGC →
    s.Landed g [.u g.a, .u (g.a + 1), .u g.d] → s.Active g →
    (spaceOf (copyAddr s.ctx g) = 1 ∨ spaceOf (copyAddr s.ctx g) = 2) → (copyAddr s.ctx g).extractLsb' 0 4 = 0#4 →
    (copyPlace s s.ctx g sub).isSome = true → copyFault s s.ctx g sub = none → copyReady s s.ctx g sub = .go →
    copyDesc s s.ctx g sub = some d →
    (s.txnsFree s.ctx.crew.core 1 = false → exec i s = .next ((s.parkLanes (s.ctx.act g.m) (.txns 1)).advance 3)) ∧
    (s.txnsFree s.ctx.crew.core 1 = true → s.ctx.crew.overflows (s.copyCharges s.ctx.crewId d s.nextUid) = none →
      (s.FlagFree g.m.fsel → exec i s = .next ((copyIssue g sub s).advance 3)) ∧
      (¬ s.FlagFree g.m.fsel → exec i s = .next s.held)) ∧
    let u := s.catchUpLanes s.ctx.cur.wave (s.ctx.act g.m)
    (∃ k c, (copyIssue g sub s).copies = u.copies ++ [(k, c)] ∧ c.desc = d ∧ c.wave = s.ctx.cur.wave ∧
      c.d = g.d ∧ c.left = [{ base := 0, len := d.total }] ∧ c.signal = (sub == 3)) ∧
    (copyIssue g sub s).waves = (match s.ctx.cur.flagOf g.m.fsel with
      | some f => (u.modWave s.ctx.cur.wave (fun w => w.flagUp f)).waves
      | none => u.waves) ∧
    (∀ c, look s.ctx.crewId u.crews = some c → g.d < c.unis.length →
      ((copyIssue g sub s).crew s.ctx.crewId).uni g.d = { s.ctx.crew.uni g.d with pend := true })

/-- BarrierResult (R239, R240, R241, R242, R106, R128). BARINIT, BARARR and BAREXP complete with a sound object whose page is there:
once what must perform first has performed, the object's home does their operation. BARINIT writes the object's four words and
completes no phase; an arrival lowers ARRIVE_PENDING, down to zero, BAREXP raises BYTES_PENDING and a credit lowers it, and nothing
else of the object changes, unless both are zero then: PHASE flips, ARRIVE_PENDING takes ARRIVE_COUNT, BYTES_PENDING stays zero, and
the fibres parked on the phase wake. At an object in slack water the operation waits; one bound to DET regions whose counts are zero
completes no phase by itself. That an object in shelf ends the gang's replayability, for BARINIT and BAREXP as for an arrival (log 29),
and that an operation at an object marks it as one for atomics (log 19), are the model's choices. -/
def Obligations.BarrierResult : Prop :=
  (∀ (i : Instr) (g : Arg) (op : BarOp) (rel : Option Nat) (a : VAddr) (h : Home) (s : State), barrierOf s i = some (g, op, rel) →
    s.Ready g rolesAll (barOpds g) → barrierOk s i → s.BarrierAt g a h →
    let act := s.ctx.act g.m
    let fs := s.ctx.wave.fibres act
    let r := match a with | .loc _ _ => s | _ => s.notReplayable s.ctx.gangId
    let t := (r.catchUpLanes s.ctx.cur.wave act).catchUp s.ctx.cur.wave act fs a 16
    exec i s = .next ((r.barSend s.ctx act a op rel).advance 3) ∧
    (t.blocked t.nextUid s.ctx.cur.wave act fs a 16 = false → t.behindCore t.nextUid t.nextUid s.ctx.crewId a = false →
      (∀ n, rel = some n → t.unreleased t.nextUid s.ctx.cur.wave act fs n = false) →
      (∀ e ∈ t.accesses, e.1 < t.nextUid) → t.home? (t.spaceOfCrew s.ctx.crewId).1 (t.spaceOfCrew s.ctx.crewId).2 a = some h →
      exec i s = .next ((({ t with nextUid := t.nextUid + 1 } : State).barOp h op).advance 3))) ∧
  (∀ (h : Home) (op : BarOp) (s : State), s.memoriesWf = true → (∀ c o, h = .loc c o → (look c s.crews).isSome = true) →
    (s.detBarsOf h = [] ∨ s.inSlack h = false) →
    let t := s.barOp h op
    let w (u : State) (j : Nat) : Word := u.homeWord (h.plus (4 * j))
    (∀ n, op = .init n → w t 0 = BitVec.ofNat 32 n <<< 16 ∧ w t 1 = BitVec.ofNat 32 n ∧ w t 2 = 0#32 ∧ w t 3 = 0#32 ∧
      t.waves = (s.wakeAt h true).waves) ∧
    ∀ pend bytes : Word, ((∃ c a, op = .arrive c a ∧ pend = BitVec.ofNat 32 ((w s 0 >>> 16).toNat - a) ∧ bytes = w s 2) ∨
        (∃ x, op = .expect x ∧ pend = w s 0 >>> 16 ∧ bytes = w s 2 + x) ∨
        (∃ k, op = .credit k ∧ pend = w s 0 >>> 16 ∧ bytes = w s 2 - BitVec.ofNat 32 k)) →
      w t 1 = w s 1 ∧ w t 3 = w s 3 ∧ w t 2 = bytes ∧
      (¬ (pend = 0#32 ∧ bytes = 0#32) → w t 0 = (w s 0 &&& 0xFFFF#32) ||| (pend <<< 16) ∧ t.waves = s.waves) ∧
      (pend = 0#32 → bytes = 0#32 → s.detBarsOf h = [] →
        w t 0 = ((w s 0 ^^^ 1#32) &&& 0xFFFF#32) ||| ((w s 1 &&& 0xFFFF#32) <<< 16) ∧
        t.waves = (s.wakeAt h ((w s 0).getLsbD 0)).waves) ∧
      (pend = 0#32 → bytes = 0#32 → s.detBarsOf h ≠ [] → w t 0 = w s 0 &&& 0xFFFF#32 ∧ t.waves = s.waves)) ∧
  (∀ (h : Home) (op : BarOp) (k : Nat) (b : DetBar) (bs : List (Nat × DetBar)) (s : State), s.detBarsOf h = (k, b) :: bs →
    s.inSlack h = true →
    s.barOp h op = (s.markBarrier h).modDetBar k b.pa (fun x => { x with held := x.held ++ [op] }))

/-- BarrierWaitResult (R243, R244, R126, R17, R108, R110, R112, R128, R245). BARWAIT lets fibres go on when the phase has left the
parity they name, and fibres that a completion has woken whatever the phase is again, with a new snapshot of the merges so far; the
others park there: while the phase lasts, through slack water, behind what must perform first at the object, and for its page, which
is asked for once. A completion wakes the fibres parked at the object with its parity, and a fault that waits for the object stops the gang.
BARTEST writes, in every active fibre, whether the phase has left the parity it names, once the object is out of slack water and its own
fibres' operations at it have performed. That a fibre in slack water or behind other accesses parks on the object as on its phase, and
that fibres whose BARTEST cannot read the object yet stand before it, neither parked nor held (log 12), and that either instruction makes the object a barrier object (log 19), are the model's choices. -/
def Obligations.BarrierWaitResult : Prop :=
  (∀ (f : Ext) (a : VAddr) (h : Home) (s : State),
    let g := f.arg
    let act := s.ctx.act g.m
    let q := barParity s.ctx g
    let u := s.atBarrier g a
    let parks (r : ParkReason) : Host.Outcome State Fault Refusal := .next (((s.askFor r).parkLanes act r).advance 3)
    let goesOn : Host.Outcome State Fault Refusal := .next ((((u.modWave s.ctx.cur.wave (fun w =>
      w.mapLanes act (fun _ ln => { ln with woken := false }))).markBarrier h).newSnaps s.ctx.crewId h).advance 3)
    s.Ready g rolesAll (barOpds g) → s.BarrierAt g a h → s.BarrierThere g a h →
    (∀ d, u.deferredAt s.ctx.crewId (.barrier h) = some d →
      exec (.barwait f) s = .next (s.takeFault s.ctx.cur (d.precise act) 0#32)) ∧
    (u.deferredAt s.ctx.crewId (.barrier h) = none → s.OnLanes act (fun ln => ln.woken = true) → exec (.barwait f) s = goesOn) ∧
    (u.deferredAt s.ctx.crewId (.barrier h) = none → s.BarrierRead g a h → u.barPhase h ≠ q → exec (.barwait f) s = goesOn) ∧
    (u.deferredAt s.ctx.crewId (.barrier h) = none → s.OnLanes act (fun ln => ln.woken = false) →
      u.waitsAt s.ctx.cur.wave act a 16 = true → exec (.barwait f) s = parks (.object a)) ∧
    (u.deferredAt s.ctx.crewId (.barrier h) = none → s.OnLanes act (fun ln => ln.woken = false) →
      u.waitsAt s.ctx.cur.wave act a 16 = false → u.inSlack h = true → exec (.barwait f) s = parks (.slack h q)) ∧
    (u.deferredAt s.ctx.crewId (.barrier h) = none → s.BarrierRead g a h → u.barPhase h = q → s.OnLanes act (fun ln => ln.woken = false) →
      ∃ t, exec (.barwait f) s = .next (State.advance t 3) ∧
        t.ctx.cur.lanes = s.ctx.cur.lanes &&& ~~~act ∧
        ∀ l, l < 32 → act.getLsbD l = true → s.ctx.wave.lanes.length = 32 → look s.ctx.cur.wave s.waves = some s.ctx.wave →
          (t.wave s.ctx.cur.wave).lane l =
            { s.ctx.wave.lane l with park := some (.barrier h q), pos := s.ctx.cur.idx + 1, pc := s.ctx.cur.pc,
                                     woken := false, yielded := s.ctx.cur.yielded })) ∧
  (∀ (f : Ext) (a : VAddr) (s : State),
    let g := f.arg
    let act := s.ctx.act g.m
    let u := s.atBarrier g a
    s.Ready g rolesAll (barOpds g) → (s.ctx.crew.uni g.a).val.extractLsb' 0 4 = 0#4 → barPlace s s.ctx g = some a →
    barHome u s.ctx g = none →
    (u.faultOn s.ctx.launch.part s.ctx.launch.tenant a true = false →
      exec (.barwait f) s = .next (((s.askFor (.object a)).parkLanes act (.object a)).advance 3)) ∧
    (u.faultOn s.ctx.launch.part s.ctx.launch.tenant a true = true → s.faultOn s.ctx.launch.part s.ctx.launch.tenant a true = true →
      exec (.barwait f) s = .next ((s.dropFatal s.ctx.launch.part s.ctx.launch.tenant a).takeFault s.ctx.cur
        { Precise.of .translate act with addr := s.toTagged a } 0#32)) ∧
    (s.pageAsked s.ctx.launch.part s.ctx.launch.tenant a = true → s.askFor (.object a) = s) ∧
    (s.pageAsked s.ctx.launch.part s.ctx.launch.tenant a = false → s.taskWord? s.ctx.crewId a = none →
      ∃ more, (s.askFor (.object a)).tfaults = s.tfaults ++
        (s.nextUid, { part := s.ctx.launch.part, tenant := s.ctx.launch.tenant, addr := a, fatal := false }) :: more)) ∧
  (∀ (x : Lane) (h : Home) (q : Bool) (wave : Nat) (s : State),
    (x.park = some (.barrier h q) ∨ x.park = some (.slack h q) → x.wakeAt h q = { x with woken := true }) ∧
    (x.park = some (.slack h (!q)) → x.wakeAt h q = { x with park := some (.barrier h (!q)) }) ∧
    (x.park ≠ some (.barrier h q) → (∀ p, x.park ≠ some (.slack h p)) → x.wakeAt h q = x) ∧
    (x.woken = true → s.stillParked wave x (.barrier h q) = false ∧ s.stillParked wave x (.slack h q) = false)) ∧
  (∀ (f : Ext) (a : VAddr) (h : Home) (s : State),
    let g := f.arg
    let u := s.atBarrier g a
    let t := u.markBarrier h
    s.Ready g rolesAll (barOpds g) → s.BarrierAt g a h → s.BarrierRead g a h →
    exec (.bartest f) s = .next ((t.modWave t.ctx.cur.wave (fun w => w.mapLanes (t.ctx.act g.m) (fun _ ln =>
      ln.setPred (g.d % 8) (u.barPhase h != barParity s.ctx g)))).advance 3)) ∧
  (∀ (f : Ext) (a : VAddr) (s : State), s.Ready f.arg rolesAll (barOpds f.arg) → (s.ctx.crew.uni f.arg.a).val.extractLsb' 0 4 = 0#4 →
    barPlace s s.ctx f.arg = some a → s.WordsBehind (.bartest f) (barReady s s.ctx f.arg (s.ctx.act f.arg.m)))

/-- MultiplyIssues (R134, R137, R138, R285, R51, R97). MMA and MMAQ complete with operands in windows of the pair, rows in the
share, sound scales whose pages are there, and room in the queue: the command joins the pair's queue and the gang's open batch,
and the rows it reads are pinned. While the partition's share of the queue is full the clause holds there. That the instruction is
not executed while an earlier access of its own fibres to an operand's rows or to a scale has still to perform, so that the command
itself waits on nothing outside the engine, and that its fibres stand before it meanwhile, is the model's choice (log 12). -/
def Obligations.MultiplyIssues : Prop :=
  ∀ (i : Instr) (g : Arg) (q : Bool) (ca oa cb ob : Nat) (s : State), multiplyOf i = some (g, q) → s.Issuing →
    s.HasArray rolesGM true → s.Landed g ([.u g.a, .u g.b, .u g.c] ++ (if q then [.u g.d, .u (g.d + 1)] else [])) → s.Active g →
    let y := MmaArg.of g
    let act := s.ctx.act g.m
    s.footprint s.ctx (s.ctx.crew.uni g.a).val y.ta y.da y.m y.k = some (ca, oa) →
    s.footprint s.ctx (s.ctx.crew.uni g.b).val y.tb y.db y.n y.k = some (cb, ob) →
    (s.ctx.crew.uni g.c).val.toNat + y.n / 16 * y.m ≤ accShare s s.ctx →
    (q = true → ∀ p ∈ scaleFaults s s.ctx (s.ctx.act g.m) g false y.ta y.da y.m y.k ++
      scaleFaults s s.ctx (s.ctx.act g.m) g true y.tb y.db y.n y.k, p = none) →
    let u := s.catchUpLanes s.ctx.cur.wave act
    let sa := mmaqScale u s.ctx act g q false y.m y.k
    let sb := mmaqScale u s.ctx act g q true y.n y.k
    let room := (s.quotaAt s.ctx.launch.part (clusterOfCore s.ctx.crew.core)).queue.len
    s.WordsBehind i (operandWait s s.ctx act (s.ctx.crew.uni g.a).val y.ta y.da y.m y.k) ∧
    (operandWait s s.ctx act (s.ctx.crew.uni g.a).val y.ta y.da y.m y.k = .go →
      s.WordsBehind i (operandWait s s.ctx act (s.ctx.crew.uni g.b).val y.tb y.db y.n y.k)) ∧
    (q = true → operandWait s s.ctx act (s.ctx.crew.uni g.a).val y.ta y.da y.m y.k = .go →
      operandWait s s.ctx act (s.ctx.crew.uni g.b).val y.tb y.db y.n y.k = .go →
      s.WordsBehind i (scaleWait s s.ctx act g false y.m y.k) ∧
      (scaleWait s s.ctx act g false y.m y.k = .go → s.WordsBehind i (scaleWait s s.ctx act g true y.n y.k))) ∧
    (operandWait s s.ctx act (s.ctx.crew.uni g.a).val y.ta y.da y.m y.k = .go →
      operandWait s s.ctx act (s.ctx.crew.uni g.b).val y.tb y.db y.n y.k = .go →
      (q = true → scaleWait s s.ctx act g false y.m y.k = .go ∧ scaleWait s s.ctx act g true y.n y.k = .go) →
    (room ≤ s.queued s.ctx.pairNo s.ctx.launch.part → exec i s = .next s.held) ∧
    (s.queued s.ctx.pairNo s.ctx.launch.part < room →
      u.footprint s.ctx (s.ctx.crew.uni g.a).val y.ta y.da y.m y.k = some (ca, oa) →
      u.footprint s.ctx (s.ctx.crew.uni g.b).val y.tb y.db y.n y.k = some (cb, ob) →
    ∃ t pins, exec i s = .next (State.advance t 3) ∧
      t.gangs = (u.modGangPair s.ctx.gangId s.ctx.pairNo (fun p =>
        p.join pins { base := (s.ctx.crew.uni g.c).val.toNat, len := y.n / 16 * y.m })).gangs ∧
      (∀ r, r ∈ rowsTouched ca oa (128 * operandRows y.ta y.da y.m y.k) ++ rowsTouched cb ob (128 * operandRows y.tb y.db y.n y.k) →
        r ∈ pins) ∧
      t.cmds = u.cmds ++ [(u.nextUid,
        { gang := s.ctx.gangId, crew := s.ctx.crewId, wave := s.ctx.cur.wave, part := s.ctx.launch.part, pair := s.ctx.pairNo, batch := s.ctx.share.opened,
          opA := { crew := ca, off := oa, tag := y.ta, outer := y.da, rows := y.m, scale := sa },
          opB := { crew := cb, off := ob, tag := y.tb, outer := y.db, rows := y.n, scale := sb },
          k := y.k, zero := y.zero, row := (s.ctx.crew.uni g.c).val.toNat })]))

/-- BatchResult (R140, R284, R292, R17). MCOMMIT writes the batch's number and closes it; MWAIT goes on when the batch it names
has retired, and parks its fibres until then. -/
def Obligations.BatchResult : Prop :=
  (∀ (f : Ext) (s : State), s.Issuing → s.HasArray rolesGM true → s.Landed f.arg [.u f.arg.d] → s.Active f.arg →
    exec (.mcommit f) s = .next (((s.setUni s.ctx.crewId f.arg.d (Reg.done s.ctx.share.opened .n32)).modGangPair s.ctx.gangId
      s.ctx.pairNo GangPair.close).advance 3)) ∧
  (∀ (f : Ext) (s : State), s.Issuing → s.HasArray rolesGMV false → s.Landed f.arg [.u f.arg.a] →
    (s.ctx.share.retired (s.ctx.crew.uni f.arg.a).val = true → exec (.mwait f) s = .next (s.advance 3)) ∧
    (s.ctx.share.retired (s.ctx.crew.uni f.arg.a).val = false → s.Active f.arg →
      exec (.mwait f) s = .next ((s.parkLanes (s.ctx.act f.arg.m) (.batch (s.ctx.crew.uni f.arg.a).val)).advance 3)))

/-- AccumulatorReadIssues (R141, R289, R57, R17, R51). MRD reads the rows it names at issue and leaves them to land, converted, in
the destination registers of the active fibres or in a tile, and with AMX sends the maximum magnitude to the address it names;
with a tile that still waits its fibres park, and a full flag holds the clause. -/
def Obligations.AccumulatorReadIssues : Prop :=
  ∀ (f : Ext) (s : State),
    let g := f.arg
    let opds := [Opd.u g.a] ++ (if mrdAmx g then [.u g.b] else []) ++ (if mrdTile g then [] else [.v g.d])
    s.Issuing → s.HasArray [0, 3] false → s.InWindow opds → s.Landed g opds → s.Active g →
    (mrdAmx g = true → (amxAddr g s.ctx).extractLsb' 0 2 = 0#2 ∧ (shelfAddr (amxAddr g s.ctx) 4).isSome = true ∧
      s.ctx.crew.overflows (amxCharges g s s.ctx) = none) →
    s.RowsFree (mrdRows g s.ctx (s.ctx.act g.m)) →
    (mrdTile g = true → g.d < s.ctx.crew.ntile ∧ s.deferredAt s.ctx.crewId (.tile s.ctx.cur.wave g.d) = none) →
    let c := (s.countOp s.ctx.cur.wave (s.ctx.cur.flagOf g.m.fsel)).2
    let ready := mrdTile g = true → (s.ctx.wave.tile g.d).pend = false
    (¬ ready → exec (.mrd f) s = .next ((s.parkLanes (s.ctx.act g.m) (.tile g.d)).advance 3)) ∧
    (ready → ¬ s.FlagFree g.m.fsel → exec (.mrd f) s = .next s.held) ∧
    (ready → s.FlagFree g.m.fsel →
    (mrdTile g = false → exec (.mrd f) s = .next ((amxSend g s.ctx (s.ctx.act g.m) ((c.modWave s.ctx.cur.wave (fun w =>
        w.mapLanes (s.ctx.act g.m) (fun _ ln => ln.pendV g.d))).addFlight
      { op := s.nextUid, wave := s.ctx.cur.wave, flag := s.ctx.cur.flagOf g.m.fsel, txns := 0, lines := [], fault := none,
        payload := .regs ((laneList (s.ctx.act g.m)).map (fun l => Dest.lane l ((s.ctx.wave.lane l).wb + g.d)
          (BitVec.ofNat 32 (packElems (mrdTag g).bits ((mrdLane g s.ctx l).map (mrdConv g)))) (mrdTag g))) })).advance 3)) ∧
    (mrdTile g = true → exec (.mrd f) s = .next ((amxSend g s.ctx (s.ctx.act g.m) ((c.modWave s.ctx.cur.wave (fun w =>
        w.setTile g.d (fun t => { t with pend := true }))).addFlight
      { op := s.nextUid, wave := s.ctx.cur.wave, flag := s.ctx.cur.flagOf g.m.fsel, txns := 0, lines := [], fault := none,
        payload := .tile g.d (mrdTag g) ((mrdTileVals g s.ctx).map (fun v => BitVec.ofNat 32 (mrdConv g v))) })).advance 3)) ∧
    (mrdAmx g = false → ∀ u, amxSend g s.ctx (s.ctx.act g.m) u = u))

/-- AccumulatorWriteResult (R141, R293, R57, R17). MWR writes F32 registers of the active fibres, or a tile, into the rows it
names; with a tile that still waits its fibres park. MZERO clears rows. -/
def Obligations.AccumulatorWriteResult : Prop :=
  (∀ (f : Ext) (s : State),
    let g := f.arg
    let opds := [Opd.u g.a] ++ (if mwrTile g then [] else [.v g.b])
    let base := 16 * (s.ctx.crew.uni g.a).val.toNat
    s.Issuing → s.HasArray [0, 3] false → s.InWindow opds → s.Landed g opds → s.Active g →
    s.RowsFree (mwrRows g s.ctx (s.ctx.act g.m)) → (mwrTile g = true → s.TileReady g.b ∧ (s.ctx.wave.tile g.b).tag = .f32) →
    (mwrTile g = false → s.OnLanes (s.ctx.act g.m) (fun ln => (ln.readV g.b).tag = .f32)) →
    exec (.mwr f) s = .next ((s.modGangPair s.ctx.gangId s.ctx.pairNo (fun p => { p with
      acc := (if mwrTile g then (List.range 256).map (fun i => (base + i, ((s.ctx.wave.tile g.b).elems[i]?).getD 0#32))
        else (laneList (s.ctx.act g.m)).map (fun l => (base + l, ((s.ctx.wave.lane l).readV g.b).val))).foldl
          (fun m e => accWrite e.1 e.2 m) p.acc })).advance 3)) ∧
  (∀ (f : Ext) (s : State),
    let g := f.arg
    s.Issuing → s.HasArray [0, 3] false → s.Landed g [.u g.a] → s.Active g → s.RowsFree (mwrRows g s.ctx (s.ctx.act g.m)) →
    mwrTile g = true → s.TileWaits g.b → (s.ctx.wave.tile g.b).pend = true →
    (s.tagKnown s.ctx g.b = true → (s.ctx.wave.tile g.b).tag = .f32) →
    exec (.mwr f) s = .next ((s.parkLanes (s.ctx.act g.m) (.tile g.b)).advance 3)) ∧
  (∀ (f : Ext) (s : State),
    let g := f.arg
    let r : Range := { base := (s.ctx.crew.uni g.a).val.toNat, len := g.w2f 0 14 }
    s.Issuing → s.HasArray rolesGMV false → s.Landed g [.u g.a] → s.Active g → s.RowsFree [r] →
    exec (.mzero f) s = .next ((s.modGangPair s.ctx.gangId s.ctx.pairNo (fun p => { p with
      acc := p.acc.filter (fun e => !(16 * r.base ≤ e.1 && e.1 < 16 * (r.base + r.len))) })).advance 3))

/-- ProductIssues (R146, R314, R139, R109, R112). SMV completes with a sound descriptor: the product goes to the stack's multiplier, all
its rows to come. Without the transaction it needs its fibres park there. That they stand before it, neither parked nor held, while its
descriptor is behind their own accesses is the model's choice (log 12). -/
def Obligations.ProductIssues : Prop :=
  (∀ (f : Ext) (s : State),
    let g := f.arg
    s.Ready g rolesGM [.u g.a] → s.ctx.crew.core % 2 = 0 → (s.ctx.crew.uni g.a).val.extractLsb' 0 4 = 0#4 →
    (smvPlace s s.ctx g).isSome = true → smvWords s s.ctx g = none → s.WordsBehind (.smv f) (smvReady s s.ctx g)) ∧
  ∀ (f : Ext) (p : Smv) (ws : List Word) (s : State),
    let g := f.arg
    s.Ready g rolesGM [.u g.a] → s.ctx.crew.core % 2 = 0 → (s.ctx.crew.uni g.a).val.extractLsb' 0 4 = 0#4 →
    (smvPlace s s.ctx g).isSome = true → smvReady s s.ctx g = .go → smvWords s s.ctx g = some ws →
    smvBad s s.ctx.crewId ws = none → smvOf s s.ctx ws = some p →
    p.left = [{ base := 0, len := smvRows ws }] ∧
    (s.txnsFree s.ctx.crew.core 1 = false → exec (.smv f) s = .next ((s.parkLanes (s.ctx.act g.m) (.txns 1)).advance 3)) ∧
    (s.txnsFree s.ctx.crew.core 1 = true → ∃ t, exec (.smv f) s = .next (State.advance t 3) ∧
      t.smvs = (s.catchUpLanes s.ctx.cur.wave (s.ctx.act g.m)).smvs ++ [((s.catchUpLanes s.ctx.cur.wave (s.ctx.act g.m)).nextUid, p)] ∧
      t.mem = (s.catchUpLanes s.ctx.cur.wave (s.ctx.act g.m)).mem)

/-- ViewIssues (R149, R150, R57, R166, R17, R108). VIEW, outside the deepest level and with a slot of the level free, completes: the
tile is pending and the view begins. With a tile that still waits, or with every slot of the level taken, its fibres park; at the
deepest level, or at one without a slot, the tile takes what MISS holds at once, with status 1 or 2, and until that word can be read its
fibres park, all for as long as one another. -/
def Obligations.ViewIssues : Prop :=
  (∀ (wave : Nat) (x y : Lane) (a : VAddr) (fs : List Nat) (s : State),
    s.stillParked wave x (.missWord a fs) = s.stillParked wave y (.missWord a fs) ∧
    ((∃ e ∈ s.accesses, e.2.of fs = true) → s.stillParked wave x (.missWord a fs) = true)) ∧
  ∀ (f : Ext) (s : State),
    let g := f.arg
    let n := g.d % 16
    let act := s.ctx.act g.m
    let u := s.catchUpLanes s.ctx.cur.wave act
    let quota := s.viewQuota s.ctx.launch.part (clusterOfCore s.ctx.crew.core) (s.ctx.crew.vlevel + 1)
    let used := s.viewsHeld s.ctx.launch.part (clusterOfCore s.ctx.crew.core) (s.ctx.crew.vlevel + 1)
    s.Ready g rolesGV [.u g.a, .u (g.a + 1), .u g.b, .u (g.b + 1)] → n < s.ctx.crew.ntile →
    s.deferredAt s.ctx.crewId (.tile s.ctx.cur.wave n) = none → farOk (viewCam s.ctx g) 80 → farOk (viewCut s.ctx g) 96 →
    ((s.ctx.wave.tile n).pend = true → exec (.view f) s = .next ((s.parkLanes act (.tile n)).advance 3)) ∧
    ((s.ctx.wave.tile n).pend = false → s.ctx.crew.vlevel ≠ 6 → quota ≠ 0 → quota ≤ used →
      exec (.view f) s = .next ((s.parkLanes act (.viewSlot (s.ctx.crew.vlevel + 1))).advance 3)) ∧
    (∀ r : ParkReason, r = .missWord (missPlace s.ctx g) (s.ctx.wave.fibres act) →
      (s.ctx.wave.tile n).pend = false → s.ctx.crew.vlevel = 6 ∨ quota = 0 → missUnread s s.ctx act g = true →
      exec (.view f) s = .next (((s.askFor r).parkLanes act r).advance 3)) ∧
    (∀ m, (s.ctx.wave.tile n).pend = false → s.ctx.crew.vlevel = 6 ∨ quota = 0 → missUnread s s.ctx act g = false →
      viewRefused u s.ctx = viewRefused s s.ctx → (if missRead g then u.taskWord? s.ctx.crewId (missPlace s.ctx g) = some m else m = 0#32) →
      exec (.view f) s = .next ((u.landTile s.ctx.cur.wave n (viewMode g.w2) (List.replicate 256 (modeMiss (viewMode g.w2) m))
        (if s.ctx.crew.vlevel = 6 then 1 else 2)).advance 3)) ∧
    ((s.ctx.wave.tile n).pend = false → s.ctx.crew.vlevel ≠ 6 → used < quota → viewRefused u s.ctx = none → ∃ t k v, exec (.view f) s = .next (State.advance t 3) ∧
      t.views = (s.catchUpLanes s.ctx.cur.wave (s.ctx.act g.m)).views ++ [(k, v)] ∧ v.tile = n ∧ v.wave = s.ctx.cur.wave ∧
      v.cam = viewCam s.ctx g ∧ v.cut = viewCut s.ctx g ∧ v.level = s.ctx.crew.vlevel + 1 ∧ v.part = s.ctx.launch.part ∧
      v.traced = false ∧ t.mem = (s.catchUpLanes s.ctx.cur.wave (s.ctx.act g.m)).mem ∧
      t.waves = ((s.catchUpLanes s.ctx.cur.wave (s.ctx.act g.m)).modWave s.ctx.cur.wave (fun w =>
        w.setTile n (fun q => { q with tag := modeTag (viewMode g.w2), pend := true }))).waves)

/-- ViewAnswerResult (R163, R165, R326, R327). VSTAT tells every active fibre whether the tile has landed, and writes its status
once it has; VPIX delivers, in ascending lane order, the pixel of every active fibre to the view its handle names. -/
def Obligations.ViewAnswerResult : Prop :=
  (∀ (f : Ext) (s : State),
    let g := f.arg
    let tile := s.ctx.wave.tile (g.w2f 0 4)
    let t := s.modWave s.ctx.cur.wave (fun w => w.mapLanes (s.ctx.act g.m) (fun _ ln => ln.setPred (g.w2f 4 3) (!tile.pend)))
    s.Ready g rolesGV [.u g.d] → g.w2f 0 4 < s.ctx.crew.ntile →
    exec (.vstat f) s = .next (State.advance (if tile.pend then t else t.setUni s.ctx.crewId g.d (Reg.done tile.status .n32)) 3)) ∧
  (∀ (f : Ext) (s : State),
    let g := f.arg
    s.Clear g rolesGV [.v g.a, .v g.b, .v g.c] → s.Active g →
    s.OnLanes (s.ctx.act g.m) (fun ln => (ln.readV g.c).tag = .n8x4 ∨ (ln.readV g.c).tag = .raw) →
    let u := (s.catchUpLanes s.ctx.cur.wave (s.ctx.act g.m)).notReplayable s.ctx.gangId
    exec (.vpix f) s = .next (State.advance ((laneList (s.ctx.act g.m)).foldl (fun t l =>
      let ln := s.ctx.wave.lane l
      t.deliverPixel s.ctx.launch.part (ln.readV g.a).val (ln.readV g.b).val (ln.readV g.c).val ln.fibre
        (u.accessesOf (s.ctx.wave.fibres (s.ctx.act g.m)))) u) 3))

/-- RayIssues (R169, R301, R109, R51). RAYQ sends the ray of every active fibre: its two destinations are pending, one transaction
each. Without the transactions its fibres park there; a full flag holds the clause. -/
def Obligations.RayIssues : Prop :=
  ∀ (f : Ext) (s : State),
    let g := f.arg
    let act := s.ctx.act g.m
    let vs := [Opd.v g.d, .v (g.d + 1)] ++ rayOpds g
    s.Issuing → s.HasRole rolesGV → s.InWindow vs → s.Landed g (vs ++ [.u g.b, .u (g.b + 1)]) → s.Active g →
    s.OnLanes act (fun ln => ∀ i < 8, (ln.readV (g.a + i)).tag = .f32) → farOk (viewCut s.ctx g) 96 →
    let c := (s.catchUpLanes s.ctx.cur.wave act).countOp s.ctx.cur.wave (s.ctx.cur.flagOf g.m.fsel)
    let n := (laneList act).length
    (s.txnsFree s.ctx.crew.core n = false → exec (.rayq f) s = .next ((s.parkLanes act (.txns n)).advance 3)) ∧
    (s.txnsFree s.ctx.crew.core n = true → ¬ s.FlagFree g.m.fsel → exec (.rayq f) s = .next s.held) ∧
    (s.txnsFree s.ctx.crew.core n = true → s.FlagFree g.m.fsel →
    exec (.rayq f) s = .next (State.advance ((laneList act).foldl (fun t l => t.addFlight
        { op := c.1, wave := s.ctx.cur.wave, flag := s.ctx.cur.flagOf g.m.fsel, txns := 1, lines := [], fault := none,
          payload := .rayq l ((s.ctx.wave.lane l).wb + g.d) (viewCut s.ctx g)
            ((List.range 8).map (fun i => ((s.ctx.wave.lane l).readV (g.a + i)).val)) })
      (c.2.modWave s.ctx.cur.wave (fun w => w.mapLanes act (fun _ ln => (ln.pendV g.d).pendV (g.d + 1))))) 3))

/-- TileMemoryResult (R321, R322, R52, R57, R97). TLD reads a tile from local memory, TST writes one there, in rows or in columns
of 16 words. A tile that still waits, and for TST a pinned row, parks the fibres; an earlier access of theirs that has not
performed holds the clause. -/
def Obligations.TileMemoryResult : Prop :=
  (∀ (f : Ext) (c o : Nat) (s : State),
    let g := f.arg
    let act := s.ctx.act g.m
    let t := s.bulkCaught s.ctx.cur.wave act (tileRuns (.loc c o))
    let blocked := ∃ r ∈ tileRuns (.loc c o), t.waitsAt s.ctx.cur.wave act r.1 r.2 = true
    s.Ready g rolesGV [.u g.a] → s.TileWaits g.d → s.TileAt g c o →
    ((s.ctx.wave.tile g.d).pend = true → exec (.tld f) s = .next ((s.parkLanes act (.tile g.d)).advance 3)) ∧
    ((s.ctx.wave.tile g.d).pend = false → blocked → exec (.tld f) s = .next t.holdClause) ∧
    ((s.ctx.wave.tile g.d).pend = false → ¬ blocked →
    exec (.tld f) s = .next ((t.modWave s.ctx.cur.wave (fun w => w.setTile g.d (fun q => { q with
      tag := tileTag g,
      elems := (List.range 256).map (fun i =>
        if tileCols g then t.lmemWord c (o + 128 * (i % 16) + 4 * (i / 16)) else t.lmemWord c (o + 128 * (i / 16) + 4 * (i % 16))) }))).advance 3))) ∧
  (∀ (f : Ext) (c o : Nat) (s : State),
    let g := f.arg
    let act := s.ctx.act g.m
    let t := s.bulkCaught s.ctx.cur.wave act (tileRuns (.loc c o))
    let blocked := ∃ r ∈ tileRuns (.loc c o), t.waitsAt s.ctx.cur.wave act r.1 r.2 = true
    let rows := (List.range 16).map (fun i => (c, o / 128 + i))
    s.Ready g rolesGV [.u g.a] → s.TileWaits g.b → s.TileAt g c o →
    (tileTag g = .raw ∨ (s.ctx.wave.tile g.b).tag = tileTag g) →
    ((s.ctx.wave.tile g.b).pend = true → exec (.tst f) s = .next ((s.parkLanes act (.tile g.b)).advance 3)) ∧
    ((s.ctx.wave.tile g.b).pend = false → s.anyPinned rows = true →
      exec (.tst f) s = .next ((s.parkLanes act (.pinned rows)).advance 3)) ∧
    ((s.ctx.wave.tile g.b).pend = false → s.anyPinned rows = false → blocked → exec (.tst f) s = .next t.holdClause) ∧
    ((s.ctx.wave.tile g.b).pend = false → s.anyPinned rows = false → ¬ blocked →
    exec (.tst f) s = .next (State.advance ((List.range 16).foldl (fun t i =>
      t.storeWords (.loc c (o + 128 * i)) ((List.range 16).map (fun j =>
        ((s.ctx.wave.tile g.b).elems[tileIndex g i j]?).getD 0#32))) t) 3)))

/-- TileRowResult (R321, R323, R57). TRD gives every active fibre its element of two rows of a tile; TWR replaces the elements of
the active fibres, and the tile takes the tag they share. A tile that still waits parks the fibres. -/
def Obligations.TileRowResult : Prop :=
  (∀ (f : Ext) (s : State),
    let g := f.arg
    s.Clear g rolesGV (rowOpds g ++ [.v g.d]) → s.TileWaits g.a → tileRow s.ctx g + 2 ≤ 16 →
    ((s.ctx.wave.tile g.a).pend = true → s.Active g → exec (.trd f) s = .next ((s.parkLanes (s.ctx.act g.m) (.tile g.a)).advance 3)) ∧
    ((s.ctx.wave.tile g.a).pend = false → exec (.trd f) s = .next ((s.modWave s.ctx.cur.wave (fun w => w.mapLanes (s.ctx.act g.m) (fun l ln =>
      ln.writeV g.d (Reg.done (((s.ctx.wave.tile g.a).elems[16 * tileRow s.ctx g + l]?).getD 0#32) (s.ctx.wave.tile g.a).tag)))).advance 3))) ∧
  (∀ (f : Ext) (t : Tag) (s : State),
    let g := f.arg
    s.Clear g rolesGV (rowOpds g ++ [.v g.a]) → s.Active g → s.TileWaits g.d → tileRow s.ctx g + 2 ≤ 16 →
    s.OnLanes (s.ctx.act g.m) (fun ln => (ln.readV g.a).tag = t) →
    ((s.ctx.wave.tile g.d).pend = true → exec (.twr f) s = .next ((s.parkLanes (s.ctx.act g.m) (.tile g.d)).advance 3)) ∧
    ((s.ctx.wave.tile g.d).pend = false → exec (.twr f) s = .next ((s.modWave s.ctx.cur.wave (fun w => w.setTile g.d (fun q => { q with
      tag := t,
      elems := (laneList (s.ctx.act g.m)).foldl (fun es l =>
        es.set (16 * tileRow s.ctx g + l) ((s.ctx.wave.lane l).readV g.a).val) q.elems }))).advance 3)))

/-- GeometryResult (R154, R171, R251, R295, R306, R97). BXUNION writes, in every active fibre, the smallest box that holds both
boxes; SAHCOST the cost of a box; NODEPACK stores, for every group of four lanes with an active lane, one node of 128 bytes at the
address its lowest active lane names, and parks its fibres while a row it writes is pinned. -/
def Obligations.GeometryResult : Prop :=
  ((∀ (f : Ext) (s : State),
    let g := f.arg
    s.Clear g rolesGV (boxOpds g.a ++ boxOpds g.b ++ boxOpds g.d) →
    s.OnLanes (s.ctx.act g.m) (fun ln => ∀ i < 6, (ln.readV (g.a + i)).tag = .f32 ∧ (ln.readV (g.b + i)).tag = .f32) →
    exec (.bxunion f) s = .next ((s.modWave s.ctx.cur.wave (fun w => w.mapLanes (s.ctx.act g.m) (fun _ ln =>
      let v (i : Nat) : Word := if i < 3 then f32Min (ln.readV (g.a + i)).val (ln.readV (g.b + i)).val
        else f32Max (ln.readV (g.a + i)).val (ln.readV (g.b + i)).val
      (List.range 6).foldl (fun x i => x.writeV (g.d + i) (Reg.done (v i) .f32)) ln))).advance 3)) ∧
  (∀ (f : Ext) (s : State),
    let g := f.arg
    s.Clear g rolesGV (boxOpds g.a ++ [.v g.b, .v g.d]) →
    s.OnLanes (s.ctx.act g.m) (fun ln => (∀ i < 6, (ln.readV (g.a + i)).tag = .f32) ∧ (ln.readV g.b).tag = .f32) →
    exec (.sahcost f) s = .next ((s.modWave s.ctx.cur.wave (fun w => w.mapLanes (s.ctx.act g.m) (fun _ ln =>
      ln.writeV g.d (Reg.done (sahWord ((List.range 6).map (fun i => (ln.readV (g.a + i)).val)) (ln.readV g.b).val) .f32)))).advance 3))) ∧
  (∀ (f : Ext) (c : Nat) (o : Nat → Nat) (s : State),
    let g := f.arg
    let act := s.ctx.act g.m
    let n : State := { s with nextUid := s.nextUid + 1 }
    let rows := (packGroups act).map (fun e => (c, o e.1 / 128))
    let vs := [Opd.v g.a] ++ (List.range 7).map (fun i => Opd.v (g.b + i))
    s.Issuing → s.HasRole rolesGV → s.InWindow vs → s.Landed g (vs ++ (List.range 4).map (fun i => Opd.u (g.c + i))) → s.Active g →
    s.OnLanes act (fun ln => ∀ i < 6, (ln.readV (g.b + i)).tag = .f32) →
    (∀ e ∈ packGroups act, (packAddr s.ctx g e.2).extractLsb' 0 7 = 0#7 ∧
      s.localAddr s.ctx.crewId (packAddr s.ctx g e.2) 128 = some (.loc c (o e.1))) →
    (s.anyPinned rows = true → exec (.nodepack f) s = .next ((s.parkLanes act (.pinned rows)).advance 3)) ∧
    (s.anyPinned rows = false → exec (.nodepack f) s = .next (State.advance ((packGroups act).foldl (fun t e =>
      storeRun t s.ctx s.nextUid (packLanes act e.1) (.loc c (o e.1)) (packNode s.ctx act g e.1)) n) 3)) ∧
    (s.anyPinned rows = false → s.NothingQueued → s.barObjs = [] → (∀ h, s.barInUse h = false) →
      ∃ t, exec (.nodepack f) s = .next (State.advance t 3) ∧ t.crews = ((packGroups act).foldl (fun t e =>
        t.putWords (.loc c (o e.1)) (packNode s.ctx act g e.1)) n).crews))

/-- HyperResult (R174, R176, R268, R270). HBIND, HPERM, HBUND, HCLR, HTHR and HGEN, with a fibre active, change the register of
the wave they name, once, and nothing else. -/
def Obligations.HyperResult : Prop :=
  ∀ (i : Instr) (g : Arg) (os : List Opd) (hs bs : List Nat) (f : Ctx → Wave → Wave) (s : State),
    hyperOf i = some (g, os, hs, bs, f) → s.Ready g rolesGV os → s.HyperIn hs bs →
    exec i s = .next ((s.modWave s.ctx.cur.wave (f s.ctx)).advance 3)

/-- HyperMemoryResult (R177, R52, R95, R97, R108, R109, R110, R127). HLD reads 1024 bytes into a hypervector register; HST stores
one line after line, to local memory or to shelf, each line at its home or, in a DET region, in the task's buffer. Fibres park for
a pinned row, an absent line and, once, for missing transactions; the clause holds behind an earlier access of theirs or of their
core, and at a page that is missing and asked for, with its transactions taken; a buffer without room stops the gang with OVERFLOW. That
a page declared fatal is met there, and that a line which keeps its charge from an earlier phase is not charged again, are the model's
choices (log 12, log 72). -/
def Obligations.HyperMemoryResult : Prop :=
  (∀ (f : Ext) (a : VAddr) (s : State),
    let g := f.arg
    let act := s.ctx.act g.m
    let t := s.bulkCaught s.ctx.cur.wave act [(a, 1024)]
    let lines := linesTouched a 1024
    s.Ready g rolesGV [.u g.a] → s.HyperIn [g.d] [] → s.HyperAt g a →
    (hypShelf g = true → s.LineParks act lines (.hld f)) ∧
    (s.LinesHeld g lines → t.waitsAt s.ctx.cur.wave act a 1024 = true →
      exec (.hld f) s = .next (t.takeEntries lines.length).holdClause) ∧
    (∀ m, s.LinesHeld g lines → t.waitsAt s.ctx.cur.wave act a 1024 = false → t.taskMiss s.ctx.crewId a 1024 = some m →
      s.PageHolds (.hld f) act m lines.length) ∧
    (∀ n, s.LinesHeld g lines → t.waitsAt s.ctx.cur.wave act a 1024 = false → t.taskMiss s.ctx.crewId a 1024 = none →
      t.taskNat? s.ctx.crewId a 1024 = some n →
      exec (.hld f) s = .next ((t.modWave s.ctx.cur.wave (fun w => w.setHyp g.d (BitVec.ofNat 8192 n))).advance 3))) ∧
  (∀ (f : Ext) (a : VAddr) (det : Nat → Option (Nat × Nat)) (s : State),
    let g := f.arg
    let act := s.ctx.act g.m
    let t := s.bulkCaught s.ctx.cur.wave act [(a, 1024)]
    let lines := linesTouched a 1024
    let rows := match a with
      | .loc c o => rowsTouched c o 1024
      | _ => []
    let charges := hstCharges s s.ctx a
    s.Ready g rolesGV [.u g.a] → s.HyperIn [g.b] [] → s.HyperAt g a →
    (s.anyPinned rows = true → exec (.hst f) s = .next ((s.parkLanes act (.pinned rows)).advance 3)) ∧
    (s.anyPinned rows = false → hypShelf g = true → s.LineParks act lines (.hst f)) ∧
    (s.anyPinned rows = false → s.LinesHeld g lines → t.waitsAt s.ctx.cur.wave act a 1024 = true →
      exec (.hst f) s = .next (t.takeEntries lines.length).holdClause) ∧
    (s.anyPinned rows = false → s.LinesHeld g lines → t.waitsAt s.ctx.cur.wave act a 1024 = false →
      (∀ m, hstMiss s s.ctx a = some m → s.PageHolds (.hst f) act m lines.length) ∧
      (∀ need, hstMiss s s.ctx a = none → charges ≠ [] → s.ctx.crew.overflows charges = some need →
        exec (.hst f) s = .next (s.takeFault s.ctx.cur
          { cls := .overflow, info := BitVec.ofNat 64 need, addr := 0#64, lanes := act } 0#32)) ∧
      (hstMiss s s.ctx a = none → (charges = [] ∨ s.ctx.crew.overflows charges = none) →
        (∀ i < 16, t.detAt s.ctx.crewId (a.plus (64 * i)) = det i) →
        exec (.hst f) s = .next (State.advance ((List.range 16).foldl (fun u i =>
          match det i with
          | some r => u.buffer s.ctx.crewId (plainEntries r.1 r.2 none 64 (wordsNat (hypLine (s.ctx.wave.hyp g.b) i))) []
          | none =>
            let v := u.storeUnsafe s.ctx (a.plus (64 * i))
            match v.home? s.ctx.launch.part s.ctx.launch.tenant (a.plus (64 * i)) with
            | some h => (v.storeWords h (hypLine (s.ctx.wave.hyp g.b) i)).markDirty s.ctx.launch.part s.ctx.launch.tenant
                (a.plus (64 * i))
            | none => v) (t.buffer s.ctx.crewId [] (hstCharges t s.ctx a))) 3)))) ∧
  (∀ (f : Ext) (c o : Nat) (s : State),
    let g := f.arg
    let t := s.bulkCaught s.ctx.cur.wave (s.ctx.act g.m) [(.loc c o, 1024)]
    s.Ready g rolesGV [.u g.a] → s.HyperIn [g.b] [] → s.HyperAt g (.loc c o) → hypWait s s.ctx (s.ctx.act g.m) (.loc c o) = .go →
    s.anyPinned (rowsTouched c o 1024) = false → hypShelf g = false →
    ∃ u, exec (.hst f) s = .next (State.advance u 3) ∧
      u.crews = ((List.range 16).foldl (fun t i => t.storeWords (.loc c (o + 64 * i)) (hypLine (s.ctx.wave.hyp g.b) i))
        (t.buffer s.ctx.crewId [] [])).crews) ∧
  (∀ (f : Ext) (a : VAddr) (hs : Nat → Home) (s : State),
    let g := f.arg
    let t := s.bulkCaught s.ctx.cur.wave (s.ctx.act g.m) [(a, 1024)]
    s.Ready g rolesGV [.u g.a] → s.HyperIn [g.b] [] → s.HyperAt g a → hypShelf g = true →
    hypWait s s.ctx (s.ctx.act g.m) a = .go → hstMiss s s.ctx a = none → (∀ i < 16, s.detAt s.ctx.crewId (a.plus (64 * i)) = none) →
    (∀ i < 16, t.home? s.ctx.launch.part s.ctx.launch.tenant (a.plus (64 * i)) = some (hs i)) →
    ∃ u, exec (.hst f) s = .next (State.advance u 3) ∧
      u.mem = ((List.range 16).foldl (fun t i => t.storeWords (hs i) (hypLine (s.ctx.wave.hyp g.b) i)) t).mem)

/-- QueryIssues (R178, R179, R191, R331, R51, R109, R112). HDIST and HNEAR leave their results to land in uniform registers; WQRY leaves
its answer to land in local memory: the end token at once for a node crew or a launch without items, else the request waits.
Without the transaction it needs each parks its fibres; a full flag holds the clause. That the fibres stand before HNEAR, neither parked
nor held, while its descriptor is behind their own accesses is the model's choice (log 12). -/
def Obligations.QueryIssues : Prop :=
  (∀ (f : Ext) (s : State),
    let g := f.arg
    s.Ready g rolesGV [.u g.b, .u g.d, .u (g.d + 1)] → s.HyperIn [g.a] [] →
    (s.ctx.crew.uni g.b).val.extractLsb' 0 4 = 0#4 → (s.localAddr s.ctx.crewId (s.ctx.crew.uni g.b).val 16).isSome = true →
    nearWords s s.ctx g = none → s.WordsBehind (.hnear f) (nearReady s s.ctx g)) ∧
  (∀ (f : Ext) (s : State),
    let g := f.arg
    s.Ready g rolesGV [.u g.d] → s.HyperIn [g.a, g.b] [] → s.Queries g (.hdist f)
      (exec (.hdist f) s = .next ((sendQuery s s.ctx g [g.d]
        (.hdist g.d (BitVec.ofNat 32 (hamming (s.ctx.wave.hyp g.a) (s.ctx.wave.hyp g.b))))).advance 3))) ∧
  (∀ (f : Ext) (ws : List Word) (base : VAddr) (s : State),
    let g := f.arg
    s.Ready g rolesGV [.u g.b, .u g.d, .u (g.d + 1)] → s.HyperIn [g.a] [] →
    (s.ctx.crew.uni g.b).val.extractLsb' 0 4 = 0#4 → (s.localAddr s.ctx.crewId (s.ctx.crew.uni g.b).val 16).isSome = true →
    nearReady s s.ctx g = .go → nearWords s s.ctx g = some ws → nearBad ws = none → taggedFar (dwordAt ws 0) 0 = some base →
    s.Queries g (.hnear f) (exec (.hnear f) s = .next ((sendQuery (s.catchUpLanes s.ctx.cur.wave (s.ctx.act g.m)) s.ctx g
      [g.d, g.d + 1] (.hnear g.d (s.ctx.wave.hyp g.a) base (wordAt ws 8).toNat)).advance 3))) ∧
  (∀ (f : Ext) (yc off : Nat) (s : State),
    let g := f.arg
    let c := s.countOp s.ctx.cur.wave (s.ctx.cur.flagOf g.m.fsel)
    s.Ready g rolesAll [.u g.a] → (s.ctx.crew.uni g.a).val.extractLsb' 0 3 = 0#3 → wqryPlace s s.ctx g = some (.loc yc off) →
    s.Queries g (.wqry f) (((s.ctx.gang.node ≠ none ∨ s.ctx.launch.desc.wqx = 0) → exec (.wqry f) s = .next ((c.2.addFlight
      { op := c.1, wave := s.ctx.cur.wave, flag := s.ctx.cur.flagOf g.m.fsel, txns := 1, lines := [],
        payload := .answer yc off 0xFFFF_FFFF#32 0xFFFF_FFFF#32, fault := none }).advance 3)) ∧
    (s.ctx.gang.node = none → s.ctx.launch.desc.wqx ≠ 0 →
      ∃ t, exec (.wqry f) s = .next (State.advance t 3) ∧ t.waves = c.2.waves ∧ t.mem = s.mem ∧
        t.wreqs = s.wreqs ++ [(c.2.nextUid,
          { op := c.1, wave := s.ctx.cur.wave, crew := s.ctx.crewId, flag := s.ctx.cur.flagOf g.m.fsel, ycrew := yc, off := off })])))

/-- RecordResult (R183, R189, R304, R51, R52, R132). REMIT, with an open node and room in the node's queue, appends the records of the
active fibres, each with the node's number of words, in ascending lane order: to the node's queue, or to its held records where
the node merges at a barrier. A full queue holds the clause, before the first record or after those that fit; the first record
appended, and no hold before it, ends the gang's replayability. That for a node with
an EPOCH the queue alone counts against QCAP, and held records do not (log 25), and that a node whose launch has stopped discards
what is sent to it (log 86), are the model's choices. -/
def Obligations.RecordResult : Prop :=
  ∀ (f : Ext) (nk : Nat) (n : Node) (s : State),
    let g := f.arg
    let t := s.catchUpLanes s.ctx.cur.wave (s.ctx.act g.m)
    s.Clear g rolesGV [.v g.a] → s.Active g → s.Landed g [.u g.b] → s.Landed g ((List.range n.rw).map (fun i => .v (g.a + i))) →
    s.ctx.cur.served = 0#32 → emitNode s s.ctx g = some (nk, n) → g.a + n.rw ≤ 252 →
    s.OnLanes s.ctx.cur.lanes (fun ln => ln.wb + g.a + n.rw ≤ s.ctx.crew.nreg) → look nk t.nodes = some n →
    let lane (l : Nat) : Lane := (t.wave s.ctx.cur.wave).lane l
    let recs : List Record := (laneList (s.ctx.act g.m)).map (fun l =>
      { words := (List.range n.rw).map (fun i => ((lane l).readV (g.a + i)).val), producer := (lane l).fibre,
        order := if s.ctx.gang.node.isSome then (lane l).order ++ [(lane l).emitSeq] else taskPath s.ctx.crew s.ctx.gang s.ctx.launch,
        seq := (lane l).emitSeq, lin := s.ctx.wave.idx * 32 + l, cluster := clusterOfCore s.ctx.crew.core, vlevel := 0 })
    let room := n.qcap - n.queue.length
    (n.qcap ≤ n.queue.length → exec (.remit f) s = .next t.holdClause) ∧
    (∀ c, n.epoch = none → n.queue.length < n.qcap → n.qcap < n.queue.length + recs.length → t.cur = some c →
      (t.launch n.launch).phase = .running →
      ∃ u, exec (.remit f) s = .next (State.holdClause u) ∧
        look nk u.nodes = some { n with queue := n.queue ++ recs.take room } ∧ u.gangs = (t.notReplayable s.ctx.gangId).gangs ∧
        u.cur = some { c with served := c.served ||| laneSet (fun l => ((laneList (s.ctx.act g.m)).take room).contains l) }) ∧
    ((t.launch n.launch).phase ≠ .running → n.queue.length < n.qcap →
      ∃ u, exec (.remit f) s = .next (State.advance u 3) ∧ look nk u.nodes = some n ∧
        u.gangs = (t.notReplayable s.ctx.gangId).gangs) ∧
    ((if n.epoch = none then n.queue.length + recs.length ≤ n.qcap else n.queue.length < n.qcap) →
      (t.launch n.launch).phase = .running →
      ∃ u, exec (.remit f) s = .next (State.advance u 3) ∧
        look nk u.nodes = some (if n.epoch = none then { n with queue := n.queue ++ recs } else { n with heldRecs := n.heldRecs ++ recs }) ∧
        (∀ k, k ≠ nk → look k u.nodes = look k t.nodes) ∧ u.mem = t.mem ∧ u.crews = t.crews ∧
        u.gangs = (t.notReplayable s.ctx.gangId).gangs ∧
        ∀ w l i, ((u.wave w).lane l).readV i = ((t.wave w).lane l).readV i)

/-- LaunchResult (R28, R274, R275, R17, R125). LAUNCH at level 10 writes status 1 and no identifier at once; below it, it sends
one request and parks the active fibres until the answer. Fibres that have been answered meet the instruction again and go on:
that they do so is the model's choice (log 49). The acceptance of a device launch writes status 0 and the identifier, 2 and the
byte offset of the field at fault, or 3, and wakes the fibres; one that must wait leaves the request. Its descriptor's blocks are
read first: one that meets a fatal fault gives 3 whatever offends, and the payload is in PBUF before any field is tested. That a
block whose own fields offend is not read is the model's choice (log 105). -/
def Obligations.LaunchResult : Prop :=
  (∀ (f : Ext) (s : State),
    let g := f.arg
    let da := launchAddr s.ctx g
    let act := s.ctx.act g.m
    s.Ready g rolesAll [.u g.a, .u (g.a + 1), .u g.d, .u (g.d + 1)] → s.ctx.crew.idx = 0 → s.ctx.gang.node = none →
    spaceOf da ≠ 3 →
    da.extractLsb' 0 4 = 0#4 → (s.tagged s.ctx.crewId da launchBytes).isSome = true → launchParked s s.ctx.wave = 0#32 →
    (s.ctx.launch.level = 10 → exec (.launch f) s = .next (((s.setUni s.ctx.crewId g.d (Reg.done 1#32 .n32)).setUni s.ctx.crewId
      (g.d + 1) (Reg.done 0#32 .n32)).advance 3)) ∧
    (s.ctx.launch.level ≠ 10 → s.OnLanes act (fun ln => ln.woken = true) →
      exec (.launch f) s = .next ((s.modWave s.ctx.cur.wave (fun w => w.mapLanes act (fun _ ln => { ln with woken := false }))).advance 3)) ∧
    (s.ctx.launch.level ≠ 10 → s.OnLanes act (fun ln => ln.woken = false) → look s.ctx.cur.wave s.waves = some s.ctx.wave →
      s.ctx.wave.lanes.length = 32 →
      let u := (s.parkLanes act (.launch s.nextUid)).catchUpLanes s.ctx.cur.wave act
      exec (.launch f) s = .next (State.advance { u with
        lreqs := u.lreqs ++ [(s.nextUid,
          { wave := s.ctx.cur.wave, crew := s.ctx.crewId, lanes := act, d := g.d, desc := da,
            local_ := s.tagged s.ctx.crewId da launchBytes })],
        nextUid := max u.nextUid (s.nextUid + 1) } 3))) ∧
  ∀ (k : Nat) (r : LaunchReq) (s : State), look k s.lreqs = some r → s.quietLanes r.wave r.lanes = true → s.awake r.crew = true →
    let c := s.crew r.crew
    let g := s.gang c.gang
    let l := s.launch g.launch
    let a : Asker :=
      { part := l.part, tenant := l.tenant, level := l.level + 1, da := r.desc, place := r.local_, tag := 0#32, firing := 0,
        parent := some c.gang, pref := taskPath c g l }
    let answered (u : State) (status value : Word) : State :=
      ((({ u with lreqs := drop k u.lreqs } : State).setUni r.crew r.d (Reg.done status .n32)).setUni r.crew (r.d + 1)
        (Reg.done value .n32)).modWave r.wave (fun w => w.mapLanes r.lanes (fun _ x => { x with woken := true }))
    (∀ ident u, s.acceptance a = .accepted ident u →
      exec (.launchAcceptance (.device k)) s = .next (answered (u.notReplayable c.gang) 0#32 ident)) ∧
    (∀ off u, s.acceptance a = .rejected off u →
      exec (.launchAcceptance (.device k)) s = .next (answered u 2#32 (BitVec.ofNat 32 off))) ∧
    (∀ u, s.acceptance a = .unreadable u → exec (.launchAcceptance (.device k)) s = .next (answered u 3#32 0#32)) ∧
    (∀ u, s.acceptance a = .waiting u → exec (.launchAcceptance (.device k)) s = .next u) ∧
    ∀ p ws qok, r.local_ = some p → s.readWords? l.part l.tenant p 64 = some ws →
      s.faultqOk l.part l.tenant (dwordAt ws 104) = .ok qok → s.signalMiss l.part l.tenant (dwordAt ws 120) = none →
      (∀ off b, s.readBlocks l.part l.tenant ws = .error (.unread off b) →
        exec (.launchAcceptance (.device k)) s = .next (answered (s.dropFatal l.part l.tenant b) 3#32 0#32)) ∧
      (∀ b u off addr, s.readBlocks l.part l.tenant ws = .ok b → s.copyPayload l.part l.tenant ws = .ok u →
        u.plan l.part l.tenant r.desc ws qok b = .error (.reject off addr) → addr ≠ 0#64 →
        exec (.launchAcceptance (.device k)) s = .next (answered (u.rejectLaunch a ws qok off addr) 2#32 (BitVec.ofNat 32 off)))

/-- TrapResult (R209, R324). TRAP with n below 128 posts a record with INFO n and the value, once what it releases has performed,
and the fibres go on; with n of 128 or more it stops the gang, with that INFO and the active lanes. That the gang stops at once
while the record, which releases the fibres' earlier writes, is posted only when those have performed, is the model's choice (log
12). -/
def Obligations.TrapResult : Prop :=
  ∀ (f : Ext) (s : State),
    let g := f.arg
    let act := s.ctx.act g.m
    let info := trapInfo s.ctx act g
    s.Clear g rolesAll (if trapVal g then [.v g.a] else []) → s.Active g →
    let t := s.catchUpLanes s.ctx.cur.wave act
    (trapNum g < 128 → t.unreleased t.nextUid s.ctx.cur.wave act (s.ctx.wave.fibres act) 4 = false →
      (∀ e ∈ t.accesses, e.1 < t.nextUid) →
      exec (.trap f) s = .next ((({ t with nextUid := t.nextUid + 1 } : State).trapRecord s.ctx.crewId s.ctx.cur.wave info s.ctx.cur.idx
        act s.ctx.cur.pc none).advance 3)) ∧
    (trapNum g < 128 → ∃ u, exec (.trap f) s = .next (State.advance u 3)) ∧
    (128 ≤ trapNum g → t.quietLanes s.ctx.cur.wave act = true →
      exec (.trap f) s = .next (t.takeFault s.ctx.cur { cls := .trap, info := info, addr := 0#64, lanes := act } 0#32)) ∧
    (128 ≤ trapNum g → t.quietLanes s.ctx.cur.wave act = false →
      exec (.trap f) s = .next (t.trapLater s.ctx.cur { cls := .trap, info := info, addr := 0#64, lanes := act })) ∧
    info.extractLsb' 0 32 = BitVec.ofNat 32 (trapNum g)

/-- SpecialResult (R4, R65, R66, R182, R316, R317). A core number is die × 64 + cluster × 16 + index, and SRD of CORE, CLUSTER and DIE
reads the parts of it; the other special registers of Table 3.11 read as the table says, GANGID, TASKID and NGANG of a node crew as
0xFFFF_FFFF, and a reserved index as zero; SRD writes the special register it names, tagged RAW, to the active fibres or once to a uniform register,
and reading CYCLES latches its high half for the wave; SWR to OPTHR writes the crew's threshold, and a write to any other special
register has no effect. -/
def Obligations.SpecialResult : Prop :=
  ((∀ core, core < 256 → dieOfCore core * 64 + clusterOfCore core % 4 * 16 + core % 16 = core ∧ dieOfCore core < 4) ∧
  ∀ (s : State) (l : Nat), s.ctx.crew.core < 256 →
    (special s s.ctx l 4).toNat = s.ctx.crew.core ∧ (special s s.ctx l 5).toNat < 4 ∧ (special s s.ctx l 6).toNat < 4 ∧
    (special s s.ctx l 6).toNat * 64 + (special s s.ctx l 5).toNat * 16 + s.ctx.crew.core % 16 = s.ctx.crew.core) ∧
  (∀ (s : State) (l : Nat),
    let c := s.ctx.crew
    let d := s.ctx.launch.desc
    let r (i : Nat) : Word := special s s.ctx l i
    let num (n : Nat) : Word := BitVec.ofNat 32 n
    r 0 = 32#32 ∧ r 1 = num l ∧ r 2 = num c.idx ∧ r 7 = s.ctx.launch.ident ∧ r 8 = num s.ctx.launch.level ∧ r 9 = num c.vlevel ∧
    r 10 = num (s.core c.core).cycles ∧ r 11 = s.ctx.wave.cyclesH ∧ r 12 = num s.ctx.launch.part ∧ r 14 ++ r 13 = d.seed ∧
    r 18 = num c.role ∧ r 19 = c.opthr ∧ r 21 ++ r 20 = c.key ∧ r 22 = c.recstat ∧ (∀ i, 23 ≤ i → r i = 0#32) ∧
    (s.ctx.gang.node = none → r 3 = num s.ctx.gang.lin ∧ r 15 = num (s.ctx.gang.lin * d.ncrew + c.idx) ∧ r 16 = num d.ncrew ∧
      (d.mcast = false → r 17 = num (d.gx * d.gy * d.gz)) ∧
      (d.mcast = true → r 17 = num ((List.range 64).filter (fun i => d.mask.getLsbD i)).length)) ∧
    (s.ctx.gang.node ≠ none → r 3 = 0xFFFF_FFFF#32 ∧ r 15 = 0xFFFF_FFFF#32 ∧ r 16 = 1#32 ∧ r 17 = 0xFFFF_FFFF#32)) ∧
  (∀ (f : Ext) (s : State),
    let g := f.arg
    let act := s.ctx.act g.m
    s.Clear g rolesAll [if srdUni g then .u g.d else .v g.d] → s.Active g →
    let t := if srdUni g then s.setUni s.ctx.crewId g.d (Reg.done (special s s.ctx (lowestLane act) (srIndex g)) .raw)
      else s.modWave s.ctx.cur.wave (fun w => w.mapLanes act (fun l ln =>
        ln.writeV g.d (Reg.done (special s s.ctx l (srIndex g)) .raw)))
    exec (.srd f) s = .next (State.advance (if srIndex g = 10 then
      t.modWave s.ctx.cur.wave (fun w => { w with cyclesH := BitVec.ofNat 32 ((s.core s.ctx.crew.core).cycles / 2 ^ 32) }) else t) 3)) ∧
  (∀ (f : Ext) (v : Word) (s : State),
    let g := f.arg
    s.Clear g rolesAll g.srcA.opds → s.Active g →
    s.OnLanes (s.ctx.act g.m) (fun ln => (g.srcA.read s.ctx.crew ln .raw).val = v) →
    (srIndex g = 19 → exec (.swr f) s = .next ((s.modCrew s.ctx.crewId (fun c => { c with opthr := opthrOf v })).advance 3)) ∧
    (srIndex g ≠ 19 → exec (.swr f) s = .next (s.advance 3)))

/-- FenceResult (R119, R263, R267, R108, R17, R52). FENCE, with one of its wave's eight places free, takes the lowest, covers the
accesses it releases, and writes the token, and with none free holds its clause; FWAIT lets fibres go on once the fence its token
names has completed, and parks them until then; a deferred fault that no flag delivers stops the gang there. -/
def Obligations.FenceResult : Prop :=
  (∀ (f : Ext) (s : State),
    let g := f.arg
    let k := ((List.range 8).find? (fun i => !((s.ctx.wave.fences[i]?).getD Fence.idle).busy)).getD 0
    let gen := (((s.ctx.wave.fences[k]?).getD Fence.idle).gen + 1) % 2 ^ 29
    let cover := if g.m.rel then fenceCover s s.ctx (s.ctx.act g.m) g else []
    s.Ready g rolesAll ([.u g.d] ++ (if fenceRange g then [.u g.a, .u (g.a + 1), .u g.b] else [])) →
    (fenceRange g = true → fenceBad (s.ctx.crew.pair g.a) = false) →
    (s.ctx.wave.fences.all (·.busy) = false →
      exec (.fence f) s = .next (((s.modWave s.ctx.cur.wave (fun w => { w with
          fences := w.fences.set k { gen := gen, busy := !cover.isEmpty, acq := g.m.acq, cover := cover } })).setUni s.ctx.crewId g.d
        (Reg.done (BitVec.ofNat 32 (gen * 8 + k)) .n32)).advance 3)) ∧
    (s.ctx.wave.fences.all (·.busy) = true → exec (.fence f) s = .next s.held)) ∧
  (∀ (f : Ext) (s : State),
    let g := f.arg
    let t := (s.ctx.crew.uni g.a).val.toNat
    let x := (s.ctx.wave.fences[t % 8]?).getD Fence.idle
    s.Ready g rolesAll [.u g.a] → (s.ctx.crew.uni g.a).tag = .n32 →
    (x.busy = true → x.gen = t / 8 →
      exec (.fwait f) s = .next ((s.parkLanes (s.ctx.act g.m) (.fence (t % 8) (t / 8))).advance 3)) ∧
    (¬ (x.busy = true ∧ x.gen = t / 8) →
      (s.deferredAt s.ctx.crewId .fwait = none → exec (.fwait f) s = .next (s.advance 3)) ∧
      (∀ d, s.deferredAt s.ctx.crewId .fwait = some d →
        exec (.fwait f) s = .next (s.takeFault s.ctx.cur (d.precise (s.ctx.act g.m)) 0#32))))

/-- IssueEvents (R18, R20, R23, R58, R59, R61, R269, R304, R333). ISSUE_OPPORTUNITY, between clauses, serves the ready wave of the core that
comes first by slot number after the last one served; CLAUSE_CONTINUE takes a held clause up again where it stood, once its instruction
no longer holds, or holds after it has served more lanes (REMIT), and what is left of it passes the check step before any of it takes
effect. A clause that does
not decode stops the gang with ILLEGAL; one that does is checked whole before its first instruction: a fault of any of its
instructions is taken with none of them run, and the first in the clause's order is the one reported. Behind an instruction whose
result is known only after its wait, and behind any that waits, a fault counts that does not depend on the result, nor on what memory
holds then: that, and what is said to depend on it, is the model's choice (log 60), as is that these are separate steps (log 1) and that a gang with a crew whose place another partition
has taken is not taken up again (log 62). In an ebb a held clause goes on only where an HLD or HST has begun, and only to its end. -/
def Obligations.IssueEvents : Prop :=
  (∀ (core wave slot : Nat) (s : State),
    let u := s.freeNext.2.modCore core (fun c => { c with cycles := (c.cycles + Config.freeClocks s.freeNext.1) % 2 ^ 64 })
    s.cur = none →
    nextSlot (u.core core).rr (((u.readyOn core).filter (fun k => !u.passedOver (u.readyOn core) k)).map (fun k => (k, (u.wave k).slot))) =
      some (wave, slot) →
    exec (.issueOpportunity core) s = .next (((u.modCore core (fun c => { c with rr := slot })).serve wave).issueWave wave) ∧
    ∀ k ∈ (u.readyOn core).filter (fun k => !u.passedOver (u.readyOn core) k),
      (slot + 47 - (u.core core).rr) % 48 ≤ ((u.wave k).slot + 47 - (u.core core).rr) % 48) ∧
  (∀ (wave : Nat) (c : Cursor) (cl : Clause) (i : Instr) (m : Sem) (s : State),
    let b : Cursor := { c with ebbed := false }
    let t := { (s.modWave wave (fun w => { w with hold := none })) with cur := some b }
    s.cur = none → (s.wave wave).hold = some c → (s.wave wave).ended = false → s.awake (s.wave wave).crew = true →
    (s.gang (s.crew (s.wave wave).crew).gang).phase = .running → s.resides (s.gang (s.crew (s.wave wave).crew).gang).launch = true →
    t.decodeClause (s.gang (s.crew (s.wave wave).crew).gang).launch c.pc = .ok cl → (cl.instrs.drop c.idx).head? = some i →
    i.sem = some m →
    (∀ u, m.wait t = .hold u → u.ctx.cur.served = b.served → exec (.clauseContinue wave) s = .next u.holdClause) ∧
    ((∀ u, m.wait t = .hold u → u.ctx.cur.served ≠ b.served) →
      (checkAll (cl.instrs.drop c.idx) t = none → exec (.clauseContinue wave) s = .next t) ∧
      (∀ d p, checkAll (cl.instrs.drop c.idx) t = some (d, p) → exec (.clauseContinue wave) s = .next (t.meetFault d p)))) ∧
  (∀ (wave : Nat) (c : Cursor) (s : State), s.cur = none → (s.wave wave).hold = some c → (s.wave wave).ended = false →
    s.awake (s.wave wave).crew = true → (s.gang (s.crew (s.wave wave).crew).gang).phase = .running →
    s.resides (s.gang (s.crew (s.wave wave).crew).gang).launch = false →
    ((c.ebbed = true ∨ (s.fetchInstr c).any isHyperMove = false) → exec (.clauseContinue wave) s = .next s) ∧
    (∀ i m, c.ebbed = false → s.fetchInstr c = some i → isHyperMove i = true → i.sem = some m →
      let t := m.step { (s.modWave c.wave (fun w => { w with hold := none })) with cur := some c }
      (t.cur = none → exec (.clauseContinue wave) s = .next t) ∧
      (∀ d, t.cur = some d → exec (.clauseContinue wave) s = .next { (t.modWave d.wave (fun w => { w with
        hold := some { d with ebbed := true } })) with cur := none }))) ∧
  (∀ (wave : Nat) (s : State), s.gangSeated (s.crew (s.wave wave).crew).gang = false →
    exec (.clauseContinue wave) s = .next s ∧ s.waveReady wave = false) ∧
  (∀ (wave : Nat) (pc : Word) (pos : Nat) (s : State),
    let w := s.wave wave
    let ready := s.readyLanes wave
    let cohort := laneSet (fun l => ready.getLsbD l && (w.lane l).pc == pc && (w.lane l).pos == pos)
    choosePosition ((laneList ready).map w.lane) = some (pc, pos) →
    s.issueWave wave = (s.modWave wave (fun w => ageLanes w ready cohort)).issueClause wave cohort pc pos) ∧
  (∀ (wave : Nat) (cohort : Lanes) (pc : Word) (pos : Nat) (s : State),
    let w := s.wave wave
    let l := (s.gang (s.crew w.crew).gang).launch
    let c : Cursor := { Cursor.nil with wave := wave, lanes := cohort, pc := pc, addr := pc }
    (∀ k, s.decodeClause l pc = .error (.illegal, k) → s.issueClause wave cohort pc pos =
      s.takeFault c { cls := .illegal, info := BitVec.ofNat 64 k, addr := 0#64, lanes := cohort } 0#32) ∧
    (∀ cl, s.decodeClause l pc = .ok cl →
      (∀ f < 12, cl.head.wait.getLsbD f = true → pos = 0 → s.deferredAt w.crew (.flag wave f) = none) →
      let u := ({ s with cur := some { c with
          idx := pos - 1, addr := pc + BitVec.ofNat 32 (offsetOf cl.instrs (pos - 1)), count := cl.head.count,
          setA := cl.head.setA, setB := cl.head.setB, yielded := (laneList cohort).any (fun l => (w.lane l).yielded) } } : State).modWave
        wave (fun w => w.mapLanes cohort (fun _ x =>
          { x with park := none, yielded := false, temps := if pos = 0 then List.replicate 4 Reg.zero else x.temps }))
      (checkAll (cl.instrs.drop (pos - 1)) u = none → s.issueClause wave cohort pc pos = u) ∧
      (∀ d p, checkAll (cl.instrs.drop (pos - 1)) u = some (d, p) → s.issueClause wave cohort pc pos = u.meetFault d p))) ∧
  (∀ (i : Instr) (is : List Instr) (m : Sem) (s : State), i.sem = some m →
    (∀ p, m.fault s = some p → checkAll (i :: is) s = some (s.ctx.cur, p)) ∧
    (m.fault s = none → m.unknown s = false → m.wait s = .go → checkAll (i :: is) s = checkAll is ((m.eff s).advance m.size)) ∧
    (m.fault s = none → m.unknown s = false → m.wait s ≠ .go →
      checkAll (i :: is) s = checkBehind is (m.doubt Doubt.nil s) ((m.eff s).advance m.size)) ∧
    (m.fault s = none → m.unknown s = true →
      checkAll (i :: is) s = checkBehind is (m.doubt Doubt.nil s) ((m.guess s).advance m.size)) ∧
    ∀ d : Doubt, (∀ p, m.faultBehind d s = some p → checkBehind (i :: is) d s = some (s.ctx.cur, p)) ∧
      (m.faultBehind d s = none → m.unknown s = false →
        checkBehind (i :: is) d s = checkBehind is (m.doubt d s) ((m.eff s).advance m.size)) ∧
      (m.faultBehind d s = none → m.unknown s = true →
        checkBehind (i :: is) d s = checkBehind is (m.doubt d s) ((m.guess s).advance m.size)) ∧
      (m.wait s ≠ .go → Spot.mem ∈ (m.doubt d s).spots))

/-- The word an atomic leaves at its home, given the old one and the operand (Table 5.10): MIN and MAX are signed under I32 alone
(log 54), FADD rounds to nearest-even and never flushes, AMAX is NaN if either value is. -/
def tableWord {n : Nat} (op : Nat) (tag : Tag) (old x : BitVec n) : BitVec n :=
  match op with
  | 0 => old + x
  | 1 => BitVec.ofNat n (fmtF32.addBits .ne false false old.toNat x.toNat)
  | 2 => if tag = .i32 then (if old.sle x then old else x) else if old.ule x then old else x
  | 3 => if tag = .i32 then (if x.sle old then old else x) else if x.ule old then old else x
  | 4 => old &&& x
  | 5 => old ||| x
  | 6 => old ^^^ x
  | 7 => x
  | 8 => if old.ule x then old else x
  | 9 =>
    if (fmtF32.decode old.toNat).isNan || (fmtF32.decode (x.toNat % 2 ^ 31)).isNan then BitVec.ofNat n fmtF32.nanPat
    else BitVec.ofNat n (fmtF32.maxBits false old.toNat (x.toNat % 2 ^ 31))
  | 10 => 0#n
  | _ => if x.ule old then 0#n else old + 1#n

/-- LandingEvents (R53, R107, R110, R119, R237, R121, R169, R178, R179, R194, R210, R331). LANDING writes the destinations of an operation
(registers, a tile, the answer of a work request in local memory, whose two words land one after the other, a loaded word, the nearest
hit of a ray, a distance or the nearest hypervector) and lowers its flag, a ray's error with a deferred DESCRIPTOR, and a page that is missing holds a ray or a
query; a recall unit serves the partitions in turn; FENCE_COMPLETE marks a fence whose accesses have performed as complete;
ATOMIC_PERFORM does an access that is ready, at its home or in a DET region's buffer: an atomic leaves there the word of Table
5.10 and returns the old one, as one step, with the completion test where its home is a barrier object; one that goes over the host link
takes the turn of its partition there; a lane's atomic waits for those of lower lanes that are under way to the same line. That these are separate steps (log 1), that a query reads every item when it lands (log 6), that a
query and an access over the host link are each one service (log 82), what counts as a barrier object (log 19), and MIN and MAX under a tag but I32, N32 and RAW (log 54), are the model's choices. -/
def Obligations.LandingEvents : Prop :=
  (∀ (k : Nat) (f : Flight) (s : State), look k s.flights = some f → f.fault = none → s.awake (s.wave f.wave).crew = true →
    let crew := (s.wave f.wave).crew
    let land (ds : List Dest) (t : State) : State := (ds.foldl (fun t d => t.writeDest f.wave d) t).endFlight k f
    (∀ ds, f.payload = .regs ds → exec (.landing k) s = .next (land ds s)) ∧
    (∀ d v, f.payload = .hdist d v → exec (.landing k) s = .next (land [.uni d v .n32] s)) ∧
    (∀ n tag els, f.payload = .tile n tag els → exec (.landing k) s = .next ((s.modWave f.wave (fun w => w.setTile n (fun t =>
      { t with tag := tag, elems := els, pend := false }))).endFlight k f)) ∧
    (∀ c off x y, f.payload = .answer c off x y → exec (.landing k) s = .next { s.putLmem c off 4 x.toNat with
      flights := change k (fun w => { w with payload := .rest c off y }) s.flights }) ∧
    (∀ c off y, f.payload = .rest c off y → exec (.landing k) s = .next ((s.putLmem c (off + 4) 4 y.toNat).endFlight k f)) ∧
    (∀ l phys a tag v, f.payload = .load l phys a tag →
      s.blocked k f.wave (laneBit l) [((s.wave f.wave).lane l).fibre] a 4 = false → s.behindCore k f.op crew a = false →
      s.taskWord? crew a = some v →
      exec (.landing k) s = .next (land [.lane l phys v tag]
        { s with flights := change k (fun x => { x with payload := .regs [.lane l phys v tag] }) s.flights })) ∧
    (∀ l phys cut ray, f.payload = .rayq l phys cut ray → s.quiet f.wave k = true →
      (∀ h, s.rayQuery crew cut ray = .ok (some h) →
        exec (.landing k) s = .next (land [.lane l phys h.t .f32, .lane l (phys + 1) h.prim .n32] s)) ∧
      (s.rayQuery crew cut ray = .ok none →
        exec (.landing k) s = .next (land [.lane l phys f32InfW .f32, .lane l (phys + 1) 0xFFFF_FFFF#32 .n32] s)) ∧
      (∀ addr off, s.rayQuery crew cut ray = .error (.bad addr off) → exec (.landing k) s =
        .next ((land [.lane l phys 0x7FC0_0000#32 .f32, .lane l (phys + 1) 0xFFFF_FFFE#32 .n32] s).defer
          { gang := (s.crew crew).gang, crew := crew, cls := .descriptor, addr := addr, info := BitVec.ofNat 64 off,
            till := tillFlag f.wave f.flag })) ∧
      (∀ a, s.rayQuery crew cut ray = .error (.miss a) → exec (.landing k) s = .next (s.holdFlight k f crew a))) ∧
    (∀ d q base n, f.payload = .hnear d q base n → s.quiet f.wave k = true →
      let u := s.engineServed (.recall (clusterOfCore (s.coreOfWave f.wave))) (s.partOf crew)
      (s.recallTurn f = false → exec (.landing k) s = .next s) ∧
      (∀ i dist, s.recallTurn f = true → u.nearest crew q base 0 n (0xFFFF_FFFF, 8193) = .ok (i, dist) →
        exec (.landing k) s = .next (land [.uni d (BitVec.ofNat 32 i) .n32, .uni (d + 1) (BitVec.ofNat 32 dist) .n32] u)) ∧
      (∀ a, s.recallTurn f = true → u.nearest crew q base 0 n (0xFFFF_FFFF, 8193) = .error a →
        exec (.landing k) s = .next (u.holdFlight k f crew a)))) ∧
  (∀ (wave slot : Nat) (s : State),
    let f := ((s.wave wave).fences[slot]?).getD Fence.idle
    f.busy = true → (∀ k ∈ f.cover, look k s.accesses = none ∧ look k s.flights = none) →
    exec (.fenceComplete wave slot) s = .next (s.modWave wave (fun w => { w with
      fences := w.fences.set slot { f with busy := false, cover := [] } }))) ∧
  (∀ (k : Nat) (a : Access) (s : State), look k s.accesses = some a →
    (s.accessReady k a = false → exec (.atomicPerform k) s = .next s) ∧
    (s.overHost a = false → s.accessReady k a = s.accessMay k a) ∧
    (s.overHost a = true → (s.accessReady k a = true ↔
      s.accessMay k a = true ∧ s.engineServes .host s.hostWork = some (s.partOf a.crew)))) ∧
  (∀ (j k : Nat) (a b : Access) (s : State), look k s.accesses = some a → look j s.accesses = some b → j < k → a.op = b.op →
    a.crew = b.crew → b.what.inTurn = true → s.sameLine b.crew b.addr a.crew a.addr = true → s.sent j b = true →
    exec (.atomicPerform k) s = .next s) ∧
  (∀ (k i o : Nat) (a : Access) (s : State), look k s.accesses = some a → s.accessReady k a = true → s.buffersAt a = some (i, o) →
    exec (.atomicPerform k) s = .next ((s.buffer a.crew (a.what.entries i o) []).answerAccess k a 0)) ∧
  (∀ (k : Nat) (a : Access) (h : Home) (s : State), look k s.accesses = some a → s.accessReady k a = true → s.buffersAt a = none →
    s.home? (s.spaceOfCrew a.crew).1 (s.spaceOfCrew a.crew).2 a.addr = some h →
    reaches a.what a.scope a.addr (s.targetOf (s.spaceOfCrew a.crew).1 (s.spaceOfCrew a.crew).2 a.addr) = true →
    let v : State := if s.overHost a then s.engineServed .host (s.partOf a.crew) else s
    let ready := v.performAt h a.what
    let dirty (u : State) : State := u.markDirty (s.spaceOfCrew a.crew).1 (s.spaceOfCrew a.crew).2 a.addr
    (∀ op w x tag, a.what = .atom op w x tag → exec (.atomicPerform k) s = .next ((dirty ready.2).answerAccess k a ready.1)) ∧
    (∀ w x cmp tag, a.what = .cas w x cmp tag → exec (.atomicPerform k) s = .next ((dirty ready.2).answerAccess k a ready.1)) ∧
    (∀ x, a.what = .store x → exec (.atomicPerform k) s = .next ((dirty (s.storeWord h x)).answerAccess k a 0)) ∧
    (∀ op, a.what = .bar op → exec (.atomicPerform k) s = .next (({ s with accesses := drop k s.accesses } : State).barOp h op))) ∧
  (∀ (h : Home) (x cmp : Word) (op : Nat) (tag : Tag) (s : State), s.memoriesWf = true →
    (∀ c o, h = .loc c o → (look c s.crews).isSome = true) → s.barrierAtom h = false →
    let old := s.homeWord h
    let a := s.performAt h (.atom op false (x.setWidth 64) tag)
    let c := s.performAt h (.cas false (x.setWidth 64) (cmp.setWidth 64) tag)
    a.1 = old.toNat ∧ a.2.homeWord h = tableWord op tag old x ∧
    c.1 = old.toNat ∧ c.2.homeWord h = if old = cmp then x else old) ∧
  (∀ (h : Home) (x cmp : Dword) (op : Nat) (tag : Tag) (s : State), s.memoriesWf = true →
    (∀ c o, h = .loc c o → (look c s.crews).isSome = true) → s.barrierAtom h = false →
    let old := s.homeDword h
    let a := s.performAt h (.atom op true x tag)
    let c := s.performAt h (.cas true x cmp tag)
    a.1 = old.toNat ∧ a.2.homeDword h = tableWord op tag old x ∧
    c.1 = old.toNat ∧ c.2.homeDword h = if old = cmp then x else old) ∧
  (∀ (h : Home) (x : Word) (op : Nat) (tag : Tag) (s : State), s.barrierAtom h = true →
    (s.performAt h (.atom op false (x.setWidth 64) tag)).2 = (s.putHomeWord h (tableWord op tag (s.homeWord h) x)).testPhase h.object) ∧
  (∀ (k old phys : Nat) (a : Access) (s : State), a.ret = some phys →
    let tag := a.what.retTag
    (s.answerAccess k a old).accesses = drop k s.accesses ∧
    (s.answerAccess k a old).flights = s.flights ++ [(s.nextUid,
      { op := a.op, wave := a.wave, flag := a.flag, txns := a.txns, lines := [], fault := none,
        payload := .regs (if a.what.wide then [.lane a.lane phys (BitVec.ofNat 32 old) tag,
          .lane a.lane (phys + 1) (BitVec.ofNat 32 (old / 2 ^ 32)) tag] else [.lane a.lane phys (BitVec.ofNat 32 old) tag]) })]) ∧
  (∀ op w x tag, (AccessOp.atom op w x tag).retTag = if op = 10 then .f32 else tag)

/-- CopyEvents (R94, R97, R101, R102, R104, R105, R108, R196, R210). COPY_PACKET moves elements of a copy, up to the first it must wait for,
and credits the copy's barrier with their bytes; after the last the status lands as 0; a page that is absent suspends it, a fatal
one ends it with TRANSLATE. COPY_HOLD_RELEASE gives it the claims of the lines that have room; COPYS_SIGNAL counts down a counter
at its home, in global memory or in shelf, or asks the peer to, once every element has landed; a signal that takes its counter from above
0 to 0 or below fires the slots bound there, each of which adds its RELOAD, in ascending slot number; a counter's page that is absent
suspends it. The engine of a cluster, the link of a peer port and the host link serve the partitions in turn, the host link before the
others. That these are separate
steps (log 1), that a slot adds its RELOAD though its firing, a seventeenth, is discarded (log 39), that a copy to a peer
credits nothing when its elements leave but when the peer answers, and that its signal goes to the peer as a request and waits for
the answer (log 50), and that a packet and a signal are the units of service (log 82), are the model's choices. -/
def Obligations.CopyEvents : Prop :=
  (∀ (k first n done : Nat) (c : Copy) (stop : Option ElemStop) (u : State) (s : State), look k s.copies = some c →
    (∀ e f, c.susp = some (e, f) → first + n ≤ e) → s.awake c.crew = true → 0 < n → n * c.desc.unit ≤ 64 →
    allLeft c.left first n = true → s.elemGoes k c first = true → s.copyTurn c (s.packetHost c first n) = true →
    (s.copyServed c (s.packetHost c first n)).moveElems k c first n 0 = (done, stop, u) →
    let d := if c.toPeer then c.goneOut first done else c.landed first done
    let v : State := { u with copies := change k (fun _ => d) u.copies }
    let w := match c.desc.cred with
      | some bar => if c.toPeer || done == 0 then v else v.credit c.crew c.wave bar (done * c.desc.unit)
      | none => v
    (stop = none → (d.left ≠ [] ∨ c.signal = true ∨ c.susp.isSome = true) → exec (.copyPacket k first n) s = .next w) ∧
    (stop = none → d.left = [] → c.signal = false → c.susp = none → exec (.copyPacket k first n) s = .next (w.finishCopy k d 0)) ∧
    (stop = some .held → exec (.copyPacket k first n) s = .next w) ∧
    (∀ a, stop = some (.miss a) → c.susp = none → exec (.copyPacket k first n) s = .next (w.suspendCopy k d (first + done) a)) ∧
    (stop = some .late → exec (.copyPacket k first n) s = .next (w.failCopy k d .descriptor c.desc.addr 80#64)) ∧
    (∀ a, stop = some (.fatal a) → exec (.copyPacket k first n) s = .next (w.failCopy k d .translate (w.toTagged a) 0#64))) ∧
  (∀ (k status : Nat) (c : Copy) (s : State), (s.finishCopy k c status).copies = drop k s.copies ∧
    (s.finishCopy k c status).flights = s.flights ++ [(s.nextUid,
      { op := c.op, wave := c.wave, flag := c.flag, txns := 1, lines := [],
        payload := .regs [.uni c.d (BitVec.ofNat 32 status) .n32], fault := none })]) ∧
  (∀ (k : Nat) (c : Copy) (s : State), look k s.copies = some c →
    let free (l : Nat × Nat) : Bool := s.claimCount (s.spaceOfCrew c.crew).1 (s.spaceOfCrew c.crew).2 l < 15
    exec (.copyHoldRelease k) s = .next { s with copies := change k (fun x => { x with
      claims := c.claims ++ c.wants.filter free, wants := c.wants.filter (fun l => !free l) }) s.copies }) ∧
  (∀ (k : Nat) (c : Copy) (a : Nat) (s : State), look k s.copies = some c → c.signal = true → c.left = [] → c.sent = [] →
    c.asked = false → c.susp = none → s.awake c.crew = true →
    let host := s.inHost c.crew c.desc.ctr
    let v := s.copyServed c host
    (s.copyTurn c host = false → exec (.copysSignal k) s = .next s) ∧
    (s.copyTurn c host = true →
    (s.copyUnreached c c.desc.ctr = true → exec (.copysSignal k) s = .next (v.failCopy k c .translate (s.toTagged c.desc.ctr) 0#64)) ∧
    (∀ h, s.copyUnreached c c.desc.ctr = false → (∀ a, c.desc.ctr ≠ .peer a) →
      s.home? (s.spaceOfCrew c.crew).1 (s.spaceOfCrew c.crew).2 c.desc.ctr = some h →
      exec (.copysSignal k) s = .next (((v.counterSignal (s.spaceOfCrew c.crew).1 (s.spaceOfCrew c.crew).2 h c.desc.dec).markDirty
        (s.spaceOfCrew c.crew).1 (s.spaceOfCrew c.crew).2 c.desc.ctr).finishCopy k c 0)) ∧
    (s.copyUnreached c c.desc.ctr = false → (∀ a, c.desc.ctr ≠ .peer a) →
      s.home? (s.spaceOfCrew c.crew).1 (s.spaceOfCrew c.crew).2 c.desc.ctr = none →
      exec (.copysSignal k) s = .next (v.suspendCopy k c c.desc.total c.desc.ctr)) ∧
    (s.copyUnreached c c.desc.ctr = false → c.desc.ctr = .peer a → exec (.copysSignal k) s = .next { v with
      peerOut := s.peerOut ++ [.signal c.desc.port k a c.desc.dec], copies := change k (fun x => { x with asked := true }) s.copies }))) ∧
  (∀ (part tenant : Nat) (h : Home) (dec : Word) (s : State), s.memoriesWf = true →
    (∀ c o, h = .loc c o → (look c s.crews).isSome = true) →
    let old := s.homeDword h
    let new := old - dec.setWidth 64
    let slots := s.boundSlots part tenant h
    ((¬ (0 < old.toInt ∧ new.toInt ≤ 0) ∨ slots = []) → (s.counterSignal part tenant h dec).homeDword h = new ∧
      (s.counterSignal part tenant h dec).parts = s.parts) ∧
    (0 < old.toInt → new.toInt ≤ 0 → s.counterSignal part tenant h dec =
      slots.foldl (fun t n => t.fireSlot part n 0 true)
        (s.putHomeDword h (slots.foldl (fun v n => v + ((s.part part).slot n).reload) new)))) ∧
  (∀ (k first n : Nat) (c : Copy) (s : State), look k s.copies = some c →
    (s.copyTurn c (s.packetHost c first n) = false ∨ s.elemGoes k c first = false) → exec (.copyPacket k first n) s = .next s) ∧
  (∀ (c : Copy) (host : Bool) (s : State), s.copyTurn c host = true →
    (host = true → s.engineServes .host s.hostWork = some (s.partOf c.crew)) ∧
    (c.toPeer = true → s.engineServes (.link c.desc.port) (fun part => s.copies.any (fun e =>
      e.2.toPeer && e.2.desc.port == c.desc.port && s.partOf e.2.crew == part && s.copyMay e.1 e.2)) = some (s.partOf c.crew)) ∧
    ∃ ready : Nat → Bool, s.engineServes (.copies (clusterOfCore (s.crew c.crew).core)) ready = some (s.partOf c.crew)) ∧
  (∀ (k : Nat) (c : Copy) (s : State), s.copyMay k c = true → s.hostTurn c.crew = false →
    (∃ r ∈ c.left, ∃ i < r.len, s.elemGoes k c (r.base + i) = true ∧ s.elemHost c (r.base + i) = false) ∨
      (c.signalDue = true ∧ s.inHost c.crew c.desc.ctr = false))

/-- TranslationEvents (R108, R96, R147, R169, R179). FAULT_SERVICED ends a translation fault and adds the pages to its
tenant; what it held goes on. FAULT_DECLARED_FATAL ends every access, load, ray, nearest query, copy and view that the fault
holds, with a deferred TRANSLATE: a load gives 0, a ray and a query their error results, at the next wait on their flag; an
access without a return waits for FWAIT, and the credit of a copy or a product to a barrier for the next wait on that
barrier. A product itself holds no fault: a page of it that is missing ends it (UnitEvents). That such a credit waits there
(log 83), that a fault nothing in flight holds is kept, marked as fatal, for an instruction (log 12) or an acceptance
(log 28) to meet, that records kept for a page are posted then (log 27), and that added pages which meet an existing one are
not taken (log 53), are the model's choices. -/
def Obligations.TranslationEvents : Prop :=
  (∀ (f : Nat) (t : TFault) (pages : List PageSpec) (s : State), look f s.tfaults = some t → t.fatal = false →
    let old := ((s.tenant? t.part t.tenant).map (·.pages)).getD []
    let acc := names (fun (a : Access) => a.fault == some f) s.accesses
    let lds := names (fun (x : Flight) => x.fault == some f) s.flights
    ∃ u : State, exec (.faultServiced f pages) s = .next ((u.resumeHeld acc lds).postAgain) ∧ u.tfaults = drop f s.tfaults ∧ u.mem = s.mem ∧
      u.waves = s.waves ∧ (∀ e ∈ u.accesses, e.2.fault ≠ some f) ∧ (∀ e ∈ u.flights, e.2.fault ≠ some f) ∧
      (∀ e ∈ u.views, e.2.fault ≠ some f) ∧ (∀ e ∈ u.copies, ∀ n, e.2.susp ≠ some (n, f)) ∧
      u.parts = (s.modPart t.part (fun p => { p with tenants := p.tenants.map (fun n =>
        if n.id == t.tenant then { n with pages := n.pages ++ addedPages old pages } else n) })).parts ∧
      (pages.all Page.ok = true → (old ++ pages).Pairwise (fun p q => Page.meets q p = false) → addedPages old pages = pages)) ∧
  (∀ (f : Nat) (t : TFault) (s : State), look f s.tfaults = some t → t.fatal = false →
    let acc := s.accesses.filter (fun e => e.2.fault == some f)
    let fls := s.flights.filter (fun e => e.2.fault == some f)
    let cps := s.copies.filter (fun e => match e.2.susp with | some (_, g) => g == f | none => false)
    let vws := names (fun (v : View) => v.fault == some f) s.views
    let gone : State := { s with tfaults := drop f s.tfaults }
    let fatal : State := { s with tfaults := change f (fun t => { t with fatal := true }) s.tfaults }
    let kept := acc = [] ∧ fls = [] ∧ cps = [] ∧ vws = []
    ∀ base : State, (kept → base = fatal) → (¬ kept → base = gone) →
      let a := acc.foldl (fun u e => u.failAccess e.1 e.2) base
      let b := fls.foldl (fun u e => u.failFlight e.1 e.2 t.addr) a
      let c := cps.foldl (fun u e => u.failCopy e.1 e.2 .translate (u.toTagged t.addr) 0#64) b
      let d := vws.foldl (fun u k => u.modView k (fun v => { v with
        fault := none, error := some (.translate, u.toTagged t.addr, 0#64) })) c
      exec (.faultDeclaredFatal f) s = .next d.postAgain) ∧
  (∀ (k : Nat) (a : Access) (s : State),
    let late (till : List Until) : State := (s.answerAccess k a 0).deferTranslate a.crew a.addr till
    (∀ n, a.what = .bar (.credit n) → s.failAccess k a = late [.object a.addr]) ∧
    (∀ phys fl, (∀ n, a.what ≠ .bar (.credit n)) → a.ret = some phys → a.flag = some fl → s.failAccess k a = late [.flag a.wave fl]) ∧
    ((∀ n, a.what ≠ .bar (.credit n)) → a.ret = none → s.failAccess k a = late [.fwait])) ∧
  (∀ (k fl : Nat) (x : Flight) (a : VAddr) (s : State), x.flag = some fl →
    let land (ds : List Dest) : State := ({ s with flights := change k (fun y =>
      { y with payload := .regs ds, fault := none }) s.flights } : State).deferTranslate (s.wave x.wave).crew a [.flag x.wave fl]
    (∀ l phys b tag, x.payload = .load l phys b tag → s.failFlight k x a = land [.lane l phys 0#32 tag]) ∧
    (∀ l phys cut ray, x.payload = .rayq l phys cut ray →
      s.failFlight k x a = land [.lane l phys 0x7FC0_0000#32 .f32, .lane l (phys + 1) 0xFFFF_FFFE#32 .n32]) ∧
    (∀ d q base n, x.payload = .hnear d q base n →
      s.failFlight k x a = land [.uni d 0xFFFF_FFFE#32 .n32, .uni (d + 1) 8194#32 .n32]))

/-- MessageEvents (R195, R196, R203, R104). ARM, FIRE and messages of other KINDs enter their partition's queue as 64-byte flits
and are taken from its head. ARM binds or disarms a slot; FIRE of an armed slot with room fires it; reserved bytes, an unusable
counter, a slot not armed or full and a reserved KIND post a SLOTEVENT with their cause: one record with one cause where several
hold, in the model's order of checks (log 81). A signal from a peer counts down the
counter it names and data from a peer is stored, where the page translates, and both are answered; a refusal ends the copy that
sent it with TRANSLATE. That a peer answers by a message of its own is the model's choice (log 50). -/
def Obligations.MessageEvents : Prop :=
  (∀ (part : Nat) (m : Flit) (s : State), s.takesMessages part 0 = true →
    let s' := s.modPart part (fun p => { p with queue := p.queue ++ [m] })
    (msgKind m = 1 → exec (.arm part (msgSlot m) (.arrives m)) s = .next s') ∧
    (msgKind m = 2 → exec (.fire part (msgSlot m) (.arrives m)) s = .next s') ∧
    (msgKind m ≠ 1 → msgKind m ≠ 2 → exec (.reservedKindMessage part (msgKind m) (.arrives m)) s = .next s')) ∧
  (∀ (part : Nat) (m : Flit) (ms : List Flit) (s : State), s.takesMessages part 0 = true → (s.part part).queue = m :: ms →
    let t := s.modPart part (fun p => { p with queue := ms })
    let n := msgSlot m
    let x := (t.part part).slot n
    (msgKind m = 1 →
      (msgReserved m = true → exec (.arm part n .taken) s = .next (t.slotEvent part n 1 3 false)) ∧
      (msgReserved m = false → ctrUsable (msgCtr m) = false → exec (.arm part n .taken) s = .next (t.slotEvent part n 1 4 false)) ∧
      (msgReserved m = false → ctrUsable (msgCtr m) = true → msgDesc m = 0#64 →
        exec (.arm part n .taken) s = .next (t.modSlot part n (fun y => { Slot.disarmed with waiting := y.waiting }))) ∧
      (msgReserved m = false → ctrUsable (msgCtr m) = true → msgDesc m ≠ 0#64 →
        exec (.arm part n .taken) s = .next (t.modSlot part n (fun y =>
          { armed := true, desc := msgDesc m, tag := msgTag m, fires := msgFires m, ctr := msgCtr m, reload := msgReload m, num := 0,
            waiting := y.waiting })))) ∧
    (msgKind m = 2 →
      (msgReserved m = true → exec (.fire part n .taken) s = .next (t.slotEvent part n 2 3 false)) ∧
      (msgReserved m = false → x.armed = false → exec (.fire part n .taken) s = .next (t.slotEvent part n 2 1 false)) ∧
      (msgReserved m = false → x.armed = true → 16 ≤ x.waiting.length →
        exec (.fire part n .taken) s = .next (t.slotEvent part n 2 0 false)) ∧
      (msgReserved m = false → x.armed = true → x.waiting.length < 16 →
        exec (.fire part n .taken) s = .next (t.modSlot part n Slot.fire))) ∧
    (msgKind m ≠ 1 → msgKind m ≠ 2 →
      exec (.reservedKindMessage part (msgKind m) .taken) s = .next (t.slotEvent part n (msgKind m) 2 false))) ∧
  (∀ (port part k first a : Nat) (dec : Word) (bs : List Byte) (s : State), s.up = true → s.halted = false →
    s.portsDown.contains port = false →
    let tenant := (s.part part).owner
    (∀ h hs, look port s.portPart = some part → s.homes? part tenant (.glob a) 8 = some (h :: hs) →
      exec (.peerCopysTraffic (.signal port k a dec)) s = .next (((s.counterSignal part tenant h dec).markDirty part tenant
        (.glob a)).sendPeer (.landed port k 0 0))) ∧
    (look port s.portPart = some part → s.homes? part tenant (.glob a) 8 = none →
      exec (.peerCopysTraffic (.signal port k a dec)) s = .next (s.sendPeer (.refused port k a))) ∧
    (∀ hs, look port s.portPart = some part → s.homes? part tenant (.glob a) bs.length = some hs →
      exec (.peerCopysTraffic (.data port k first a bs)) s = .next ((((s.putPlain hs (bs.foldr (fun b n => b.toNat + 256 * n) 0)).markDirty
        part tenant (.glob a)).markDirty part tenant (.glob (a + (bs.length - 1)))).sendPeer (.landed port k first 1))) ∧
    (look port s.portPart = some part → s.homes? part tenant (.glob a) bs.length = none →
      exec (.peerCopysTraffic (.data port k first a bs)) s = .next (s.sendPeer (.refused port k a))) ∧
    (∀ c n, look k s.copies = some c → c.toPeer = true → c.desc.port = port →
      exec (.peerCopysTraffic (.refused port k a)) s = .next (s.failCopy k c .translate (s.toTagged (.peer a)) 0#64) ∧
      (c.asked = true → exec (.peerCopysTraffic (.landed port k first 0)) s = .next (s.finishCopy k c 0)) ∧
      (0 < n → allLeft c.sent first n = true →
        let d : Copy := { c with sent := takeRange first n c.sent }
        exec (.peerCopysTraffic (.landed port k first n)) s =
          .next (({ s with copies := change k (fun _ => d) s.copies } : State).creditLanded d n))))

/-- LaunchEvents (R128, R129, R131, R145, R200, R207). A firing that is accepted leaves its slot; a launch all of whose gangs have
retired signals its completion and is gone; LAUNCH_STOP stops a running launch with STATUS 2; DET_MERGE merges the regions bound
to a barrier in slack water, of every launch that binds it, completes its phase and runs what it held; FINAL_MERGE merges what
ended tasks still hold, once nothing of theirs is on its way to a buffer. A region that conflicts posts MERGE and keeps its content, its
entries are discarded, and after the final merge its launch ends with STATUS 1. Which two tasks a MERGE names (log 38), that several node crews of one launch merge in the order
of their table (log 68), that records a node still holds for a barrier keep the launch from retiring (log 79), and that a firing's
launch belongs to the tenant that is resident when it is accepted (log 88), are the model's choices. -/
def Obligations.LaunchEvents : Prop :=
  (∀ (part slot tenant : Nat) (f : Firing) (fs : List Firing) (ident : Word) (u : State) (s : State),
    s.takesMessages part slot = true → (s.part part).ebb = none → (s.part part).resident = some tenant →
    ((s.part part).slot slot).waiting = f :: fs →
    s.acceptance { part := part, tenant := tenant, level := 1, da := f.desc, place := farAt f.desc launchBytes 16, tag := f.tag,
                   firing := f.num, parent := none, pref := [] } = .accepted ident u →
    exec (.launchAcceptance (.slot part slot)) s = .next (u.popFiring part slot)) ∧
  (∀ (k : Nat) (s : State), s.launchDone k = true →
    let l := s.launch k
    s.signalMiss l.part l.tenant l.desc.done = none →
    exec (.launchRetirement k) s = .next (({ s with
      launches := drop k s.launches, gangs := s.gangs.filter (fun e => e.2.launch != k),
      nodes := s.nodes.filter (fun e => e.2.launch != k) } : State).signal l.part l.tenant l.desc.done l.status l.firing
        (if l.parent.isSome then l.ident else l.tag))) ∧
  (∀ (k : Nat) (s : State), (s.launch k).phase = .running → exec (.launchStop k) s = .next (s.stopLaunch k 2)) ∧
  (∀ (k pa : Nat) (gangs : List Nat) (u : State) (s : State),
    let bars := s.detBarsOf (.phys pa)
    (∃ b, (k, b) ∈ bars ∧ b.slack = true) → (∀ e ∈ bars, s.mergeWants e.1 (s.barRegions e.1 e.2) = none) →
    s.mergeLaunches bars = (gangs, u) →
    exec (.detMerge k pa) s =
      .next ((gangs.foldl State.faultGang (u.completePhase (.phys pa))).runHeld (.phys pa) (bars.flatMap (fun e => e.2.held)))) ∧
  (∀ (k : Nat) (b : DetBar) (bad : Bool) (u : State) (s : State),
    s.mergeAll k (State.mergers k) ((s.launch k).pick (fun i r => r.det && b.regions.contains i)) = (bad, u) →
    s.mergeLaunch k b = (if bad then dedup (b.arrived.map (fun c => (s.crew c).gang)) else [],
      u.modDetBar k b.pa (fun b => { b with slack := false, arrived := [], held := [] }))) ∧
  (∀ (k : Nat) (u : State) (s : State),
    let l := s.launch k
    let mine := s.crews.filter (fun e => (s.gang e.2.gang).launch == k && e.2.ended)
    let rs := l.pick (fun _ r => r.det)
    let t : State := { s with crews := s.crews.map (fun e =>
      if (s.gang e.2.gang).launch == k && e.2.ended then (e.1, e.2.seal (s.owedCharges e.1) (rs.map (·.1))) else e) }
    l.phase ≠ .retired → s.onPart k = true → l.detBars.any (·.slack) = false → s.copiesOf k = false → s.buffering k = false →
    (s.gangs.filter (fun e => e.2.launch == k && e.2.node.isNone)).all (fun e => e.2.over) = true →
    mine.all (fun e => e.2.wbuf.isEmpty && e.2.sealed.isEmpty) = false → t.mergeWants k rs = none →
    (t.mergeAll k (State.mergers k) rs = (false, u) → exec (.finalMerge k) s = .next u) ∧
    (t.mergeAll k (State.mergers k) rs = (true, u) →
      exec (.finalMerge k) s = .next (u.modLaunch k (fun l => { l with status := if l.status = 0 then 1 else l.status })))) ∧
  (∀ (k i low x y : Nat) (r : Region) (tasks : List Nat) (s : State), s.conflict i tasks = some (low, x, y) →
    let rec_ := s.mergeRec k i r low x y
    let t := s.postLaunch k rec_
    let u := (s.mergeRegion k i r tasks).2
    rec_.cls = .merge ∧ rec_.stop = true ∧ rec_.addr = s.toTagged (r.base.plus low) ∧
    rec_.info = BitVec.ofNat 64 (i + s.taskNum y * 2 ^ 32) ∧ rec_.taskId = BitVec.ofNat 32 (s.taskNum x) ∧
    (s.mergeRegion k i r tasks).1 = true ∧ u.mem = t.mem ∧ u.launches = t.launches ∧
    ∀ j ∈ tasks, ∀ e ∈ (u.crew j).sealed, e.region ≠ i)

/-- GangEvents (R23, R29, R34, R35, R166, R167, R182, R193, R199). GANG_PLACEMENT starts the waiting gang of the highest priority
on the lowest core of the cluster it fits, on its own core where a DET or MCAST launch fixes it, or with all gangs of a launch
placed as a unit; NODE_CREW_PLACEMENT starts a crew for a node, on the reserved slot of its level where the core has one free,
else on an ordinary one; GANG_RETIREMENT removes the crews and waves of a gang that is done. The head of a cluster's queues is of the
highest priority that waits there, and until it is placed no gang of another partition is. That gangs of a tenant that is not resident
stand in no queue (log 58), and that a crew larger than a level's reserved room goes to ordinary slots (log 73), are the model's
choices. -/
def Obligations.GangEvents : Prop :=
  (∀ (part cluster g : Nat) (s : State), s.queueHead part cluster = some g →
    (∃ x, (g, x) ∈ s.gangs ∧ s.queuesAt cluster x = true ∧ ∀ e ∈ s.gangs, s.queuesAt cluster e.2 = true →
      (s.launch e.2.launch).desc.prio ≤ (s.launch x.launch).desc.prio) ∧
    ∀ q, q ≠ part → exec (.gangPlacement q cluster) s = .next s) ∧
  (∀ (part cluster g i : Nat) (s : State), s.queueHead part cluster = some g → (s.launch (s.gang g).launch).unit = false →
    (s.launch (s.gang g).launch).desc.fixed = false → (List.range 16).find? (fun i => s.fitsAt g cluster i) = some i →
    exec (.gangPlacement part cluster) s = .next (s.placeGang g (16 * cluster + i))) ∧
  (∀ (part cluster g : Nat) (s : State), s.queueHead part cluster = some g → (s.launch (s.gang g).launch).unit = false →
    (s.launch (s.gang g).launch).desc.fixed = true →
    let mayStart := s.fitsAt g cluster ((s.gang g).start % 16) = true ∧
      ((s.launch (s.gang g).launch).desc.mcast = true → s.ranksPlaced (s.gang g) = true)
    (mayStart → exec (.gangPlacement part cluster) s = .next (s.placeGang g (s.gang g).start)) ∧
    (¬ mayStart → exec (.gangPlacement part cluster) s = .next s)) ∧
  (∀ (part cluster g : Nat) (s : State), s.queueHead part cluster = some g → (s.launch (s.gang g).launch).unit = true →
    let atHead := ∀ c ∈ s.usableClusters part, ∃ h, s.queueHead part c = some h ∧ (s.gang h).launch = (s.gang g).launch
    (∀ t, atHead → s.placeAll part (s.waitingOf (s.gang g).launch) = some t → exec (.gangPlacement part cluster) s = .next t) ∧
    ((¬ atHead ∨ s.placeAll part (s.waitingOf (s.gang g).launch) = none) → exec (.gangPlacement part cluster) s = .next s)) ∧
  (∀ (n : Node) (cluster core level : Nat) (s : State),
    ((∃ i < 16, s.reservedFree n.part (16 * cluster + i) level n.shape = true) →
      s.nodeCrewFits n cluster core level = s.reservedFree n.part core level n.shape) ∧
    ((∀ i < 16, s.reservedFree n.part (16 * cluster + i) level n.shape = false) →
      s.nodeCrewFits n cluster core level = s.roomOn n.part core (shapeCost n.shape))) ∧
  (∀ (node cluster core level : Nat) (n : Node) (s : State), look node s.nodes = some n → n.opened = true → s.resides n.launch = true →
    clusterOfCore core = cluster → (n.home = 16 ∨ n.home = cluster) →
    (s.nodeNeed node cluster n).find? (s.nodeCrewFits n cluster core) = some level →
    ∃ x, x.node = some node ∧ x.launch = n.launch ∧ x.start = core ∧ x.phase = .running ∧
      exec (.nodeCrewPlacement node cluster core) s =
        .next (({ s with gangs := s.gangs ++ [(s.nextUid, x)], nextUid := s.nextUid + 1 } : State).seatCrew s.nextUid 0 core
          { role := n.crole, nreg := n.shape.nreg, ntile := n.shape.ntile, nhyp := n.shape.nhyp, nbun := n.shape.nbun,
            fibres := 32, lmem := n.shape.lmem, wins := [], vlevel := level,
            reserved := if s.reservedFree n.part core level n.shape then some level else none })) ∧
  (∀ (g : Nat) (s : State), s.gangDone g = true →
    ∃ t, exec (.gangRetirement g) s = .next t ∧ t.crews = s.crews.filter (fun e => !(s.crewsOf g).contains e.1) ∧
      t.waves = s.waves.filter (fun e => !(s.crewsOf g).contains e.2.crew) ∧ t.mem = s.mem ∧
      ((s.gang g).node = none → t.gangs = change g (fun x => { x with phase := .retired, pairs := [] }) s.gangs))

/-- UnitEvents (R134, R145, R146, R147, R151, R153, R159, R210). A pair serves the partitions that have a command queued there in turn,
and finishes the oldest command of the one whose turn it is; a packet of a stack multiplier's product lands in local memory and
credits its barrier, and the last one ends the product; a view traverses once, stops where a record is unsound or a page absent,
and lands when every record it sent was answered. A shared engine serves the partitions that have work ready in turn, and what is not
its turn changes nothing. Which of two hits at one distance with one PRIM a view keeps (log 70), and which
field a DESCRIPTOR of a record names where the manual does not say (log 71), that an error gives status 3 alone (log 78), and the unit
of service (log 82), are the model's choices. -/
def Obligations.UnitEvents : Prop :=
  (∀ (pair part : Nat) (s : State),
    let last := (look pair s.pairTurn).getD 7
    let turn (j : Nat) : Nat := (j + 7 * last + 7) % 8
    (s.pairServes pair = some part → part < 8 ∧ (s.firstCommand pair part).isSome = true ∧
      ∀ j < 8, (s.firstCommand pair j).isSome = true → turn part ≤ turn j) ∧
    (s.pairServes pair ≠ some part → exec (.matrixCommandRetire pair part) s = .next s)) ∧
  (∀ (pair part k : Nat) (c : MatCmd) (s : State), s.pairServes pair = some part →
    s.cmds.find? (fun e => e.2.pair == pair && e.2.part == part) = some (k, c) →
    let t : State := { s with cmds := drop k s.cmds, pairTurn := drop pair s.pairTurn ++ [(pair, part)] }
    exec (.matrixCommandRetire pair part) s = .next (t.modGangPair c.gang pair (fun p =>
      ({ p with
        acc := t.matRun c p.acc,
        batches := p.batches.map (fun b => if b.num == c.batch then { b with left := b.left - 1 } else b) } : GangPair).settle))) ∧
  (∀ (k first n : Nat) (p : Smv) (s : State), look k s.smvs = some p → 0 < n → n ≤ 16 → allLeft p.left first n = true →
    s.quiet p.wave k = true →
    let u := s.engineServed (.multiplier p.stack) (s.partOf p.crew)
    let rows := (List.range n).map (· + first)
    let t := rows.foldl (fun t r => t.putLmem p.ycrew (p.yoff + 4 * r) 4 (u.smvElem p r).toNat) u
    let left := takeRange first n p.left
    (s.smvTurn p = false → exec (.smvPacket k first n) s = .next s) ∧
    (s.smvTurn p = true → (∀ r ∈ rows, u.smvMiss p r = none) → exec (.smvPacket k first n) s = .next (State.credit
      { t with smvs := if left = [] then drop k t.smvs else change k (fun q => { q with left := left }) t.smvs }
        p.crew p.wave p.bar (4 * n))) ∧
    (∀ a, s.smvTurn p = true → rows.findSome? (u.smvMiss p) = some a → exec (.smvPacket k first n) s =
      .next (({ u with smvs := drop k u.smvs } : State).deferTranslate p.crew a
        (match s.home? (s.spaceOfCrew p.crew).1 (s.spaceOfCrew p.crew).2 p.bar with
         | some h => [.barrier h]
         | none => [.object p.bar])))) ∧
  (∀ (e : Engine) (ready : Nat → Bool) (part : Nat) (s : State),
    let last := ((s.turns.find? (fun x => x.1 == e)).map (·.2)).getD 7
    let turn (j : Nat) : Nat := (j + 7 * last + 7) % 8
    (s.engineServes e ready = some part → part < 8 ∧ ready part = true ∧ ∀ j < 8, ready j = true → turn part ≤ turn j) ∧
    (s.engineServes e ready = none → ∀ j < 8, ready j = false) ∧
    ((s.engineServed e part).turns.find? (fun x => x.1 == e)).map (·.2) = some part ∧
    ∀ d, d ≠ e → (s.engineServed e part).turns.find? (fun x => x.1 == d) = s.turns.find? (fun x => x.1 == d)) ∧
  (∀ (k : Nat) (v : View) (s : State), look k s.views = some v → v.error = none →
    v.fault = none → v.traced = false → s.awake v.crew = true → s.quiet v.wave k = true →
    let u := s.viewServed v
    (s.viewTurn v = false → exec (.viewTraversal k) s = .next s) ∧
    (∀ miss bad ps, s.viewTurn v = true → u.traceView v = .ok (miss, bad, ps) →
      exec (.viewTraversal k) s = .next ((u.modView k (fun v => { v with traced := true, miss := miss, badmat := bad, pixels := ps })).sendPixels
        k v ps)) ∧
    (∀ a o, s.viewTurn v = true → u.traceView v = .error (.bad a o) → exec (.viewTraversal k) s = .next (u.modView k (fun v => { v with
      traced := true, error := some (.descriptor, a, BitVec.ofNat 64 o) }))) ∧
    (∀ a, s.viewTurn v = true → u.traceView v = .error (.miss a) →
      let r := u.openFault v.crew v.wave a (u.toTagged a)
      exec (.viewTraversal k) s = .next (r.2.modView k (fun v => { v with fault := some r.1 })))) ∧
  (∀ (k : Nat) (v : View) (cls : FaultClass) (addr info : Dword) (s : State), look k s.views = some v →
    v.error = some (cls, addr, info) → s.awake v.crew = true →
    exec (.viewLanding k) s = .next ((({ s with views := drop k s.views } : State).landTile v.wave v.tile (viewMode v.w2)
      (List.replicate 256 (modeError (viewMode v.w2))) 3).defer
        { gang := (s.crew v.crew).gang, crew := v.crew, cls := cls, addr := addr, info := info, till := [.tile v.wave v.tile] })) ∧
  (∀ (k : Nat) (v : View) (s : State), look k s.views = some v → v.error = none → v.traced = true → s.awake v.crew = true →
    s.viewDone v = true →
    exec (.viewLanding k) s = .next (({ s with views := drop k s.views } : State).landTile v.wave v.tile (viewMode v.w2) (viewImage v)
      (if v.badmat then 4 else 0)))

/-- RecordEvents (R184, R187, R188, R192, R193). Records of an ordinary node reach lanes 0 upward of a new crew; the records of a
keyed node reach free lanes, at most one per context at a time, into the context of their key or a new one that room is made for;
contexts that retire reach free lanes of a keyed node's crew; a spilled context that is due comes back to the store; no context takes an
entry beyond the partition's share of the store; a work item
is assigned from the crew's cluster; a round of a DET launch answers its crews in their order, and once the items are exhausted
every request gets the end token. That contexts beyond a share that has become smaller wait in the shadow area until they are fetched
(log 84), WB and the spill stack of a fibre that a keyed delivery starts (log 76), and the order key of one
that handles a RETIRE delivery (log 77), are the model's choices. -/
def Obligations.RecordEvents : Prop :=
  (∀ (node cluster crew : Nat) (n : Node) (s : State), look node s.nodes = some n → n.opened = true → s.resides n.launch = true →
    s.nodeCrewOn node cluster crew = true → n.keyed = false → (s.crew crew).recstat = 0#32 →
    let rs := s.batch n cluster (s.crew crew).vlevel
    rs ≠ [] →
    exec (.recordDelivery node cluster crew) s = .next (((rs.mapIdx (fun i r => (i, r))).foldl (fun t e =>
        t.startLane (s.nodeWave crew) e.1 (fun old k => deliverLane old e.2.words 0 n.entry none 0#8 [] none e.2.orderKey k))
      (s.modNode node (fun m => { m with queue := dropBatch (fun r =>
        (n.home == 16 && r.cluster != cluster) || r.vlevel != (s.crew crew).vlevel) rs.length m.queue }))).noteDelivery crew
          rs.length false false 0#64)) ∧
  (∀ (node cluster crew count : Nat) (pitch : Bool) (key : Option (BitVec 64)) (n : Node) (t s : State), look node s.nodes = some n →
    n.opened = true → s.resides n.launch = true → s.nodeCrewOn node cluster crew = true → n.keyed = true →
    s.fillKeyed node cluster crew (32 + n.queue.length) [] (s.wave (s.nodeWave crew)).freeLanes (0, false, none) = ((count, pitch, key), t) →
    exec (.recordDelivery node cluster crew) s =
      .next ((if count = 0 then t else t.noteDelivery crew count pitch false (key.getD 0#64)).settleNode node)) ∧
  (∀ (n : Node) (cluster : Nat) (skip : List (BitVec 64)) (q : List Record) (r : Record) (s : State),
    s.nextKeyed n cluster skip q = some r → r ∈ q ∧ r.key ∉ skip ∧ s.released r = true ∧
      (∀ c, n.ctxs.find? (fun c => c.key == r.key) = some c → c.place = .store ∧ c.mark = false ∧ c.cluster = cluster)) ∧
  (∀ (node cluster crew l : Nat) (r : Record) (n : Node) (s : State), look node s.nodes = some n →
    let w := s.nodeWave crew
    let key : LaneKey := { node := node, key := r.key, retire := false }
    (∀ c, n.ctxs.find? (fun c => c.key == r.key) = some c → s.deliverKeyed node cluster crew l r = some (false,
      ((s.modNode node (fun n => ({ n with queue := dropKey r.key n.queue }).modCtx r.key (fun c => { c with place := .lane }))).startLane w l
        (fun old k => deliverLane old r.words 0 c.pc (some c.susp) c.preds c.regs (some key) r.orderKey k)).modNode node
          (fun n => n.counted cluster r.key))) ∧
    (n.ctxs.find? (fun c => c.key == r.key) = none → s.makeRoom n.part cluster = none → s.deliverKeyed node cluster crew l r = none) ∧
    (∀ u, n.ctxs.find? (fun c => c.key == r.key) = none → s.makeRoom n.part cluster = some u →
      let zero := List.replicate n.kregs Reg.zero
      s.deliverKeyed node cluster crew l r = some (true,
        ((u.modNode node (fun n => { n with
          queue := dropKey r.key n.queue,
          ctxs := n.ctxs ++ [{ key := r.key, cluster := cluster, pc := n.tmpl, susp := 0#32, preds := 0#8, regs := zero, last := 0,
                               place := .lane, mark := false }] })).startLane w l
          (fun old k => deliverLane old r.words 1 n.tmpl none 0#8 zero (some key) r.orderKey k)).modNode node
            (fun n => n.counted cluster r.key)))) ∧
  (∀ (node cluster crew : Nat) (n : Node) (s : State), look node s.nodes = some n → n.opened = true → n.keyed = true →
    s.resides n.launch = true → s.nodeCrewOn node cluster crew = true →
    let w := s.nodeWave crew
    let pairs := (s.wave w).freeLanes.zip (s.retiring n cluster)
    pairs ≠ [] →
    exec (.retireDelivery node cluster crew) s = .next (State.settleNode ((pairs.foldl (fun t e =>
        (t.modNode node (fun n => (n.modCtx e.2.key (fun c => { c with place := .lane })).marks cluster)).startLane w e.1 (fun old k =>
          deliverLane old [e.2.key.extractLsb' 0 32, e.2.key.extractLsb' 32 32] 2 e.2.pc (some e.2.susp) e.2.preds e.2.regs
            (some { node := node, key := e.2.key, retire := true }) [] k)) s).noteDelivery crew pairs.length false true
        ((pairs.head?.map (fun e => e.2.key)).getD 0#64)) node)) ∧
  (∀ (node : Nat) (key : BitVec 64) (n : Node) (c : KeyCtx) (u : State) (s : State), look node s.nodes = some n →
    n.ctxs.find? (fun c => c.key == key) = some c → n.opened = true → s.resides n.launch = true → c.away = true →
    (n.queue.any (fun r => r.key == key) = true ∨ c.mark = true) → s.makeRoom n.part c.cluster = some u →
    exec (.contextFetch node key) s = .next (u.modNode node (fun n => n.modCtx key (fun c => { c with place := .store })))) ∧
  (∀ (part cluster : Nat) (u s : State), s.makeRoom part cluster = some u →
    u.storeUsed part cluster < (u.quotaAt part cluster).keyed.len) ∧
  (∀ (k : Nat) (r : WRequest) (s : State), look k s.wreqs = some r → s.awake r.crew = true →
    let n := (s.gang (s.crew r.crew).gang).launch
    let l := s.launch n
    l.desc.det = false →
    exec (.workItemAssign k) s = .next ((s.modLaunch n (fun q => { q with dist := (l.dist.take (clusterOfCore (s.crew r.crew).core)).2 })).answerItem
      k r l.desc (l.dist.take (clusterOfCore (s.crew r.crew).core)).1)) ∧
  (∀ (k : Nat) (s : State),
    let l := s.launch k
    let t := if s.roundReady k then s.roundAnswers k (s.askers k) else s
    l.desc.det = true → s.onPart k = true →
    ((t.launch k).dist.next < l.desc.wqx * l.desc.wqy → exec (.wqryRound k) s = .next t) ∧
    (l.desc.wqx * l.desc.wqy ≤ (t.launch k).dist.next → exec (.wqryRound k) s =
      .next ((t.wreqs.filter (fun r => (t.gang (t.crew r.2.crew).gang).launch == k)).foldl
        (fun t e => t.answerItem e.1 e.2 l.desc none) t))) ∧
  (∀ (k c q : Nat) (cs : List Nat) (r : WRequest) (s : State), s.oldestRequest c = some (q, r) →
    let l := s.launch k
    (l.dist.next < l.desc.wqx * l.desc.wqy → s.roundAnswers k (c :: cs) =
      ((s.answerItem q r l.desc (some l.dist.next)).modLaunch k (fun l => { l with
        dist := { l.dist with next := l.dist.next + 1 } })).roundAnswers k cs) ∧
    (l.desc.wqx * l.desc.wqy ≤ l.dist.next → s.roundAnswers k (c :: cs) = (s.answerItem q r l.desc none).roundAnswers k cs))

/-- SliceEvents (R207, R210, R211, R212, R213, R215, R324). A slice's end or a stop request begins an ebb; a stop request during an ebb waits
for its end; a partition at rest saves its tenant and takes up the next one, and one that is not, a TRAP record of the tenant being still
unwritten, or a copy or an operation of a stopped gang of its still under way, saves nothing yet; quotas that fit take effect once the part is up; a
tenant is created with a status word that reads never run; an allow list is loaded. That the save happens in place, and that a
partition without a tenant starts its next one by the same event (log 15, log 45), that a quota write that does not fit is refused and reported (log 20, log 61), that quotas a degraded partition gave up move
with the save (log 43) and that waiting gangs are seated afresh then (log 16), are the model's choices, and so is that a stop
request for a tenant that is not resident, which has no slice to end, ebbs nothing and lets it not run again (log 74): R212 does
not give that clause. -/
def Obligations.SliceEvents : Prop :=
  (∀ (part t : Nat) (s : State), (s.part part).resident = some t → (s.part part).ebb = none →
    exec (.sliceExpiry part) s = .next (s.modPart part (fun p => { p with ebb := some { stop := false } })) ∧
    exec (.stopRequest part t) s = .next (s.modPart part (fun p => { p with ebb := some { stop := true } })) ∧
    ∀ u, u ≠ t → exec (.stopRequest part u) s = .next (s.modTenant part u (fun t => { t with runnable := false }))) ∧
  (∀ (part t : Nat) (e : Ebb) (s : State), (s.part part).ebb = some e →
    exec (.stopRequest part t) s = .next (s.modPart part (fun p => { p with stopNext := p.stopNext ++ [t] }))) ∧
  (∀ (part : Nat) (s : State), (s.part part).resident = none → (s.part part).ebb = none → (s.part part).configured = true →
    exec (.contextSave part) s = .next (s.nextSlice part none)) ∧
  (∀ (part t : Nat) (e : Ebb) (s : State), (s.part part).resident = some t → (s.part part).ebb = some e → s.atRest part t = true →
    exec (.contextSave part) s = .next (State.nextSlice (State.reseatAll (State.giveQuotas ((s.lastEffects part t e.stop).modPart part
      (fun p => { p with ebb := none, resident := none })) part)) part (some t))) ∧
  (∀ (part t : Nat) (e : Ebb) (s : State), (s.part part).resident = some t → (s.part part).ebb = some e →
    (∃ w ∈ s.waitingRecs, w.rec'.cls = .trap ∧ w.rec'.part = part ∧ w.rec'.tenant = t) → exec (.contextSave part) s = .next s) ∧
  (∀ (part t gang : Nat) (e : Ebb) (s : State), (s.part part).resident = some t → (s.part part).ebb = some e →
    (s.gang gang).phase = .stopped → (s.launch (s.gang gang).launch).part = part → (s.launch (s.gang gang).launch).tenant = t →
    ((∃ c ∈ s.copies, (s.crew c.2.crew).gang = gang) ∨ (∃ f ∈ s.flights, (s.crew (s.wave f.2.wave).crew).gang = gang)) →
    exec (.contextSave part) s = .next s) ∧
  (∀ (part : Nat) (q : QuotaSpec) (s : State), s.up = true → part < 8 → (s.part part).resident = none → (s.part part).ebb = none →
    (s.quotaOk part q = true →
      exec (.quotaWrite part q) s = .next (s.modPart part (fun p => { p with configured := true, quota := q, honoured := true }))) ∧
    (s.quotaOk part q = false → exec (.quotaWrite part q) s = .next { s with mgmt := s.mgmt ++ [.quotaRefused part] })) ∧
  (∀ (part : Nat) (t : TenantSpec) (s : State), s.up = true → part < 8 → t.id < 16 → (s.part part).tenants.length < 16 →
    (∀ x ∈ (s.part part).tenants, x.id ≠ t.id) → s.shadowOk t.shadow = true →
    exec (.tenantCreation part t) s = .next ((s.modPart part (fun p => { p with tenants := p.tenants ++ [tenantOf t] })).writeStatus
      part t.id 0 (statusWord 3 0))) ∧
  (∀ (part tenant : Nat) (bits : BitVec 1024) (s : State),
    exec (.allowListLoad part tenant bits) s = .next (s.modTenant part tenant (fun t => { t with allow := bits })))

/-- PartEvents (R9, R60, R104, R132, R211, R214, R215, R216, R217, R218). A unit is retired and reported to the partitions that
held it; an uncorrectable error stops a gang or runs it again; a correctable one is counted; counters are read through the
tenant's list, and DENIED is set outside it; a sounding is read with what it has recorded since, keeps the least and the greatest value and counts in sixteen bins with the
ends clamped; the alarm stops the part; bring-up verifies its firmware, retires what failed and makes one partition ready; a port
goes down; code is loaded; a leaf signs once, and one used again or passed over raises the alarm. The numbered correctable error (log 44), the
slice that bring-up begins (log 45), a bring-up whose shadow area does not fit (log 61), seating the waiting gangs afresh (log
16), who held a channel or a port (log 42), what a retirement takes from degraded partitions (log 43), that TELEMETRY_READ sets
up a sounding (log 52), that bring-up binds the peer ports (log 99), CORE, VLEVEL and TASKID of HWERROR (log 102) and that a leaf
passed over raises the alarm as one used again does (log 59) are the model's choices. -/
def Obligations.PartEvents : Prop :=
  (∀ (u : UnitId) (s : State), s.unitRetired u = false → unitExists u = true →
    let r : State := { s with retiredUnits := s.retiredUnits ++ [u], mgmt := s.mgmt ++ [.retired u] }
    let t : State := ((List.range 8).filter (fun p => r.heldUnit p u)).foldl (fun (t : State) p =>
      t.postHost { t.recOfPart .retired p with info := unitInfo u }) r
    let d := match u with
      | .port n => t.portDown n
      | _ => t
    exec (.unitRetirement u) s = .next (State.reseatAll (d.markFrom d.byPriority 0 0))) ∧
  (∀ (u : UnitId) (s : State), s.unitRetired u = true → exec (.unitRetirement u) s = .next s) ∧
  (∀ (g code : Nat) (s : State), s.owns g = true → 1 ≤ code → code ≤ 6 →
    let x := s.gang g
    let r := { s.recOfGang .hwerror g with info := BitVec.ofNat 64 code }
    let again := x.replayable = true ∧ x.node = none ∧ x.attempt < (s.launch x.launch).desc.retry
    (again →
      exec (.uncorrectableError g code) s = .next ((s.postLaunch x.launch { r with rerun := true }).rerunGang g)) ∧
    (¬ again →
      exec (.uncorrectableError g code) s = .next ((s.postLaunch x.launch { r with
        stop := true, lstop := (s.launch x.launch).desc.policy }).faultGang g))) ∧
  (∀ (part counter : Nat) (s : State), exec (.correctableError part counter) s =
    .next { (s.modPart part (fun p => { p with counters := p.counters.modify counter (· + 1) })) with
      mgmt := s.mgmt ++ [.correctable part counter] }) ∧
  (∀ (part tenant counter : Nat) (t : Tenant) (s : State), s.tenant? part tenant = some t → counter < 1024 →
    (t.allow.getLsbD counter = true → exec (.telemetryRead part tenant (.counter counter)) s =
      .next { s with mgmt := s.mgmt ++ [.telemetry part tenant counter (((s.part part).counters[counter]?).getD 0)] }) ∧
    (t.allow.getLsbD counter = false → exec (.telemetryRead part tenant (.counter counter)) s =
      .next { (s.modPart part (fun p => { p with tstat := p.tstat ||| 1#32 })) with
        mgmt := s.mgmt ++ [.telemetry part tenant counter 0] })) ∧
  (∀ (part tenant what base shift : Nat) (s : State), exec (.telemetryRead part tenant (.sound what base shift)) s =
    .next (s.modPart part (fun p => { p with soundings := p.soundings ++ [Sounding.fresh what base shift] }))) ∧
  (∀ (part tenant n : Nat) (s : State),
    (∀ x, (s.part part).soundings[n]? = some x →
      let y := (Config.freeSounding s.freeCtr).foldl Sounding.record x
      exec (.telemetryRead part tenant (.sounding n)) s = .next { (s.modPart part (fun p => { p with
        soundings := p.soundings.set n y })) with mgmt := s.mgmt ++ [.sounding part n y], freeCtr := s.freeCtr + 1 }) ∧
    ((s.part part).soundings[n]? = none → exec (.telemetryRead part tenant (.sounding n)) s = .next s)) ∧
  (∀ (x : Sounding) (v : Nat), x.bin v < 16 ∧ (v < x.base → x.bin v = 0) ∧
    (∀ i < 16, x.base + i * 2 ^ x.shift ≤ v → (i < 15 → v < x.base + (i + 1) * 2 ^ x.shift) → x.bin v = i) ∧
    (x.record v).bins = x.bins.modify (x.bin v) (· + 1) ∧
    ∃ lo hi, (x.record v).range = some (lo, hi) ∧ lo ≤ v ∧ v ≤ hi ∧ ∀ r, x.range = some r → lo ≤ r.1 ∧ r.2 ≤ hi) ∧
  (∀ (part : Nat) (ones : Word) (s : State), exec (.telemetryStatusClear part ones) s =
    .next (s.modPart part (fun p => { p with tstat := p.tstat &&& ~~~ones }))) ∧
  (∀ s : State, ∃ t, exec .securityAlarm s = .next t ∧ t.halted = true ∧ t.mem = s.mem ∧ step t = .fault .partStopped) ∧
  (∀ (b : BringUpSpec) (s : State), s.up = false → s.halted = false →
    let u := b.failed.foldl State.retireUnit { s with portPart := b.ports }
    (Config.lmsVerifies b.firmware.image b.firmware.signature = false → exec (.bringUp b) s = .next s.alarm) ∧
    (Config.lmsVerifies b.firmware.image b.firmware.signature = true → s.shadowOk b.tenant.shadow = false →
      exec (.bringUp b) s = .next s) ∧
    (Config.lmsVerifies b.firmware.image b.firmware.signature = true → s.shadowOk b.tenant.shadow = true →
      exec (.bringUp b) s = .next (State.beginSlice
      (({ u with mgmt := u.mgmt ++ [.ready], up := true } : State).modPart 0 (fun p => { p with
        configured := true, quota := quotaWhole b.hostQ b.tenant.shadow, tenants := [tenantOf b.tenant] })) 0 b.tenant.id))) ∧
  (∀ (port : Nat) (s : State), s.portsDown.contains port = false →
    let t : State := { s with portsDown := s.portsDown ++ [port] }
    let out := s.copies.filter (fun e => e.2.desc.tgt == 2 && e.2.desc.port == port)
    exec (.peerPortDown port) s =
      .next (out.foldl (fun u e => u.failCopy e.1 e.2 .translate (u.toTagged e.2.desc.dst) 0#64) t)) ∧
  (∀ (port : Nat) (s : State), s.portsDown.contains port = true →
    s.copies.filter (fun e => e.2.desc.tgt == 2 && e.2.desc.port == port) = [] → exec (.peerPortDown port) s = .next s) ∧
  (∀ (part : Nat) (o : ObjectSpec) (s : State), exec (.objectLoad part o) s =
    .next (s.modPart part (fun p => { p with code := putCode o.base o.words p.code, objects := p.objects ++ [o.ranges] }))) ∧
  (∀ (leaf : Nat) (digest : BitVec 256) (s : State), s.halted = false → s.keysErased = false →
    (leaf < s.leaf → exec (.attestationReport ⟨leaf, digest⟩) s = .next s.alarm) ∧
    (s.leaf ≤ leaf → Config.leafCount 0 ≤ leaf → exec (.attestationReport ⟨leaf, digest⟩) s = .next s) ∧
    (s.leaf ≤ leaf → leaf < Config.leafCount 0 → exec (.attestationReport ⟨leaf, digest⟩) s = .next { s with
      leaf := leaf + 1, attested := s.attested ++ [(leaf, digest)],
      mgmt := s.mgmt ++ [.attestation leaf digest (Config.lmsSign leaf digest)] }))

/-- CountRule (R254). CLZ is OP 20, X 0, SUB 3 and LEN 01, with fields as in BREV; its result, for any source tag, is the number
of zero bits above the highest one bit of the pattern, from 0 to 32, tagged N32. -/
def Obligations.CountRule : Prop :=
  (∀ f : Ext, encode (.clz f) = [f.b ++ f.a ++ f.d ++ 0#1 ++ 20#5 ++ 1#2, f.m.toWord 3#8, f.w2] ∧
    (Instr.clz f).wf = (Instr.brev f).wf) ∧
  (∀ w : Word, clzWord w ≤ 32 ∧ (∀ i, i < 32 → w.getLsbD i = true → i < 32 - clzWord w) ∧
    (clzWord w < 32 → w.getLsbD (31 - clzWord w) = true)) ∧
  clzWord 1#32 = 31 ∧ clzWord 0#32 = 32 ∧ clzWord 0x8000_0000#32 = 0 ∧
  ∀ (f : Ext) (s : State), s.Clear f.arg rolesAll (f.arg.srcA.opds ++ [if f.m.au then .u f.arg.d else .v f.arg.d]) → s.Active f.arg →
    let clz (ln : Lane) : Reg := Reg.done (BitVec.ofNat 32 (clzWord (f.arg.srcA.read s.ctx.crew ln .raw).val)) .n32
    exec (.clz f) s = .next (State.advance
      (if f.m.au then s.setUni s.ctx.crewId f.arg.d (clz (s.ctx.wave.lane (lowestLane (s.ctx.act f.arg.m))))
       else s.modWave s.ctx.cur.wave (fun w => w.mapLanes (s.ctx.act f.arg.m) (fun _ ln => ln.writeV f.arg.d (clz ln)))) 3)

/-- DistanceRule (R178). HDIST, with its conditions met, has s[D] pending and the flag it selects one higher; what lands there, in
whatever state it lands, is the number of bit positions in which its two registers differ, read at issue, at most 8192, tagged
N32. -/
def Obligations.DistanceRule : Prop :=
  ∀ (f : Ext) (k : Nat) (c : Crew) (s : State),
    let g := f.arg
    s.Ready g rolesGV [.u g.d] → s.HyperIn [g.a, g.b] [] → s.MayQuery g → s.ctx.cur.flagOf g.m.fsel = some k →
    look s.ctx.crewId s.crews = some c → g.d < c.unis.length → s.ctx.cur.idx + 1 < s.ctx.cur.count → s.ctx.cur.lanes ≠ 0#32 →
    ∃ t n, exec (.hdist f) s = .next t ∧
      n = ((List.range 8192).filter (fun j => (s.ctx.wave.hyp g.a).getLsbD j != (s.ctx.wave.hyp g.b).getLsbD j)).length ∧ n ≤ 8192 ∧
      ((t.crew s.ctx.crewId).uni g.d).pend = true ∧
      t.waves = (s.modWave s.ctx.cur.wave (fun w => w.flagUp k)).waves ∧
      ∃ fl, t.flights = s.flights ++ [fl] ∧ fl.2.wave = s.ctx.cur.wave ∧ fl.2.flag = some k ∧
        fl.2.payload = .hdist g.d (BitVec.ofNat 32 n) ∧ fl.2.fault = none ∧
        ∀ v : State, look fl.1 v.flights = some fl.2 → v.awake (v.wave fl.2.wave).crew = true →
          exec (.landing fl.1) v =
            .next ((v.setUni (v.wave fl.2.wave).crew g.d (Reg.done (BitVec.ofNat 32 n) .n32)).endFlight fl.1 fl.2)

/-- PositionChoice (R18). A wave with ready fibres chooses the position of one of them: with a fibre of AGE 64 or more, one of the
greatest AGE, then of the lower PC, then of the greater Pos; else one of the lowest PC, then of the greatest Pos. -/
def Obligations.PositionChoice : Prop :=
  ∀ xs : List Lane, xs ≠ [] → ∃ x ∈ xs, choosePosition xs = some (x.pc, x.pos) ∧
    ((∃ y ∈ xs, 64 ≤ y.age) → ∀ y ∈ xs, y.age ≤ x.age ∧
      (y.age = x.age → x.pc ≤ y.pc ∧ (y.pc = x.pc → y.pos ≤ x.pos))) ∧
    ((∀ y ∈ xs, y.age < 64) → ∀ y ∈ xs, x.pc ≤ y.pc ∧ (y.pc = x.pc → y.pos ≤ x.pos))

/-- RoundTrip (R37, R38, R39, R40, R61). Decoding the words of any well-formed instruction of a clause, whatever words follow,
gives it back. -/
def Obligations.RoundTrip : Prop :=
  ∀ (i : Instr) (rest : List Word), i.wf = true → i.fields ≠ Fields.event → decodeWords (encode i ++ rest) = some i

/-- DecodedWords (R61, R260, R287, R296, R324, R332, R333). Words of the manual's worked fragments decode to the instructions
written beside them, and a word of a reserved OP decodes to none. -/
def Obligations.DecodedWords : Prop :=
  decodeWords [0x0000_0000#32] = some .nop ∧
  decodeWords [0x0000_0080#32] = some .yield ∧
  decodeWords [0x1A0E_0E18#32] = some (.xor { d := 14, a := 14, b := 26 }) ∧
  decodeWords [0x0601_0828#32] = some (.cvt { d := 8, a := 1, b := 6 }) ∧
  decodeWords [0x000C_0F24#32] = some (.mov { d := 15, a := 12, b := 0 }) ∧
  decodeWords [0x0000_00CC#32] = some .fend ∧
  decodeWords [0x0000_0025#32, 0x0000_0000#32, 0x8010_0C14#32] =
    some (.movWide { d := 0, a := 0, b := 0, m := Mods.zero, w2 := 0x8010_0C14#32 }) ∧
  decodeWords [0x0003_0075#32, 0x0011_0001#32, 0x0000_01C8#32] =
    some (.trap { d := 0, a := 3, b := 0, m := { Mods.zero with gen := true, pred := 1 }, w2 := 0x0000_01C8#32 }) ∧
  decodeWords [0x0000_0078#32] = none

/-- StepRunsDecoded (R48, R58, R217). A step of a part that is not stopped, with a clause being issued whose next words decode to
i, is exec of i; a part that the alarm has stopped does nothing more. That between clauses the step is exec of the next event of
the agenda, else of an issue opportunity, is the model's choice (log 1). -/
def Obligations.StepRunsDecoded : Prop :=
  (∀ (s : State) (c : Cursor) (i : Instr), s.halted = false → s.cur = some c →
    decodeWords (s.codeWords s.ctx.launchId c.addr 5) = some i → step s = exec i s) ∧
  (∀ s : State, s.halted = false → s.cur = none → step s = exec s.nextEvent.1 s.nextEvent.2) ∧
  (∀ s : State, s.halted = true → step s = .fault .partStopped)

/-- MemoryStaysCanonical (R4, R12, R50, R210). Every step keeps the machine's memory and every local memory in canonical form:
that form is the model's choice (log 4). Every step keeps the part's 256 cores and eight partitions, and every wave's 32 lanes and
twelve flags from 0 to 63. -/
def Obligations.MemoryStaysCanonical : Prop :=
  (∀ s t : State, s.memoriesWf = true → step s = .next t → t.memoriesWf = true) ∧
  (∀ s t : State, s.laidOut = true → step s = .next t → t.laidOut = true) ∧
  (∀ s t : State, s.wavesLaidOut = true → step s = .next t → t.wavesLaidOut = true)

/-- ResetState (R4, R210, R215, R218). At reset the part has not come up, nothing is loaded or launched, no clause is being
issued, it has 256 cores and eight partitions, each without a tenant and with a telemetry status word of 0; memory is in canonical
form and empty values stand where the manual gives none (log 4, log 3). That the first step from reset is an issue opportunity of
core 0 is the model's choice (log 1). -/
def Obligations.ResetState : Prop :=
  State.reset.memoriesWf = true ∧ State.reset.laidOut = true ∧ State.reset.wavesLaidOut = true ∧ State.reset.up = false ∧ State.reset.halted = false ∧
  State.reset.cur = none ∧ State.reset.launches = [] ∧ State.reset.gangs = [] ∧
  (∀ p ∈ State.reset.parts, p.tenants = [] ∧ p.resident = none ∧ p.configured = false ∧ p.tstat = 0#32 ∧ p.code = []) ∧
  step State.reset = exec (.issueOpportunity 0) { State.reset with nextCore := 1 }

/-- RegisterFrame (R42, R44, R231). Completing an instruction that computes one register per fibre changes no memory, no other
register, predicate, flag, spill stack, tile, hypervector or fence, and nothing of the gangs, launches, partitions, nodes, cores
or of what is under way: landings, accesses, copies, products, commands, views, requests, translation and deferred faults, barrier
objects and messages to peers. -/
def Obligations.RegisterFrame : Prop :=
  ∀ (i : Instr) (o : RegOp) (s t : State), regOpOf i = some o → s.Clear o.g o.roles o.opds →
    s.OnLanes (s.ctx.act o.g.m) (fun ln => o.fmt (readAll s.ctx.crew ln o.srcs) = none) → exec i s = .next t →
    t.mem = s.mem ∧ (∀ k, (t.crew k).lmem = (s.crew k).lmem) ∧ t.gangs = s.gangs ∧ t.launches = s.launches ∧ t.parts = s.parts ∧
    t.nodes = s.nodes ∧ t.flights = s.flights ∧ t.accesses = s.accesses ∧ t.copies = s.copies ∧ t.smvs = s.smvs ∧ t.cmds = s.cmds ∧
    t.views = s.views ∧ t.wreqs = s.wreqs ∧ t.lreqs = s.lreqs ∧ t.tfaults = s.tfaults ∧ t.deferred = s.deferred ∧
    t.barObjs = s.barObjs ∧ t.peerOut = s.peerOut ∧ t.cores = s.cores ∧ t.halted = s.halted ∧
    (∀ k n, k ≠ s.ctx.crewId ∨ o.uni = false ∨ n ≠ o.g.d → (t.crew k).uni n = (s.crew k).uni n) ∧
    ∀ w, (t.wave w).flags = (s.wave w).flags ∧ (t.wave w).tiles = (s.wave w).tiles ∧ (t.wave w).hyps = (s.wave w).hyps ∧
      (t.wave w).buns = (s.wave w).buns ∧ (t.wave w).fences = (s.wave w).fences ∧
      ∀ l, ((t.wave w).lane l).preds = ((s.wave w).lane l).preds ∧ ((t.wave w).lane l).spill = ((s.wave w).lane l).spill ∧
        ((t.wave w).lane l).wb = ((s.wave w).lane l).wb ∧ ((t.wave w).lane l).status = ((s.wave w).lane l).status ∧
        ∀ n, (w ≠ s.ctx.cur.wave ∨ o.uni = true ∨ n ≠ o.g.d ∨ (s.ctx.act o.g.m).getLsbD l = false) →
          ((t.wave w).lane l).readV n = ((s.wave w).lane l).readV n

/-- StoreFrame (R88, R105, R318, R319). STL and STS, from a state whose memories are in canonical form, as every step keeps them, and
with no word stored on a live barrier object, change no byte of memory
outside the words at the addresses that the operands of their active fibres give, and no register, predicate or flag. -/
def Obligations.StoreFrame : Prop :=
  ∀ (i : Instr) (g : Arg) (shelf : Bool) (s : State), storeOf i = some (g, shelf) →
    s.Clear g rolesAll (g.srcA.opds ++ [.v g.d]) →
    s.OnLanes (s.ctx.act g.m) (fun ln => tagOf (g.b / 16) = .raw ∨ (ln.readV g.d).tag = tagOf (g.b / 16)) →
    s.Reachable g shelf → s.Active g →
    (shelf = true → s.LinesReady (lsLines (lsLanes s s.ctx g shelf)) ∧
      s.ctx.crew.overflows (storeCharges s s.ctx (lsLanes s s.ctx g shelf)) = none) →
    (shelf = false → s.anyPinned (lsRows (lsLanes s s.ctx g shelf)) = false) → s.NothingQueued → s.memoriesWf = true →
    (∀ e ∈ lsLanes s s.ctx g shelf, s.PlainHome e.2) →
    ∃ t, exec i s = .next t ∧
      (∀ pa, (∀ l a b, l < 32 → (s.ctx.act g.m).getLsbD l = true → lsPlace s s.ctx shelf (lsAddr g s.ctx.crew (s.ctx.wave.lane l)) = some a →
          s.home? s.ctx.launch.part s.ctx.launch.tenant a = some (.phys b) → pa < b ∨ b + 4 ≤ pa) →
        cellRead pa t.mem = cellRead pa s.mem) ∧
      (∀ k o, (∀ l b, l < 32 → (s.ctx.act g.m).getLsbD l = true →
          lsPlace s s.ctx shelf (lsAddr g s.ctx.crew (s.ctx.wave.lane l)) = some (.loc k b) → o < b ∨ b + 4 ≤ o) →
        cellRead o (t.crew k).lmem = cellRead o (s.crew k).lmem) ∧
      (∀ k n, (t.crew k).uni n = (s.crew k).uni n) ∧
      ∀ w, (t.wave w).flags = (s.wave w).flags ∧ ∀ l, ((t.wave w).lane l).preds = ((s.wave w).lane l).preds ∧
        ∀ n, ((t.wave w).lane l).readV n = ((s.wave w).lane l).readV n

/-- FaultTaken (R25, R26, R58, R59, R88, R133, R138, R186, R204, R206, R207, R208). An instruction whose check step finds a fault, TRAP
apart, posts one record, with STOP, that names the clause, the instruction and the lanes, and stops the gang: under POLICY 0, with
no launch of its own running, the gang is stopped, its commands are discarded and no clause is being issued. A crew that may not
run an instruction (its role, the array a matrix instruction needs, a keyed node's crew, a LAUNCH by another crew than the first of a gang)
takes ROLE, with OP and SUB in INFO, before any other fault; a misaligned access takes ALIGN, with the lanes that are misaligned
and the address of the lowest of them (log 11). -/
def Obligations.FaultTaken : Prop :=
  (∀ (i : Instr) (m : Sem) (p : Precise) (c : Cursor) (s : State), i.sem = some m → s.cur = some c → m.fault s = some p →
    p.cls ≠ .trap →
    let r : FaultRec := { s.recOfCrew p.cls s.ctx.crewId with
      stop := true, lstop := s.ctx.launch.desc.policy, wave := s.ctx.wave.idx, slot := c.idx, lanes := p.lanes, pc := c.pc,
      xpc := 0#32, addr := p.addr, info := p.info }
    exec i s = .next { ((s.postLaunch s.ctx.launchId r).faultGang s.ctx.gangId) with cur := none }) ∧
  (∀ (c : Cursor) (p : Precise) (x : Gang) (s : State), s.cur = some c → s.ctx.launch.desc.policy = false →
    look s.ctx.gangId s.gangs = some x → x.phase = .running → (∀ e ∈ s.launches, e.2.phase = .running → e.2.parent ≠ some s.ctx.gangId) →
    let t := s.takeFault c p 0#32
    t.cur = none ∧ (t.gang s.ctx.gangId).phase = .stopped ∧ (∀ e ∈ t.cmds, e.2.gang ≠ s.ctx.gangId)) ∧
  (∀ (i : Instr) (op sub : Nat) (barred : Prop) (c : Cursor) (s : State), roleOf s i = some (op, sub, barred) → s.cur = some c →
    barred →
    exec i s = .next (s.takeFault c { cls := .role, info := BitVec.ofNat 64 (op + sub * 256), addr := 0#64, lanes := c.lanes } 0#32)) ∧
  (∀ (i : Instr) (g : Arg) (shelf : Bool) (c : Cursor) (s : State), (loadOf i = some (g, shelf) ∨ storeOf i = some (g, shelf)) →
    s.cur = some c → s.Clear g rolesAll (g.srcA.opds ++ [.v g.d]) →
    (storeOf i = some (g, shelf) →
      s.OnLanes (s.ctx.act g.m) (fun ln => tagOf (g.b / 16) = .raw ∨ (ln.readV g.d).tag = tagOf (g.b / 16))) →
    s.misaligned g ≠ 0#32 →
    let low := lsAddr g s.ctx.crew (s.ctx.wave.lane (lowestLane (s.misaligned g)))
    exec i s = .next (s.takeFault c
      { cls := .align, info := 0#64, addr := lsTagged shelf low, lanes := s.misaligned g } 0#32))
end

