-- ==== Sys2Proof/Laws/State.lean ====
section
/-!
SUPPORT. What each update of the state leaves alone: one lemma per field per update, so that no proof unfolds a record update.
-/
namespace Sys2Proof.Machine

/-! ### modWave -/

@[simp] theorem State.modWave_up (s : State) (k : Nat) (f : Wave → Wave) : (s.modWave k f).up = s.up := rfl
@[simp] theorem State.modWave_halted (s : State) (k : Nat) (f : Wave → Wave) : (s.modWave k f).halted = s.halted := rfl
@[simp] theorem State.modWave_keysErased (s : State) (k : Nat) (f : Wave → Wave) : (s.modWave k f).keysErased = s.keysErased := rfl
@[simp] theorem State.modWave_leaf (s : State) (k : Nat) (f : Wave → Wave) : (s.modWave k f).leaf = s.leaf := rfl
@[simp] theorem State.modWave_attested (s : State) (k : Nat) (f : Wave → Wave) : (s.modWave k f).attested = s.attested := rfl
@[simp] theorem State.modWave_mgmt (s : State) (k : Nat) (f : Wave → Wave) : (s.modWave k f).mgmt = s.mgmt := rfl
@[simp] theorem State.modWave_retiredUnits (s : State) (k : Nat) (f : Wave → Wave) : (s.modWave k f).retiredUnits = s.retiredUnits := rfl
@[simp] theorem State.modWave_portsDown (s : State) (k : Nat) (f : Wave → Wave) : (s.modWave k f).portsDown = s.portsDown := rfl
@[simp] theorem State.modWave_portPart (s : State) (k : Nat) (f : Wave → Wave) : (s.modWave k f).portPart = s.portPart := rfl
@[simp] theorem State.modWave_cores (s : State) (k : Nat) (f : Wave → Wave) : (s.modWave k f).cores = s.cores := rfl
@[simp] theorem State.modWave_parts (s : State) (k : Nat) (f : Wave → Wave) : (s.modWave k f).parts = s.parts := rfl
@[simp] theorem State.modWave_mem (s : State) (k : Nat) (f : Wave → Wave) : (s.modWave k f).mem = s.mem := rfl
@[simp] theorem State.modWave_launches (s : State) (k : Nat) (f : Wave → Wave) : (s.modWave k f).launches = s.launches := rfl
@[simp] theorem State.modWave_gangs (s : State) (k : Nat) (f : Wave → Wave) : (s.modWave k f).gangs = s.gangs := rfl
@[simp] theorem State.modWave_crews (s : State) (k : Nat) (f : Wave → Wave) : (s.modWave k f).crews = s.crews := rfl
@[simp] theorem State.modWave_nodes (s : State) (k : Nat) (f : Wave → Wave) : (s.modWave k f).nodes = s.nodes := rfl
@[simp] theorem State.modWave_flights (s : State) (k : Nat) (f : Wave → Wave) : (s.modWave k f).flights = s.flights := rfl
@[simp] theorem State.modWave_accesses (s : State) (k : Nat) (f : Wave → Wave) : (s.modWave k f).accesses = s.accesses := rfl
@[simp] theorem State.modWave_copies (s : State) (k : Nat) (f : Wave → Wave) : (s.modWave k f).copies = s.copies := rfl
@[simp] theorem State.modWave_smvs (s : State) (k : Nat) (f : Wave → Wave) : (s.modWave k f).smvs = s.smvs := rfl
@[simp] theorem State.modWave_cmds (s : State) (k : Nat) (f : Wave → Wave) : (s.modWave k f).cmds = s.cmds := rfl
@[simp] theorem State.modWave_views (s : State) (k : Nat) (f : Wave → Wave) : (s.modWave k f).views = s.views := rfl
@[simp] theorem State.modWave_wreqs (s : State) (k : Nat) (f : Wave → Wave) : (s.modWave k f).wreqs = s.wreqs := rfl
@[simp] theorem State.modWave_lreqs (s : State) (k : Nat) (f : Wave → Wave) : (s.modWave k f).lreqs = s.lreqs := rfl
@[simp] theorem State.modWave_tfaults (s : State) (k : Nat) (f : Wave → Wave) : (s.modWave k f).tfaults = s.tfaults := rfl
@[simp] theorem State.modWave_deferred (s : State) (k : Nat) (f : Wave → Wave) : (s.modWave k f).deferred = s.deferred := rfl
@[simp] theorem State.modWave_barObjs (s : State) (k : Nat) (f : Wave → Wave) : (s.modWave k f).barObjs = s.barObjs := rfl
@[simp] theorem State.modWave_peerOut (s : State) (k : Nat) (f : Wave → Wave) : (s.modWave k f).peerOut = s.peerOut := rfl
@[simp] theorem State.modWave_pairTurn (s : State) (k : Nat) (f : Wave → Wave) : (s.modWave k f).pairTurn = s.pairTurn := rfl
@[simp] theorem State.modWave_turns (s : State) (k : Nat) (f : Wave → Wave) : (s.modWave k f).turns = s.turns := rfl
@[simp] theorem State.modWave_queueSeq (s : State) (k : Nat) (f : Wave → Wave) : (s.modWave k f).queueSeq = s.queueSeq := rfl
@[simp] theorem State.modWave_waitingRecs (s : State) (k : Nat) (f : Wave → Wave) : (s.modWave k f).waitingRecs = s.waitingRecs := rfl
@[simp] theorem State.modWave_cur (s : State) (k : Nat) (f : Wave → Wave) : (s.modWave k f).cur = s.cur := rfl
@[simp] theorem State.modWave_agenda (s : State) (k : Nat) (f : Wave → Wave) : (s.modWave k f).agenda = s.agenda := rfl
@[simp] theorem State.modWave_nextCore (s : State) (k : Nat) (f : Wave → Wave) : (s.modWave k f).nextCore = s.nextCore := rfl
@[simp] theorem State.modWave_nextUid (s : State) (k : Nat) (f : Wave → Wave) : (s.modWave k f).nextUid = s.nextUid := rfl
@[simp] theorem State.modWave_freeCtr (s : State) (k : Nat) (f : Wave → Wave) : (s.modWave k f).freeCtr = s.freeCtr := rfl

/-! ### modCrew -/

@[simp] theorem State.modCrew_up (s : State) (k : Nat) (f : Crew → Crew) : (s.modCrew k f).up = s.up := rfl
@[simp] theorem State.modCrew_halted (s : State) (k : Nat) (f : Crew → Crew) : (s.modCrew k f).halted = s.halted := rfl
@[simp] theorem State.modCrew_keysErased (s : State) (k : Nat) (f : Crew → Crew) : (s.modCrew k f).keysErased = s.keysErased := rfl
@[simp] theorem State.modCrew_leaf (s : State) (k : Nat) (f : Crew → Crew) : (s.modCrew k f).leaf = s.leaf := rfl
@[simp] theorem State.modCrew_attested (s : State) (k : Nat) (f : Crew → Crew) : (s.modCrew k f).attested = s.attested := rfl
@[simp] theorem State.modCrew_mgmt (s : State) (k : Nat) (f : Crew → Crew) : (s.modCrew k f).mgmt = s.mgmt := rfl
@[simp] theorem State.modCrew_retiredUnits (s : State) (k : Nat) (f : Crew → Crew) : (s.modCrew k f).retiredUnits = s.retiredUnits := rfl
@[simp] theorem State.modCrew_portsDown (s : State) (k : Nat) (f : Crew → Crew) : (s.modCrew k f).portsDown = s.portsDown := rfl
@[simp] theorem State.modCrew_portPart (s : State) (k : Nat) (f : Crew → Crew) : (s.modCrew k f).portPart = s.portPart := rfl
@[simp] theorem State.modCrew_cores (s : State) (k : Nat) (f : Crew → Crew) : (s.modCrew k f).cores = s.cores := rfl
@[simp] theorem State.modCrew_parts (s : State) (k : Nat) (f : Crew → Crew) : (s.modCrew k f).parts = s.parts := rfl
@[simp] theorem State.modCrew_mem (s : State) (k : Nat) (f : Crew → Crew) : (s.modCrew k f).mem = s.mem := rfl
@[simp] theorem State.modCrew_launches (s : State) (k : Nat) (f : Crew → Crew) : (s.modCrew k f).launches = s.launches := rfl
@[simp] theorem State.modCrew_gangs (s : State) (k : Nat) (f : Crew → Crew) : (s.modCrew k f).gangs = s.gangs := rfl
@[simp] theorem State.modCrew_waves (s : State) (k : Nat) (f : Crew → Crew) : (s.modCrew k f).waves = s.waves := rfl
@[simp] theorem State.modCrew_nodes (s : State) (k : Nat) (f : Crew → Crew) : (s.modCrew k f).nodes = s.nodes := rfl
@[simp] theorem State.modCrew_flights (s : State) (k : Nat) (f : Crew → Crew) : (s.modCrew k f).flights = s.flights := rfl
@[simp] theorem State.modCrew_accesses (s : State) (k : Nat) (f : Crew → Crew) : (s.modCrew k f).accesses = s.accesses := rfl
@[simp] theorem State.modCrew_copies (s : State) (k : Nat) (f : Crew → Crew) : (s.modCrew k f).copies = s.copies := rfl
@[simp] theorem State.modCrew_smvs (s : State) (k : Nat) (f : Crew → Crew) : (s.modCrew k f).smvs = s.smvs := rfl
@[simp] theorem State.modCrew_cmds (s : State) (k : Nat) (f : Crew → Crew) : (s.modCrew k f).cmds = s.cmds := rfl
@[simp] theorem State.modCrew_views (s : State) (k : Nat) (f : Crew → Crew) : (s.modCrew k f).views = s.views := rfl
@[simp] theorem State.modCrew_wreqs (s : State) (k : Nat) (f : Crew → Crew) : (s.modCrew k f).wreqs = s.wreqs := rfl
@[simp] theorem State.modCrew_lreqs (s : State) (k : Nat) (f : Crew → Crew) : (s.modCrew k f).lreqs = s.lreqs := rfl
@[simp] theorem State.modCrew_tfaults (s : State) (k : Nat) (f : Crew → Crew) : (s.modCrew k f).tfaults = s.tfaults := rfl
@[simp] theorem State.modCrew_deferred (s : State) (k : Nat) (f : Crew → Crew) : (s.modCrew k f).deferred = s.deferred := rfl
@[simp] theorem State.modCrew_barObjs (s : State) (k : Nat) (f : Crew → Crew) : (s.modCrew k f).barObjs = s.barObjs := rfl
@[simp] theorem State.modCrew_peerOut (s : State) (k : Nat) (f : Crew → Crew) : (s.modCrew k f).peerOut = s.peerOut := rfl
@[simp] theorem State.modCrew_pairTurn (s : State) (k : Nat) (f : Crew → Crew) : (s.modCrew k f).pairTurn = s.pairTurn := rfl
@[simp] theorem State.modCrew_turns (s : State) (k : Nat) (f : Crew → Crew) : (s.modCrew k f).turns = s.turns := rfl
@[simp] theorem State.modCrew_queueSeq (s : State) (k : Nat) (f : Crew → Crew) : (s.modCrew k f).queueSeq = s.queueSeq := rfl
@[simp] theorem State.modCrew_waitingRecs (s : State) (k : Nat) (f : Crew → Crew) : (s.modCrew k f).waitingRecs = s.waitingRecs := rfl
@[simp] theorem State.modCrew_cur (s : State) (k : Nat) (f : Crew → Crew) : (s.modCrew k f).cur = s.cur := rfl
@[simp] theorem State.modCrew_agenda (s : State) (k : Nat) (f : Crew → Crew) : (s.modCrew k f).agenda = s.agenda := rfl
@[simp] theorem State.modCrew_nextCore (s : State) (k : Nat) (f : Crew → Crew) : (s.modCrew k f).nextCore = s.nextCore := rfl
@[simp] theorem State.modCrew_nextUid (s : State) (k : Nat) (f : Crew → Crew) : (s.modCrew k f).nextUid = s.nextUid := rfl
@[simp] theorem State.modCrew_freeCtr (s : State) (k : Nat) (f : Crew → Crew) : (s.modCrew k f).freeCtr = s.freeCtr := rfl

/-! ### modGang -/

@[simp] theorem State.modGang_up (s : State) (k : Nat) (f : Gang → Gang) : (s.modGang k f).up = s.up := rfl
@[simp] theorem State.modGang_halted (s : State) (k : Nat) (f : Gang → Gang) : (s.modGang k f).halted = s.halted := rfl
@[simp] theorem State.modGang_keysErased (s : State) (k : Nat) (f : Gang → Gang) : (s.modGang k f).keysErased = s.keysErased := rfl
@[simp] theorem State.modGang_leaf (s : State) (k : Nat) (f : Gang → Gang) : (s.modGang k f).leaf = s.leaf := rfl
@[simp] theorem State.modGang_attested (s : State) (k : Nat) (f : Gang → Gang) : (s.modGang k f).attested = s.attested := rfl
@[simp] theorem State.modGang_mgmt (s : State) (k : Nat) (f : Gang → Gang) : (s.modGang k f).mgmt = s.mgmt := rfl
@[simp] theorem State.modGang_retiredUnits (s : State) (k : Nat) (f : Gang → Gang) : (s.modGang k f).retiredUnits = s.retiredUnits := rfl
@[simp] theorem State.modGang_portsDown (s : State) (k : Nat) (f : Gang → Gang) : (s.modGang k f).portsDown = s.portsDown := rfl
@[simp] theorem State.modGang_portPart (s : State) (k : Nat) (f : Gang → Gang) : (s.modGang k f).portPart = s.portPart := rfl
@[simp] theorem State.modGang_cores (s : State) (k : Nat) (f : Gang → Gang) : (s.modGang k f).cores = s.cores := rfl
@[simp] theorem State.modGang_parts (s : State) (k : Nat) (f : Gang → Gang) : (s.modGang k f).parts = s.parts := rfl
@[simp] theorem State.modGang_mem (s : State) (k : Nat) (f : Gang → Gang) : (s.modGang k f).mem = s.mem := rfl
@[simp] theorem State.modGang_launches (s : State) (k : Nat) (f : Gang → Gang) : (s.modGang k f).launches = s.launches := rfl
@[simp] theorem State.modGang_crews (s : State) (k : Nat) (f : Gang → Gang) : (s.modGang k f).crews = s.crews := rfl
@[simp] theorem State.modGang_waves (s : State) (k : Nat) (f : Gang → Gang) : (s.modGang k f).waves = s.waves := rfl
@[simp] theorem State.modGang_nodes (s : State) (k : Nat) (f : Gang → Gang) : (s.modGang k f).nodes = s.nodes := rfl
@[simp] theorem State.modGang_flights (s : State) (k : Nat) (f : Gang → Gang) : (s.modGang k f).flights = s.flights := rfl
@[simp] theorem State.modGang_accesses (s : State) (k : Nat) (f : Gang → Gang) : (s.modGang k f).accesses = s.accesses := rfl
@[simp] theorem State.modGang_copies (s : State) (k : Nat) (f : Gang → Gang) : (s.modGang k f).copies = s.copies := rfl
@[simp] theorem State.modGang_smvs (s : State) (k : Nat) (f : Gang → Gang) : (s.modGang k f).smvs = s.smvs := rfl
@[simp] theorem State.modGang_cmds (s : State) (k : Nat) (f : Gang → Gang) : (s.modGang k f).cmds = s.cmds := rfl
@[simp] theorem State.modGang_views (s : State) (k : Nat) (f : Gang → Gang) : (s.modGang k f).views = s.views := rfl
@[simp] theorem State.modGang_wreqs (s : State) (k : Nat) (f : Gang → Gang) : (s.modGang k f).wreqs = s.wreqs := rfl
@[simp] theorem State.modGang_lreqs (s : State) (k : Nat) (f : Gang → Gang) : (s.modGang k f).lreqs = s.lreqs := rfl
@[simp] theorem State.modGang_tfaults (s : State) (k : Nat) (f : Gang → Gang) : (s.modGang k f).tfaults = s.tfaults := rfl
@[simp] theorem State.modGang_deferred (s : State) (k : Nat) (f : Gang → Gang) : (s.modGang k f).deferred = s.deferred := rfl
@[simp] theorem State.modGang_barObjs (s : State) (k : Nat) (f : Gang → Gang) : (s.modGang k f).barObjs = s.barObjs := rfl
@[simp] theorem State.modGang_peerOut (s : State) (k : Nat) (f : Gang → Gang) : (s.modGang k f).peerOut = s.peerOut := rfl
@[simp] theorem State.modGang_pairTurn (s : State) (k : Nat) (f : Gang → Gang) : (s.modGang k f).pairTurn = s.pairTurn := rfl
@[simp] theorem State.modGang_turns (s : State) (k : Nat) (f : Gang → Gang) : (s.modGang k f).turns = s.turns := rfl
@[simp] theorem State.modGang_queueSeq (s : State) (k : Nat) (f : Gang → Gang) : (s.modGang k f).queueSeq = s.queueSeq := rfl
@[simp] theorem State.modGang_waitingRecs (s : State) (k : Nat) (f : Gang → Gang) : (s.modGang k f).waitingRecs = s.waitingRecs := rfl
@[simp] theorem State.modGang_cur (s : State) (k : Nat) (f : Gang → Gang) : (s.modGang k f).cur = s.cur := rfl
@[simp] theorem State.modGang_agenda (s : State) (k : Nat) (f : Gang → Gang) : (s.modGang k f).agenda = s.agenda := rfl
@[simp] theorem State.modGang_nextCore (s : State) (k : Nat) (f : Gang → Gang) : (s.modGang k f).nextCore = s.nextCore := rfl
@[simp] theorem State.modGang_nextUid (s : State) (k : Nat) (f : Gang → Gang) : (s.modGang k f).nextUid = s.nextUid := rfl
@[simp] theorem State.modGang_freeCtr (s : State) (k : Nat) (f : Gang → Gang) : (s.modGang k f).freeCtr = s.freeCtr := rfl

/-! ### modLaunch -/

@[simp] theorem State.modLaunch_up (s : State) (k : Nat) (f : Launch → Launch) : (s.modLaunch k f).up = s.up := rfl
@[simp] theorem State.modLaunch_halted (s : State) (k : Nat) (f : Launch → Launch) : (s.modLaunch k f).halted = s.halted := rfl
@[simp] theorem State.modLaunch_keysErased (s : State) (k : Nat) (f : Launch → Launch) : (s.modLaunch k f).keysErased = s.keysErased := rfl
@[simp] theorem State.modLaunch_leaf (s : State) (k : Nat) (f : Launch → Launch) : (s.modLaunch k f).leaf = s.leaf := rfl
@[simp] theorem State.modLaunch_attested (s : State) (k : Nat) (f : Launch → Launch) : (s.modLaunch k f).attested = s.attested := rfl
@[simp] theorem State.modLaunch_mgmt (s : State) (k : Nat) (f : Launch → Launch) : (s.modLaunch k f).mgmt = s.mgmt := rfl
@[simp] theorem State.modLaunch_retiredUnits (s : State) (k : Nat) (f : Launch → Launch) : (s.modLaunch k f).retiredUnits = s.retiredUnits := rfl
@[simp] theorem State.modLaunch_portsDown (s : State) (k : Nat) (f : Launch → Launch) : (s.modLaunch k f).portsDown = s.portsDown := rfl
@[simp] theorem State.modLaunch_portPart (s : State) (k : Nat) (f : Launch → Launch) : (s.modLaunch k f).portPart = s.portPart := rfl
@[simp] theorem State.modLaunch_cores (s : State) (k : Nat) (f : Launch → Launch) : (s.modLaunch k f).cores = s.cores := rfl
@[simp] theorem State.modLaunch_parts (s : State) (k : Nat) (f : Launch → Launch) : (s.modLaunch k f).parts = s.parts := rfl
@[simp] theorem State.modLaunch_mem (s : State) (k : Nat) (f : Launch → Launch) : (s.modLaunch k f).mem = s.mem := rfl
@[simp] theorem State.modLaunch_gangs (s : State) (k : Nat) (f : Launch → Launch) : (s.modLaunch k f).gangs = s.gangs := rfl
@[simp] theorem State.modLaunch_crews (s : State) (k : Nat) (f : Launch → Launch) : (s.modLaunch k f).crews = s.crews := rfl
@[simp] theorem State.modLaunch_waves (s : State) (k : Nat) (f : Launch → Launch) : (s.modLaunch k f).waves = s.waves := rfl
@[simp] theorem State.modLaunch_nodes (s : State) (k : Nat) (f : Launch → Launch) : (s.modLaunch k f).nodes = s.nodes := rfl
@[simp] theorem State.modLaunch_flights (s : State) (k : Nat) (f : Launch → Launch) : (s.modLaunch k f).flights = s.flights := rfl
@[simp] theorem State.modLaunch_accesses (s : State) (k : Nat) (f : Launch → Launch) : (s.modLaunch k f).accesses = s.accesses := rfl
@[simp] theorem State.modLaunch_copies (s : State) (k : Nat) (f : Launch → Launch) : (s.modLaunch k f).copies = s.copies := rfl
@[simp] theorem State.modLaunch_smvs (s : State) (k : Nat) (f : Launch → Launch) : (s.modLaunch k f).smvs = s.smvs := rfl
@[simp] theorem State.modLaunch_cmds (s : State) (k : Nat) (f : Launch → Launch) : (s.modLaunch k f).cmds = s.cmds := rfl
@[simp] theorem State.modLaunch_views (s : State) (k : Nat) (f : Launch → Launch) : (s.modLaunch k f).views = s.views := rfl
@[simp] theorem State.modLaunch_wreqs (s : State) (k : Nat) (f : Launch → Launch) : (s.modLaunch k f).wreqs = s.wreqs := rfl
@[simp] theorem State.modLaunch_lreqs (s : State) (k : Nat) (f : Launch → Launch) : (s.modLaunch k f).lreqs = s.lreqs := rfl
@[simp] theorem State.modLaunch_tfaults (s : State) (k : Nat) (f : Launch → Launch) : (s.modLaunch k f).tfaults = s.tfaults := rfl
@[simp] theorem State.modLaunch_deferred (s : State) (k : Nat) (f : Launch → Launch) : (s.modLaunch k f).deferred = s.deferred := rfl
@[simp] theorem State.modLaunch_barObjs (s : State) (k : Nat) (f : Launch → Launch) : (s.modLaunch k f).barObjs = s.barObjs := rfl
@[simp] theorem State.modLaunch_peerOut (s : State) (k : Nat) (f : Launch → Launch) : (s.modLaunch k f).peerOut = s.peerOut := rfl
@[simp] theorem State.modLaunch_pairTurn (s : State) (k : Nat) (f : Launch → Launch) : (s.modLaunch k f).pairTurn = s.pairTurn := rfl
@[simp] theorem State.modLaunch_turns (s : State) (k : Nat) (f : Launch → Launch) : (s.modLaunch k f).turns = s.turns := rfl
@[simp] theorem State.modLaunch_queueSeq (s : State) (k : Nat) (f : Launch → Launch) : (s.modLaunch k f).queueSeq = s.queueSeq := rfl
@[simp] theorem State.modLaunch_waitingRecs (s : State) (k : Nat) (f : Launch → Launch) : (s.modLaunch k f).waitingRecs = s.waitingRecs := rfl
@[simp] theorem State.modLaunch_cur (s : State) (k : Nat) (f : Launch → Launch) : (s.modLaunch k f).cur = s.cur := rfl
@[simp] theorem State.modLaunch_agenda (s : State) (k : Nat) (f : Launch → Launch) : (s.modLaunch k f).agenda = s.agenda := rfl
@[simp] theorem State.modLaunch_nextCore (s : State) (k : Nat) (f : Launch → Launch) : (s.modLaunch k f).nextCore = s.nextCore := rfl
@[simp] theorem State.modLaunch_nextUid (s : State) (k : Nat) (f : Launch → Launch) : (s.modLaunch k f).nextUid = s.nextUid := rfl
@[simp] theorem State.modLaunch_freeCtr (s : State) (k : Nat) (f : Launch → Launch) : (s.modLaunch k f).freeCtr = s.freeCtr := rfl

/-! ### modNode -/

@[simp] theorem State.modNode_up (s : State) (k : Nat) (f : Node → Node) : (s.modNode k f).up = s.up := rfl
@[simp] theorem State.modNode_halted (s : State) (k : Nat) (f : Node → Node) : (s.modNode k f).halted = s.halted := rfl
@[simp] theorem State.modNode_keysErased (s : State) (k : Nat) (f : Node → Node) : (s.modNode k f).keysErased = s.keysErased := rfl
@[simp] theorem State.modNode_leaf (s : State) (k : Nat) (f : Node → Node) : (s.modNode k f).leaf = s.leaf := rfl
@[simp] theorem State.modNode_attested (s : State) (k : Nat) (f : Node → Node) : (s.modNode k f).attested = s.attested := rfl
@[simp] theorem State.modNode_mgmt (s : State) (k : Nat) (f : Node → Node) : (s.modNode k f).mgmt = s.mgmt := rfl
@[simp] theorem State.modNode_retiredUnits (s : State) (k : Nat) (f : Node → Node) : (s.modNode k f).retiredUnits = s.retiredUnits := rfl
@[simp] theorem State.modNode_portsDown (s : State) (k : Nat) (f : Node → Node) : (s.modNode k f).portsDown = s.portsDown := rfl
@[simp] theorem State.modNode_portPart (s : State) (k : Nat) (f : Node → Node) : (s.modNode k f).portPart = s.portPart := rfl
@[simp] theorem State.modNode_cores (s : State) (k : Nat) (f : Node → Node) : (s.modNode k f).cores = s.cores := rfl
@[simp] theorem State.modNode_parts (s : State) (k : Nat) (f : Node → Node) : (s.modNode k f).parts = s.parts := rfl
@[simp] theorem State.modNode_mem (s : State) (k : Nat) (f : Node → Node) : (s.modNode k f).mem = s.mem := rfl
@[simp] theorem State.modNode_launches (s : State) (k : Nat) (f : Node → Node) : (s.modNode k f).launches = s.launches := rfl
@[simp] theorem State.modNode_gangs (s : State) (k : Nat) (f : Node → Node) : (s.modNode k f).gangs = s.gangs := rfl
@[simp] theorem State.modNode_crews (s : State) (k : Nat) (f : Node → Node) : (s.modNode k f).crews = s.crews := rfl
@[simp] theorem State.modNode_waves (s : State) (k : Nat) (f : Node → Node) : (s.modNode k f).waves = s.waves := rfl
@[simp] theorem State.modNode_flights (s : State) (k : Nat) (f : Node → Node) : (s.modNode k f).flights = s.flights := rfl
@[simp] theorem State.modNode_accesses (s : State) (k : Nat) (f : Node → Node) : (s.modNode k f).accesses = s.accesses := rfl
@[simp] theorem State.modNode_copies (s : State) (k : Nat) (f : Node → Node) : (s.modNode k f).copies = s.copies := rfl
@[simp] theorem State.modNode_smvs (s : State) (k : Nat) (f : Node → Node) : (s.modNode k f).smvs = s.smvs := rfl
@[simp] theorem State.modNode_cmds (s : State) (k : Nat) (f : Node → Node) : (s.modNode k f).cmds = s.cmds := rfl
@[simp] theorem State.modNode_views (s : State) (k : Nat) (f : Node → Node) : (s.modNode k f).views = s.views := rfl
@[simp] theorem State.modNode_wreqs (s : State) (k : Nat) (f : Node → Node) : (s.modNode k f).wreqs = s.wreqs := rfl
@[simp] theorem State.modNode_lreqs (s : State) (k : Nat) (f : Node → Node) : (s.modNode k f).lreqs = s.lreqs := rfl
@[simp] theorem State.modNode_tfaults (s : State) (k : Nat) (f : Node → Node) : (s.modNode k f).tfaults = s.tfaults := rfl
@[simp] theorem State.modNode_deferred (s : State) (k : Nat) (f : Node → Node) : (s.modNode k f).deferred = s.deferred := rfl
@[simp] theorem State.modNode_barObjs (s : State) (k : Nat) (f : Node → Node) : (s.modNode k f).barObjs = s.barObjs := rfl
@[simp] theorem State.modNode_peerOut (s : State) (k : Nat) (f : Node → Node) : (s.modNode k f).peerOut = s.peerOut := rfl
@[simp] theorem State.modNode_pairTurn (s : State) (k : Nat) (f : Node → Node) : (s.modNode k f).pairTurn = s.pairTurn := rfl
@[simp] theorem State.modNode_turns (s : State) (k : Nat) (f : Node → Node) : (s.modNode k f).turns = s.turns := rfl
@[simp] theorem State.modNode_queueSeq (s : State) (k : Nat) (f : Node → Node) : (s.modNode k f).queueSeq = s.queueSeq := rfl
@[simp] theorem State.modNode_waitingRecs (s : State) (k : Nat) (f : Node → Node) : (s.modNode k f).waitingRecs = s.waitingRecs := rfl
@[simp] theorem State.modNode_cur (s : State) (k : Nat) (f : Node → Node) : (s.modNode k f).cur = s.cur := rfl
@[simp] theorem State.modNode_agenda (s : State) (k : Nat) (f : Node → Node) : (s.modNode k f).agenda = s.agenda := rfl
@[simp] theorem State.modNode_nextCore (s : State) (k : Nat) (f : Node → Node) : (s.modNode k f).nextCore = s.nextCore := rfl
@[simp] theorem State.modNode_nextUid (s : State) (k : Nat) (f : Node → Node) : (s.modNode k f).nextUid = s.nextUid := rfl
@[simp] theorem State.modNode_freeCtr (s : State) (k : Nat) (f : Node → Node) : (s.modNode k f).freeCtr = s.freeCtr := rfl

/-! ### modPart -/

@[simp] theorem State.modPart_up (s : State) (k : Nat) (f : Partition → Partition) : (s.modPart k f).up = s.up := rfl
@[simp] theorem State.modPart_halted (s : State) (k : Nat) (f : Partition → Partition) : (s.modPart k f).halted = s.halted := rfl
@[simp] theorem State.modPart_keysErased (s : State) (k : Nat) (f : Partition → Partition) : (s.modPart k f).keysErased = s.keysErased := rfl
@[simp] theorem State.modPart_leaf (s : State) (k : Nat) (f : Partition → Partition) : (s.modPart k f).leaf = s.leaf := rfl
@[simp] theorem State.modPart_attested (s : State) (k : Nat) (f : Partition → Partition) : (s.modPart k f).attested = s.attested := rfl
@[simp] theorem State.modPart_mgmt (s : State) (k : Nat) (f : Partition → Partition) : (s.modPart k f).mgmt = s.mgmt := rfl
@[simp] theorem State.modPart_retiredUnits (s : State) (k : Nat) (f : Partition → Partition) : (s.modPart k f).retiredUnits = s.retiredUnits := rfl
@[simp] theorem State.modPart_portsDown (s : State) (k : Nat) (f : Partition → Partition) : (s.modPart k f).portsDown = s.portsDown := rfl
@[simp] theorem State.modPart_portPart (s : State) (k : Nat) (f : Partition → Partition) : (s.modPart k f).portPart = s.portPart := rfl
@[simp] theorem State.modPart_cores (s : State) (k : Nat) (f : Partition → Partition) : (s.modPart k f).cores = s.cores := rfl
@[simp] theorem State.modPart_mem (s : State) (k : Nat) (f : Partition → Partition) : (s.modPart k f).mem = s.mem := rfl
@[simp] theorem State.modPart_launches (s : State) (k : Nat) (f : Partition → Partition) : (s.modPart k f).launches = s.launches := rfl
@[simp] theorem State.modPart_gangs (s : State) (k : Nat) (f : Partition → Partition) : (s.modPart k f).gangs = s.gangs := rfl
@[simp] theorem State.modPart_crews (s : State) (k : Nat) (f : Partition → Partition) : (s.modPart k f).crews = s.crews := rfl
@[simp] theorem State.modPart_waves (s : State) (k : Nat) (f : Partition → Partition) : (s.modPart k f).waves = s.waves := rfl
@[simp] theorem State.modPart_nodes (s : State) (k : Nat) (f : Partition → Partition) : (s.modPart k f).nodes = s.nodes := rfl
@[simp] theorem State.modPart_flights (s : State) (k : Nat) (f : Partition → Partition) : (s.modPart k f).flights = s.flights := rfl
@[simp] theorem State.modPart_accesses (s : State) (k : Nat) (f : Partition → Partition) : (s.modPart k f).accesses = s.accesses := rfl
@[simp] theorem State.modPart_copies (s : State) (k : Nat) (f : Partition → Partition) : (s.modPart k f).copies = s.copies := rfl
@[simp] theorem State.modPart_smvs (s : State) (k : Nat) (f : Partition → Partition) : (s.modPart k f).smvs = s.smvs := rfl
@[simp] theorem State.modPart_cmds (s : State) (k : Nat) (f : Partition → Partition) : (s.modPart k f).cmds = s.cmds := rfl
@[simp] theorem State.modPart_views (s : State) (k : Nat) (f : Partition → Partition) : (s.modPart k f).views = s.views := rfl
@[simp] theorem State.modPart_wreqs (s : State) (k : Nat) (f : Partition → Partition) : (s.modPart k f).wreqs = s.wreqs := rfl
@[simp] theorem State.modPart_lreqs (s : State) (k : Nat) (f : Partition → Partition) : (s.modPart k f).lreqs = s.lreqs := rfl
@[simp] theorem State.modPart_tfaults (s : State) (k : Nat) (f : Partition → Partition) : (s.modPart k f).tfaults = s.tfaults := rfl
@[simp] theorem State.modPart_deferred (s : State) (k : Nat) (f : Partition → Partition) : (s.modPart k f).deferred = s.deferred := rfl
@[simp] theorem State.modPart_barObjs (s : State) (k : Nat) (f : Partition → Partition) : (s.modPart k f).barObjs = s.barObjs := rfl
@[simp] theorem State.modPart_peerOut (s : State) (k : Nat) (f : Partition → Partition) : (s.modPart k f).peerOut = s.peerOut := rfl
@[simp] theorem State.modPart_pairTurn (s : State) (k : Nat) (f : Partition → Partition) : (s.modPart k f).pairTurn = s.pairTurn := rfl
@[simp] theorem State.modPart_turns (s : State) (k : Nat) (f : Partition → Partition) : (s.modPart k f).turns = s.turns := rfl
@[simp] theorem State.modPart_queueSeq (s : State) (k : Nat) (f : Partition → Partition) : (s.modPart k f).queueSeq = s.queueSeq := rfl
@[simp] theorem State.modPart_waitingRecs (s : State) (k : Nat) (f : Partition → Partition) : (s.modPart k f).waitingRecs = s.waitingRecs := rfl
@[simp] theorem State.modPart_cur (s : State) (k : Nat) (f : Partition → Partition) : (s.modPart k f).cur = s.cur := rfl
@[simp] theorem State.modPart_agenda (s : State) (k : Nat) (f : Partition → Partition) : (s.modPart k f).agenda = s.agenda := rfl
@[simp] theorem State.modPart_nextCore (s : State) (k : Nat) (f : Partition → Partition) : (s.modPart k f).nextCore = s.nextCore := rfl
@[simp] theorem State.modPart_nextUid (s : State) (k : Nat) (f : Partition → Partition) : (s.modPart k f).nextUid = s.nextUid := rfl
@[simp] theorem State.modPart_freeCtr (s : State) (k : Nat) (f : Partition → Partition) : (s.modPart k f).freeCtr = s.freeCtr := rfl

/-! ### modCore -/

@[simp] theorem State.modCore_up (s : State) (k : Nat) (f : Core → Core) : (s.modCore k f).up = s.up := rfl
@[simp] theorem State.modCore_halted (s : State) (k : Nat) (f : Core → Core) : (s.modCore k f).halted = s.halted := rfl
@[simp] theorem State.modCore_keysErased (s : State) (k : Nat) (f : Core → Core) : (s.modCore k f).keysErased = s.keysErased := rfl
@[simp] theorem State.modCore_leaf (s : State) (k : Nat) (f : Core → Core) : (s.modCore k f).leaf = s.leaf := rfl
@[simp] theorem State.modCore_attested (s : State) (k : Nat) (f : Core → Core) : (s.modCore k f).attested = s.attested := rfl
@[simp] theorem State.modCore_mgmt (s : State) (k : Nat) (f : Core → Core) : (s.modCore k f).mgmt = s.mgmt := rfl
@[simp] theorem State.modCore_retiredUnits (s : State) (k : Nat) (f : Core → Core) : (s.modCore k f).retiredUnits = s.retiredUnits := rfl
@[simp] theorem State.modCore_portsDown (s : State) (k : Nat) (f : Core → Core) : (s.modCore k f).portsDown = s.portsDown := rfl
@[simp] theorem State.modCore_portPart (s : State) (k : Nat) (f : Core → Core) : (s.modCore k f).portPart = s.portPart := rfl
@[simp] theorem State.modCore_parts (s : State) (k : Nat) (f : Core → Core) : (s.modCore k f).parts = s.parts := rfl
@[simp] theorem State.modCore_mem (s : State) (k : Nat) (f : Core → Core) : (s.modCore k f).mem = s.mem := rfl
@[simp] theorem State.modCore_launches (s : State) (k : Nat) (f : Core → Core) : (s.modCore k f).launches = s.launches := rfl
@[simp] theorem State.modCore_gangs (s : State) (k : Nat) (f : Core → Core) : (s.modCore k f).gangs = s.gangs := rfl
@[simp] theorem State.modCore_crews (s : State) (k : Nat) (f : Core → Core) : (s.modCore k f).crews = s.crews := rfl
@[simp] theorem State.modCore_waves (s : State) (k : Nat) (f : Core → Core) : (s.modCore k f).waves = s.waves := rfl
@[simp] theorem State.modCore_nodes (s : State) (k : Nat) (f : Core → Core) : (s.modCore k f).nodes = s.nodes := rfl
@[simp] theorem State.modCore_flights (s : State) (k : Nat) (f : Core → Core) : (s.modCore k f).flights = s.flights := rfl
@[simp] theorem State.modCore_accesses (s : State) (k : Nat) (f : Core → Core) : (s.modCore k f).accesses = s.accesses := rfl
@[simp] theorem State.modCore_copies (s : State) (k : Nat) (f : Core → Core) : (s.modCore k f).copies = s.copies := rfl
@[simp] theorem State.modCore_smvs (s : State) (k : Nat) (f : Core → Core) : (s.modCore k f).smvs = s.smvs := rfl
@[simp] theorem State.modCore_cmds (s : State) (k : Nat) (f : Core → Core) : (s.modCore k f).cmds = s.cmds := rfl
@[simp] theorem State.modCore_views (s : State) (k : Nat) (f : Core → Core) : (s.modCore k f).views = s.views := rfl
@[simp] theorem State.modCore_wreqs (s : State) (k : Nat) (f : Core → Core) : (s.modCore k f).wreqs = s.wreqs := rfl
@[simp] theorem State.modCore_lreqs (s : State) (k : Nat) (f : Core → Core) : (s.modCore k f).lreqs = s.lreqs := rfl
@[simp] theorem State.modCore_tfaults (s : State) (k : Nat) (f : Core → Core) : (s.modCore k f).tfaults = s.tfaults := rfl
@[simp] theorem State.modCore_deferred (s : State) (k : Nat) (f : Core → Core) : (s.modCore k f).deferred = s.deferred := rfl
@[simp] theorem State.modCore_barObjs (s : State) (k : Nat) (f : Core → Core) : (s.modCore k f).barObjs = s.barObjs := rfl
@[simp] theorem State.modCore_peerOut (s : State) (k : Nat) (f : Core → Core) : (s.modCore k f).peerOut = s.peerOut := rfl
@[simp] theorem State.modCore_pairTurn (s : State) (k : Nat) (f : Core → Core) : (s.modCore k f).pairTurn = s.pairTurn := rfl
@[simp] theorem State.modCore_turns (s : State) (k : Nat) (f : Core → Core) : (s.modCore k f).turns = s.turns := rfl
@[simp] theorem State.modCore_queueSeq (s : State) (k : Nat) (f : Core → Core) : (s.modCore k f).queueSeq = s.queueSeq := rfl
@[simp] theorem State.modCore_waitingRecs (s : State) (k : Nat) (f : Core → Core) : (s.modCore k f).waitingRecs = s.waitingRecs := rfl
@[simp] theorem State.modCore_cur (s : State) (k : Nat) (f : Core → Core) : (s.modCore k f).cur = s.cur := rfl
@[simp] theorem State.modCore_agenda (s : State) (k : Nat) (f : Core → Core) : (s.modCore k f).agenda = s.agenda := rfl
@[simp] theorem State.modCore_nextCore (s : State) (k : Nat) (f : Core → Core) : (s.modCore k f).nextCore = s.nextCore := rfl
@[simp] theorem State.modCore_nextUid (s : State) (k : Nat) (f : Core → Core) : (s.modCore k f).nextUid = s.nextUid := rfl
@[simp] theorem State.modCore_freeCtr (s : State) (k : Nat) (f : Core → Core) : (s.modCore k f).freeCtr = s.freeCtr := rfl

/-! ### setUni -/

@[simp] theorem State.setUni_up (s : State) (k n : Nat) (r : Reg) : (s.setUni k n r).up = s.up := rfl
@[simp] theorem State.setUni_halted (s : State) (k n : Nat) (r : Reg) : (s.setUni k n r).halted = s.halted := rfl
@[simp] theorem State.setUni_keysErased (s : State) (k n : Nat) (r : Reg) : (s.setUni k n r).keysErased = s.keysErased := rfl
@[simp] theorem State.setUni_leaf (s : State) (k n : Nat) (r : Reg) : (s.setUni k n r).leaf = s.leaf := rfl
@[simp] theorem State.setUni_attested (s : State) (k n : Nat) (r : Reg) : (s.setUni k n r).attested = s.attested := rfl
@[simp] theorem State.setUni_mgmt (s : State) (k n : Nat) (r : Reg) : (s.setUni k n r).mgmt = s.mgmt := rfl
@[simp] theorem State.setUni_retiredUnits (s : State) (k n : Nat) (r : Reg) : (s.setUni k n r).retiredUnits = s.retiredUnits := rfl
@[simp] theorem State.setUni_portsDown (s : State) (k n : Nat) (r : Reg) : (s.setUni k n r).portsDown = s.portsDown := rfl
@[simp] theorem State.setUni_portPart (s : State) (k n : Nat) (r : Reg) : (s.setUni k n r).portPart = s.portPart := rfl
@[simp] theorem State.setUni_cores (s : State) (k n : Nat) (r : Reg) : (s.setUni k n r).cores = s.cores := rfl
@[simp] theorem State.setUni_parts (s : State) (k n : Nat) (r : Reg) : (s.setUni k n r).parts = s.parts := rfl
@[simp] theorem State.setUni_mem (s : State) (k n : Nat) (r : Reg) : (s.setUni k n r).mem = s.mem := rfl
@[simp] theorem State.setUni_launches (s : State) (k n : Nat) (r : Reg) : (s.setUni k n r).launches = s.launches := rfl
@[simp] theorem State.setUni_gangs (s : State) (k n : Nat) (r : Reg) : (s.setUni k n r).gangs = s.gangs := rfl
@[simp] theorem State.setUni_waves (s : State) (k n : Nat) (r : Reg) : (s.setUni k n r).waves = s.waves := rfl
@[simp] theorem State.setUni_nodes (s : State) (k n : Nat) (r : Reg) : (s.setUni k n r).nodes = s.nodes := rfl
@[simp] theorem State.setUni_flights (s : State) (k n : Nat) (r : Reg) : (s.setUni k n r).flights = s.flights := rfl
@[simp] theorem State.setUni_accesses (s : State) (k n : Nat) (r : Reg) : (s.setUni k n r).accesses = s.accesses := rfl
@[simp] theorem State.setUni_copies (s : State) (k n : Nat) (r : Reg) : (s.setUni k n r).copies = s.copies := rfl
@[simp] theorem State.setUni_smvs (s : State) (k n : Nat) (r : Reg) : (s.setUni k n r).smvs = s.smvs := rfl
@[simp] theorem State.setUni_cmds (s : State) (k n : Nat) (r : Reg) : (s.setUni k n r).cmds = s.cmds := rfl
@[simp] theorem State.setUni_views (s : State) (k n : Nat) (r : Reg) : (s.setUni k n r).views = s.views := rfl
@[simp] theorem State.setUni_wreqs (s : State) (k n : Nat) (r : Reg) : (s.setUni k n r).wreqs = s.wreqs := rfl
@[simp] theorem State.setUni_lreqs (s : State) (k n : Nat) (r : Reg) : (s.setUni k n r).lreqs = s.lreqs := rfl
@[simp] theorem State.setUni_tfaults (s : State) (k n : Nat) (r : Reg) : (s.setUni k n r).tfaults = s.tfaults := rfl
@[simp] theorem State.setUni_deferred (s : State) (k n : Nat) (r : Reg) : (s.setUni k n r).deferred = s.deferred := rfl
@[simp] theorem State.setUni_barObjs (s : State) (k n : Nat) (r : Reg) : (s.setUni k n r).barObjs = s.barObjs := rfl
@[simp] theorem State.setUni_peerOut (s : State) (k n : Nat) (r : Reg) : (s.setUni k n r).peerOut = s.peerOut := rfl
@[simp] theorem State.setUni_pairTurn (s : State) (k n : Nat) (r : Reg) : (s.setUni k n r).pairTurn = s.pairTurn := rfl
@[simp] theorem State.setUni_turns (s : State) (k n : Nat) (r : Reg) : (s.setUni k n r).turns = s.turns := rfl
@[simp] theorem State.setUni_queueSeq (s : State) (k n : Nat) (r : Reg) : (s.setUni k n r).queueSeq = s.queueSeq := rfl
@[simp] theorem State.setUni_waitingRecs (s : State) (k n : Nat) (r : Reg) : (s.setUni k n r).waitingRecs = s.waitingRecs := rfl
@[simp] theorem State.setUni_cur (s : State) (k n : Nat) (r : Reg) : (s.setUni k n r).cur = s.cur := rfl
@[simp] theorem State.setUni_agenda (s : State) (k n : Nat) (r : Reg) : (s.setUni k n r).agenda = s.agenda := rfl
@[simp] theorem State.setUni_nextCore (s : State) (k n : Nat) (r : Reg) : (s.setUni k n r).nextCore = s.nextCore := rfl
@[simp] theorem State.setUni_nextUid (s : State) (k n : Nat) (r : Reg) : (s.setUni k n r).nextUid = s.nextUid := rfl
@[simp] theorem State.setUni_freeCtr (s : State) (k n : Nat) (r : Reg) : (s.setUni k n r).freeCtr = s.freeCtr := rfl

/-! ### addFlight -/

@[simp] theorem State.addFlight_up (s : State) (f : Flight) : (s.addFlight f).up = s.up := rfl
@[simp] theorem State.addFlight_halted (s : State) (f : Flight) : (s.addFlight f).halted = s.halted := rfl
@[simp] theorem State.addFlight_keysErased (s : State) (f : Flight) : (s.addFlight f).keysErased = s.keysErased := rfl
@[simp] theorem State.addFlight_leaf (s : State) (f : Flight) : (s.addFlight f).leaf = s.leaf := rfl
@[simp] theorem State.addFlight_attested (s : State) (f : Flight) : (s.addFlight f).attested = s.attested := rfl
@[simp] theorem State.addFlight_mgmt (s : State) (f : Flight) : (s.addFlight f).mgmt = s.mgmt := rfl
@[simp] theorem State.addFlight_retiredUnits (s : State) (f : Flight) : (s.addFlight f).retiredUnits = s.retiredUnits := rfl
@[simp] theorem State.addFlight_portsDown (s : State) (f : Flight) : (s.addFlight f).portsDown = s.portsDown := rfl
@[simp] theorem State.addFlight_portPart (s : State) (f : Flight) : (s.addFlight f).portPart = s.portPart := rfl
@[simp] theorem State.addFlight_cores (s : State) (f : Flight) : (s.addFlight f).cores = s.cores := rfl
@[simp] theorem State.addFlight_parts (s : State) (f : Flight) : (s.addFlight f).parts = s.parts := rfl
@[simp] theorem State.addFlight_mem (s : State) (f : Flight) : (s.addFlight f).mem = s.mem := rfl
@[simp] theorem State.addFlight_launches (s : State) (f : Flight) : (s.addFlight f).launches = s.launches := rfl
@[simp] theorem State.addFlight_gangs (s : State) (f : Flight) : (s.addFlight f).gangs = s.gangs := rfl
@[simp] theorem State.addFlight_crews (s : State) (f : Flight) : (s.addFlight f).crews = s.crews := rfl
@[simp] theorem State.addFlight_waves (s : State) (f : Flight) : (s.addFlight f).waves = s.waves := rfl
@[simp] theorem State.addFlight_nodes (s : State) (f : Flight) : (s.addFlight f).nodes = s.nodes := rfl
@[simp] theorem State.addFlight_accesses (s : State) (f : Flight) : (s.addFlight f).accesses = s.accesses := rfl
@[simp] theorem State.addFlight_copies (s : State) (f : Flight) : (s.addFlight f).copies = s.copies := rfl
@[simp] theorem State.addFlight_smvs (s : State) (f : Flight) : (s.addFlight f).smvs = s.smvs := rfl
@[simp] theorem State.addFlight_cmds (s : State) (f : Flight) : (s.addFlight f).cmds = s.cmds := rfl
@[simp] theorem State.addFlight_views (s : State) (f : Flight) : (s.addFlight f).views = s.views := rfl
@[simp] theorem State.addFlight_wreqs (s : State) (f : Flight) : (s.addFlight f).wreqs = s.wreqs := rfl
@[simp] theorem State.addFlight_lreqs (s : State) (f : Flight) : (s.addFlight f).lreqs = s.lreqs := rfl
@[simp] theorem State.addFlight_tfaults (s : State) (f : Flight) : (s.addFlight f).tfaults = s.tfaults := rfl
@[simp] theorem State.addFlight_deferred (s : State) (f : Flight) : (s.addFlight f).deferred = s.deferred := rfl
@[simp] theorem State.addFlight_barObjs (s : State) (f : Flight) : (s.addFlight f).barObjs = s.barObjs := rfl
@[simp] theorem State.addFlight_peerOut (s : State) (f : Flight) : (s.addFlight f).peerOut = s.peerOut := rfl
@[simp] theorem State.addFlight_pairTurn (s : State) (f : Flight) : (s.addFlight f).pairTurn = s.pairTurn := rfl
@[simp] theorem State.addFlight_turns (s : State) (f : Flight) : (s.addFlight f).turns = s.turns := rfl
@[simp] theorem State.addFlight_queueSeq (s : State) (f : Flight) : (s.addFlight f).queueSeq = s.queueSeq := rfl
@[simp] theorem State.addFlight_waitingRecs (s : State) (f : Flight) : (s.addFlight f).waitingRecs = s.waitingRecs := rfl
@[simp] theorem State.addFlight_cur (s : State) (f : Flight) : (s.addFlight f).cur = s.cur := rfl
@[simp] theorem State.addFlight_agenda (s : State) (f : Flight) : (s.addFlight f).agenda = s.agenda := rfl
@[simp] theorem State.addFlight_nextCore (s : State) (f : Flight) : (s.addFlight f).nextCore = s.nextCore := rfl
@[simp] theorem State.addFlight_freeCtr (s : State) (f : Flight) : (s.addFlight f).freeCtr = s.freeCtr := rfl

/-! ### addAccess -/

@[simp] theorem State.addAccess_up (s : State) (a : Access) : (s.addAccess a).up = s.up := rfl
@[simp] theorem State.addAccess_halted (s : State) (a : Access) : (s.addAccess a).halted = s.halted := rfl
@[simp] theorem State.addAccess_keysErased (s : State) (a : Access) : (s.addAccess a).keysErased = s.keysErased := rfl
@[simp] theorem State.addAccess_leaf (s : State) (a : Access) : (s.addAccess a).leaf = s.leaf := rfl
@[simp] theorem State.addAccess_attested (s : State) (a : Access) : (s.addAccess a).attested = s.attested := rfl
@[simp] theorem State.addAccess_mgmt (s : State) (a : Access) : (s.addAccess a).mgmt = s.mgmt := rfl
@[simp] theorem State.addAccess_retiredUnits (s : State) (a : Access) : (s.addAccess a).retiredUnits = s.retiredUnits := rfl
@[simp] theorem State.addAccess_portsDown (s : State) (a : Access) : (s.addAccess a).portsDown = s.portsDown := rfl
@[simp] theorem State.addAccess_portPart (s : State) (a : Access) : (s.addAccess a).portPart = s.portPart := rfl
@[simp] theorem State.addAccess_cores (s : State) (a : Access) : (s.addAccess a).cores = s.cores := rfl
@[simp] theorem State.addAccess_parts (s : State) (a : Access) : (s.addAccess a).parts = s.parts := rfl
@[simp] theorem State.addAccess_mem (s : State) (a : Access) : (s.addAccess a).mem = s.mem := rfl
@[simp] theorem State.addAccess_launches (s : State) (a : Access) : (s.addAccess a).launches = s.launches := rfl
@[simp] theorem State.addAccess_gangs (s : State) (a : Access) : (s.addAccess a).gangs = s.gangs := rfl
@[simp] theorem State.addAccess_crews (s : State) (a : Access) : (s.addAccess a).crews = s.crews := rfl
@[simp] theorem State.addAccess_waves (s : State) (a : Access) : (s.addAccess a).waves = s.waves := rfl
@[simp] theorem State.addAccess_nodes (s : State) (a : Access) : (s.addAccess a).nodes = s.nodes := rfl
@[simp] theorem State.addAccess_flights (s : State) (a : Access) : (s.addAccess a).flights = s.flights := rfl
@[simp] theorem State.addAccess_copies (s : State) (a : Access) : (s.addAccess a).copies = s.copies := rfl
@[simp] theorem State.addAccess_smvs (s : State) (a : Access) : (s.addAccess a).smvs = s.smvs := rfl
@[simp] theorem State.addAccess_cmds (s : State) (a : Access) : (s.addAccess a).cmds = s.cmds := rfl
@[simp] theorem State.addAccess_views (s : State) (a : Access) : (s.addAccess a).views = s.views := rfl
@[simp] theorem State.addAccess_wreqs (s : State) (a : Access) : (s.addAccess a).wreqs = s.wreqs := rfl
@[simp] theorem State.addAccess_lreqs (s : State) (a : Access) : (s.addAccess a).lreqs = s.lreqs := rfl
@[simp] theorem State.addAccess_tfaults (s : State) (a : Access) : (s.addAccess a).tfaults = s.tfaults := rfl
@[simp] theorem State.addAccess_deferred (s : State) (a : Access) : (s.addAccess a).deferred = s.deferred := rfl
@[simp] theorem State.addAccess_barObjs (s : State) (a : Access) : (s.addAccess a).barObjs = s.barObjs := rfl
@[simp] theorem State.addAccess_peerOut (s : State) (a : Access) : (s.addAccess a).peerOut = s.peerOut := rfl
@[simp] theorem State.addAccess_pairTurn (s : State) (a : Access) : (s.addAccess a).pairTurn = s.pairTurn := rfl
@[simp] theorem State.addAccess_turns (s : State) (a : Access) : (s.addAccess a).turns = s.turns := rfl
@[simp] theorem State.addAccess_queueSeq (s : State) (a : Access) : (s.addAccess a).queueSeq = s.queueSeq := rfl
@[simp] theorem State.addAccess_waitingRecs (s : State) (a : Access) : (s.addAccess a).waitingRecs = s.waitingRecs := rfl
@[simp] theorem State.addAccess_cur (s : State) (a : Access) : (s.addAccess a).cur = s.cur := rfl
@[simp] theorem State.addAccess_agenda (s : State) (a : Access) : (s.addAccess a).agenda = s.agenda := rfl
@[simp] theorem State.addAccess_nextCore (s : State) (a : Access) : (s.addAccess a).nextCore = s.nextCore := rfl
@[simp] theorem State.addAccess_freeCtr (s : State) (a : Access) : (s.addAccess a).freeCtr = s.freeCtr := rfl

@[simp] theorem Wave.flagUp_crew (w : Wave) (n : Nat) : (w.flagUp n).crew = w.crew := rfl
@[simp] theorem Wave.flagUp_idx (w : Wave) (n : Nat) : (w.flagUp n).idx = w.idx := rfl
@[simp] theorem Wave.flagUp_slot (w : Wave) (n : Nat) : (w.flagUp n).slot = w.slot := rfl
@[simp] theorem Wave.flagUp_lanes (w : Wave) (n : Nat) : (w.flagUp n).lanes = w.lanes := rfl
@[simp] theorem Wave.flagUp_tiles (w : Wave) (n : Nat) : (w.flagUp n).tiles = w.tiles := rfl
@[simp] theorem Wave.flagUp_hyps (w : Wave) (n : Nat) : (w.flagUp n).hyps = w.hyps := rfl
@[simp] theorem Wave.flagUp_buns (w : Wave) (n : Nat) : (w.flagUp n).buns = w.buns := rfl
@[simp] theorem Wave.flagUp_fences (w : Wave) (n : Nat) : (w.flagUp n).fences = w.fences := rfl
@[simp] theorem Wave.flagUp_hold (w : Wave) (n : Nat) : (w.flagUp n).hold = w.hold := rfl
@[simp] theorem Wave.flagUp_passTo (w : Wave) (n : Nat) : (w.flagUp n).passTo = w.passTo := rfl
@[simp] theorem Wave.flagUp_cyclesH (w : Wave) (n : Nat) : (w.flagUp n).cyclesH = w.cyclesH := rfl
@[simp] theorem Wave.flagUp_ended (w : Wave) (n : Nat) : (w.flagUp n).ended = w.ended := rfl
@[simp] theorem Wave.flagDown_crew (w : Wave) (n : Nat) : (w.flagDown n).crew = w.crew := rfl
@[simp] theorem Wave.flagDown_idx (w : Wave) (n : Nat) : (w.flagDown n).idx = w.idx := rfl
@[simp] theorem Wave.flagDown_slot (w : Wave) (n : Nat) : (w.flagDown n).slot = w.slot := rfl
@[simp] theorem Wave.flagDown_lanes (w : Wave) (n : Nat) : (w.flagDown n).lanes = w.lanes := rfl
@[simp] theorem Wave.flagDown_tiles (w : Wave) (n : Nat) : (w.flagDown n).tiles = w.tiles := rfl
@[simp] theorem Wave.flagDown_hyps (w : Wave) (n : Nat) : (w.flagDown n).hyps = w.hyps := rfl
@[simp] theorem Wave.flagDown_buns (w : Wave) (n : Nat) : (w.flagDown n).buns = w.buns := rfl
@[simp] theorem Wave.flagDown_fences (w : Wave) (n : Nat) : (w.flagDown n).fences = w.fences := rfl
@[simp] theorem Wave.flagDown_hold (w : Wave) (n : Nat) : (w.flagDown n).hold = w.hold := rfl
@[simp] theorem Wave.flagDown_passTo (w : Wave) (n : Nat) : (w.flagDown n).passTo = w.passTo := rfl
@[simp] theorem Wave.flagDown_cyclesH (w : Wave) (n : Nat) : (w.flagDown n).cyclesH = w.cyclesH := rfl
@[simp] theorem Wave.flagDown_ended (w : Wave) (n : Nat) : (w.flagDown n).ended = w.ended := rfl

@[simp] theorem Wave.mapLanes_crew (w : Wave) (m : Lanes) (g : Nat → Lane → Lane) : (w.mapLanes m g).crew = w.crew := rfl
@[simp] theorem Wave.mapLanes_idx (w : Wave) (m : Lanes) (g : Nat → Lane → Lane) : (w.mapLanes m g).idx = w.idx := rfl
@[simp] theorem Wave.mapLanes_slot (w : Wave) (m : Lanes) (g : Nat → Lane → Lane) : (w.mapLanes m g).slot = w.slot := rfl
@[simp] theorem Wave.mapLanes_flags (w : Wave) (m : Lanes) (g : Nat → Lane → Lane) : (w.mapLanes m g).flags = w.flags := rfl
@[simp] theorem Wave.mapLanes_tiles (w : Wave) (m : Lanes) (g : Nat → Lane → Lane) : (w.mapLanes m g).tiles = w.tiles := rfl
@[simp] theorem Wave.mapLanes_hyps (w : Wave) (m : Lanes) (g : Nat → Lane → Lane) : (w.mapLanes m g).hyps = w.hyps := rfl
@[simp] theorem Wave.mapLanes_buns (w : Wave) (m : Lanes) (g : Nat → Lane → Lane) : (w.mapLanes m g).buns = w.buns := rfl
@[simp] theorem Wave.mapLanes_fences (w : Wave) (m : Lanes) (g : Nat → Lane → Lane) : (w.mapLanes m g).fences = w.fences := rfl
@[simp] theorem Wave.mapLanes_hold (w : Wave) (m : Lanes) (g : Nat → Lane → Lane) : (w.mapLanes m g).hold = w.hold := rfl
@[simp] theorem Wave.mapLanes_passTo (w : Wave) (m : Lanes) (g : Nat → Lane → Lane) : (w.mapLanes m g).passTo = w.passTo := rfl
@[simp] theorem Wave.mapLanes_cyclesH (w : Wave) (m : Lanes) (g : Nat → Lane → Lane) : (w.mapLanes m g).cyclesH = w.cyclesH := rfl
@[simp] theorem Wave.mapLanes_ended (w : Wave) (m : Lanes) (g : Nat → Lane → Lane) : (w.mapLanes m g).ended = w.ended := rfl

@[simp] theorem Crew.setUni_gang (c : Crew) (n : Nat) (r : Reg) : (c.setUni n r).gang = c.gang := rfl
@[simp] theorem Crew.setUni_idx (c : Crew) (n : Nat) (r : Reg) : (c.setUni n r).idx = c.idx := rfl
@[simp] theorem Crew.setUni_core (c : Crew) (n : Nat) (r : Reg) : (c.setUni n r).core = c.core := rfl
@[simp] theorem Crew.setUni_role (c : Crew) (n : Nat) (r : Reg) : (c.setUni n r).role = c.role := rfl
@[simp] theorem Crew.setUni_nreg (c : Crew) (n : Nat) (r : Reg) : (c.setUni n r).nreg = c.nreg := rfl
@[simp] theorem Crew.setUni_ntile (c : Crew) (n : Nat) (r : Reg) : (c.setUni n r).ntile = c.ntile := rfl
@[simp] theorem Crew.setUni_nhyp (c : Crew) (n : Nat) (r : Reg) : (c.setUni n r).nhyp = c.nhyp := rfl
@[simp] theorem Crew.setUni_nbun (c : Crew) (n : Nat) (r : Reg) : (c.setUni n r).nbun = c.nbun := rfl
@[simp] theorem Crew.setUni_fibres (c : Crew) (n : Nat) (r : Reg) : (c.setUni n r).fibres = c.fibres := rfl
@[simp] theorem Crew.setUni_lmemSize (c : Crew) (n : Nat) (r : Reg) : (c.setUni n r).lmemSize = c.lmemSize := rfl
@[simp] theorem Crew.setUni_lmem (c : Crew) (n : Nat) (r : Reg) : (c.setUni n r).lmem = c.lmem := rfl
@[simp] theorem Crew.setUni_wins (c : Crew) (n : Nat) (r : Reg) : (c.setUni n r).wins = c.wins := rfl
@[simp] theorem Crew.setUni_spillMax (c : Crew) (n : Nat) (r : Reg) : (c.setUni n r).spillMax = c.spillMax := rfl
@[simp] theorem Crew.setUni_opthr (c : Crew) (n : Nat) (r : Reg) : (c.setUni n r).opthr = c.opthr := rfl
@[simp] theorem Crew.setUni_key (c : Crew) (n : Nat) (r : Reg) : (c.setUni n r).key = c.key := rfl
@[simp] theorem Crew.setUni_recstat (c : Crew) (n : Nat) (r : Reg) : (c.setUni n r).recstat = c.recstat := rfl
@[simp] theorem Crew.setUni_vlevel (c : Crew) (n : Nat) (r : Reg) : (c.setUni n r).vlevel = c.vlevel := rfl
@[simp] theorem Crew.setUni_wbufCap (c : Crew) (n : Nat) (r : Reg) : (c.setUni n r).wbufCap = c.wbufCap := rfl
@[simp] theorem Crew.setUni_wbuf (c : Crew) (n : Nat) (r : Reg) : (c.setUni n r).wbuf = c.wbuf := rfl
@[simp] theorem Crew.setUni_charges (c : Crew) (n : Nat) (r : Reg) : (c.setUni n r).charges = c.charges := rfl
@[simp] theorem Crew.setUni_sealed (c : Crew) (n : Nat) (r : Reg) : (c.setUni n r).sealed = c.sealed := rfl
@[simp] theorem Crew.setUni_sealedCharges (c : Crew) (n : Nat) (r : Reg) : (c.setUni n r).sealedCharges = c.sealedCharges := rfl
@[simp] theorem Crew.setUni_snaps (c : Crew) (n : Nat) (r : Reg) : (c.setUni n r).snaps = c.snaps := rfl
@[simp] theorem Crew.setUni_crewSlot (c : Crew) (n : Nat) (r : Reg) : (c.setUni n r).crewSlot = c.crewSlot := rfl
@[simp] theorem Crew.setUni_reserved (c : Crew) (n : Nat) (r : Reg) : (c.setUni n r).reserved = c.reserved := rfl
@[simp] theorem Crew.setUni_ended (c : Crew) (n : Nat) (r : Reg) : (c.setUni n r).ended = c.ended := rfl

@[simp] theorem Lane.setPred_status (x : Lane) (p : Nat) (v : Bool) : (x.setPred p v).status = x.status := rfl
@[simp] theorem Lane.setPred_pc (x : Lane) (p : Nat) (v : Bool) : (x.setPred p v).pc = x.pc := rfl
@[simp] theorem Lane.setPred_pos (x : Lane) (p : Nat) (v : Bool) : (x.setPred p v).pos = x.pos := rfl
@[simp] theorem Lane.setPred_wb (x : Lane) (p : Nat) (v : Bool) : (x.setPred p v).wb = x.wb := rfl
@[simp] theorem Lane.setPred_age (x : Lane) (p : Nat) (v : Bool) : (x.setPred p v).age = x.age := rfl
@[simp] theorem Lane.setPred_regs (x : Lane) (p : Nat) (v : Bool) : (x.setPred p v).regs = x.regs := rfl
@[simp] theorem Lane.setPred_temps (x : Lane) (p : Nat) (v : Bool) : (x.setPred p v).temps = x.temps := rfl
@[simp] theorem Lane.setPred_spill (x : Lane) (p : Nat) (v : Bool) : (x.setPred p v).spill = x.spill := rfl
@[simp] theorem Lane.setPred_park (x : Lane) (p : Nat) (v : Bool) : (x.setPred p v).park = x.park := rfl
@[simp] theorem Lane.setPred_woken (x : Lane) (p : Nat) (v : Bool) : (x.setPred p v).woken = x.woken := rfl
@[simp] theorem Lane.setPred_yielded (x : Lane) (p : Nat) (v : Bool) : (x.setPred p v).yielded = x.yielded := rfl
@[simp] theorem Lane.setPred_xfer (x : Lane) (p : Nat) (v : Bool) : (x.setPred p v).xfer = x.xfer := rfl
@[simp] theorem Lane.setPred_key (x : Lane) (p : Nat) (v : Bool) : (x.setPred p v).key = x.key := rfl
@[simp] theorem Lane.setPred_order (x : Lane) (p : Nat) (v : Bool) : (x.setPred p v).order = x.order := rfl
@[simp] theorem Lane.setPred_fibre (x : Lane) (p : Nat) (v : Bool) : (x.setPred p v).fibre = x.fibre := rfl
@[simp] theorem Lane.setPred_emitSeq (x : Lane) (p : Nat) (v : Bool) : (x.setPred p v).emitSeq = x.emitSeq := rfl
@[simp] theorem Lane.setPred_detSeq (x : Lane) (p : Nat) (v : Bool) : (x.setPred p v).detSeq = x.detSeq := rfl

@[simp] theorem Lane.writeV_status (x : Lane) (n : Nat) (r : Reg) : (x.writeV n r).status = x.status := by
  unfold Lane.writeV; split <;> rfl
@[simp] theorem Lane.writeV_pc (x : Lane) (n : Nat) (r : Reg) : (x.writeV n r).pc = x.pc := by
  unfold Lane.writeV; split <;> rfl
@[simp] theorem Lane.writeV_pos (x : Lane) (n : Nat) (r : Reg) : (x.writeV n r).pos = x.pos := by
  unfold Lane.writeV; split <;> rfl
@[simp] theorem Lane.writeV_preds (x : Lane) (n : Nat) (r : Reg) : (x.writeV n r).preds = x.preds := by
  unfold Lane.writeV; split <;> rfl
@[simp] theorem Lane.writeV_wb (x : Lane) (n : Nat) (r : Reg) : (x.writeV n r).wb = x.wb := by
  unfold Lane.writeV; split <;> rfl
@[simp] theorem Lane.writeV_age (x : Lane) (n : Nat) (r : Reg) : (x.writeV n r).age = x.age := by
  unfold Lane.writeV; split <;> rfl
@[simp] theorem Lane.writeV_spill (x : Lane) (n : Nat) (r : Reg) : (x.writeV n r).spill = x.spill := by
  unfold Lane.writeV; split <;> rfl
@[simp] theorem Lane.writeV_park (x : Lane) (n : Nat) (r : Reg) : (x.writeV n r).park = x.park := by
  unfold Lane.writeV; split <;> rfl
@[simp] theorem Lane.writeV_woken (x : Lane) (n : Nat) (r : Reg) : (x.writeV n r).woken = x.woken := by
  unfold Lane.writeV; split <;> rfl
@[simp] theorem Lane.writeV_yielded (x : Lane) (n : Nat) (r : Reg) : (x.writeV n r).yielded = x.yielded := by
  unfold Lane.writeV; split <;> rfl
@[simp] theorem Lane.writeV_xfer (x : Lane) (n : Nat) (r : Reg) : (x.writeV n r).xfer = x.xfer := by
  unfold Lane.writeV; split <;> rfl
@[simp] theorem Lane.writeV_key (x : Lane) (n : Nat) (r : Reg) : (x.writeV n r).key = x.key := by
  unfold Lane.writeV; split <;> rfl
@[simp] theorem Lane.writeV_order (x : Lane) (n : Nat) (r : Reg) : (x.writeV n r).order = x.order := by
  unfold Lane.writeV; split <;> rfl
@[simp] theorem Lane.writeV_fibre (x : Lane) (n : Nat) (r : Reg) : (x.writeV n r).fibre = x.fibre := by
  unfold Lane.writeV; split <;> rfl
@[simp] theorem Lane.writeV_emitSeq (x : Lane) (n : Nat) (r : Reg) : (x.writeV n r).emitSeq = x.emitSeq := by
  unfold Lane.writeV; split <;> rfl
@[simp] theorem Lane.writeV_detSeq (x : Lane) (n : Nat) (r : Reg) : (x.writeV n r).detSeq = x.detSeq := by
  unfold Lane.writeV; split <;> rfl

@[simp] theorem Reg.done_val (v : Word) (t : Tag) : (Reg.done v t).val = v := rfl
@[simp] theorem Reg.done_tag (v : Word) (t : Tag) : (Reg.done v t).tag = t := rfl
@[simp] theorem Reg.done_pend (v : Word) (t : Tag) : (Reg.done v t).pend = false := rfl

/-! ### Tables -/

/-- Changing the entry of a name, then looking it up. -/
@[simp] theorem look_change_self {α : Type} (k : Nat) (f : α → α) (t : List (Nat × α)) : look k (change k f t) = (look k t).map f := by
  induction t with
  | nil => rfl
  | cons e t ih =>
    obtain ⟨j, a⟩ := e
    by_cases h : j = k <;> simp [change, look, h, ih]

/-- Changing one entry leaves every other name's entry alone. -/
theorem look_change_ne {α : Type} {j k : Nat} (h : j ≠ k) (f : α → α) (t : List (Nat × α)) : look j (change k f t) = look j t := by
  induction t with
  | nil => rfl
  | cons e t ih =>
    obtain ⟨i, a⟩ := e
    by_cases hk : i = k
    · subst hk; simp [change, look, Ne.symm h]
    · by_cases hj : i = j
      · subst hj; simp [change, look, hk]
      · simp [change, look, hk, hj, ih]

/-- An entry that is there after changing it is the changed one. -/
theorem State.wave_modWave {s : State} {k : Nat} {w : Wave} (f : Wave → Wave) (h : look k s.waves = some w) :
    (s.modWave k f).wave k = f w := by
  simp [State.wave, State.modWave, h]

theorem State.wave_modWave_ne {s : State} {j k : Nat} (h : j ≠ k) (f : Wave → Wave) : (s.modWave k f).wave j = s.wave j := by
  simp [State.wave, State.modWave, look_change_ne h]

theorem State.crew_modCrew {s : State} {k : Nat} {c : Crew} (f : Crew → Crew) (h : look k s.crews = some c) :
    (s.modCrew k f).crew k = f c := by
  simp [State.crew, State.modCrew, h]

theorem State.crew_modCrew_ne {s : State} {j k : Nat} (h : j ≠ k) (f : Crew → Crew) : (s.modCrew k f).crew j = s.crew j := by
  simp [State.crew, State.modCrew, look_change_ne h]

@[simp] theorem State.modWave_crew (s : State) (k j : Nat) (f : Wave → Wave) : (s.modWave k f).crew j = s.crew j := rfl
@[simp] theorem State.modWave_gang (s : State) (k j : Nat) (f : Wave → Wave) : (s.modWave k f).gang j = s.gang j := rfl
@[simp] theorem State.modWave_launch (s : State) (k j : Nat) (f : Wave → Wave) : (s.modWave k f).launch j = s.launch j := rfl
@[simp] theorem State.modWave_part (s : State) (k j : Nat) (f : Wave → Wave) : (s.modWave k f).part j = s.part j := rfl
@[simp] theorem State.modCrew_wave (s : State) (k j : Nat) (f : Crew → Crew) : (s.modCrew k f).wave j = s.wave j := rfl
@[simp] theorem State.modCrew_gang (s : State) (k j : Nat) (f : Crew → Crew) : (s.modCrew k f).gang j = s.gang j := rfl
@[simp] theorem State.modCrew_launch (s : State) (k j : Nat) (f : Crew → Crew) : (s.modCrew k f).launch j = s.launch j := rfl

/-! ### Lanes of a wave -/

/-- A lane of the set holds what the change makes of it. -/
theorem Wave.lane_mapLanes {w : Wave} {m : Lanes} {f : Nat → Lane → Lane} {l : Nat} (hl : l < w.lanes.length)
    (hm : m.getLsbD l = true) : (w.mapLanes m f).lane l = f l (w.lane l) := by
  simp [Wave.lane, Wave.mapLanes, hl, hm]

/-- A lane outside the set is left alone. -/
theorem Wave.lane_mapLanes_out {w : Wave} {m : Lanes} {f : Nat → Lane → Lane} {l : Nat} (hm : m.getLsbD l = false) :
    (w.mapLanes m f).lane l = w.lane l := by
  simp only [Wave.lane, Wave.mapLanes, List.getElem?_mapIdx, hm]
  cases w.lanes[l]? <;> simp

/-- Reading back a register just written. -/
theorem Lane.readV_writeV {x : Lane} {n : Nat} {r : Reg} (h : if n < 252 then x.wb + n < x.regs.length else n - 252 < x.temps.length) :
    (x.writeV n r).readV n = r := by
  by_cases hn : n < 252
  · simp only [if_pos hn] at h; simp [Lane.readV, Lane.writeV, hn, h]
  · simp only [if_neg hn] at h; simp [Lane.readV, Lane.writeV, hn, h]

/-- Writing one register leaves every other one alone. -/
theorem Lane.readV_writeV_ne {x : Lane} {n k : Nat} {r : Reg} (h : n ≠ k) : (x.writeV n r).readV k = x.readV k := by
  by_cases hn : n < 252 <;> by_cases hk : k < 252
  · simp [Lane.readV, Lane.writeV, hn, hk, h]
  · simp [Lane.readV, Lane.writeV, hn, hk]
  · simp [Lane.readV, Lane.writeV, hn, hk]
  · have : n - 252 ≠ k - 252 := by omega
    simp [Lane.readV, Lane.writeV, hn, hk, this]

/-- Reading back a uniform register just written. -/
theorem Crew.uni_setUni {c : Crew} {n : Nat} {r : Reg} (h : n < c.unis.length) : (c.setUni n r).uni n = r := by
  simp [Crew.uni, Crew.setUni, h]

theorem Crew.uni_setUni_ne {c : Crew} {n k : Nat} {r : Reg} (h : n ≠ k) : (c.setUni n r).uni k = c.uni k := by
  simp [Crew.uni, Crew.setUni, h]

end Sys2Proof.Machine
end

