-- ==== Sys2Proof/Laws/Memory.lean ====
section
/-!
SUPPORT. Memory: read after write, the frame of a write, and the canonical form, which every memory operation keeps.
-/
namespace Sys2Proof.Machine

/-! ### One byte -/

/-- Every listed address is at least `lo`. -/
theorem cellRead_below {a lo : Nat} {m : List Host.Cell} (h : cellsWf lo m = true) (ha : a < lo) : cellRead a m = unwritten := by
  cases m with
  | nil => rfl
  | cons c t =>
    obtain ⟨b, v⟩ := c
    simp only [cellsWf, Bool.and_eq_true, decide_eq_true_eq] at h
    have hb : b ≠ a := by omega
    have hlt : a < b := by omega
    simp [cellRead, hb, hlt]

/-- A byte just written reads back. -/
theorem cellRead_cellWrite_self {a lo : Nat} {v : Byte} {m : List Host.Cell} (h : cellsWf lo m = true) :
    cellRead a (cellWrite a v m) = v := by
  induction m generalizing lo with
  | nil =>
    by_cases hv : v = unwritten <;> simp [cellWrite, cellRead, hv]
  | cons c t ih =>
    obtain ⟨b, w⟩ := c
    simp only [cellsWf, Bool.and_eq_true, decide_eq_true_eq] at h
    by_cases hb : b = a
    · subst hb
      by_cases hv : v = unwritten
      · simp [cellWrite, hv, cellRead_below h.2 (Nat.lt_succ_self b)]
      · simp [cellWrite, cellRead, hv]
    · by_cases hl : a < b
      · by_cases hv : v = unwritten <;> simp [cellWrite, cellRead, hb, hl, hv]
      · simp [cellWrite, cellRead, hb, hl, ih h.2]

/-- A write leaves every other byte alone. -/
theorem cellRead_cellWrite_ne {a c : Nat} {v : Byte} {m : List Host.Cell} {lo : Nat} (h : cellsWf lo m = true) (hc : c ≠ a) :
    cellRead c (cellWrite a v m) = cellRead c m := by
  induction m generalizing lo with
  | nil =>
    have : a ≠ c := fun e => hc e.symm
    by_cases hv : v = unwritten <;> simp [cellWrite, cellRead, hv, this]
  | cons d t ih =>
    obtain ⟨b, w⟩ := d
    simp only [cellsWf, Bool.and_eq_true, decide_eq_true_eq] at h
    have hac : a ≠ c := fun e => hc e.symm
    by_cases hb : b = a
    · subst hb
      by_cases hv : v = unwritten
      · by_cases hlt : c < b
        · simp [cellWrite, cellRead, hv, hac, hlt, cellRead_below h.2 (by omega : c < b + 1)]
        · simp [cellWrite, cellRead, hv, hac, hlt]
      · simp [cellWrite, cellRead, hv, hac]
    · by_cases hl : a < b
      · by_cases hv : v = unwritten
        · simp [cellWrite, hb, hl, hv]
        · by_cases hca : c < a
          · have hbc : b ≠ c := by omega
            have hcb : c < b := by omega
            simp [cellWrite, cellRead, hb, hl, hv, hac, hca, hbc, hcb]
          · simp [cellWrite, cellRead, hb, hl, hv, hac, hca]
      · by_cases hbc : b = c
        · subst hbc; simp [cellWrite, cellRead, hb, hl]
        · simp [cellWrite, cellRead, hb, hl, hbc, ih h.2]

/-- A write keeps the canonical form, from any bound at or below the address on. -/
theorem cellsWf_cellWrite {a lo : Nat} {v : Byte} {m : List Host.Cell} (h : cellsWf lo m = true) (ha : lo ≤ a) :
    cellsWf lo (cellWrite a v m) = true := by
  induction m generalizing lo with
  | nil =>
    by_cases hv : v = unwritten <;> simp [cellWrite, cellsWf, hv, ha]
  | cons c t ih =>
    obtain ⟨b, w⟩ := c
    simp only [cellsWf, Bool.and_eq_true, decide_eq_true_eq, bne_iff_ne] at h
    obtain ⟨⟨hb, hw⟩, ht⟩ := h
    by_cases hba : b = a
    · subst hba
      by_cases hv : v = unwritten
      · have hm : cellsWf lo t = true := by
          cases t with
          | nil => rfl
          | cons e u =>
            obtain ⟨f, x⟩ := e
            simp only [cellsWf, Bool.and_eq_true, decide_eq_true_eq, bne_iff_ne] at ht ⊢
            exact ⟨⟨by omega, ht.1.2⟩, ht.2⟩
        simp [cellWrite, hv, hm]
      · simp [cellWrite, cellsWf, hv, hb, ht]
    · by_cases hl : a < b
      · by_cases hv : v = unwritten
        · simp [cellWrite, hba, hl, hv, cellsWf, hb, hw, ht]
        · have : a + 1 ≤ b := hl
          simp [cellWrite, hba, hl, hv, cellsWf, ha, hw, ht, this]
      · have : b + 1 ≤ a := by omega
        simp [cellWrite, hba, hl, cellsWf, hb, hw, ih ht this]

theorem Memory.wf_nil : Memory.wf [] = true := rfl

/-- `cellWrite` keeps the canonical form. -/
theorem Memory.wf_cellWrite {a : Nat} {v : Byte} {m : List Host.Cell} (h : Memory.wf m = true) : Memory.wf (cellWrite a v m) = true :=
  cellsWf_cellWrite h (Nat.zero_le a)

/-- `cellsPut` keeps the canonical form. -/
theorem Memory.wf_cellsPut {a n v : Nat} {m : List Host.Cell} (h : Memory.wf m = true) : Memory.wf (cellsPut a n v m) = true := by
  induction n generalizing a v m with
  | zero => exact h
  | succ n ih => exact ih (Memory.wf_cellWrite h)

/-- Equal reads everywhere make equal memories: the form is canonical. -/
theorem cells_ext {lo : Nat} {m k : List Host.Cell} (hm : cellsWf lo m = true) (hk : cellsWf lo k = true)
    (h : ∀ a, cellRead a m = cellRead a k) : m = k := by
  induction m generalizing lo k with
  | nil =>
    cases k with
    | nil => rfl
    | cons d t =>
      obtain ⟨b, w⟩ := d
      simp only [cellsWf, Bool.and_eq_true, bne_iff_ne] at hk
      have := h b
      simp [cellRead] at this
      exact absurd this.symm hk.1.2
  | cons c t ih =>
    obtain ⟨a, v⟩ := c
    have hm' := hm
    simp only [cellsWf, Bool.and_eq_true, decide_eq_true_eq, bne_iff_ne] at hm'
    cases k with
    | nil =>
      have := h a
      simp [cellRead] at this
      exact absurd this hm'.1.2
    | cons d u =>
      obtain ⟨b, w⟩ := d
      have hk' := hk
      simp only [cellsWf, Bool.and_eq_true, decide_eq_true_eq, bne_iff_ne] at hk'
      have hab : a = b := by
        rcases Nat.lt_trichotomy a b with hl | he | hl
        · have := h a
          have hne : b ≠ a := by omega
          simp [cellRead, hne, hl] at this
          exact absurd this hm'.1.2
        · exact he
        · have := h b
          have hne : a ≠ b := by omega
          simp [cellRead, hne, hl] at this
          exact absurd this.symm hk'.1.2
      subst hab
      have hvw : v = w := by have := h a; simpa [cellRead] using this
      subst hvw
      have : t = u := by
        refine ih hm'.2 hk'.2 (fun x => ?_)
        by_cases hx : a = x
        · subst hx
          rw [cellRead_below hm'.2 (Nat.lt_succ_self a), cellRead_below hk'.2 (Nat.lt_succ_self a)]
        · by_cases hlt : x < a
          · rw [cellRead_below hm'.2 (by omega), cellRead_below hk'.2 (by omega)]
          · have := h x
            simpa [cellRead, hx, hlt] using this
      rw [this]

/-! ### The memories of the machine -/

/-- The machine's memory is canonical in a state of canonical memories. -/
@[simp] theorem State.memWf_mem {s : State} (h : s.memoriesWf = true) : Memory.wf s.mem = true := by
  simp only [State.memoriesWf, Bool.and_eq_true] at h; exact h.1

/-- Every crew's local memory is. -/
@[simp] theorem State.memWf_crew {s : State} (h : s.memoriesWf = true) : s.crews.all (fun e => Memory.wf e.2.lmem) = true := by
  simp only [State.memoriesWf, Bool.and_eq_true] at h; exact h.2

theorem State.memWf_mk {s : State} (hm : Memory.wf s.mem = true) (hc : s.crews.all (fun e => Memory.wf e.2.lmem) = true) :
    s.memoriesWf = true := by
  simp [State.memoriesWf, hm, hc]

/-- The local memory of a named crew is canonical. -/
theorem State.memWf_look {s : State} (h : s.memoriesWf = true) (c : Nat) : Memory.wf (s.crew c).lmem = true := by
  have hc := State.memWf_crew h
  simp only [State.crew]
  generalize s.crews = l at hc
  induction l with
  | nil => rfl
  | cons e t ih =>
    obtain ⟨j, x⟩ := e
    simp only [List.all_cons, Bool.and_eq_true] at hc
    by_cases hj : j = c
    · simpa [look, hj] using hc.1
    · simpa [look, hj] using ih hc.2

theorem all_change {α : Type} {p : α → Bool} {k : Nat} {f : α → α} {t : List (Nat × α)} (hf : ∀ a, p a = true → p (f a) = true)
    (h : t.all (fun e => p e.2) = true) : (change k f t).all (fun e => p e.2) = true := by
  induction t with
  | nil => rfl
  | cons e t ih =>
    obtain ⟨j, a⟩ := e
    simp only [List.all_cons, Bool.and_eq_true] at h
    by_cases hj : j = k
    · simp only [change, hj, beq_self_eq_true, if_true, List.all_cons, Bool.and_eq_true]
      exact ⟨hf a h.1, h.2⟩
    · simp only [change, beq_iff_eq, hj, if_false, List.all_cons, Bool.and_eq_true]
      exact ⟨h.1, ih h.2⟩

/-- A change of a crew that keeps its local memory canonical keeps the memories canonical. -/
@[simp] theorem State.memWf_modCrew {s : State} {k : Nat} {f : Crew → Crew} (h : s.memoriesWf = true)
    (hf : ∀ c, Memory.wf c.lmem = true → Memory.wf (f c).lmem = true) : (s.modCrew k f).memoriesWf = true :=
  have hm : Memory.wf s.mem = true := State.memWf_mem h
  State.memWf_mk hm (all_change (p := fun c : Crew => Memory.wf c.lmem) hf (State.memWf_crew h))

/-- `writeHome` keeps the memories canonical. -/
@[simp] theorem State.memWf_writeHome {s : State} {x : Home} {b : Byte} (h : s.memoriesWf = true) : (s.writeHome x b).memoriesWf = true := by
  cases x with
  | loc c o => exact State.memWf_modCrew h (fun _ hc => Memory.wf_cellWrite hc)
  | phys a =>
    have hc := State.memWf_crew h
    exact State.memWf_mk (Memory.wf_cellWrite (State.memWf_mem h)) hc

/-- `putNat` keeps the memories canonical. -/
@[simp] theorem State.memWf_putNat {s : State} {hs : List Home} {v : Nat} (h : s.memoriesWf = true) : (s.putNat hs v).memoriesWf = true := by
  induction hs generalizing s v with
  | nil => exact h
  | cons x t ih => exact ih (State.memWf_writeHome h)

/-- `putLmem` keeps the memories canonical. -/
@[simp] theorem State.memWf_putLmem {s : State} {c off n v : Nat} (h : s.memoriesWf = true) : (s.putLmem c off n v).memoriesWf = true :=
  State.memWf_modCrew h (fun _ hc => Memory.wf_cellsPut hc)

/-- `markDirty` touches no memory. -/
@[simp] theorem State.memWf_markDirty {s : State} {p t : Nat} {a : VAddr} (h : s.memoriesWf = true) : (s.markDirty p t a).memoriesWf = true := h

/-- `writeNat?` keeps the memories canonical. -/
theorem State.memWf_writeNat? {s t : State} {p q n v : Nat} {a : VAddr} (h : s.memoriesWf = true) (ht : s.writeNat? p q a n v = some t) :
    t.memoriesWf = true := by
  unfold State.writeNat? at ht
  cases hh : s.homes? p q a n with
  | none => simp [hh] at ht
  | some hs =>
    simp only [hh, Option.map_some, Option.some.injEq] at ht
    subst ht
    split
    · exact State.memWf_markDirty (State.memWf_markDirty (State.memWf_putNat h))
    · exact State.memWf_putNat h

/-! ### Homes -/

/-- A byte written at a home reads back there. -/
theorem State.readHome_writeHome_self {s : State} {x : Home} {b : Byte} (h : s.memoriesWf = true)
    (hc : match x with | .loc c _ => (look c s.crews).isSome = true | .phys _ => True) : (s.writeHome x b).readHome x = b := by
  cases x with
  | phys a => exact cellRead_cellWrite_self (State.memWf_mem h)
  | loc c o =>
    obtain ⟨cr, hcr⟩ := Option.isSome_iff_exists.mp hc
    have hw := State.memWf_look h c
    simp only [State.crew, hcr, Option.getD_some] at hw
    simp only [State.readHome, State.writeHome, State.crew, State.modCrew, look_change_self, hcr, Option.map_some, Option.getD_some]
    exact cellRead_cellWrite_self hw

/-- A byte written at one home leaves every other home alone. -/
theorem State.readHome_writeHome_ne {s : State} {x y : Home} {b : Byte} (h : s.memoriesWf = true) (hne : y ≠ x) :
    (s.writeHome x b).readHome y = s.readHome y := by
  cases x with
  | phys a =>
    cases y with
    | phys c => exact cellRead_cellWrite_ne (State.memWf_mem h) (fun e => hne (by rw [e]))
    | loc c o => rfl
  | loc c o =>
    cases y with
    | phys a => rfl
    | loc d p =>
      by_cases hd : d = c
      · subst hd
        have hop : p ≠ o := fun e => hne (by rw [e])
        simp only [State.readHome, State.writeHome, State.crew, State.modCrew, look_change_self]
        have hw := State.memWf_look h d
        simp only [State.crew] at hw
        cases hl : look d s.crews with
        | none => rfl
        | some cr =>
          simp only [hl, Option.getD_some] at hw
          simp only [Option.map_some, Option.getD_some]
          exact cellRead_cellWrite_ne hw hop
      · simp only [State.readHome, State.writeHome, State.crew, State.modCrew, look_change_ne hd]

end Sys2Proof.Machine
end

