-- ==== Sys2Proof/Laws/Step.lean ====
section
/-!
SUPPORT. What running a meaning can do (R58), said once: a precise fault, parking, a miss, a hold or a stop, or the effect and the
move to the next instruction; and when the shared checks find nothing.
-/
namespace Sys2Proof.Machine

/-! ### Running a meaning -/

theorem runSem_of_cur {m : Sem} {s : State} {c : Cursor} (h : s.cur = some c) : runSem m s = .next (m.step s) := by
  simp [runSem, h]

theorem runSem_of_none {m : Sem} {s : State} (h : s.cur = none) : runSem m s = .next s := by
  simp [runSem, h]

/-- An instruction of a clause runs its meaning. -/
theorem exec_of_sem {i : Instr} {m : Sem} (s : State) (h : i.sem = some m) : exec i s = runSem m s := by
  cases i <;> dsimp only [Instr.sem] at h <;> cases h <;> rfl

/-- Its check step finds nothing and it need not wait: the effect, and the move to the next instruction. -/
theorem Sem.step_go {m : Sem} {s : State} (hf : m.fault s = none) (hw : m.wait s = .go) : m.step s = (m.eff s).advance m.size := by
  simp [Sem.step, hf, hw]

theorem Sem.step_fault {m : Sem} {s : State} {p : Precise} (hf : m.fault s = some p) :
    m.step s = s.meetFault (s.cur.getD Cursor.nil) p := by
  simp [Sem.step, hf]

theorem Sem.step_park {m : Sem} {s : State} {ls : Lanes} {r : ParkReason} (hf : m.fault s = none) (hw : m.wait s = .park ls r) :
    m.step s = (m.eff ((s.askFor r).parkLanes ls r)).advance m.size := by
  simp [Sem.step, hf, hw]

/-- Only a camera's MISS and a barrier object ask for a page when fibres park for it (R150, R244). -/
theorem State.askFor_other (s : State) {r : ParkReason} (h : ∀ a fs, r ≠ .missWord a fs ∧ r ≠ .object a) : s.askFor r = s := by
  cases r <;> first | rfl | exact absurd rfl (h _ _).1 | exact absurd rfl (h _ []).2

/-- A page that has been asked for is not asked for again. -/
theorem State.askWord_asked {s : State} {a : VAddr} (h : s.pageAsked s.ctx.launch.part s.ctx.launch.tenant a = true) : s.askWord a = s := by
  simp [State.askWord, h]

/-- Fibres whose instruction is not executed at this issue opportunity stand before it, not parked, and the issue is over. -/
theorem State.giveBack_eq {s : State} {c : Cursor} (h : s.cur = some c) :
    s.giveBack = { (s.modWave c.wave (fun w => w.mapLanes c.lanes (fun _ x =>
      { x with park := none, pos := c.idx + 1, pc := c.pc, woken := false, yielded := c.yielded }))) with cur := none } := by
  simp only [State.giveBack, State.standLanes, h]

/-- An instruction that takes no transactions before its clause holds. -/
@[simp] theorem State.takeEntries_zero (s : State) : s.takeEntries 0 = s := rfl

/-- Taking transactions changes the cursor alone. -/
theorem State.takeEntries_eq (s : State) (n : Nat) :
    ∃ c, s.takeEntries n = { s with cur := c } ∧ (s.cur = none → c = none) := by
  unfold State.takeEntries
  split
  · exact ⟨s.cur, rfl, id⟩
  · exact ⟨_, rfl, fun h => by simp [h]⟩

/-- Everything one instruction of a clause can do. -/
theorem Sem.step_cases (m : Sem) (s : State) :
    (∃ p, m.fault s = some p ∧ m.step s = s.meetFault (s.cur.getD Cursor.nil) p) ∨
    (m.fault s = none ∧
      ((m.wait s = .go ∧ m.step s = (m.eff s).advance m.size) ∨
       (∃ ls r, m.wait s = .park ls r ∧ m.step s = (m.eff ((s.askFor r).parkLanes ls r)).advance m.size) ∨
       (∃ ls a, m.wait s = .miss ls a ∧ m.step s = s.meetMiss ls a) ∨
       (∃ t, m.wait s = .hold t ∧ m.step s = (t.takeEntries (m.entries s)).holdClause) ∨
       (∃ t, m.wait s = .later t ∧ m.step s = t.giveBack) ∨
       (∃ p, m.wait s = .stop p ∧ m.step s = s.takeFault (s.cur.getD Cursor.nil) p 0#32))) := by
  cases hf : m.fault s with
  | some p => exact .inl ⟨p, rfl, Sem.step_fault hf⟩
  | none =>
    refine .inr ⟨rfl, ?_⟩
    cases hw : m.wait s with
    | go => exact .inl ⟨rfl, Sem.step_go hf hw⟩
    | park ls r => exact .inr (.inl ⟨ls, r, rfl, Sem.step_park hf hw⟩)
    | miss ls a => exact .inr (.inr (.inl ⟨ls, a, rfl, by simp [Sem.step, hf, hw]⟩))
    | hold t => exact .inr (.inr (.inr (.inl ⟨t, rfl, by simp [Sem.step, hf, hw]⟩)))
    | later t => exact .inr (.inr (.inr (.inr (.inl ⟨t, rfl, by simp [Sem.step, hf, hw]⟩))))
    | stop p => exact .inr (.inr (.inr (.inr (.inr ⟨p, rfl, by simp [Sem.step, hf, hw]⟩))))

/-- An instruction of a clause whose check step finds nothing and that need not wait. -/
theorem exec_go {i : Instr} {m : Sem} {s : State} {c : Cursor} (hi : i.sem = some m) (hc : s.cur = some c) (hf : m.fault s = none)
    (hw : m.wait s = .go) : exec i s = .next ((m.eff s).advance m.size) := by
  rw [exec_of_sem s hi, runSem_of_cur hc, Sem.step_go hf hw]

/-- The same for a meaning that neither parks nor holds. -/
theorem exec_simple {i : Instr} {n : Nat} {fl : State → Flow} {st ck : State → Option Precise} {eff : State → State} {s : State} {c : Cursor}
    (hi : i.sem = some (Sem.simple n fl st ck eff)) (hc : s.cur = some c) (hs : st s = none) (hk : ck s = none) :
    exec i s = .next ((eff s).advance n) :=
  exec_go hi hc (by simp [Sem.fault, Sem.simple, hs, hk, firstFault]) rfl

/-! ### When checks find nothing -/

@[simp] theorem firstFault_nil : firstFault [] = none := rfl
@[simp] theorem firstFault_none (t : List (Option Precise)) : firstFault (none :: t) = firstFault t := rfl
@[simp] theorem firstFault_some (p : Precise) (t : List (Option Precise)) : firstFault (some p :: t) = some p := rfl

theorem firstFault_eq_none {t : List (Option Precise)} (h : ∀ o ∈ t, o = none) : firstFault t = none := by
  induction t with
  | nil => rfl
  | cons a t ih =>
    rw [h a (List.mem_cons_self ..)]
    exact ih (fun o ho => h o (List.mem_cons_of_mem _ ho))

theorem laneList_eq_nil {m : Lanes} (h : ∀ l, l < 32 → m.getLsbD l = false) : laneList m = [] := by
  simp only [laneList, List.filter_eq_nil_iff, List.mem_range]
  intro l hl; simp [h l hl]

theorem mem_laneList {m : Lanes} {l : Nat} : l ∈ laneList m ↔ l < 32 ∧ m.getLsbD l = true := by
  simp [laneList, List.mem_filter]

/-- The lowest lane of a set that is not empty is one of its lanes. -/
theorem lowestLane_spec {m : Lanes} (h : m ≠ 0#32) : lowestLane m < 32 ∧ m.getLsbD (lowestLane m) = true := by
  rw [← mem_laneList]
  cases hm : laneList m with
  | nil =>
    exfalso
    apply h
    apply BitVec.eq_of_getLsbD_eq
    intro l hl
    have : l ∉ laneList m := by rw [hm]; exact List.not_mem_nil
    rw [mem_laneList] at this
    simp only [hl, true_and, Bool.not_eq_true] at this
    simp [this]
  | cons x t => simp [lowestLane, hm]

theorem laneSet_none {p : Nat → Bool} (h : ∀ l, l < 32 → p l = false) : laneSet p = 0#32 := by
  have : ∀ (t : List Nat) (a : Nat), (∀ l ∈ t, p l = false) → t.foldl (fun a l => if p l then a + 2 ^ l else a) a = a := by
    intro t
    induction t with
    | nil => intro a _; rfl
    | cons x t ih =>
      intro a hx
      simp only [List.foldl_cons, hx x (List.mem_cons_self ..), Bool.false_eq_true, if_false]
      exact ih a (fun l hl => hx l (List.mem_cons_of_mem _ hl))
  rw [laneSet, this _ _ (fun l hl => h l (List.mem_range.mp hl))]

/-- No active lane meets the condition. -/
theorem laneFault_none {cls : FaultClass} {x : Ctx} {act : Lanes} {f : Nat → Lane → Option (Dword × Dword)}
    (h : ∀ l, l < 32 → act.getLsbD l = true → f l (x.wave.lane l) = none) : laneFault cls x act f = none := by
  have hz : laneSet (fun l => act.getLsbD l && (f l (x.wave.lane l)).isSome) = 0#32 := by
    refine laneSet_none (fun l hl => ?_)
    cases ha : act.getLsbD l with
    | false => rfl
    | true => simp [h l hl ha]
  simp [laneFault, hz, laneList_eq_nil]

theorem roleFault_none {x : Ctx} {roles : List Nat} {op sub : Nat} (h : x.crew.role ∈ roles) : roleFault x roles op sub false = none := by
  simp [roleFault, h]

theorem windowFault_none {x : Ctx} {os : List Opd}
    (h : ∀ l, l < 32 → x.cur.lanes.getLsbD l = true → ∀ n, Opd.v n ∈ os → n < 252 → (x.wave.lane l).wb + n < x.crew.nreg) :
    windowFault x os = none := by
  refine laneFault_none (fun l hl ha => ?_)
  rw [if_neg]
  intro hany
  obtain ⟨o, ho, hp⟩ := List.any_eq_true.mp hany
  cases o with
  | v n =>
    simp only [Bool.and_eq_true, decide_eq_true_eq] at hp
    have := h l hl ha n ho hp.1
    omega
  | u n => simp at hp

theorem inflightFault_none {x : Ctx} {act : Lanes} {os : List Opd}
    (h : ∀ l, l < 32 → act.getLsbD l = true → ∀ o ∈ os, o.pending x.crew (x.wave.lane l) = false) : inflightFault x act os = none := by
  unfold inflightFault inflightBy
  refine laneFault_none (fun l hl ha => ?_)
  have : os.find? (fun o => o.pending x.crew (x.wave.lane l)) = none := by
    rw [List.find?_eq_none]; intro o ho; simp [h l hl ha o ho]
  simp [this]

theorem formatFault_none {x : Ctx} {act : Lanes} {f : Lane → Option (Tag × Option Tag)}
    (h : ∀ l, l < 32 → act.getLsbD l = true → f (x.wave.lane l) = none) : formatFault x act f = none :=
  laneFault_none (fun l hl ha => by simp [h l hl ha])

theorem State.HasRole.none {s : State} {roles : List Nat} {op sub : Nat} (h : s.HasRole roles) :
    roleFault s.ctx roles op sub false = Option.none := roleFault_none h

theorem State.InWindow.none {s : State} {os : List Opd} (h : s.InWindow os) : windowFault s.ctx os = Option.none :=
  windowFault_none (fun l hl ha n hn hlt => by
    have := h l hl ha (.v n) hn
    simp only [Opd.inWindow, Bool.or_eq_true, decide_eq_true_eq] at this
    omega)

theorem State.Landed.none {s : State} {g : Arg} {os : List Opd} (h : s.Landed g os) :
    inflightFault s.ctx (s.ctx.act g.m) os = Option.none := inflightFault_none h

theorem State.OnLanes.format {s : State} {act : Lanes} {f : Lane → Option (Tag × Option Tag)} (h : s.OnLanes act (fun ln => f ln = Option.none)) :
    formatFault s.ctx act f = Option.none := formatFault_none h

/-- Role and window, as the static checks put them together. -/
theorem State.static_none {s : State} {roles : List Nat} {op sub : Nat} {os : List Opd} (hr : s.HasRole roles) (hw : s.InWindow os) :
    firstFault [roleFault s.ctx roles op sub false, windowFault s.ctx os] = Option.none := by
  rw [hr.none, hw.none]; rfl

/-- Pending registers and one more check. -/
theorem State.check_none {s : State} {g : Arg} {os : List Opd} {p : Option Precise} (hl : s.Landed g os) (hp : p = Option.none) :
    firstFault [inflightFault s.ctx (s.ctx.act g.m) os, p] = Option.none := by
  rw [hl.none, hp]; rfl

theorem State.Issuing.cur {s : State} (h : s.Issuing) : ∃ c, s.cur = some c := Option.isSome_iff_exists.mp h

/-! ### The move to the next instruction (R48) -/

/-- Between two instructions of a clause only the cursor moves. -/
theorem State.advance_inner {s : State} {c : Cursor} {n : Nat} (hc : s.cur = some c) (hl : c.lanes ≠ 0#32) (hn : c.idx + 1 < c.count) :
    s.advance n = { s with cur := some { c with
      idx := c.idx + 1, addr := c.addr + BitVec.ofNat 32 n, served := 0#32, txns := 0, ebbed := false } } := by
  have : ¬ c.count ≤ c.idx + 1 := by omega
  simp [State.advance, hc, hl, this]

/-- After the last instruction the fibres stand at the next header, and the clause is over. -/
theorem State.advance_last {s : State} {c : Cursor} {n : Nat} (hc : s.cur = some c) (hl : c.lanes ≠ 0#32) (hn : c.count ≤ c.idx + 1) :
    s.advance n = (s.modWave c.wave (fun w => w.mapLanes c.lanes (fun _ x =>
      { x with pc := c.addr + BitVec.ofNat 32 n, pos := 0, xfer := none }))).endClause c := by
  simp [State.advance, hc, hl, hn]

/-- A clause in which no YIELD was executed is over: nothing else changes. -/
theorem State.endClause_plain (s : State) {c : Cursor} (h : c.yielded = false) : s.endClause c = { s with cur := none } := by
  simp [State.endClause, h]

@[simp] theorem State.endClause_mem (s : State) (c : Cursor) : (s.endClause c).mem = s.mem := by
  unfold State.endClause; split <;> rfl

@[simp] theorem State.advance_mem (s : State) (n : Nat) : (s.advance n).mem = s.mem := by
  unfold State.advance; split; · rfl
  dsimp only; split; · simp
  split <;> simp

@[simp] theorem State.endClause_crews (s : State) (c : Cursor) : (s.endClause c).crews = s.crews := by
  unfold State.endClause; split <;> rfl

@[simp] theorem State.advance_crews (s : State) (n : Nat) : (s.advance n).crews = s.crews := by
  unfold State.advance; split; · rfl
  dsimp only; split; · simp
  split <;> simp

@[simp] theorem State.endClause_gangs (s : State) (c : Cursor) : (s.endClause c).gangs = s.gangs := by
  unfold State.endClause; split <;> rfl

@[simp] theorem State.advance_gangs (s : State) (n : Nat) : (s.advance n).gangs = s.gangs := by
  unfold State.advance; split; · rfl
  dsimp only; split; · simp
  split <;> simp

@[simp] theorem State.endClause_parts (s : State) (c : Cursor) : (s.endClause c).parts = s.parts := by
  unfold State.endClause; split <;> rfl

@[simp] theorem State.advance_parts (s : State) (n : Nat) : (s.advance n).parts = s.parts := by
  unfold State.advance; split; · rfl
  dsimp only; split; · simp
  split <;> simp

@[simp] theorem State.endClause_accesses (s : State) (c : Cursor) : (s.endClause c).accesses = s.accesses := by
  unfold State.endClause; split <;> rfl

@[simp] theorem State.advance_accesses (s : State) (n : Nat) : (s.advance n).accesses = s.accesses := by
  unfold State.advance; split; · rfl
  dsimp only; split; · simp
  split <;> simp

@[simp] theorem State.endClause_flights (s : State) (c : Cursor) : (s.endClause c).flights = s.flights := by
  unfold State.endClause; split <;> rfl

@[simp] theorem State.advance_flights (s : State) (n : Nat) : (s.advance n).flights = s.flights := by
  unfold State.advance; split; · rfl
  dsimp only; split; · simp
  split <;> simp

end Sys2Proof.Machine
end

