-- ==== Sys2Proof/Laws/Canonical.lean ====
section
/-!
SUPPORT. Every operation on the state keeps three forms of it, said once per operation for all three: the memories stay canonical
(log 4), the part keeps its cores and partitions, every wave its lanes and flags. A meaning keeps them if its effect and what it holds
its clause with do: `Sem.Keeps`.
-/
namespace Sys2Proof.Machine
set_option Elab.async false  -- one proof at a time: the file then checks in less memory

/-! ### The forms, and rules for proofs about them -/

/-- The three forms of the state that every step keeps. -/
inductive Facet where
  | memory | part | waves

/-- The form holds of a state. -/
def State.sound (φ : Facet) (s : State) : Bool :=
  match φ with
  | .memory => s.memoriesWf
  | .part => s.laidOut
  | .waves => s.wavesLaidOut

variable {φ : Facet}

/-- A choice between two states. -/
theorem State.sound_ite {c : Prop} [Decidable c] {a b : State} (ha : a.sound φ = true) (hb : b.sound φ = true) :
    (if c then a else b).sound φ = true := by split <;> assumption

/-- The same, as an equation. -/
@[simp] theorem State.sound_if {c : Prop} [Decidable c] {a b : State} :
    (if c then a else b).sound φ = (if c then a.sound φ else b.sound φ) := by split <;> rfl

/-- A fold of an operation over a list. -/
@[simp] theorem sound_foldl {α : Type} {f : State → α → State} (hf : ∀ t x, t.sound φ = true → (f t x).sound φ = true) (l : List α) {s :
    State}
    (h : s.sound φ = true) : (l.foldl f s).sound φ = true := by
  induction l generalizing s with
  | nil => exact h
  | cons a t ih => exact ih (hf s a h)

/-- From one state to another, part by part. -/
theorem State.sound_of {s t : State} (h : s.sound φ = true)
    (hm : Memory.wf s.mem = true → Memory.wf t.mem = true)
    (hc : s.crews.all (fun e => Memory.wf e.2.lmem) = true → t.crews.all (fun e => Memory.wf e.2.lmem) = true)
    (hv : s.waves.all (fun e => e.2.laidOut) = true → t.waves.all (fun e => e.2.laidOut) = true)
    (hk : t.cores.length = s.cores.length) (hp : t.parts.length = s.parts.length) : t.sound φ = true := by
  cases φ with
  | memory =>
    simp only [State.sound, State.memoriesWf, Bool.and_eq_true] at h ⊢
    exact ⟨hm h.1, hc h.2⟩
  | part =>
    simp only [State.sound, State.laidOut, hk, hp] at h ⊢
    exact h
  | waves => exact hv h

/-- Another state with the same memory, crews, waves, cores and partitions. -/
theorem State.sound_same {s t : State} (h : s.sound φ = true) (hm : t.mem = s.mem) (hc : t.crews = s.crews) (hv : t.waves = s.waves := by
    rfl)
    (hk : t.cores = s.cores := by rfl) (hp : t.parts = s.parts := by rfl) : t.sound φ = true :=
  State.sound_of h (by rw [hm]; exact id) (by rw [hc]; exact id) (by rw [hv]; exact id) (by rw [hk]) (by rw [hp])

/-- A fold that carries more than the state. -/
theorem sound_foldlSnd {α β : Type} {f : β × State → α → β × State}
    (hf : ∀ r x, r.2.sound φ = true → (f r x).2.sound φ = true) (l : List α) {r : β × State} (h : r.2.sound φ = true) :
    (l.foldl f r).2.sound φ = true := by
  induction l generalizing r with
  | nil => exact h
  | cons a t ih => exact ih (hf r a h)

/-- An operation that may not happen. -/
@[simp] theorem sound_getD {o : Option State} {s : State} (h : ∀ t, o = some t → t.sound φ = true) (hs : s.sound φ = true) :
    (o.getD s).sound φ = true := by
  cases o with
  | none => exact hs
  | some t => exact h t rfl

/-- The state of a pair under another name. -/
theorem sound_snd {α : Type} {p : α × State} {a : α} {t : State} (e : p = (a, t)) (h : p.2.sound φ = true) : t.sound φ = true := by
  rw [e] at h; exact h

/-- A change of crews that keeps each one's local memory canonical. -/
theorem all_lmem_map {l : List (Nat × Crew)} {f : Nat × Crew → Nat × Crew} (hf : ∀ e, Memory.wf e.2.lmem = true → Memory.wf (f e).2.lmem =
    true)
   (h : l.all (fun e => Memory.wf e.2.lmem) = true) : (l.map f).all (fun e => Memory.wf e.2.lmem) = true := by
  rw [List.all_eq_true] at h ⊢
  intro e he
  obtain ⟨x, hx, rfl⟩ := List.mem_map.mp he
  exact hf x (h x hx)

/-- Some of a list of which all have a property. -/
theorem all_filter {α : Type} {l : List (Nat × α)} {p : Nat × α → Bool} {q : α → Bool}
   (h : l.all (fun e => q e.2) = true) : (l.filter p).all (fun e => q e.2) = true := by
  rw [List.all_eq_true] at h ⊢
  intro e he
  exact h e (List.mem_filter.mp he).1

/-- A change of waves that keeps each one laid out. -/
theorem all_laidOut_map {l : List (Nat × Wave)} {f : Nat × Wave → Nat × Wave} (hf : ∀ e, e.2.laidOut = true → (f e).2.laidOut = true)
   (h : l.all (fun e => e.2.laidOut) = true) : (l.map f).all (fun e => e.2.laidOut) = true := by
  rw [List.all_eq_true] at h ⊢
  intro e he
  obtain ⟨x, hx, rfl⟩ := List.mem_map.mp he
  exact hf x (h x hx)

@[simp] theorem Crew.setUni_lmem' (c : Crew) (n : Nat) (r : Reg) : (c.setUni n r).lmem = c.lmem := by unfold Crew.setUni; (try split) <;>
    rfl
@[simp] theorem Crew.stopped_lmem' (c : Crew) : c.stopped.lmem = c.lmem := rfl

@[simp] theorem Crew.seal_lmem' (c : Crew) (owed : List Charge) (r : List Nat) : (c.seal owed r).lmem = c.lmem := rfl

@[simp] theorem Wave.laidOut_rec (w : Wave) (crew idx slot : Nat) (tiles : List Tile) (hyps : List Hyper) (buns : List (List Int))
    (fences : List Fence) (hold : Option Cursor) (passTo : Option (List Nat)) (cyclesH : Word) (ended : Bool) :
    (Wave.mk crew idx slot w.lanes w.flags tiles hyps buns fences hold passTo cyclesH ended).laidOut = w.laidOut := rfl

/-- As many lanes, and the same flags. -/
theorem Wave.laidOut_lanes {w v : Wave} (hl : v.lanes.length = w.lanes.length) (hf : v.flags = w.flags) : v.laidOut = w.laidOut := by
  simp [Wave.laidOut, hl, hf]

@[simp] theorem Wave.laidOut_mapLanes (w : Wave) (m : Lanes) (f : Nat → Lane → Lane) : (w.mapLanes m f).laidOut = w.laidOut :=
  Wave.laidOut_lanes (by simp [Wave.mapLanes]) rfl

@[simp] theorem Wave.laidOut_setTile (w : Wave) (n : Nat) (f : Tile → Tile) : (w.setTile n f).laidOut = w.laidOut := rfl

@[simp] theorem Wave.laidOut_setHyp (w : Wave) (n : Nat) (h : Hyper) : (w.setHyp n h).laidOut = w.laidOut := rfl

@[simp] theorem Wave.laidOut_setBun (w : Wave) (n : Nat) (b : List Int) : (w.setBun n b).laidOut = w.laidOut := rfl

@[simp] theorem Wave.laidOut_map (w : Wave) (f : Lane → Lane) : ({ w with lanes := w.lanes.map f } : Wave).laidOut = w.laidOut :=
  Wave.laidOut_lanes (by simp) rfl

@[simp] theorem Wave.laidOut_mapIdx (w : Wave) (f : Nat → Lane → Lane) : ({ w with lanes := w.lanes.mapIdx f } : Wave).laidOut = w.laidOut
    :=
  Wave.laidOut_lanes (by simp) rfl

@[simp] theorem Wave.laidOut_modify (w : Wave) (n : Nat) (f : Lane → Lane) : ({ w with lanes := w.lanes.modify n f } : Wave).laidOut =
    w.laidOut :=
  Wave.laidOut_lanes (by simp) rfl

@[simp] theorem ageLanes_laidOut (w : Wave) (a b : Lanes) : (ageLanes w a b).laidOut = w.laidOut := Wave.laidOut_mapLanes ..

/-- A change of one flag that stays within 6 bits. -/
theorem all_modify_le {l : List Nat} {n : Nat} {f : Nat → Nat} (hf : ∀ x, x ≤ 63 → f x ≤ 63) (h : l.all (fun n => decide (n ≤ 63)) = true) :
    (l.modify n f).all (fun n => decide (n ≤ 63)) = true := by
  induction l generalizing n with
  | nil => simp
  | cons a t ih =>
    simp only [List.all_cons, Bool.and_eq_true, decide_eq_true_eq] at h
    cases n with
    | zero => simp [hf a h.1, h.2]
    | succ n => simp [h.1, ih h.2]

/-- The same, of a wave. -/
theorem Wave.laidOut_flags {w : Wave} {n : Nat} {f : Nat → Nat} (hf : ∀ x, x ≤ 63 → f x ≤ 63) (h : w.laidOut = true) :
    ({ w with flags := w.flags.modify n f } : Wave).laidOut = true := by
  simp only [Wave.laidOut, Bool.and_eq_true] at h ⊢
  refine ⟨⟨h.1.1, ?_⟩, all_modify_le hf h.2⟩
  rw [List.length_modify]; exact h.1.2

@[simp] theorem Wave.laidOut_flagUp {w : Wave} {n : Nat} (h : w.laidOut = true) : (w.flagUp n).laidOut = true :=
  Wave.laidOut_flags (fun x _ => by omega) h

@[simp] theorem Wave.laidOut_flagDown {w : Wave} {n : Nat} (h : w.laidOut = true) : (w.flagDown n).laidOut = true :=
  Wave.laidOut_flags (fun x hx => by omega) h

@[simp] theorem Wave.laidOut_fresh (a b c d e f g : Nat) : (Wave.fresh a b c d e f g).laidOut = true := by
  rfl

@[simp] theorem Wave.laidOut_ite {c : Prop} [Decidable c] {a b : Wave} : (if c then a else b).laidOut = (if c then a.laidOut else
    b.laidOut) := by
  split <;> rfl

/-- A change of a wave that keeps it laid out. -/
theorem State.sound_modWave (s : State) (k : Nat) (f : Wave → Wave) (h : s.sound φ = true)
    (hf : ∀ w : Wave, w.laidOut = true → (f w).laidOut = true := by simp +contextual) : (s.modWave k f).sound φ = true :=
  State.sound_of h id id (all_change (p := Wave.laidOut) hf) rfl rfl

/-- The same, for simp. -/
@[simp] theorem State.sound_modWave_of {s : State} {k : Nat} {f : Wave → Wave} (h : s.sound φ = true)
    (hf : ∀ w : Wave, w.laidOut = true → (f w).laidOut = true) : (s.modWave k f).sound φ = true := State.sound_modWave s k f h hf

@[simp] theorem State.sound_modPart (s : State) (k : Nat) (f : Partition → Partition) (h : s.sound φ = true) : (s.modPart k f).sound φ =
    true :=
  State.sound_of h id id id rfl (List.length_modify ..)

@[simp] theorem State.sound_modCore (s : State) (k : Nat) (f : Core → Core) (h : s.sound φ = true) : (s.modCore k f).sound φ = true :=
  State.sound_of h id id id (List.length_modify ..) rfl

@[simp] theorem State.sound_modCrew {s : State} {k : Nat} {f : Crew → Crew} (h : s.sound φ = true)
    (hf : ∀ c, Memory.wf c.lmem = true → Memory.wf (f c).lmem = true) : (s.modCrew k f).sound φ = true :=
  State.sound_of h id (all_change (p := fun c : Crew => Memory.wf c.lmem) hf) id rfl rfl

@[simp] theorem State.sound_writeHome {s : State} {x : Home} {b : Byte} (h : s.sound φ = true) : (s.writeHome x b).sound φ = true := by
  cases x with
  | loc c o => exact State.sound_modCrew h (fun _ hc => Memory.wf_cellWrite hc)
  | phys a => exact State.sound_of h Memory.wf_cellWrite id id rfl rfl

@[simp] theorem State.sound_putNat {s : State} {hs : List Home} {v : Nat} (h : s.sound φ = true) : (s.putNat hs v).sound φ = true := by
  induction hs generalizing s v with
  | nil => exact h
  | cons x t ih => exact ih (State.sound_writeHome h)

@[simp] theorem State.sound_putLmem {s : State} {c off n v : Nat} (h : s.sound φ = true) : (s.putLmem c off n v).sound φ = true :=
  State.sound_modCrew h (fun _ hc => Memory.wf_cellsPut hc)

/-- A write that happened. -/
theorem State.sound_writeNat? {s t : State} {p q n v : Nat} {a : VAddr} (h : s.sound φ = true) (ht : s.writeNat? p q a n v = some t) :
    t.sound φ = true := by
  unfold State.writeNat? at ht
  cases hh : s.homes? p q a n with
  | none => simp [hh] at ht
  | some hs =>
    simp only [hh, Option.map_some, Option.some.injEq] at ht
    subst ht
    split
    · exact State.sound_modPart _ _ _ (State.sound_modPart _ _ _ (State.sound_putNat h))
    · exact State.sound_putNat h

/-- The same, for simp. -/

@[simp] theorem sound_writeNat_some {s : State} (hw : s.sound φ = true) (p q : Nat) (a : VAddr) (n v : Nat) (t : State)
   (ht : s.writeNat? p q a n v = some t) : t.sound φ = true := State.sound_writeNat? hw ht

@[simp] theorem State.sound_markDirty {s : State} {p t : Nat} {a : VAddr} (h : s.sound φ = true) : (s.markDirty p t a).sound φ = true :=
  State.sound_modPart _ _ _ h

/-- An update of any fields but memory, crews, waves, cores and partitions. -/

@[simp] theorem State.sound_rec (s : State) (up : Bool) (halted : Bool) (keysErased : Bool) (leaf : Nat) (attested : List (Nat × BitVec
    256)) (mgmt : List Report) (retiredUnits : List UnitId) (portsDown : List Nat) (portPart : List (Nat × Nat)) (launches : List (Nat ×
    Launch)) (gangs : List (Nat × Gang)) (nodes : List (Nat × Node)) (flights : List (Nat × Flight)) (accesses : List (Nat × Access))
    (copies : List (Nat × Copy)) (smvs : List (Nat × Smv)) (cmds : List (Nat × MatCmd)) (views : List (Nat × View)) (wreqs : List (Nat ×
    WRequest)) (lreqs : List (Nat × LaunchReq)) (tfaults : List (Nat × TFault)) (deferred : List Deferred) (barObjs : List Home) (peerOut :
    List PeerOut) (pairTurn : List (Nat × Nat)) (turns : List (Engine × Nat)) (queueSeq : List FaultQueue) (waitingRecs : List
    WaitingRec) (cur : Option Cursor) (agenda
    : List Instr) (nextCore : Nat) (nextUid : Nat) (freeCtr : Nat) :
    (State.mk up halted keysErased leaf attested mgmt retiredUnits portsDown portPart s.cores s.parts s.mem launches gangs s.crews s.waves
        nodes flights accesses copies smvs cmds views wreqs lreqs tfaults deferred barObjs peerOut pairTurn turns queueSeq waitingRecs
        cur agenda
        nextCore nextUid freeCtr).sound φ = s.sound φ := by
  cases φ <;> rfl

/-- The same, to use backwards. -/
theorem State.sound_eta {s : State} {up : Bool} {halted : Bool} {keysErased : Bool} {leaf : Nat} {attested : List (Nat × BitVec 256)} {mgmt
    : List Report} {retiredUnits : List UnitId} {portsDown : List Nat} {portPart : List (Nat × Nat)} {launches : List (Nat × Launch)}
    {gangs : List (Nat × Gang)} {nodes : List (Nat × Node)} {flights : List (Nat × Flight)} {accesses : List (Nat × Access)} {copies : List
    (Nat × Copy)} {smvs : List (Nat × Smv)} {cmds : List (Nat × MatCmd)} {views : List (Nat × View)} {wreqs : List (Nat × WRequest)} {lreqs
    : List (Nat × LaunchReq)} {tfaults : List (Nat × TFault)} {deferred : List Deferred} {barObjs : List Home} {peerOut : List PeerOut}
    {pairTurn : List (Nat × Nat)} {turns : List (Engine × Nat)} {queueSeq : List FaultQueue} {waitingRecs : List WaitingRec} {cur :
    Option Cursor} {agenda : List Instr}
    {nextCore : Nat} {nextUid : Nat} {freeCtr : Nat}
    (h : s.sound φ = true) : (State.mk up halted keysErased leaf attested mgmt retiredUnits portsDown portPart s.cores s.parts s.mem
        launches gangs s.crews s.waves nodes flights accesses copies smvs cmds views wreqs lreqs tfaults deferred barObjs peerOut
        pairTurn turns
        queueSeq waitingRecs cur agenda nextCore nextUid freeCtr).sound φ = true := by
  rw [State.sound_rec]; exact h

/-- An update of the crews too. -/
theorem State.sound_eta2 {s : State} {crews : List (Nat × Crew)} {up : Bool} {halted : Bool} {keysErased : Bool} {leaf : Nat} {attested :
    List (Nat × BitVec 256)} {mgmt : List Report} {retiredUnits : List UnitId} {portsDown : List Nat} {portPart : List (Nat × Nat)}
    {launches : List (Nat × Launch)} {gangs : List (Nat × Gang)} {nodes : List (Nat × Node)} {flights : List (Nat × Flight)} {accesses :
    List (Nat × Access)} {copies : List (Nat × Copy)} {smvs : List (Nat × Smv)} {cmds : List (Nat × MatCmd)} {views : List (Nat × View)}
    {wreqs : List (Nat × WRequest)} {lreqs : List (Nat × LaunchReq)} {tfaults : List (Nat × TFault)} {deferred : List Deferred} {barObjs :
    List Home} {peerOut : List PeerOut} {pairTurn : List (Nat × Nat)} {turns : List (Engine × Nat)} {queueSeq : List FaultQueue}
    {waitingRecs : List WaitingRec} {cur :
    Option Cursor} {agenda : List Instr} {nextCore : Nat} {nextUid : Nat} {freeCtr : Nat}
    (h : s.sound φ = true) (hc : s.crews.all (fun e => Memory.wf e.2.lmem) = true → crews.all (fun e => Memory.wf e.2.lmem) = true) :
        (State.mk up halted keysErased leaf attested mgmt retiredUnits portsDown portPart s.cores s.parts s.mem launches gangs crews
        s.waves nodes flights accesses copies smvs cmds views wreqs lreqs tfaults deferred barObjs peerOut pairTurn turns queueSeq waitingRecs
        cur agenda nextCore nextUid freeCtr).sound φ = true :=
  State.sound_of (s := s) h id hc id rfl rfl

/-- An update of crews and waves too. -/
theorem State.sound_eta3 {s : State} {crews : List (Nat × Crew)} {waves : List (Nat × Wave)} {up : Bool} {halted : Bool} {keysErased :
    Bool} {leaf : Nat} {attested : List (Nat × BitVec 256)} {mgmt : List Report} {retiredUnits : List UnitId} {portsDown : List Nat}
    {portPart : List (Nat × Nat)} {launches : List (Nat × Launch)} {gangs : List (Nat × Gang)} {nodes : List (Nat × Node)} {flights : List
    (Nat × Flight)} {accesses : List (Nat × Access)} {copies : List (Nat × Copy)} {smvs : List (Nat × Smv)} {cmds : List (Nat × MatCmd)}
    {views : List (Nat × View)} {wreqs : List (Nat × WRequest)} {lreqs : List (Nat × LaunchReq)} {tfaults : List (Nat × TFault)} {deferred
    : List Deferred} {barObjs : List Home} {peerOut : List PeerOut} {pairTurn : List (Nat × Nat)} {turns : List (Engine × Nat)} {queueSeq
    : List FaultQueue} {waitingRecs
    : List WaitingRec} {cur : Option Cursor} {agenda : List Instr} {nextCore : Nat} {nextUid : Nat} {freeCtr : Nat}
    (h : s.sound φ = true) (hc : s.crews.all (fun e => Memory.wf e.2.lmem) = true → crews.all (fun e => Memory.wf e.2.lmem) = true)
    (hv : s.waves.all (fun e => e.2.laidOut) = true → waves.all (fun e => e.2.laidOut) = true) : (State.mk up halted keysErased leaf
        attested mgmt retiredUnits portsDown portPart s.cores s.parts s.mem launches gangs crews waves nodes flights accesses copies smvs
        cmds views wreqs lreqs tfaults deferred barObjs peerOut pairTurn turns queueSeq waitingRecs cur agenda nextCore nextUid
        freeCtr).sound φ
        = true :=
  State.sound_of (s := s) h id hc hv rfl rfl

/-- An update on top of a change of a wave. -/

@[simp] theorem State.sound_recWave {s : State} {k : Nat} {f : Wave → Wave} {up : Bool} {halted : Bool} {keysErased : Bool} {leaf : Nat}
    {attested : List (Nat × BitVec 256)} {mgmt : List Report} {retiredUnits : List UnitId} {portsDown : List Nat} {portPart : List (Nat ×
    Nat)} {launches : List (Nat × Launch)} {gangs : List (Nat × Gang)} {nodes : List (Nat × Node)} {flights : List (Nat × Flight)}
    {accesses : List (Nat × Access)} {copies : List (Nat × Copy)} {smvs : List (Nat × Smv)} {cmds : List (Nat × MatCmd)} {views : List (Nat
    × View)} {wreqs : List (Nat × WRequest)} {lreqs : List (Nat × LaunchReq)} {tfaults : List (Nat × TFault)} {deferred : List Deferred}
    {barObjs : List Home} {peerOut : List PeerOut} {pairTurn : List (Nat × Nat)} {turns : List (Engine × Nat)} {queueSeq : List
    FaultQueue} {waitingRecs : List
    WaitingRec} {cur : Option Cursor} {agenda : List Instr} {nextCore : Nat} {nextUid : Nat} {freeCtr : Nat}
    (h : s.sound φ = true) (hf : ∀ w : Wave, w.laidOut = true → (f w).laidOut = true) : (State.mk up halted keysErased leaf attested mgmt
        retiredUnits portsDown portPart s.cores s.parts s.mem launches gangs s.crews (s.modWave k f).waves nodes flights accesses copies
        smvs cmds views wreqs lreqs tfaults deferred barObjs peerOut pairTurn turns queueSeq waitingRecs cur agenda nextCore nextUid
        freeCtr).sound φ = true :=
  State.sound_of (State.sound_modWave s k f h hf) id id id rfl rfl

/-- An update on top of a change of a partition. -/

@[simp] theorem State.sound_recPart {s : State} {k : Nat} {f : Partition → Partition} {up : Bool} {halted : Bool} {keysErased : Bool} {leaf
    : Nat} {attested : List (Nat × BitVec 256)} {mgmt : List Report} {retiredUnits : List UnitId} {portsDown : List Nat} {portPart : List
    (Nat × Nat)} {launches : List (Nat × Launch)} {gangs : List (Nat × Gang)} {nodes : List (Nat × Node)} {flights : List (Nat × Flight)}
    {accesses : List (Nat × Access)} {copies : List (Nat × Copy)} {smvs : List (Nat × Smv)} {cmds : List (Nat × MatCmd)} {views : List (Nat
    × View)} {wreqs : List (Nat × WRequest)} {lreqs : List (Nat × LaunchReq)} {tfaults : List (Nat × TFault)} {deferred : List Deferred}
    {barObjs : List Home} {peerOut : List PeerOut} {pairTurn : List (Nat × Nat)} {turns : List (Engine × Nat)} {queueSeq : List
    FaultQueue} {waitingRecs : List
    WaitingRec} {cur : Option Cursor} {agenda : List Instr} {nextCore : Nat} {nextUid : Nat} {freeCtr : Nat}
    (h : s.sound φ = true) : (State.mk up halted keysErased leaf attested mgmt retiredUnits portsDown portPart s.cores (s.modPart k
        f).parts s.mem launches gangs s.crews s.waves nodes flights accesses copies smvs cmds views wreqs lreqs tfaults deferred barObjs
        peerOut pairTurn turns queueSeq waitingRecs cur agenda nextCore nextUid freeCtr).sound φ = true :=
  State.sound_of (State.sound_modPart s k f h) id id id rfl rfl

/-- An update on top of a change of a crew. -/

@[simp] theorem State.sound_recCrew {s : State} {k : Nat} {f : Crew → Crew} {up : Bool} {halted : Bool} {keysErased : Bool} {leaf : Nat}
    {attested : List (Nat × BitVec 256)} {mgmt : List Report} {retiredUnits : List UnitId} {portsDown : List Nat} {portPart : List (Nat ×
    Nat)} {launches : List (Nat × Launch)} {gangs : List (Nat × Gang)} {nodes : List (Nat × Node)} {flights : List (Nat × Flight)}
    {accesses : List (Nat × Access)} {copies : List (Nat × Copy)} {smvs : List (Nat × Smv)} {cmds : List (Nat × MatCmd)} {views : List (Nat
    × View)} {wreqs : List (Nat × WRequest)} {lreqs : List (Nat × LaunchReq)} {tfaults : List (Nat × TFault)} {deferred : List Deferred}
    {barObjs : List Home} {peerOut : List PeerOut} {pairTurn : List (Nat × Nat)} {turns : List (Engine × Nat)} {queueSeq : List
    FaultQueue} {waitingRecs : List
    WaitingRec} {cur : Option Cursor} {agenda : List Instr} {nextCore : Nat} {nextUid : Nat} {freeCtr : Nat}
    (h : s.sound φ = true) (hf : ∀ c, Memory.wf c.lmem = true → Memory.wf (f c).lmem = true) : (State.mk up halted keysErased leaf attested
        mgmt retiredUnits portsDown portPart s.cores s.parts s.mem launches gangs (s.modCrew k f).crews s.waves nodes flights accesses
        copies smvs cmds views wreqs lreqs tfaults deferred barObjs peerOut pairTurn turns queueSeq waitingRecs cur agenda nextCore nextUid
        freeCtr).sound φ = true :=
  State.sound_of (State.sound_modCrew (s := s) h hf) id id id rfl rfl

/-! ### Ops -/

@[simp] theorem State.sound_modGang (s : State) (k : Nat) (f : Gang → Gang)
    (hw : s.sound φ = true) : (State.modGang s k f).sound φ = true := by
  simp +contextual [State.modGang, hw]

@[simp] theorem State.sound_modLaunch (s : State) (k : Nat) (f : Launch → Launch)
    (hw : s.sound φ = true) : (State.modLaunch s k f).sound φ = true := by
  simp +contextual [State.modLaunch, hw]

@[simp] theorem State.sound_modNode (s : State) (k : Nat) (f : Node → Node)
    (hw : s.sound φ = true) : (State.modNode s k f).sound φ = true := by
  simp +contextual [State.modNode, hw]

@[simp] theorem State.sound_fresh (s : State)
    (hw : s.sound φ = true) : (State.fresh s).2.sound φ = true := by
  simp +contextual [State.fresh, hw]

@[simp] theorem State.sound_freeNext (s : State)
    (hw : s.sound φ = true) : (State.freeNext s).2.sound φ = true := by
  simp +contextual [State.freeNext, hw]

@[simp] theorem State.sound_takeSeq (s : State) (pa : Nat)
    (hw : s.sound φ = true) : (State.takeSeq s pa).2.sound φ = true := by
  unfold State.takeSeq
  repeat' (first | (with_reducible exact hw) | apply State.sound_ite | split)
  all_goals (first | (with_reducible exact hw) | simp +contextual [hw, -State.sound_if])

@[simp] theorem State.sound_dropRecord (s : State) (part tenant : Nat) (hdr : VAddr)
    (hw : s.sound φ = true) : (State.dropRecord s part tenant hdr).sound φ = true := by
  unfold State.dropRecord
  split
  · exact sound_getD (fun _ h => State.sound_writeNat? hw h) hw
  · exact hw

@[simp] theorem State.sound_dropFatal (s : State) (part tenant : Nat) (a : VAddr)
    (hw : s.sound φ = true) : (State.dropFatal s part tenant a).sound φ = true := by
  simp +contextual [State.dropFatal, hw]

@[simp] theorem State.sound_writeRecord (s : State) (q : Dword) (tenant : Nat) (r : FaultRec)
    (hw : s.sound φ = true) : (State.writeRecord s q tenant r).sound φ = true := by
  unfold State.writeRecord
  split
  · split
    rename_i e
    have ht := sound_snd e (State.sound_takeSeq s _ hw)
    split
    · split
      · split
        · rename_i t e'
          have h' : t.sound φ = true := by
            obtain ⟨a, _, h⟩ := Option.bind_eq_some_iff.mp e'
            exact State.sound_writeNat? ht h
          exact sound_getD (fun _ h => State.sound_writeNat? h' h) h'
        · exact State.sound_dropRecord _ _ _ _ ht
      · exact State.sound_dropRecord _ _ _ _ ht
    · exact ht
  · exact hw

@[simp] theorem State.sound_putRecord (s : State) (q : Dword) (tenant : Nat) (r : FaultRec)
    (hw : s.sound φ = true) : (State.putRecord s q tenant r).2.sound φ = true := by
  unfold State.putRecord
  repeat' (first | (with_reducible exact hw) | apply State.sound_ite | split)
  all_goals (first | (with_reducible exact hw) | simp +contextual [hw, -State.sound_if])

@[simp] theorem State.sound_postTo (s : State) (q : Dword) (tenant : Nat) (r : FaultRec)
    (hw : s.sound φ = true) : (State.postTo s q tenant r).sound φ = true := by
  unfold State.postTo
  dsimp only
  have h := State.sound_putRecord s q tenant r hw
  generalize s.putRecord q tenant r = x at h ⊢
  obtain ⟨o, t⟩ := x
  cases o with
  | none => exact h
  | some a => exact State.sound_ite h (State.sound_putRecord _ _ _ _ h)

@[simp] theorem State.sound_postAgain (s : State)
    (hw : s.sound φ = true) : (State.postAgain s).sound φ = true := by
  simp +contextual [State.postAgain, hw]

@[simp] theorem State.sound_postHost (s : State) (r : FaultRec)
    (hw : s.sound φ = true) : (State.postHost s r).sound φ = true := by
  simp +contextual [State.postHost, hw]

@[simp] theorem State.sound_postLaunch (s : State) (launch : Nat) (r : FaultRec)
    (hw : s.sound φ = true) : (State.postLaunch s launch r).sound φ = true := by
  simp +contextual [State.postLaunch, hw]

@[simp] theorem State.sound_stopGang (s : State) (g : Nat)
    (hw : s.sound φ = true) : (State.stopGang s g).sound φ = true := by
  unfold State.stopGang
  have h := fun f => State.sound_modGang s g f hw
  refine State.sound_eta2 (h _) (all_lmem_map (fun e he => ?_))
  split <;> exact he

@[simp] theorem State.sound_stopNodes (s : State) (launch : Nat)
    (hw : s.sound φ = true) : (State.stopNodes s launch).sound φ = true := by
  simp +contextual [State.stopNodes, hw]

@[simp] theorem State.sound_stopGangs (s : State) (ancestor : Word) (a0 : Nat) (a1 : List Nat)
    (hw : s.sound φ = true) : (State.stopGangs s ancestor a0 a1).sound φ = true := by
  induction a0 generalizing s a1 with
  | zero => exact hw
  | succ n ih =>
    have h : (a1.foldl State.stopGang s).sound φ = true := sound_foldl (fun t x ht => State.sound_stopGang t x ht) _ hw
    exact State.sound_ite (sound_foldl (fun t k ht => State.sound_postLaunch _ _ _ (State.sound_stopNodes _ _ (State.sound_modLaunch _ _ _ ht))) _ h)
      (ih _ _ (sound_foldl (fun t k ht => State.sound_postLaunch _ _ _ (State.sound_stopNodes _ _ (State.sound_modLaunch _ _ _ ht))) _ h))

@[simp] theorem State.sound_stopLaunch (s : State) (launch status : Nat)
    (hw : s.sound φ = true) : (State.stopLaunch s launch status).sound φ = true := by
  exact State.sound_stopGangs _ _ _ _ (State.sound_stopNodes _ _ (State.sound_modLaunch _ _ _ hw))

@[simp] theorem State.sound_faultGang (s : State) (g : Nat)
    (hw : s.sound φ = true) : (State.faultGang s g).sound φ = true := by
  simp +contextual [State.faultGang, hw]

@[simp] theorem State.sound_takeFault (s : State) (c : Cursor) (p : Precise) (xpc : Word)
    (hw : s.sound φ = true) : (State.takeFault s c p xpc).sound φ = true := by
  simp +contextual [State.takeFault, hw]

/-! ### Flags -/

@[simp] theorem State.sound_setUni (s : State) (crew n : Nat) (r : Reg)
    (hw : s.sound φ = true) : (State.setUni s crew n r).sound φ = true := by
  simp +contextual [State.setUni, hw]

@[simp] theorem State.sound_lowerFlag (s : State) (op wave : Nat) (flag : Option Nat)
    (hw : s.sound φ = true) : (State.lowerFlag s op wave flag).sound φ = true := by
  unfold State.lowerFlag
  repeat' (first | (with_reducible exact hw) | apply State.sound_ite | split)
  all_goals (first | (with_reducible exact hw) | simp +contextual [hw, -State.sound_if])

@[simp] theorem State.sound_writeDest (s : State) (wave : Nat) (d : Dest)
    (hw : s.sound φ = true) : (State.writeDest s wave d).sound φ = true := by
  unfold State.writeDest
  repeat' (first | (with_reducible exact hw) | apply State.sound_ite | split)
  all_goals (first | (with_reducible exact hw) | simp +contextual [hw, -State.sound_if])

@[simp] theorem State.sound_addFlight (s : State) (f : Flight)
    (hw : s.sound φ = true) : (State.addFlight s f).sound φ = true := by
  simp +contextual [State.addFlight, hw]

@[simp] theorem State.sound_addAccess (s : State) (a : Access)
    (hw : s.sound φ = true) : (State.addAccess s a).sound φ = true := by
  simp +contextual [State.addAccess, hw]

@[simp] theorem State.sound_deliverLate (s : State) (d : Deferred)
    (hw : s.sound φ = true) : (State.deliverLate s d).sound φ = true := by
  exact State.sound_faultGang _ _ (State.sound_postLaunch _ _ _ hw)

@[simp] theorem State.sound_gangEnd (s : State) (g : Nat)
    (hw : s.sound φ = true) : (State.gangEnd s g).sound φ = true := by
  unfold State.gangEnd
  split
  · exact State.sound_faultGang _ _ (State.sound_postLaunch _ _ _ hw)
  · exact State.sound_modGang _ _ _ hw

@[simp] theorem State.sound_defer (s : State) (d : Deferred)
    (hw : s.sound φ = true) : (State.defer s d).sound φ = true := by
  unfold State.defer
  split
  · exact State.sound_same hw rfl rfl
  · exact State.sound_faultGang _ _ (State.sound_postLaunch _ _ _ hw)
  · exact hw

@[simp] theorem State.sound_settleWave (s : State) (w : Nat)
    (hw : s.sound φ = true) : (State.settleWave s w).sound φ = true := by
  have h := State.sound_modWave s w (fun x => { x with lanes := x.lanes.map Lane.settle }) hw
  unfold State.settleWave
  dsimp only
  refine State.sound_ite h ?_
  have h2 := State.sound_modWave _ w (fun x => { x with ended := true }) h
  refine State.sound_ite ?_ h2
  have h3 := fun k => State.sound_modCrew (k := k) (f := fun c => { c with ended := true }) h2 (fun _ hc => hc)
  exact State.sound_ite (State.sound_gangEnd _ _ (h3 _)) (h3 _)

/-! ### Home -/

@[simp] theorem State.sound_putHomeWord (s : State) (h : Home) (v : Word)
    (hw : s.sound φ = true) : (State.putHomeWord s h v).sound φ = true := by
  simp +contextual [State.putHomeWord, hw]

@[simp] theorem State.sound_putHomeDword (s : State) (h : Home) (v : Dword)
    (hw : s.sound φ = true) : (State.putHomeDword s h v).sound φ = true := by
  simp +contextual [State.putHomeDword, hw]

@[simp] theorem State.sound_wakeAt (s : State) (h : Home) (q : Bool)
    (hw : s.sound φ = true) : (State.wakeAt s h q).sound φ = true := by
  exact State.sound_of hw id id (all_laidOut_map (fun e he => by rw [Wave.laidOut_map]; exact he)) rfl rfl

@[simp] theorem State.sound_completePhase (s : State) (h : Home)
    (hw : s.sound φ = true) : (State.completePhase s h).sound φ = true := by
  exact State.sound_wakeAt _ _ _ (State.sound_putHomeWord _ _ _ (State.sound_putHomeWord _ _ _ hw))

@[simp] theorem State.sound_modDetBar (s : State) (launch pa : Nat) (f : DetBar → DetBar)
    (hw : s.sound φ = true) : (State.modDetBar s launch pa f).sound φ = true := by
  simp +contextual [State.modDetBar, hw]

@[simp] theorem State.sound_enterSlack (s : State) (k : Nat) (b : DetBar)
    (hw : s.sound φ = true) : (State.enterSlack s k b).sound φ = true := by
  refine State.sound_modDetBar _ _ _ _ (State.sound_eta2 hw (all_lmem_map (fun e he => ?_)))
  dsimp only
  split <;> exact he

@[simp] theorem State.sound_markBarrier (s : State) (h : Home)
    (hw : s.sound φ = true) : (State.markBarrier s h).sound φ = true := by
  simp +contextual [State.markBarrier, hw]

@[simp] theorem State.sound_testPhase (s : State) (h : Home)
    (hw : s.sound φ = true) : (State.testPhase s h).sound φ = true := by
  unfold State.testPhase
  repeat' (first | (with_reducible exact hw) | apply State.sound_ite | split)
  all_goals (first | (with_reducible exact hw) | simp +contextual [hw, -State.sound_if])

@[simp] theorem State.sound_barArrive (s : State) (h : Home) (a : Nat)
    (hw : s.sound φ = true) : (State.barArrive s h a).sound φ = true := by
  simp +contextual [State.barArrive, hw]

@[simp] theorem State.sound_barExpect (s : State) (h : Home) (x : Word)
    (hw : s.sound φ = true) : (State.barExpect s h x).sound φ = true := by
  simp +contextual [State.barExpect, hw]

@[simp] theorem State.sound_barCredit (s : State) (h : Home) (k : Nat)
    (hw : s.sound φ = true) : (State.barCredit s h k).sound φ = true := by
  simp +contextual [State.barCredit, hw]

@[simp] theorem State.sound_barInit (s : State) (h : Home) (n : Nat)
    (hw : s.sound φ = true) : (State.barInit s h n).sound φ = true := by
  exact State.sound_wakeAt _ _ _ (State.sound_putHomeWord _ _ _ (State.sound_putHomeWord _ _ _ (State.sound_putHomeWord _ _ _
    (State.sound_putHomeWord _ _ _ hw))))

@[simp] theorem State.sound_barOp (s : State) (h : Home) (op : BarOp)
    (hw : s.sound φ = true) : (State.barOp s h op).sound φ = true := by
  have hr : ∀ t : State, t.sound φ = true → (match op with
      | .init n => t.barInit h n
      | .arrive _ a => t.barArrive h a
      | .expect x => t.barExpect h x
      | .credit k => t.barCredit h k).sound φ = true := by
    intro t ht
    cases op
    · exact State.sound_barInit _ _ _ ht
    · exact State.sound_barArrive _ _ _ ht
    · exact State.sound_barExpect _ _ _ ht
    · exact State.sound_barCredit _ _ _ ht
  have hm := State.sound_markBarrier s h hw
  unfold State.barOp
  dsimp only
  split
  · exact hr _ hm
  · refine State.sound_ite (State.sound_modDetBar _ _ _ _ hm) (hr _ ?_)
    split
    · exact sound_foldl (fun t e ht => State.sound_modDetBar _ _ _ _ ht) _ hm
    · exact hm

@[simp] theorem State.sound_scramble (s : State) (h : Home)
    (hw : s.sound φ = true) : (State.scramble s h).sound φ = true := by
  exact State.sound_putHomeWord _ _ _ (State.sound_putHomeWord _ _ _ (State.sound_putHomeWord _ _ _ (State.sound_putHomeWord _ _ _ hw)))

@[simp] theorem State.sound_unmarkBarrier (s : State) (h : Home)
    (hw : s.sound φ = true) : (State.unmarkBarrier s h).sound φ = true := by
  simp +contextual [State.unmarkBarrier, hw]

@[simp] theorem State.sound_plainOver (s : State) (owed : Bool) (h : Home)
    (hw : s.sound φ = true) : (State.plainOver s owed h).sound φ = true := by
  simp +contextual [State.plainOver, hw]

@[simp] theorem State.sound_storeWord (s : State) (h : Home) (v : Word)
    (hw : s.sound φ = true) : (State.storeWord s h v).sound φ = true := by
  simp +contextual [State.storeWord, hw]

@[simp] theorem State.sound_plainAll (t s : State) (hs : List Home)
    (hw : t.sound φ = true) : (State.plainAll t s hs).sound φ = true := by
  simp +contextual [State.plainAll, hw]

@[simp] theorem State.sound_putWords (s : State) (h : Home) (a0 : List Word)
    (hw : s.sound φ = true) : (State.putWords s h a0).sound φ = true := by
  induction a0 generalizing s h with
  | nil => exact hw
  | cons v vs ih => exact ih _ _ (State.sound_putHomeWord _ _ _ hw)

@[simp] theorem State.sound_storeWords (s : State) (h : Home) (vs : List Word)
    (hw : s.sound φ = true) : (State.storeWords s h vs).sound φ = true := by
  simp +contextual [State.storeWords, hw]

@[simp] theorem State.sound_performAt (s : State) (h : Home) (o : AccessOp)
    (hw : s.sound φ = true) : (State.performAt s h o).2.sound φ = true := by
  unfold State.performAt
  repeat' (first | (with_reducible exact hw) | apply State.sound_ite | split)
  all_goals (first | (with_reducible exact hw) | simp +contextual [hw, -State.sound_if])

/-! ### Det -/

@[simp] theorem State.sound_snapPages (s : State) (part tenant : Nat) (pages : List Page)
    (hw : s.sound φ = true) : (State.snapPages s part tenant pages).sound φ = true := by
  unfold State.snapPages
  dsimp only
  refine State.sound_eta2 hw (all_lmem_map (fun e he => ?_))
  split <;> exact he

@[simp] theorem State.sound_buffer (s : State) (crew : Nat) (es : List WEntry) (cs : List Charge)
    (hw : s.sound φ = true) : (State.buffer s crew es cs).sound φ = true := by
  simp +contextual [State.buffer, hw]

@[simp] theorem State.sound_applyEntry (s : State) (part tenant : Nat) (r : Region) (e : WEntry)
    (hw : s.sound φ = true) : (State.applyEntry s part tenant r e).sound φ = true := by
  unfold State.applyEntry
  split
  · exact sound_getD (fun _ h => State.sound_writeNat? hw h) hw
  · dsimp only
    split
    · exact sound_getD (fun _ h => State.sound_writeNat? hw h) hw
    · exact hw

@[simp] theorem State.sound_applyTask (s : State) (part tenant : Nat) (i : Nat) (r : Region) (k : Nat)
    (hw : s.sound φ = true) : (State.applyTask s part tenant i r k).sound φ = true := by
  exact sound_foldl (fun t x ht => State.sound_applyEntry t _ _ _ _ ht) _ (sound_foldl (fun t x ht => State.sound_applyEntry t _ _ _ _ ht) _ hw)

@[simp] theorem State.sound_forgetTask (s : State) (i k : Nat)
    (hw : s.sound φ = true) : (State.forgetTask s i k).sound φ = true := by
  simp +contextual [State.forgetTask, hw]

@[simp] theorem State.sound_refreshSnap (s : State) (i : Nat) (merged : List Host.Cell) (offs : List Nat) (k : Nat)
    (hw : s.sound φ = true) : (State.refreshSnap s i merged offs k).sound φ = true := by
  simp +contextual [State.refreshSnap, hw]

@[simp] theorem State.sound_mergeRegion (s : State) (launch i : Nat) (r : Region) (tasks : List Nat)
    (hw : s.sound φ = true) : (State.mergeRegion s launch i r tasks).2.sound φ = true := by
  unfold State.mergeRegion
  dsimp only
  split
  · exact sound_foldl (fun t x ht => State.sound_forgetTask t _ _ ht) _ (State.sound_postLaunch _ _ _ hw)
  · exact State.sound_modLaunch _ _ _ (sound_foldl (fun t x ht => State.sound_forgetTask _ _ _ (State.sound_refreshSnap t _ _ _ _ ht)) _
      (sound_foldl (fun t x ht => State.sound_applyTask t _ _ _ _ _ ht) _ hw))

@[simp] theorem State.sound_newSnaps (s : State) (crew : Nat) (h : Home)
    (hw : s.sound φ = true) : (State.newSnaps s crew h).sound φ = true := by
  simp +contextual [State.newSnaps, hw]

@[simp] theorem State.sound_mergeAll (s : State) (launch : Nat) (who : State → Nat → List Nat) (a0 : List (Nat × Region))
    (hw : s.sound φ = true) : (State.mergeAll s launch who a0).2.sound φ = true := by
  induction a0 generalizing s with
  | nil => exact hw
  | cons e rest ih => exact ih _ (State.sound_mergeRegion s launch e.1 e.2 (who s e.1) hw)

/-! ### Access -/

@[simp] theorem State.sound_notReplayable (s : State) (gang : Nat)
    (hw : s.sound φ = true) : (State.notReplayable s gang).sound φ = true := by
  simp +contextual [State.notReplayable, hw]

@[simp] theorem State.sound_openFault (s : State) (crew : Nat) (wave : Nat) (a : VAddr) (addr : Dword)
    (hw : s.sound φ = true) : (State.openFault s crew wave a addr).2.sound φ = true := by
  simp +contextual [State.openFault, hw]

@[simp] theorem State.sound_faultFor (s : State) (crew wave : Nat) (a : VAddr)
    (hw : s.sound φ = true) : (State.faultFor s crew wave a).2.sound φ = true := by
  unfold State.faultFor
  dsimp only
  repeat' (first | (with_reducible exact hw) | apply State.sound_ite | split)
  all_goals (first | (with_reducible exact hw) | simp +contextual [hw, -State.sound_if])

@[simp] theorem State.sound_deferTranslate (s : State) (crew : Nat) (a : VAddr) (till : List Until)
    (hw : s.sound φ = true) : (State.deferTranslate s crew a till).sound φ = true := by
  simp +contextual [State.deferTranslate, hw]

@[simp] theorem State.sound_answerAccess (s : State) (k : Nat) (a : Access) (old : Nat)
    (hw : s.sound φ = true) : (State.answerAccess s k a old).sound φ = true := by
  unfold State.answerAccess
  repeat' (first | (with_reducible exact hw) | apply State.sound_ite | split)
  all_goals (first | (with_reducible exact hw) | simp +contextual [hw, -State.sound_if])

@[simp] theorem State.sound_failAccess (s : State) (k : Nat) (a : Access)
    (hw : s.sound φ = true) : (State.failAccess s k a).sound φ = true := by
  simp +contextual [State.failAccess, hw]

@[simp] theorem State.sound_holdAccess (s : State) (k : Nat) (a : Access)
    (hw : s.sound φ = true) : (State.holdAccess s k a).sound φ = true := by
  simp +contextual [State.holdAccess, hw]

@[simp] theorem State.sound_trapRecord (s : State) (crew wave : Nat) (info : Dword) (slot : Nat) (lanes pc : Word) (stop : Option Bool)
    (hw : s.sound φ = true) : (State.trapRecord s crew wave info slot lanes pc stop).sound φ = true := by
  simp +contextual [State.trapRecord, hw]

@[simp] theorem State.sound_performHere (s : State) (k : Nat) (a : Access) (p t : Nat) (h : Home)
    (hw : s.sound φ = true) : (State.performHere s k a p t h).sound φ = true := by
  have h1 := State.sound_same (t := { s with accesses := drop k s.accesses }) hw rfl rfl
  have h2 := fun op => State.sound_performAt s h op hw
  unfold State.performHere
  split
  · exact State.sound_barOp _ _ _ h1
  · exact State.sound_trapRecord _ _ _ _ _ _ _ _ h1
  · exact State.sound_answerAccess _ _ _ _ (State.sound_markDirty (State.sound_storeWord _ _ _ hw))
  · exact State.sound_answerAccess _ _ _ _ hw
  · exact State.sound_answerAccess _ _ _ _ (State.sound_markDirty (h2 _))
  · exact State.sound_answerAccess _ _ _ _ (State.sound_markDirty (h2 _))

@[simp] theorem State.sound_engineServed (s : State) (e : Engine) (part : Nat)
    (hw : s.sound φ = true) : (State.engineServed s e part).sound φ = true :=
  State.sound_same hw rfl rfl

@[simp] theorem State.sound_hostServed (s : State) (used : Bool) (crew : Nat)
    (hw : s.sound φ = true) : (State.hostServed s used crew).sound φ = true :=
  State.sound_ite (State.sound_engineServed _ _ _ hw) hw

@[simp] theorem State.sound_performDue (s : State) (k : Nat) (a : Access)
    (hw : s.sound φ = true) : (State.performDue s k a).sound φ = true := by
  unfold State.performDue
  repeat' (first | (with_reducible exact hw) | apply State.sound_ite | split)
  all_goals (first | (with_reducible exact hw) | simp +contextual [hw, -State.sound_if])

@[simp] theorem State.sound_performAccess (s : State) (k : Nat)
    (hw : s.sound φ = true) : (State.performAccess s k).sound φ = true := by
  unfold State.performAccess
  split
  · exact hw
  · exact State.sound_ite hw (State.sound_performDue _ _ _ (State.sound_hostServed _ _ _ hw))

@[simp] theorem State.sound_issueAccess (s : State) (a : Access)
    (hw : s.sound φ = true) : (State.issueAccess s a).sound φ = true := by
  simp +contextual [State.issueAccess, hw]

@[simp] theorem State.sound_performLoad (s : State) (k : Nat) (f : Flight)
    (hw : s.sound φ = true) : (State.performLoad s k f).sound φ = true := by
  unfold State.performLoad
  dsimp only
  repeat' (first | (with_reducible exact hw) | apply State.sound_ite | split)
  all_goals (first | (with_reducible exact hw) | simp +contextual [hw, -State.sound_if])

@[simp] theorem State.sound_performOne (s : State) (k : Nat)
    (hw : s.sound φ = true) : (State.performOne s k).sound φ = true := by
  unfold State.performOne
  split
  · exact State.sound_performLoad _ _ _ hw
  · exact State.sound_performAccess _ _ hw

@[simp] theorem State.sound_performAll (s : State) (a0 : List Nat)
    (hw : s.sound φ = true) : (State.performAll s a0).sound φ = true := by
  induction a0 generalizing s with
  | nil => exact hw
  | cons k ks ih => exact ih _ (State.sound_performOne _ _ hw)

@[simp] theorem State.sound_catchUp (s : State) (wave : Nat) (m : Lanes) (fs : List Nat) (a : VAddr) (n : Nat)
    (hw : s.sound φ = true) : (State.catchUp s wave m fs a n).sound φ = true := by
  simp +contextual [State.catchUp, hw]

@[simp] theorem State.sound_catchUpLanes (s : State) (wave : Nat) (m : Lanes)
    (hw : s.sound φ = true) : (State.catchUpLanes s wave m).sound φ = true := by
  simp +contextual [State.catchUpLanes, hw]

@[simp] theorem State.sound_parkLoad (s : State) (op crew wave fibre : Nat) (flag : Option Nat) (x : LaneLoad)
    (hw : s.sound φ = true) : (State.parkLoad s op crew wave fibre flag x).sound φ = true := by
  unfold State.parkLoad
  dsimp only
  repeat' (first | (with_reducible exact hw) | apply State.sound_ite | split)
  all_goals (first | (with_reducible exact hw) | simp +contextual [hw, -State.sound_if])

@[simp] theorem State.sound_putStore (s : State) (crew : Nat) (a : VAddr) (v : Word)
    (hw : s.sound φ = true) : ∀ t, State.putStore s crew a v = some t → t.sound φ = true := by
  unfold State.putStore
  repeat' (first | (with_reducible exact hw) | apply State.sound_ite | split)
  all_goals (first | (with_reducible exact hw) | simp +contextual [hw, -State.sound_if])

@[simp] theorem State.sound_storeLane (s : State) (op crew wave : Nat) (m : Lanes) (fs : List Nat) (a : VAddr) (v : Word)
    (hw : s.sound φ = true) : (State.storeLane s op crew wave m fs a v).sound φ = true := by
  have h := State.sound_catchUp s wave m fs a 4 hw
  unfold State.storeLane
  dsimp only
  refine State.sound_ite (State.sound_addAccess _ _ h) ?_
  split
  · rename_i e; exact State.sound_putStore _ _ _ _ h _ e
  · exact State.sound_addAccess _ _ (State.sound_faultFor _ _ _ _ h)

/-! ### Operands -/

@[simp] theorem State.sound_endClause (s : State) (c : Cursor)
    (hw : s.sound φ = true) : (State.endClause s c).sound φ = true := by
  simp +contextual [State.endClause, hw]

@[simp] theorem State.sound_advance (s : State) (size : Nat)
    (hw : s.sound φ = true) : (State.advance s size).sound φ = true := by
  unfold State.advance
  split
  · exact hw
  · exact State.sound_ite (State.sound_endClause _ _ hw) (State.sound_ite (State.sound_endClause _ _ (State.sound_modWave _ _ _ hw))
      (State.sound_eta hw))

@[simp] theorem State.sound_standLanes (s : State) (m : Lanes) (r : Option ParkReason)
    (hw : s.sound φ = true) : (State.standLanes s m r).sound φ = true := by
  unfold State.standLanes
  repeat' (first | (with_reducible exact hw) | apply State.sound_ite | split)
  all_goals (first | (with_reducible exact hw) | simp +contextual [hw, -State.sound_if])

@[simp] theorem State.sound_parkLanes (s : State) (m : Lanes) (r : ParkReason)
    (hw : s.sound φ = true) : (State.parkLanes s m r).sound φ = true := State.sound_standLanes s m (some r) hw

@[simp] theorem State.sound_giveBack (s : State) (hw : s.sound φ = true) : (State.giveBack s).sound φ = true := by
  unfold State.giveBack
  split
  · exact hw
  · exact State.sound_same (State.sound_standLanes _ _ _ hw) rfl rfl

@[simp] theorem State.sound_holdClause (s : State)
    (hw : s.sound φ = true) : (State.holdClause s).sound φ = true := by
  unfold State.holdClause
  repeat' (first | (with_reducible exact hw) | apply State.sound_ite | split)
  all_goals (first | (with_reducible exact hw) | simp +contextual [hw, -State.sound_if])

@[simp] theorem State.sound_askWord (s : State) (a : VAddr)
    (hw : s.sound φ = true) : (State.askWord s a).sound φ = true := by
  unfold State.askWord
  exact State.sound_ite hw (State.sound_openFault _ _ _ _ _ hw)

@[simp] theorem State.sound_askFor (s : State) (r : ParkReason)
    (hw : s.sound φ = true) : (State.askFor s r).sound φ = true := by
  unfold State.askFor
  repeat' (first | (with_reducible exact hw) | apply State.sound_ite | split)
  all_goals (first | (with_reducible exact hw) | simp +contextual [hw, -State.sound_if])

@[simp] theorem State.sound_meetMiss (s : State) (ls : Lanes) (a : VAddr)
    (hw : s.sound φ = true) : (State.meetMiss s ls a).sound φ = true :=
  State.sound_ite (State.sound_takeFault _ _ _ _ (State.sound_dropFatal _ _ _ _ hw)) (State.sound_giveBack _ (State.sound_askWord _ _ hw))

@[simp] theorem State.sound_takeEntries (s : State) (n : Nat)
    (hw : s.sound φ = true) : (State.takeEntries s n).sound φ = true := by
  obtain ⟨c, h, -⟩ := State.takeEntries_eq s n
  rw [h]
  exact State.sound_same hw rfl rfl

@[simp] theorem State.sound_trapLater (s : State) (c : Cursor) (p : Precise)
    (hw : s.sound φ = true) : (State.trapLater s c p).sound φ = true :=
  State.sound_eta (State.sound_faultGang _ _ (State.sound_addAccess _ _ hw))

@[simp] theorem State.sound_meetFault (s : State) (c : Cursor) (p : Precise)
    (hw : s.sound φ = true) : (State.meetFault s c p).sound φ = true := by
  simp +contextual [State.meetFault, hw]

@[simp] theorem sound_RegOp_eff (o : RegOp) (s : State)
    (hw : s.sound φ = true) : (RegOp.eff o s).sound φ = true := by
  simp +contextual [RegOp.eff, hw]

@[simp] theorem State.sound_countOp (s : State) (wave : Nat) (flag : Option Nat)
    (hw : s.sound φ = true) : (State.countOp s wave flag).2.sound φ = true := by
  unfold State.countOp
  repeat' (first | (with_reducible exact hw) | apply State.sound_ite | split)
  all_goals (first | (with_reducible exact hw) | simp +contextual [hw, -State.sound_if])

/-! ### LoadStore -/

@[simp] theorem sound_sendLoads (s : State) (x : Ctx) (g : Arg) (ls : List (Nat × VAddr))
    (hw : s.sound φ = true) : (sendLoads s x g ls).sound φ = true := by
  have h := State.sound_countOp _ x.cur.wave (x.cur.flagOf g.m.fsel) (sound_foldl (fun t (e : Nat × VAddr) ht =>
    State.sound_catchUp t x.cur.wave (laneBit e.1) [(x.wave.lane e.1).fibre] e.2 4 ht) ls hw)
  unfold sendLoads
  dsimp only
  refine sound_foldl (fun r y hr => State.sound_parkLoad _ _ _ _ _ _ _ hr) _ ?_
  exact State.sound_ite (State.sound_modWave _ _ _ h) (State.sound_addFlight _ _ (State.sound_modWave _ _ _ h))

@[simp] theorem State.sound_storeUnsafe (s : State) (x : Ctx) (a : VAddr)
    (hw : s.sound φ = true) : (State.storeUnsafe s x a).sound φ = true := by
  unfold State.storeUnsafe
  repeat' (first | (with_reducible exact hw) | apply State.sound_ite | split)
  all_goals (first | (with_reducible exact hw) | simp +contextual [hw, -State.sound_if])

@[simp] theorem sound_storeOne (s : State) (x : Ctx) (op lane : Nat) (a : VAddr) (v : Word)
    (hw : s.sound φ = true) : (storeOne s x op lane a v).sound φ = true := by
  simp +contextual [storeOne, hw]

/-! ### Matrix -/

@[simp] theorem State.sound_modGangPair (s : State) (gang pair : Nat) (f : GangPair → GangPair)
    (hw : s.sound φ = true) : (State.modGangPair s gang pair f).sound φ = true := by
  simp +contextual [State.modGangPair, hw]

@[simp] theorem sound_amxSend (g : Arg) (x : Ctx) (act : Lanes) (s : State)
    (hw : s.sound φ = true) : (amxSend g x act s).sound φ = true := by
  unfold amxSend
  split
  · exact hw
  · dsimp only
    split
    · exact State.sound_issueAccess _ _ (State.sound_catchUp _ _ _ _ _ _ (State.sound_modWave _ _ _ (State.sound_buffer _ _ _ _ hw)))
    · exact State.sound_addAccess _ _ (State.sound_notReplayable _ _ hw)

@[simp] theorem State.sound_retireCommand (s : State) (pair part : Nat)
    (hw : s.sound φ = true) : (State.retireCommand s pair part).sound φ = true := by
  unfold State.retireCommand
  repeat' (first | (with_reducible exact hw) | apply State.sound_ite | split)
  all_goals (first | (with_reducible exact hw) | simp +contextual [hw, -State.sound_if])

/-! ### Tile -/

@[simp] theorem State.sound_bulkCaught (s : State) (wave : Nat) (act : Lanes) (runs : List (VAddr × Nat))
    (hw : s.sound φ = true) : (State.bulkCaught s wave act runs).sound φ = true := by
  simp +contextual [State.bulkCaught, hw]

@[simp] theorem sound_storeRun (s : State) (x : Ctx) (op : Nat) (m : Lanes) (a : VAddr) (a0 : List Word)
    (hw : s.sound φ = true) : (storeRun s x op m a a0).sound φ = true := by
  induction a0 generalizing s a with
  | nil => exact hw
  | cons v vs ih => exact ih _ _ (State.sound_storeLane _ _ _ _ _ _ _ _ hw)

/-! ### Copy -/

@[simp] theorem sound_copyIssue (g : Arg) (sub : Nat) (s : State)
    (hw : s.sound φ = true) : (copyIssue g sub s).sound φ = true := by
  unfold copyIssue
  dsimp only
  split
  · exact hw
  · refine State.sound_eta (State.sound_setUni _ _ _ _ (State.sound_buffer _ _ _ _ (State.sound_countOp _ _ _ (State.sound_ite ?_ ?_))))
    · exact State.sound_catchUpLanes _ _ _ hw
    · exact State.sound_notReplayable _ _ (State.sound_catchUpLanes _ _ _ hw)

/-! ### Hyper -/

@[simp] theorem State.sound_pendUnis (s : State) (x : Ctx) (ns : List Nat)
    (hw : s.sound φ = true) : (State.pendUnis s x ns).sound φ = true := by
  simp +contextual [State.pendUnis, hw]

@[simp] theorem sound_sendQuery (s : State) (x : Ctx) (g : Arg) (dests : List Nat) (p : Payload)
    (hw : s.sound φ = true) : (sendQuery s x g dests p).sound φ = true := by
  exact State.sound_addFlight _ _ (sound_foldl (fun t n ht => State.sound_setUni _ _ _ _ ht) _ (State.sound_countOp _ _ _ hw))

/-! ### View -/

@[simp] theorem State.sound_landTile (s : State) (wave n : Nat) (mode : Nat) (els : List Word) (status : Nat)
    (hw : s.sound φ = true) : (State.landTile s wave n mode els status).sound φ = true := by
  simp +contextual [State.landTile, hw]

@[simp] theorem State.sound_deliverPixel (s : State) (part : Nat) (handle pix colour : Word) (fibre : Nat) (released : List Nat)
    (hw : s.sound φ = true) : (State.deliverPixel s part handle pix colour fibre released).sound φ = true := by
  simp +contextual [State.deliverPixel, hw]

@[simp] theorem State.sound_modView (s : State) (k : Nat) (f : View → View)
    (hw : s.sound φ = true) : (State.modView s k f).sound φ = true := by
  simp +contextual [State.modView, hw]

@[simp] theorem State.sound_sendPixels (s : State) (k : Nat) (v : View) (a0 : List Pixel)
    (hw : s.sound φ = true) : (State.sendPixels s k v a0).sound φ = true := by
  induction a0 generalizing s with
  | nil => exact hw
  | cons p ps ih =>
    unfold State.sendPixels
    split
    · exact ih _ hw
    · refine State.sound_ite (ih _ hw) ?_
      split
      · exact State.sound_modView _ _ _ hw
      · exact ih _ (State.sound_modView _ _ _ (State.sound_modNode _ _ _ hw))

@[simp] theorem State.sound_viewServed (s : State) (v : View)
    (hw : s.sound φ = true) : (State.viewServed s v).sound φ = true :=
  State.sound_ite (State.sound_engineServed _ _ _ hw) hw

@[simp] theorem State.sound_traverseView (s : State) (k : Nat)
    (hw : s.sound φ = true) : (State.traverseView s k).sound φ = true := by
  unfold State.traverseView
  split
  · exact hw
  · rename_i v _
    have h := State.sound_viewServed s v hw
    refine State.sound_ite hw (State.sound_ite (State.sound_sendPixels _ _ _ _ hw) (State.sound_ite hw ?_))
    dsimp only
    split
    · exact State.sound_sendPixels _ _ _ _ (State.sound_modView _ _ _ h)
    · exact State.sound_modView _ _ _ h
    · exact State.sound_modView _ _ _ (State.sound_openFault _ _ _ _ _ h)

@[simp] theorem State.sound_landView (s : State) (k : Nat)
    (hw : s.sound φ = true) : (State.landView s k).sound φ = true := by
  have h := fun n => State.sound_same (t := { s with views := drop n s.views }) hw rfl rfl
  unfold State.landView
  dsimp only
  split
  · exact hw
  · refine State.sound_ite hw ?_
    split
    · exact State.sound_defer _ _ (State.sound_landTile _ _ _ _ _ _ (h _))
    · exact State.sound_ite (State.sound_landTile _ _ _ _ _ _ (h _)) hw

/-! ### Control -/

@[simp] theorem State.sound_transfer (s : State) (m : Lanes) (f : Nat → Lane → Lane)
    (hw : s.sound φ = true) : (State.transfer s m f).sound φ = true := by
  unfold State.transfer
  repeat' (first | (with_reducible exact hw) | apply State.sound_ite | split)
  all_goals (first | (with_reducible exact hw) | simp +contextual [hw, -State.sound_if])

@[simp] theorem State.sound_endLanesBy (s : State) (m : Lanes) (f : Lane → Lane)
    (hw : s.sound φ = true) : (State.endLanesBy s m f).sound φ = true := by
  unfold State.endLanesBy
  split
  · exact hw
  · exact State.sound_settleWave _ _ (State.sound_eta (State.sound_modWave _ _ _ hw))

@[simp] theorem State.sound_endLanes (s : State) (m : Lanes)
    (hw : s.sound φ = true) : (State.endLanes s m).sound φ = true := by
  simp +contextual [State.endLanes, hw]

@[simp] theorem State.sound_forkOne (s : State) (wave l c a n : Nat) (pc addr : Word)
    (hw : s.sound φ = true) : (State.forkOne s wave l c a n pc addr).sound φ = true := by
  simp +contextual [State.forkOne, hw]

/-! ### Record -/

@[simp] theorem State.sound_emitLanes (s : State) (x : Ctx) (g : Arg) (nk : Nat) (a0 : List Nat)
    (hw : s.sound φ = true) : (State.emitLanes s x g nk a0).2.sound φ = true := by
  induction a0 generalizing s with
  | nil => exact hw
  | cons l ls ih =>
    unfold State.emitLanes
    split
    · exact hw
    · split
      · exact hw
      · exact ih _ (State.sound_eta (State.sound_modWave _ _ _ (State.sound_notReplayable _ _ (State.sound_modNode _ _ _ hw))))

@[simp] theorem sound_emitAll (g : Arg) (s : State)
    (hw : s.sound φ = true) : (emitAll g s).2.sound φ = true := by
  unfold emitAll
  dsimp only
  split
  · exact hw
  · exact State.sound_emitLanes _ _ _ _ _ (State.sound_catchUpLanes _ _ _ hw)

@[simp] theorem State.sound_endContext (s : State) (ln : Lane)
    (hw : s.sound φ = true) : (State.endContext s ln).sound φ = true := by
  unfold State.endContext
  repeat' (first | (with_reducible exact hw) | apply State.sound_ite | split)
  all_goals (first | (with_reducible exact hw) | simp +contextual [hw, -State.sound_if])

@[simp] theorem State.sound_saveContext (s : State) (pc here : Word) (ln : Lane)
    (hw : s.sound φ = true) : (State.saveContext s pc here ln).sound φ = true := by
  unfold State.saveContext
  repeat' (first | (with_reducible exact hw) | apply State.sound_ite | split)
  all_goals (first | (with_reducible exact hw) | simp +contextual [hw, -State.sound_if])

@[simp] theorem State.sound_makeRoom (s : State) (part cluster : Nat)
    (hw : s.sound φ = true) : ∀ t, State.makeRoom s part cluster = some t → t.sound φ = true := by
  intro t h
  unfold State.makeRoom at h
  dsimp only at h
  repeat' (split at h)
  all_goals first | cases h | skip
  all_goals first | exact hw | exact State.sound_modNode _ _ _ hw

@[simp] theorem State.sound_leaveShadow (part cluster n : Nat) :
    ∀ s : State, s.sound φ = true → (State.leaveShadow s part cluster n).sound φ = true := by
  induction n with
  | zero => exact fun _ hw => hw
  | succ n ih =>
    intro s hw
    unfold State.leaveShadow
    refine State.sound_ite hw ?_
    split
    · exact hw
    · exact ih _ (State.sound_modNode _ _ _ hw)

@[simp] theorem State.sound_restoreStores (s : State) (part : Nat)
    (hw : s.sound φ = true) : (State.restoreStores s part).sound φ = true :=
  sound_foldl (fun t _ ht => State.sound_leaveShadow _ _ _ t ht) _ hw

@[simp] theorem State.sound_startLane (s : State) (w l : Nat) (f : Lane → Nat → Lane)
    (hw : s.sound φ = true) : (State.startLane s w l f).sound φ = true := by
  simp +contextual [State.startLane, hw]

@[simp] theorem State.sound_noteDelivery (s : State) (crew count : Nat) (pitch retire : Bool) (key : BitVec 64)
    (hw : s.sound φ = true) : (State.noteDelivery s crew count pitch retire key).sound φ = true := by
  simp +contextual [State.noteDelivery, hw]

@[simp] theorem State.sound_deliverBatch (s : State) (node : Nat) (n : Node) (cluster crew : Nat)
    (hw : s.sound φ = true) : (State.deliverBatch s node n cluster crew).sound φ = true := by
  unfold State.deliverBatch
  dsimp only
  refine State.sound_ite hw (State.sound_ite (State.sound_settleWave _ _ hw) ?_)
  exact State.sound_noteDelivery _ _ _ _ _ _ (sound_foldl (fun t e ht => State.sound_startLane _ _ _ _ ht) _ (State.sound_modNode _ _ _ hw))

@[simp] theorem State.sound_deliverKeyed (s : State) (node cluster crew l : Nat) (r : Record)
    (hw : s.sound φ = true) : ∀ t, State.deliverKeyed s node cluster crew l r = some t → t.2.sound φ = true := by
  intro t ht
  unfold State.deliverKeyed at ht
  dsimp only at ht
  split at ht
  · cases ht
  · split at ht
    · cases ht
      exact State.sound_modNode _ _ _ (State.sound_startLane _ _ _ _ (State.sound_modNode _ _ _ hw))
    · split at ht
      · cases ht
      · rename_i e
        cases ht
        exact State.sound_modNode _ _ _ (State.sound_startLane _ _ _ _ (State.sound_modNode _ _ _ (State.sound_makeRoom _ _ _ hw _ e)))

@[simp] theorem State.sound_fillKeyed (s : State) (node cluster crew : Nat) (a0 : Nat) (a1 : List (BitVec 64)) (a2 : List Nat) (a3 : Nat ×
    Bool × Option (BitVec 64))
    (hw : s.sound φ = true) : (State.fillKeyed s node cluster crew a0 a1 a2 a3).2.sound φ = true := by
  induction a0 generalizing s a1 a2 a3 with
  | zero => exact hw
  | succ n ih =>
    cases a2 with
    | nil => exact hw
    | cons l ls =>
      unfold State.fillKeyed
      split
      · exact hw
      · split
        · exact ih _ _ _ _ hw
        · rename_i e
          exact ih _ _ _ _ (State.sound_deliverKeyed _ _ _ _ _ _ hw _ e)

@[simp] theorem State.sound_settleNode (s : State) (node : Nat)
    (hw : s.sound φ = true) : (State.settleNode s node).sound φ = true := by
  simp +contextual [State.settleNode, hw]

@[simp] theorem State.sound_recordDelivery (s : State) (node cluster crew : Nat)
    (hw : s.sound φ = true) : (State.recordDelivery s node cluster crew).sound φ = true := by
  unfold State.recordDelivery
  dsimp only
  split
  · exact hw
  · refine State.sound_ite hw (State.sound_ite (State.sound_deliverBatch _ _ _ _ _ hw) ?_)
    have h := fun n k l a => State.sound_fillKeyed s node cluster crew n k l a hw
    exact State.sound_settleNode _ _ (State.sound_ite (h _ _ _ _) (State.sound_noteDelivery _ _ _ _ _ _ (h _ _ _ _)))

@[simp] theorem State.sound_retireDelivery (s : State) (node cluster crew : Nat)
    (hw : s.sound φ = true) : (State.retireDelivery s node cluster crew).sound φ = true := by
  unfold State.retireDelivery
  dsimp only
  split
  · exact hw
  · exact State.sound_ite hw (State.sound_settleNode _ _ (State.sound_noteDelivery _ _ _ _ _ _
      (sound_foldl (fun t e ht => State.sound_startLane _ _ _ _ (State.sound_modNode _ _ _ ht)) _ hw)))

@[simp] theorem State.sound_contextFetch (s : State) (node : Nat) (key : BitVec 64)
    (hw : s.sound φ = true) : (State.contextFetch s node key).sound φ = true := by
  unfold State.contextFetch
  dsimp only
  split
  · exact hw
  · split
    · exact hw
    · refine State.sound_ite hw ?_
      split
      · rename_i e
        exact State.sound_modNode _ _ _ (State.sound_makeRoom _ _ _ hw _ e)
      · exact hw

/-! ### Place -/

@[simp] theorem State.sound_seatCrew (s : State) (gang idx core : Nat) (p : CrewPlan)
    (hw : s.sound φ = true) : (State.seatCrew s gang idx core p).sound φ = true := by
  unfold State.seatCrew
  dsimp only
  refine State.sound_eta3 hw (fun h => ?_) (fun h => ?_)
  · rw [List.all_append, h]; rfl
  · rw [List.all_append, h, List.all_map]
    simp only [Function.comp_def, Wave.laidOut_fresh, Bool.true_and, List.all_eq_true, implies_true]

@[simp] theorem State.sound_startCrew (s : State) (crew : Nat) (entry : Word) (fibres x y z rank : Nat)
    (hw : s.sound φ = true) : (State.startCrew s crew entry fibres x y z rank).sound φ = true := by
  exact sound_foldl (fun t w ht => State.sound_modWave _ _ _ ht) _ (State.sound_eta hw)

@[simp] theorem State.sound_placeGang (s : State) (gang core : Nat)
    (hw : s.sound φ = true) : (State.placeGang s gang core).sound φ = true := by
  unfold State.placeGang
  dsimp only
  refine sound_foldl (fun t x ht => ?_) _ (State.sound_modGang _ _ _ hw)
  have h := fun c p => State.sound_seatCrew t gang x c p ht
  exact State.sound_ite (State.sound_startCrew _ _ _ _ _ _ _ _ (h _ _)) (State.sound_startCrew _ _ _ _ _ _ _ _ (h _ _))

@[simp] theorem State.sound_placeAll (s : State) (part : Nat) (a0 : List Nat)
    (hw : s.sound φ = true) : ∀ t, State.placeAll s part a0 = some t → t.sound φ = true := by
  induction a0 generalizing s with
  | nil => intro t ht; cases ht; exact hw
  | cons g gs ih =>
    intro t ht
    unfold State.placeAll at ht
    split at ht
    · exact ih _ (State.sound_placeGang _ _ _ hw) t ht
    · cases ht

@[simp] theorem State.sound_gangPlacement (s : State) (part cluster : Nat)
    (hw : s.sound φ = true) : (State.gangPlacement s part cluster).sound φ = true := by
  unfold State.gangPlacement
  dsimp only
  split
  · exact hw
  · refine State.sound_ite (State.sound_ite (sound_getD (State.sound_placeAll _ _ _ hw) hw) hw) ?_
    refine State.sound_ite (State.sound_ite (State.sound_placeGang _ _ _ hw) hw) ?_
    split
    · exact State.sound_placeGang _ _ _ hw
    · exact hw

@[simp] theorem State.sound_nodeCrewPlacement (s : State) (node cluster core : Nat)
    (hw : s.sound φ = true) : (State.nodeCrewPlacement s node cluster core).sound φ = true := by
  unfold State.nodeCrewPlacement
  repeat' (first | (with_reducible exact hw) | apply State.sound_ite | split)
  all_goals (first | (with_reducible exact hw) | simp +contextual [hw, -State.sound_if])

/-! ### System -/

@[simp] theorem State.sound_fenceComplete (s : State) (wave slot : Nat)
    (hw : s.sound φ = true) : (State.fenceComplete s wave slot).sound φ = true := by
  simp +contextual [State.fenceComplete, hw]

/-! ### StackMul -/

@[simp] theorem State.sound_credit (s : State) (crew wave : Nat) (bar : VAddr) (n : Nat)
    (hw : s.sound φ = true) : (State.credit s crew wave bar n).sound φ = true := by
  unfold State.credit
  dsimp only
  repeat' (first | (with_reducible exact hw) | apply State.sound_ite | split)
  all_goals (first | (with_reducible exact hw) | simp +contextual [hw, -State.sound_if])

@[simp] theorem State.sound_smvLand (s : State) (k first n : Nat)
    (hw : s.sound φ = true) : (State.smvLand s k first n).sound φ = true := by
  have h := fun (t : State) (ht : t.sound φ = true) n => State.sound_same (t := { t with smvs := n }) ht rfl rfl
  unfold State.smvLand
  dsimp only
  split
  · exact hw
  · refine State.sound_ite hw ?_
    have hs := fun e p => State.sound_engineServed s e p hw
    split
    · exact State.sound_deferTranslate _ _ _ _ (h _ (hs _ _) _)
    · refine State.sound_credit _ _ _ _ _ (State.sound_ite ?_ ?_)
      · exact State.sound_eta (sound_foldl (fun t e ht => State.sound_putLmem ht) _ (hs _ _))
      · exact State.sound_eta (sound_foldl (fun t e ht => State.sound_putLmem ht) _ (hs _ _))

/-! ### Slots -/

@[simp] theorem State.sound_slotEvent (s : State) (part slot kind cause : Nat) (counter : Bool)
    (hw : s.sound φ = true) : (State.slotEvent s part slot kind cause counter).sound φ = true := by
  simp +contextual [State.slotEvent, hw]

@[simp] theorem State.sound_modSlot (s : State) (part slot : Nat) (f : Slot → Slot)
    (hw : s.sound φ = true) : (State.modSlot s part slot f).sound φ = true := by
  simp +contextual [State.modSlot, hw]

@[simp] theorem State.sound_fireSlot (s : State) (part slot kind : Nat) (counter : Bool)
    (hw : s.sound φ = true) : (State.fireSlot s part slot kind counter).sound φ = true := by
  simp +contextual [State.fireSlot, hw]

@[simp] theorem State.sound_armSlot (s : State) (part : Nat) (m : Flit)
    (hw : s.sound φ = true) : (State.armSlot s part m).sound φ = true := by
  simp +contextual [State.armSlot, hw]

@[simp] theorem State.sound_fireMessage (s : State) (part : Nat) (m : Flit)
    (hw : s.sound φ = true) : (State.fireMessage s part m).sound φ = true := by
  simp +contextual [State.fireMessage, hw]

@[simp] theorem State.sound_message (s : State) (part : Nat) (m : Flit)
    (hw : s.sound φ = true) : (State.message s part m).sound φ = true := by
  unfold State.message
  repeat' (first | (with_reducible exact hw) | apply State.sound_ite | split)
  all_goals (first | (with_reducible exact hw) | simp +contextual [hw, -State.sound_if])

@[simp] theorem State.sound_command (s : State) (part : Nat) (is : Flit → Bool) (m : MsgStep)
    (hw : s.sound φ = true) : (State.command s part is m).sound φ = true := by
  unfold State.command
  repeat' (first | (with_reducible exact hw) | apply State.sound_ite | split)
  all_goals (first | (with_reducible exact hw) | simp +contextual [hw, -State.sound_if])

@[simp] theorem State.sound_counterSignal (s : State) (part tenant : Nat) (h : Home) (dec : Word)
    (hw : s.sound φ = true) : (State.counterSignal s part tenant h dec).sound φ = true := by
  simp +contextual [State.counterSignal, hw]

/-! ### Engine -/

@[simp] theorem State.sound_endFlight (s : State) (k : Nat) (f : Flight)
    (hw : s.sound φ = true) : (State.endFlight s k f).sound φ = true := by
  simp +contextual [State.endFlight, hw]

@[simp] theorem State.sound_landDests (s : State) (k : Nat) (f : Flight) (ds : List Dest)
    (hw : s.sound φ = true) : (State.landDests s k f ds).sound φ = true := by
  exact State.sound_endFlight _ _ _ (sound_foldl (fun t d ht => State.sound_writeDest _ _ _ ht) _ hw)

@[simp] theorem State.sound_holdFlight (s : State) (k : Nat) (f : Flight) (crew : Nat) (a : VAddr)
    (hw : s.sound φ = true) : (State.holdFlight s k f crew a).sound φ = true := by
  simp +contextual [State.holdFlight, hw]

@[simp] theorem State.sound_landRay (s : State) (k : Nat) (f : Flight) (lane phys : Nat) (cut : Dword) (ray : List Word)
    (hw : s.sound φ = true) : (State.landRay s k f lane phys cut ray).sound φ = true := by
  unfold State.landRay
  dsimp only
  split
  · exact State.sound_landDests _ _ _ _ hw
  · exact State.sound_landDests _ _ _ _ hw
  · exact State.sound_holdFlight _ _ _ _ _ hw
  · exact State.sound_defer _ _ (State.sound_landDests _ _ _ _ hw)

@[simp] theorem State.sound_landNear (s : State) (k : Nat) (f : Flight) (d : Nat) (q : Hyper) (base : VAddr) (count : Nat)
    (hw : s.sound φ = true) : (State.landNear s k f d q base count).sound φ = true := by
  unfold State.landNear
  dsimp only
  split
  · exact State.sound_landDests _ _ _ _ hw
  · exact State.sound_holdFlight _ _ _ _ _ hw

@[simp] theorem State.sound_landFlight (s : State) (k : Nat)
    (hw : s.sound φ = true) : (State.landFlight s k).sound φ = true := by
  unfold State.landFlight
  dsimp only
  split
  · exact hw
  · refine State.sound_ite hw ?_
    split
    · exact State.sound_landDests _ _ _ _ hw
    · exact State.sound_landDests _ _ _ _ hw
    · exact State.sound_endFlight _ _ _ (State.sound_modWave _ _ _ hw)
    · exact State.sound_eta (State.sound_putLmem hw)
    · exact State.sound_endFlight _ _ _ (State.sound_putLmem hw)
    · split
      · exact State.sound_landDests _ _ _ _ (State.sound_performLoad _ _ _ hw)
      · exact State.sound_performLoad _ _ _ hw
    · exact State.sound_ite (State.sound_landRay _ _ _ _ _ _ _ hw) hw
    · exact State.sound_ite (State.sound_landNear _ _ _ _ _ _ _ (State.sound_engineServed _ _ _ hw)) hw

@[simp] theorem State.sound_finishCopy (s : State) (k : Nat) (c : Copy) (status : Nat)
    (hw : s.sound φ = true) : (State.finishCopy s k c status).sound φ = true := by
  exact State.sound_addFlight _ _ (State.sound_eta (State.sound_modCrew hw (fun _ h => h)))

@[simp] theorem State.sound_failCopy (s : State) (k : Nat) (c : Copy) (cls : FaultClass) (addr info : Dword)
    (hw : s.sound φ = true) : (State.failCopy s k c cls addr info).sound φ = true := by
  simp +contextual [State.failCopy, hw]

@[simp] theorem State.sound_putPlain (s : State) (hs : List Home) (v : Nat)
    (hw : s.sound φ = true) : (State.putPlain s hs v).sound φ = true := by
  simp +contextual [State.putPlain, hw]

@[simp] theorem State.sound_putElem (s : State) (k : Nat) (c : Copy) (e : Nat) (dst : VAddr) (v : Nat)
    (hw : s.sound φ = true) : ∀ t, State.putElem s k c e dst v = .ok t → t.sound φ = true := by
  intro u ht
  unfold State.putElem at ht
  dsimp only at ht
  split at ht
  · cases ht
  · split at ht
    · cases ht; exact State.sound_eta hw
    · cases ht; exact State.sound_modCrew (State.sound_buffer _ _ _ _ hw) (fun _ h => h)
    · split at ht
      · cases ht; exact State.sound_markDirty (State.sound_putPlain _ _ _ hw)
      · cases ht

@[simp] theorem State.sound_moveElem (s : State) (k : Nat) (c : Copy) (n : Nat)
    (hw : s.sound φ = true) : ∀ t, State.moveElem s k c n = .ok t → t.sound φ = true := by
  intro t ht
  unfold State.moveElem at ht
  dsimp only at ht
  split at ht
  · cases ht
  · split at ht
    · exact State.sound_putElem _ _ _ _ _ _ hw t ht
    · cases ht

@[simp] theorem State.sound_moveElems (s : State) (k : Nat) (c : Copy) (first : Nat) (a0 : Nat) (a1 : Nat)
    (hw : s.sound φ = true) : (State.moveElems s k c first a0 a1).2.2.sound φ = true := by
  induction a0 generalizing s first a1 with
  | zero => exact hw
  | succ n ih =>
    unfold State.moveElems
    split
    · rename_i e
      exact ih _ _ _ (State.sound_moveElem _ _ _ _ hw _ e)
    · exact hw

@[simp] theorem State.sound_creditLanded (s : State) (c : Copy) (n : Nat)
    (hw : s.sound φ = true) : (State.creditLanded s c n).sound φ = true := by
  unfold State.creditLanded
  repeat' (first | (with_reducible exact hw) | apply State.sound_ite | split)
  all_goals (first | (with_reducible exact hw) | simp +contextual [hw, -State.sound_if])

@[simp] theorem State.sound_suspendCopy (s : State) (k : Nat) (c : Copy) (elem : Nat) (a : VAddr)
    (hw : s.sound φ = true) : (State.suspendCopy s k c elem a).sound φ = true := by
  simp +contextual [State.suspendCopy, hw]

@[simp] theorem State.sound_copyServed (s : State) (c : Copy) (host : Bool)
    (hw : s.sound φ = true) : (State.copyServed s c host).sound φ = true := by
  have h := State.sound_hostServed _ host c.crew (State.sound_engineServed s (.copies (s.copyCluster c)) (s.partOf c.crew) hw)
  exact State.sound_ite (State.sound_engineServed _ _ _ h) h

@[simp] theorem State.sound_copyPacket (s : State) (k first n : Nat)
    (hw : s.sound φ = true) : (State.copyPacket s k first n).sound φ = true := by
  unfold State.copyPacket
  split
  · exact hw
  · rename_i c _
    dsimp only
    refine State.sound_ite hw ?_
    have h := State.sound_moveElems _ k c first n 0 (State.sound_copyServed s c (s.packetHost c first n) hw)
    generalize (s.copyServed c (s.packetHost c first n)).moveElems k c first n 0 = r at h ⊢
    obtain ⟨done, stop, t⟩ := r
    dsimp only at h ⊢
    generalize (if c.toPeer = true then c.goneOut first done else c.landed first done) = d
    have h2 : ∀ x, ({ t with copies := x } : State).sound φ = true := fun x => State.sound_eta h
    have h4 : (if d.toPeer = true then ({ t with copies := change k (fun _ => d) t.copies } : State) else
        State.creditLanded { t with copies := change k (fun _ => d) t.copies } d done).sound φ = true :=
      State.sound_ite (h2 _) (State.sound_creditLanded _ _ _ (h2 _))
    split
    · exact State.sound_ite (State.sound_finishCopy _ _ _ _ h4) h4
    · exact h4
    · exact State.sound_ite h4 (State.sound_suspendCopy _ _ _ _ _ h4)
    · exact State.sound_failCopy _ _ _ _ _ _ h4
    · exact State.sound_failCopy _ _ _ _ _ _ h4

@[simp] theorem State.sound_copyRelease (s : State) (k : Nat)
    (hw : s.sound φ = true) : (State.copyRelease s k).sound φ = true := by
  unfold State.copyRelease
  repeat' (first | (with_reducible exact hw) | apply State.sound_ite | split)
  all_goals (first | (with_reducible exact hw) | simp +contextual [hw, -State.sound_if])

@[simp] theorem State.sound_copysSignal (s : State) (k : Nat)
    (hw : s.sound φ = true) : (State.copysSignal s k).sound φ = true := by
  unfold State.copysSignal
  split
  · exact hw
  · rename_i c _
    dsimp only
    have h := State.sound_copyServed s c (s.inHost c.crew c.desc.ctr) hw
    refine State.sound_ite hw (State.sound_ite (State.sound_failCopy _ _ _ _ _ _ h) ?_)
    split
    · exact State.sound_eta h
    · split
      · exact State.sound_finishCopy _ _ _ _ (State.sound_markDirty (State.sound_counterSignal _ _ _ _ _ h))
      · exact State.sound_suspendCopy _ _ _ _ _ h

@[simp] theorem State.sound_resumeHeld (s : State) (acc lds : List Nat)
    (hw : s.sound φ = true) : (State.resumeHeld s acc lds).sound φ = true := by
  exact State.sound_performAll _ _ hw

@[simp] theorem State.sound_faultServiced (s : State) (f : Nat) (pages : List PageSpec)
    (hw : s.sound φ = true) : (State.faultServiced s f pages).sound φ = true := by
  unfold State.faultServiced
  split
  · exact hw
  · dsimp only
    exact State.sound_ite hw (State.sound_postAgain _ (State.sound_resumeHeld _ _ _ (State.sound_eta
      (State.sound_modPart _ _ _ (State.sound_snapPages _ _ _ _ hw)))))

@[simp] theorem State.sound_failFlight (s : State) (k : Nat) (f : Flight) (a : VAddr)
    (hw : s.sound φ = true) : (State.failFlight s k f a).sound φ = true := by
  unfold State.failFlight
  repeat' (first | (with_reducible exact hw) | apply State.sound_ite | split)
  all_goals (first | (with_reducible exact hw) | simp +contextual [hw, -State.sound_if])

@[simp] theorem State.sound_faultFatal (s : State) (f : Nat)
    (hw : s.sound φ = true) : (State.faultFatal s f).sound φ = true := by
  unfold State.faultFatal
  split
  · exact hw
  · dsimp only
    refine State.sound_ite hw (State.sound_postAgain _ ?_)
    refine sound_foldl (fun t x ht => State.sound_modView _ _ _ ht) _ ?_
    refine sound_foldl (fun t x ht => State.sound_failCopy _ _ _ _ _ _ ht) _ ?_
    refine sound_foldl (fun t x ht => State.sound_failFlight _ _ _ _ ht) _ ?_
    refine sound_foldl (fun t x ht => State.sound_failAccess _ _ _ ht) _ ?_
    exact State.sound_eta hw

@[simp] theorem State.sound_askPage (s : State) (part tenant : Nat) (a : VAddr)
    (hw : s.sound φ = true) : (State.askPage s part tenant a).sound φ = true := by
  simp +contextual [State.askPage, hw]

@[simp] theorem State.sound_runHeld (s : State) (h : Home) (ops : List BarOp)
    (hw : s.sound φ = true) : (State.runHeld s h ops).sound φ = true := by
  simp +contextual [State.runHeld, hw]

@[simp] theorem State.sound_mergeLaunch (s : State) (launch : Nat) (b : DetBar)
    (hw : s.sound φ = true) : (State.mergeLaunch s launch b).2.sound φ = true := by
  exact State.sound_modDetBar _ _ _ _ (State.sound_mergeAll _ _ _ _ hw)

@[simp] theorem State.sound_mergeLaunches (s : State) (a0 : List (Nat × DetBar))
    (hw : s.sound φ = true) : (State.mergeLaunches s a0).2.sound φ = true := by
  induction a0 generalizing s with
  | nil => exact hw
  | cons e es ih => exact ih _ (State.sound_mergeLaunch _ _ _ hw)

@[simp] theorem State.sound_detMerge (s : State) (launch pa : Nat)
    (hw : s.sound φ = true) : (State.detMerge s launch pa).sound φ = true := by
  unfold State.detMerge
  dsimp only
  refine State.sound_ite hw ?_
  split
  · exact State.sound_askPage _ _ _ _ hw
  · exact State.sound_runHeld _ _ _ (sound_foldl (fun t x ht => State.sound_faultGang _ _ ht) _
      (State.sound_completePhase _ _ (State.sound_mergeLaunches _ _ hw)))

@[simp] theorem State.sound_finalMerge (s : State) (launch : Nat)
    (hw : s.sound φ = true) : (State.finalMerge s launch).sound φ = true := by
  unfold State.finalMerge
  dsimp only
  refine State.sound_ite hw ?_
  split
  · exact State.sound_askPage _ _ _ _ hw
  · refine State.sound_ite (State.sound_modLaunch _ _ _ ?_) ?_
    all_goals
      refine State.sound_mergeAll _ _ _ _ (State.sound_eta2 hw (all_lmem_map (fun e he => ?_)))
      split <;> exact he

@[simp] theorem State.sound_portDown (s : State) (port : Nat)
    (hw : s.sound φ = true) : (State.portDown s port).sound φ = true := by
  simp +contextual [State.portDown, hw]

@[simp] theorem State.sound_sendPeer (s : State) (m : PeerMsg)
    (hw : s.sound φ = true) : (State.sendPeer s m).sound φ = true := by
  simp +contextual [State.sendPeer, hw]

@[simp] theorem State.sound_peerLanded (s : State) (port k first n : Nat)
    (hw : s.sound φ = true) : (State.peerLanded s port k first n).sound φ = true := by
  unfold State.peerLanded
  repeat' (first | (with_reducible exact hw) | apply State.sound_ite | split)
  all_goals (first | (with_reducible exact hw) | simp +contextual [hw, -State.sound_if])

@[simp] theorem State.sound_peerRefused (s : State) (port k a : Nat)
    (hw : s.sound φ = true) : (State.peerRefused s port k a).sound φ = true := by
  unfold State.peerRefused
  repeat' (first | (with_reducible exact hw) | apply State.sound_ite | split)
  all_goals (first | (with_reducible exact hw) | simp +contextual [hw, -State.sound_if])

@[simp] theorem State.sound_peerData (s : State) (port part k first a : Nat) (bs : List Byte)
    (hw : s.sound φ = true) : (State.peerData s port part k first a bs).sound φ = true := by
  unfold State.peerData
  dsimp only
  split
  · exact State.sound_sendPeer _ _ (State.sound_markDirty (State.sound_markDirty (State.sound_putPlain _ _ _ hw)))
  · exact State.sound_sendPeer _ _ hw

@[simp] theorem State.sound_peerSignal (s : State) (port part k a : Nat) (dec : Word)
    (hw : s.sound φ = true) : (State.peerSignal s port part k a dec).sound φ = true := by
  unfold State.peerSignal
  dsimp only
  split
  · exact State.sound_sendPeer _ _ (State.sound_markDirty (State.sound_counterSignal _ _ _ _ _ hw))
  · exact State.sound_sendPeer _ _ hw

@[simp] theorem State.sound_peerTraffic (s : State) (m : PeerMsg)
    (hw : s.sound φ = true) : (State.peerTraffic s m).sound φ = true := by
  unfold State.peerTraffic
  repeat' (first | (with_reducible exact hw) | apply State.sound_ite | split)
  all_goals (first | (with_reducible exact hw) | simp +contextual [hw, -State.sound_if])

/-! ### Accept -/

@[simp] theorem State.sound_newGangs (s : State) (launch part : Nat) (d : Desc)
    (hw : s.sound φ = true) : (State.newGangs s launch part d).sound φ = true := by
  simp +contextual [State.newGangs, hw]

@[simp] theorem State.sound_enterLaunch (s : State) (l : Launch) (p : LaunchPlan)
    (hw : s.sound φ = true) : (State.enterLaunch s l p).sound φ = true := by
  simp +contextual [State.enterLaunch, hw]

@[simp] theorem State.sound_signal (s : State) (part tenant : Nat) (t : Dword) (status firing : Nat) (tag : Word)
    (hw : s.sound φ = true) : (State.signal s part tenant t status firing tag).sound φ = true := by
  unfold State.signal
  split
  · exact hw
  · exact sound_getD (fun _ h => State.sound_writeNat? hw h) hw

@[simp] theorem State.sound_rejectLaunch (s : State) (k : Asker) (ws : List Word) (qok : Bool) (off : Nat) (addr : Dword)
    (hw : s.sound φ = true) : (State.rejectLaunch s k ws qok off addr).sound φ = true := by
  simp +contextual [State.rejectLaunch, hw]

@[simp] theorem State.sound_takeLaunch (s : State) (k : Asker) (p : LaunchPlan)
    (hw : s.sound φ = true) : (State.takeLaunch s k p).2.sound φ = true := by
  unfold State.takeLaunch
  dsimp only
  exact State.sound_signal _ _ _ _ _ _ _ (State.sound_enterLaunch _ _ _ (State.sound_freeNext _ hw))

theorem State.sound_copyPayload {s t : State} {part tenant : Nat} {ws : List Word} (hw : s.sound φ = true)
    (h : s.copyPayload part tenant ws = .ok t) : t.sound φ = true := by
  unfold State.copyPayload at h
  dsimp only at h
  repeat' split at h
  all_goals cases h
  · exact State.sound_writeNat? hw ‹_›
  · exact hw

@[simp] theorem State.sound_popFiring (s : State) (part slot : Nat)
    (hw : s.sound φ = true) : (State.popFiring s part slot).sound φ = true := by
  simp +contextual [State.popFiring, hw]
/-- The state an answer to an offered launch leaves. -/
def Accepted.state : Accepted → State
  | .waiting s | .unreadable s | .rejected _ s | .accepted _ s => s

theorem State.sound_endBy {s t : State} (k : Asker) (ws : List Word) (qok : Bool) (v : Verdict) (hs : s.sound φ = true)
    (ht : t.sound φ = true) : (s.endBy t k ws qok v).state.sound φ = true := by
  unfold State.endBy
  split
  · exact State.sound_askPage _ _ _ _ hs
  · dsimp only
    split
    · exact State.sound_dropFatal _ _ _ _ ht
    · exact State.sound_rejectLaunch _ _ _ _ _ _ (State.sound_dropFatal _ _ _ _ ht)
  · exact State.sound_rejectLaunch _ _ _ _ _ _ ht

theorem State.sound_acceptance {s t : State} {k : Asker} {r : Accepted} (hw : s.sound φ = true) (h : s.acceptance k = r) (ht : r.state = t)
    :
    t.sound φ = true := by
  subst h ht
  unfold State.acceptance
  split
  · exact hw
  · split
    · exact State.sound_endBy _ _ _ _ hw hw
    · split
      · exact State.sound_endBy _ _ _ _ hw hw
      · exact State.sound_endBy _ _ _ _ hw hw
      · split
        · exact State.sound_endBy _ _ _ _ hw hw
        · split
          · exact State.sound_endBy _ _ _ _ hw hw
          · have hu := State.sound_copyPayload hw ‹_›
            split
            · exact State.sound_endBy _ _ _ _ hw hu
            · exact State.sound_takeLaunch _ _ _ hu

@[simp] theorem State.sound_acceptSlot (s : State) (part slot : Nat)
    (hw : s.sound φ = true) : (State.acceptSlot s part slot).sound φ = true := by
  unfold State.acceptSlot
  dsimp only
  split
  · refine State.sound_ite hw ?_
    split
    all_goals rename_i e
    · exact State.sound_acceptance hw e rfl
    · exact State.sound_postHost _ _ (State.sound_popFiring _ _ _ (State.sound_acceptance hw e rfl))
    · exact State.sound_popFiring _ _ _ (State.sound_acceptance hw e rfl)
    · exact State.sound_popFiring _ _ _ (State.sound_acceptance hw e rfl)
  · exact hw

@[simp] theorem State.sound_answerLaunch (s : State) (k : Nat) (r : LaunchReq) (status : Nat) (v : Word)
    (hw : s.sound φ = true) : (State.answerLaunch s k r status v).sound φ = true := by
  exact State.sound_modWave _ _ _ (State.sound_setUni _ _ _ _ (State.sound_setUni _ _ _ _ (State.sound_eta hw)))

@[simp] theorem State.sound_acceptDevice (s : State) (k : Nat)
    (hw : s.sound φ = true) : (State.acceptDevice s k).sound φ = true := by
  unfold State.acceptDevice
  dsimp only
  split
  · exact hw
  · refine State.sound_ite hw ?_
    split
    all_goals rename_i e
    · exact State.sound_acceptance hw e rfl
    · exact State.sound_answerLaunch _ _ _ _ _ (State.sound_acceptance hw e rfl)
    · exact State.sound_answerLaunch _ _ _ _ _ (State.sound_acceptance hw e rfl)
    · exact State.sound_answerLaunch _ _ _ _ _ (State.sound_notReplayable _ _ (State.sound_acceptance hw e rfl))

@[simp] theorem State.sound_launchAcceptance (s : State) (src : AcceptSrc)
    (hw : s.sound φ = true) : (State.launchAcceptance s src).sound φ = true := by
  unfold State.launchAcceptance
  repeat' (first | (with_reducible exact hw) | apply State.sound_ite | split)
  all_goals (first | (with_reducible exact hw) | simp +contextual [hw, -State.sound_if])

/-! ### Atomic -/

@[simp] theorem sound_AtomArg_send (a : AtomArg) (x : Ctx) (op : Nat) (flag : Option Nat) (s : State) (l : Nat) (p : VAddr)
    (hw : s.sound φ = true) : (AtomArg.send a x op flag s l p).sound φ = true := by
  unfold AtomArg.send
  dsimp only
  split
  · exact State.sound_issueAccess _ _ (State.sound_catchUp _ _ _ _ _ _ (State.sound_modWave _ _ _ hw))
  · exact State.sound_addAccess _ _ (State.sound_notReplayable _ _ hw)

/-! ### Barrier -/

@[simp] theorem State.sound_barCaught (s : State) (x : Ctx) (g : Arg) (act : Lanes)
    (hw : s.sound φ = true) : (State.barCaught s x g act).sound φ = true := by
  unfold State.barCaught
  repeat' (first | (with_reducible exact hw) | apply State.sound_ite | split)
  all_goals (first | (with_reducible exact hw) | simp +contextual [hw, -State.sound_if])

@[simp] theorem State.sound_barSend (s : State) (x : Ctx) (act : Lanes) (a : VAddr) (op : BarOp) (rel : Option Nat)
    (hw : s.sound φ = true) : (State.barSend s x act a op rel).sound φ = true := by
  exact State.sound_issueAccess _ _ (State.sound_catchUp _ _ _ _ _ _ (State.sound_catchUpLanes _ _ _ hw))

@[simp] theorem sound_barEff (g : Arg) (op : Ctx → Lanes → BarOp) (rel : Ctx → Option Nat) (s : State)
    (hw : s.sound φ = true) : (barEff g op rel s).sound φ = true := by
  unfold barEff
  dsimp only
  refine State.sound_ite hw ?_
  split
  · split
    · exact State.sound_barSend _ _ _ _ _ _ hw
    · exact State.sound_barSend _ _ _ _ _ _ (State.sound_notReplayable _ _ hw)
  · exact hw

@[simp] theorem State.sound_setTest (s : State) (g : Arg) (v : Bool)
    (hw : s.sound φ = true) : (State.setTest s g v).sound φ = true := by
  simp +contextual [State.setTest, hw]

/-! ### Issue -/

@[simp] theorem State.sound_issueClause (s : State) (wave : Nat) (cohort : Lanes) (pc : Word) (pos : Nat)
    (hw : s.sound φ = true) : (State.issueClause s wave cohort pc pos).sound φ = true := by
  unfold State.issueClause
  dsimp only
  split
  · exact State.sound_takeFault _ _ _ _ hw
  · split
    · exact State.sound_takeFault _ _ _ _ hw
    · have h := fun c g => State.sound_modWave _ wave (fun w => w.mapLanes cohort g) (State.sound_same (t := { s with cur := c }) hw rfl rfl)
      split
      · exact State.sound_meetFault _ _ _ (h _ _)
      · exact h _ _

@[simp] theorem State.sound_issueWave (s : State) (wave : Nat)
    (hw : s.sound φ = true) : (State.issueWave s wave).sound φ = true := by
  unfold State.issueWave
  dsimp only
  split
  · exact hw
  · exact State.sound_issueClause _ _ _ _ _ (State.sound_modWave _ _ _ hw)

@[simp] theorem State.sound_serve (s : State) (wave : Nat)
    (hw : s.sound φ = true) : (State.serve s wave).sound φ = true := by
  exact State.sound_of hw id id (all_laidOut_map (fun e he => he)) rfl rfl

@[simp] theorem State.sound_issueOpportunity (s : State) (core : Nat)
    (hw : s.sound φ = true) : (State.issueOpportunity s core).sound φ = true := by
  unfold State.issueOpportunity
  dsimp only
  refine State.sound_ite hw ?_
  have h := fun f => State.sound_modCore _ core f (State.sound_freeNext _ hw)
  split
  · exact h _
  · exact State.sound_issueWave _ _ (State.sound_serve _ _ (State.sound_modCore _ _ _ (h _)))
/-- If it holds the clause, then with the form kept. -/
def Wait.Keeps (φ : Facet) (w : Wait) : Prop := ∀ t, (w = .hold t ∨ w = .later t) → t.sound φ = true

theorem Wait.go_keeps : Wait.go.Keeps φ := fun _ e => nomatch e
theorem Wait.park_keeps {m : Lanes} {r : ParkReason} : (Wait.park m r).Keeps φ := fun _ e => nomatch e
theorem Wait.miss_keeps {m : Lanes} {a : VAddr} : (Wait.miss m a).Keeps φ := fun _ e => nomatch e
theorem Wait.stop_keeps {p : Precise} : (Wait.stop p).Keeps φ := fun _ e => nomatch e
theorem Wait.hold_keeps {s : State} (hw : s.sound φ = true) : (Wait.hold s).Keeps φ := fun _ e => by
  rcases e with e | e <;> cases e; exact hw

theorem Wait.later_keeps {s : State} (hw : s.sound φ = true) : (Wait.later s).Keeps φ := fun _ e => by
  rcases e with e | e <;> cases e; exact hw

theorem Wait.ite_keeps {c : Prop} [Decidable c] {a b : Wait} (ha : a.Keeps φ) (hb : b.Keeps φ) :
    (if c then a else b).Keeps φ := by split <;> assumption

theorem State.bulkMiss_keeps {s : State} {ls : Lanes} {a : VAddr} (hw : s.sound φ = true) : (s.bulkMiss ls a).Keeps φ :=
  Wait.ite_keeps Wait.miss_keeps (Wait.hold_keeps (State.sound_askWord _ _ hw))

/-- Where the first wait lets the instruction go on, the second decides. -/
theorem Wait.then_keeps {a b : Wait} (ha : a.Keeps φ) (hb : b.Keeps φ) :
    (match a with | .go => b | w => w).Keeps φ := by
  cases a <;> first | exact hb | exact ha

theorem shelfWait_keeps {s : State} {x : Ctx} {act : Lanes} {lines : List (Nat × Nat)} :
    (shelfWait s x act lines).Keeps φ :=
  Wait.ite_keeps Wait.park_keeps (Wait.ite_keeps Wait.park_keeps Wait.go_keeps)

theorem overflowWait_keeps {s : State} {x : Ctx} {act : Lanes} {cs : List Charge} : (overflowWait s x act cs).Keeps φ := by
  unfold overflowWait
  split
  · exact Wait.ite_keeps Wait.go_keeps Wait.stop_keeps
  · exact Wait.go_keeps

theorem State.wordsWait_keeps {s : State} {x : Ctx} {act : Lanes} {a : VAddr} {n : Nat} (hw : s.sound φ = true) :
    (s.wordsWait x act a n).Keeps φ := by
  refine Wait.ite_keeps (Wait.later_keeps (State.sound_catchUpLanes _ _ _ hw)) ?_
  split
  · exact Wait.miss_keeps
  · exact Wait.go_keeps

theorem State.bulkWait_keeps {s : State} {wave : Nat} {act : Lanes} {runs : List (VAddr × Nat)} (hw : s.sound φ = true) :
    (s.bulkWait wave act runs).Keeps φ :=
  Wait.ite_keeps (Wait.hold_keeps (State.sound_bulkCaught _ _ _ _ hw)) Wait.go_keeps

theorem tileWait_keeps {x : Ctx} {act : Lanes} {n : Nat} {els : Wait} (h : els.Keeps φ) : (tileWait x act n els).Keeps φ :=
  Wait.ite_keeps Wait.go_keeps (Wait.ite_keeps Wait.park_keeps h)

theorem hypWait_keeps {s : State} {x : Ctx} {act : Lanes} {a : VAddr} (hw : s.sound φ = true) : (hypWait s x act a).Keeps φ := by
  have h : (hypPark s x act a).Keeps φ := by
    unfold hypPark
    split
    · exact Wait.ite_keeps shelfWait_keeps (Wait.ite_keeps Wait.park_keeps Wait.go_keeps)
    · exact Wait.go_keeps
  exact Wait.then_keeps h (State.bulkWait_keeps hw)

theorem queryWait_keeps {x : Ctx} {s : State} {act : Lanes} {fsel : Bool} (hw : s.sound φ = true) :
    (queryWait x s act fsel).Keeps φ :=
  Wait.ite_keeps Wait.go_keeps (Wait.ite_keeps Wait.park_keeps
    (Wait.ite_keeps (Wait.hold_keeps hw) Wait.go_keeps))

theorem AtomArg.wait_keeps {a : AtomArg} {s : State} (hw : s.sound φ = true) : (a.wait s).Keeps φ :=
  Wait.ite_keeps Wait.go_keeps (Wait.ite_keeps Wait.park_keeps (Wait.ite_keeps Wait.park_keeps
    (Wait.then_keeps overflowWait_keeps (Wait.ite_keeps (Wait.hold_keeps hw) Wait.go_keeps))))

theorem nearReady_keeps {s : State} {x : Ctx} {g : Arg} (hw : s.sound φ = true) : (nearReady s x g).Keeps φ := by
  unfold nearReady
  split
  · exact State.wordsWait_keeps hw
  · exact Wait.go_keeps

theorem smvReady_keeps {s : State} {x : Ctx} {g : Arg} (hw : s.sound φ = true) : (smvReady s x g).Keeps φ := by
  unfold smvReady
  split
  · exact State.wordsWait_keeps hw
  · exact Wait.go_keeps

theorem copyReady_keeps {s : State} {x : Ctx} {g : Arg} {sub : Nat} (hw : s.sound φ = true) : (copyReady s x g sub).Keeps φ := by
  unfold copyReady
  split
  · exact State.wordsWait_keeps hw
  · exact Wait.go_keeps

theorem copyWait_keeps {g : Arg} {sub : Nat} {s : State} (hw : s.sound φ = true) : (copyWait g sub s).Keeps φ := by
  unfold copyWait
  dsimp only
  have h := copyReady_keeps (x := s.ctx) (g := g) (sub := sub) hw
  generalize copyReady s s.ctx g sub = w at h ⊢
  split
  · exact Wait.ite_keeps Wait.park_keeps
      (Wait.then_keeps overflowWait_keeps (Wait.ite_keeps (Wait.hold_keeps hw) Wait.go_keeps))
  · exact h

theorem scaleWait_keeps {s : State} {x : Ctx} {act : Lanes} {g : Arg} {b : Bool} {r k : Nat} (hw : s.sound φ = true) :
    (scaleWait s x act g b r k).Keeps φ := by
  unfold scaleWait
  split
  · exact Wait.go_keeps
  · refine Wait.then_keeps (State.wordsWait_keeps hw) ?_
    split
    · exact State.wordsWait_keeps hw
    · exact Wait.go_keeps

theorem operandWait_keeps {s : State} {x : Ctx} {act : Lanes} {a : Word} {t : Tag} {outer : Bool} {r k : Nat} (hw : s.sound φ = true) :
    (operandWait s x act a t outer r k).Keeps φ := by
  unfold operandWait
  split
  · exact Wait.go_keeps
  · exact Wait.ite_keeps (Wait.later_keeps (State.sound_catchUpLanes _ _ _ hw)) Wait.go_keeps

theorem barReady_keeps {s : State} {x : Ctx} {g : Arg} {act : Lanes} (hw : s.sound φ = true) : (barReady s x g act).Keeps φ := by
  have h : (s.barCaught x g act).sound φ = true := State.sound_barCaught _ _ _ _ hw
  unfold barReady
  split
  · exact Wait.go_keeps
  · refine Wait.ite_keeps (Wait.later_keeps h) ?_
    split
    · exact Wait.miss_keeps
    · exact Wait.ite_keeps (Wait.later_keeps h) Wait.go_keeps

theorem barwaitWait_keeps {g : Arg} {s : State} (_hw : s.sound φ = true) : (barwaitWait g s).Keeps φ := by
  unfold barwaitWait
  dsimp only
  split
  · exact Wait.go_keeps
  · split
    · exact Wait.ite_keeps Wait.miss_keeps Wait.park_keeps
    · split
      · exact Wait.stop_keeps
      · exact Wait.ite_keeps Wait.go_keeps (Wait.ite_keeps Wait.park_keeps (Wait.ite_keeps Wait.park_keeps Wait.go_keeps))

theorem bartestWait_keeps {g : Arg} {s : State} (hw : s.sound φ = true) : (bartestWait g s).Keeps φ :=
  Wait.ite_keeps Wait.go_keeps (barReady_keeps hw)

/-- A meaning whose effect, and the state it holds its clause with, keep every form. -/
structure Sem.Keeps (m : Sem) : Prop where
  eff : ∀ (φ : Facet) (s : State), s.sound φ = true → (m.eff s).sound φ = true
  hold : ∀ (φ : Facet) (s : State), s.sound φ = true → (m.wait s).Keeps φ

theorem Sem.simple_keeps {size : Nat} {fl : State → Flow} {st ck : State → Option Precise} {eff : State → State}
    (h : ∀ (φ : Facet) (s : State), s.sound φ = true → (eff s).sound φ = true) : (Sem.simple size fl st ck eff).Keeps :=
  ⟨h, fun _ _ _ => Wait.go_keeps⟩

@[simp] theorem RegOp.sem_keeps (o : RegOp) : (RegOp.sem o).Keeps := by
  refine ⟨fun φ s hw => ?_, fun φ s hw => ?_⟩
  · dsimp only [RegOp.sem, Sem.simple]
    repeat' (first | (with_reducible exact hw) | apply State.sound_ite | split)
    all_goals (first | (with_reducible exact hw) | simp +contextual [hw, -State.sound_if])
  · dsimp only [RegOp.sem, Sem.simple]
    repeat' (first | exact Wait.go_keeps | exact Wait.park_keeps | exact Wait.miss_keeps | exact Wait.stop_keeps |
      exact Wait.hold_keeps hw | exact State.bulkWait_keeps hw | exact queryWait_keeps hw | exact overflowWait_keeps | exact Wait.later_keeps hw |
      apply Wait.ite_keeps | apply tileWait_keeps | split)

@[simp] theorem semAdd_keeps (g : Arg) : (semAdd g).Keeps := by
  exact RegOp.sem_keeps _

@[simp] theorem semSub_keeps (g : Arg) : (semSub g).Keeps := by
  exact RegOp.sem_keeps _

@[simp] theorem semMul_keeps (g : Arg) : (semMul g).Keeps := by
  exact RegOp.sem_keeps _

@[simp] theorem semMulh_keeps (g : Arg) : (semMulh g).Keeps := by
  exact RegOp.sem_keeps _

@[simp] theorem semMin_keeps (g : Arg) : (semMin g).Keeps := by
  exact RegOp.sem_keeps _

@[simp] theorem semMax_keeps (g : Arg) : (semMax g).Keeps := by
  exact RegOp.sem_keeps _

@[simp] theorem semAnd_keeps (g : Arg) : (semAnd g).Keeps := by
  exact RegOp.sem_keeps _

@[simp] theorem semOr_keeps (g : Arg) : (semOr g).Keeps := by
  exact RegOp.sem_keeps _

@[simp] theorem semXor_keeps (g : Arg) : (semXor g).Keeps := by
  exact RegOp.sem_keeps _

@[simp] theorem semAndn_keeps (g : Arg) : (semAndn g).Keeps := by
  exact RegOp.sem_keeps _

@[simp] theorem semShl_keeps (g : Arg) : (semShl g).Keeps := by
  exact RegOp.sem_keeps _

@[simp] theorem semShr_keeps (g : Arg) : (semShr g).Keeps := by
  exact RegOp.sem_keeps _

@[simp] theorem semIdiv_keeps (g : Arg) : (semIdiv g).Keeps := by
  exact RegOp.sem_keeps _

@[simp] theorem semSel_keeps (g : Arg) : (semSel g).Keeps := by
  exact RegOp.sem_keeps _

@[simp] theorem semFma_keeps (g : Arg) : (semFma g).Keeps := by
  exact RegOp.sem_keeps _

@[simp] theorem semFms_keeps (g : Arg) : (semFms g).Keeps := by
  exact RegOp.sem_keeps _

@[simp] theorem semCmpp_keeps (g : Arg) : (semCmpp g).Keeps := by
  refine ⟨fun φ s hw => ?_, fun φ s hw => ?_⟩
  · dsimp only [semCmpp, Sem.simple]
    repeat' (first | (with_reducible exact hw) | apply State.sound_ite | split)
    all_goals (first | (with_reducible exact hw) | simp +contextual [hw, -State.sound_if])
  · dsimp only [semCmpp, Sem.simple]
    repeat' (first | exact Wait.go_keeps | exact Wait.park_keeps | exact Wait.miss_keeps | exact Wait.stop_keeps |
      exact Wait.hold_keeps hw | exact State.bulkWait_keeps hw | exact queryWait_keeps hw | exact overflowWait_keeps | exact Wait.later_keeps hw |
      apply Wait.ite_keeps | apply tileWait_keeps | split)

@[simp] theorem semAbs_keeps (g : Arg) : (semAbs g).Keeps := by
  exact RegOp.sem_keeps _

@[simp] theorem semNeg_keeps (g : Arg) : (semNeg g).Keeps := by
  exact RegOp.sem_keeps _

@[simp] theorem semPopc_keeps (g : Arg) : (semPopc g).Keeps := by
  exact RegOp.sem_keeps _

@[simp] theorem semClz_keeps (g : Arg) : (semClz g).Keeps := by
  exact RegOp.sem_keeps _

@[simp] theorem semBrev_keeps (g : Arg) : (semBrev g).Keeps := by
  exact RegOp.sem_keeps _

@[simp] theorem semBfx_keeps (g : Arg) : (semBfx g).Keeps := by
  exact RegOp.sem_keeps _

@[simp] theorem semBfi_keeps (g : Arg) : (semBfi g).Keeps := by
  exact RegOp.sem_keeps _

@[simp] theorem semDot4_keeps (g : Arg) : (semDot4 g).Keeps := by
  exact RegOp.sem_keeps _

@[simp] theorem semWelf_keeps (g : Arg) : (semWelf g).Keeps := by
  refine ⟨fun φ s hw => ?_, fun φ s hw => ?_⟩
  · dsimp only [semWelf, Sem.simple]
    repeat' (first | (with_reducible exact hw) | apply State.sound_ite | split)
    all_goals (first | (with_reducible exact hw) | simp +contextual [hw, -State.sound_if])
  · dsimp only [semWelf, Sem.simple]
    repeat' (first | exact Wait.go_keeps | exact Wait.park_keeps | exact Wait.miss_keeps | exact Wait.stop_keeps |
      exact Wait.hold_keeps hw | exact State.bulkWait_keeps hw | exact queryWait_keeps hw | exact overflowWait_keeps | exact Wait.later_keeps hw |
      apply Wait.ite_keeps | apply tileWait_keeps | split)

@[simp] theorem semWmerge_keeps (g : Arg) : (semWmerge g).Keeps := by
  refine Sem.simple_keeps (fun φ s hw => State.sound_ite (State.sound_ite hw ?_) (State.sound_modWave _ _ _ hw))
  exact State.sound_setUni _ _ _ _ (State.sound_setUni _ _ _ _ (State.sound_setUni _ _ _ _ hw))

@[simp] theorem semNop_keeps  : (semNop).Keeps := by
  refine ⟨fun φ s hw => ?_, fun φ s hw => ?_⟩
  · dsimp only [semNop, Sem.simple]
    repeat' (first | (with_reducible exact hw) | apply State.sound_ite | split)
    all_goals (first | (with_reducible exact hw) | (simp +contextual [hw, -State.sound_if]; done) | (simp +contextual [hw]; done))
  · dsimp only [semNop, Sem.simple]
    repeat' (first | exact Wait.go_keeps | exact Wait.park_keeps | exact Wait.miss_keeps | exact Wait.stop_keeps |
      exact Wait.hold_keeps hw | exact State.bulkWait_keeps hw | exact queryWait_keeps hw | exact overflowWait_keeps | exact Wait.later_keeps hw |
      apply Wait.ite_keeps | apply tileWait_keeps | split)

@[simp] theorem semYield_keeps (g : Arg) : (semYield g).Keeps := by
  refine ⟨fun φ s hw => ?_, fun φ s hw => ?_⟩
  · dsimp only [semYield, Sem.simple]
    repeat' (first | (with_reducible exact hw) | apply State.sound_ite | split)
    all_goals (first | (with_reducible exact hw) | simp +contextual [hw, -State.sound_if])
  · dsimp only [semYield, Sem.simple]
    repeat' (first | exact Wait.go_keeps | exact Wait.park_keeps | exact Wait.miss_keeps | exact Wait.stop_keeps |
      exact Wait.hold_keeps hw | exact State.bulkWait_keeps hw | exact queryWait_keeps hw | exact overflowWait_keeps | exact Wait.later_keeps hw |
      apply Wait.ite_keeps | apply tileWait_keeps | split)

@[simp] theorem semMov_keeps (g : Arg) : (semMov g).Keeps := by
  exact RegOp.sem_keeps _

@[simp] theorem semMovi_keeps (g : Arg) (imm : Word) : (semMovi g imm).Keeps := by
  exact RegOp.sem_keeps _

@[simp] theorem semMovWide_keeps (g : Arg) : (semMovWide g).Keeps := by
  refine ⟨fun φ s hw => ?_, fun φ s hw => ?_⟩
  · dsimp only [semMovWide, Sem.simple]
    repeat' (first | (with_reducible exact hw) | apply State.sound_ite | split)
    all_goals (first | (with_reducible exact hw) | simp +contextual [hw, -State.sound_if])
  · dsimp only [semMovWide, Sem.simple]
    repeat' (first | exact Wait.go_keeps | exact Wait.park_keeps | exact Wait.miss_keeps | exact Wait.stop_keeps |
      exact Wait.hold_keeps hw | exact State.bulkWait_keeps hw | exact queryWait_keeps hw | exact overflowWait_keeps | exact Wait.later_keeps hw |
      apply Wait.ite_keeps | apply tileWait_keeps | split)

@[simp] theorem semCvt_keeps (g : Arg) : (semCvt g).Keeps := by
  exact RegOp.sem_keeps _

@[simp] theorem semVtag_keeps (g : Arg) : (semVtag g).Keeps := by
  exact RegOp.sem_keeps _

@[simp] theorem semSfu_keeps (g : Arg) : (semSfu g).Keeps := by
  refine ⟨fun φ s hw => ?_, fun φ s hw => ?_⟩
  · exact State.sound_ite hw (State.sound_addFlight _ _ (State.sound_modWave _ _ _ (State.sound_countOp _ _ _ hw)))
  · dsimp only [semSfu, Sem.simple]
    repeat' (first | exact Wait.go_keeps | exact Wait.park_keeps | exact Wait.miss_keeps | exact Wait.stop_keeps |
      exact Wait.hold_keeps hw | exact State.bulkWait_keeps hw | exact queryWait_keeps hw | exact overflowWait_keeps | exact Wait.later_keeps hw |
      apply Wait.ite_keeps | apply tileWait_keeps | split)

@[simp] theorem semPerm_keeps (g : Arg) : (semPerm g).Keeps := by
  refine ⟨fun φ s hw => ?_, fun φ s hw => ?_⟩
  · dsimp only [semPerm, Sem.simple]
    repeat' (first | (with_reducible exact hw) | apply State.sound_ite | split)
    all_goals (first | (with_reducible exact hw) | simp +contextual [hw, -State.sound_if])
  · dsimp only [semPerm, Sem.simple]
    repeat' (first | exact Wait.go_keeps | exact Wait.park_keeps | exact Wait.miss_keeps | exact Wait.stop_keeps |
      exact Wait.hold_keeps hw | exact State.bulkWait_keeps hw | exact queryWait_keeps hw | exact overflowWait_keeps | exact Wait.later_keeps hw |
      apply Wait.ite_keeps | apply tileWait_keeps | split)

@[simp] theorem semShfl_keeps (g : Arg) : (semShfl g).Keeps := by
  refine ⟨fun φ s hw => ?_, fun φ s hw => ?_⟩
  · dsimp only [semShfl, Sem.simple]
    repeat' (first | (with_reducible exact hw) | apply State.sound_ite | split)
    all_goals (first | (with_reducible exact hw) | simp +contextual [hw, -State.sound_if])
  · dsimp only [semShfl, Sem.simple]
    repeat' (first | exact Wait.go_keeps | exact Wait.park_keeps | exact Wait.miss_keeps | exact Wait.stop_keeps |
      exact Wait.hold_keeps hw | exact State.bulkWait_keeps hw | exact queryWait_keeps hw | exact overflowWait_keeps | exact Wait.later_keeps hw |
      apply Wait.ite_keeps | apply tileWait_keeps | split)

@[simp] theorem redSem_keeps (g : Arg) (op : Nat) (scan : Bool) : (redSem g op scan).Keeps := by
  refine ⟨fun φ s hw => ?_, fun φ s hw => ?_⟩
  · dsimp only [redSem, Sem.simple]
    repeat' (first | (with_reducible exact hw) | apply State.sound_ite | split)
    all_goals (first | (with_reducible exact hw) | simp +contextual [hw, -State.sound_if])
  · dsimp only [redSem, Sem.simple]
    repeat' (first | exact Wait.go_keeps | exact Wait.park_keeps | exact Wait.miss_keeps | exact Wait.stop_keeps |
      exact Wait.hold_keeps hw | exact State.bulkWait_keeps hw | exact queryWait_keeps hw | exact overflowWait_keeps | exact Wait.later_keeps hw |
      apply Wait.ite_keeps | apply tileWait_keeps | split)

@[simp] theorem semReduce_keeps (g : Arg) : (semReduce g).Keeps := by
  exact redSem_keeps ..

@[simp] theorem semScan_keeps (g : Arg) : (semScan g).Keeps := by
  exact redSem_keeps ..

@[simp] theorem semBra_keeps (g : Arg) (off : Word) : (semBra g off).Keeps := by
  refine ⟨fun φ s hw => ?_, fun φ s hw => ?_⟩
  · dsimp only [semBra, Sem.simple]
    repeat' (first | (with_reducible exact hw) | apply State.sound_ite | split)
    all_goals (first | (with_reducible exact hw) | simp +contextual [hw, -State.sound_if])
  · dsimp only [semBra, Sem.simple]
    repeat' (first | exact Wait.go_keeps | exact Wait.park_keeps | exact Wait.miss_keeps | exact Wait.stop_keeps |
      exact Wait.hold_keeps hw | exact State.bulkWait_keeps hw | exact queryWait_keeps hw | exact overflowWait_keeps | exact Wait.later_keeps hw |
      apply Wait.ite_keeps | apply tileWait_keeps | split)

@[simp] theorem semBrc_keeps (off : Word) (neg : Bool) (p : Nat) : (semBrc off neg p).Keeps := by
  refine ⟨fun φ s hw => ?_, fun φ s hw => ?_⟩
  · dsimp only [semBrc, Sem.simple]
    repeat' (first | (with_reducible exact hw) | apply State.sound_ite | split)
    all_goals (first | (with_reducible exact hw) | simp +contextual [hw, -State.sound_if])
  · dsimp only [semBrc, Sem.simple]
    repeat' (first | exact Wait.go_keeps | exact Wait.park_keeps | exact Wait.miss_keeps | exact Wait.stop_keeps |
      exact Wait.hold_keeps hw | exact State.bulkWait_keeps hw | exact queryWait_keeps hw | exact overflowWait_keeps | exact Wait.later_keeps hw |
      apply Wait.ite_keeps | apply tileWait_keeps | split)

@[simp] theorem semBrx_keeps (g : Arg) : (semBrx g).Keeps := by
  refine ⟨fun φ s hw => ?_, fun φ s hw => ?_⟩
  · dsimp only [semBrx, Sem.simple]
    repeat' (first | (with_reducible exact hw) | apply State.sound_ite | split)
    all_goals (first | (with_reducible exact hw) | simp +contextual [hw, -State.sound_if])
  · dsimp only [semBrx, Sem.simple]
    repeat' (first | exact Wait.go_keeps | exact Wait.park_keeps | exact Wait.miss_keeps | exact Wait.stop_keeps |
      exact Wait.hold_keeps hw | exact State.bulkWait_keeps hw | exact queryWait_keeps hw | exact overflowWait_keeps | exact Wait.later_keeps hw |
      apply Wait.ite_keeps | apply tileWait_keeps | split)

@[simp] theorem semCall_keeps (g : Arg) (off : Word) : (semCall g off).Keeps := by
  refine ⟨fun φ s hw => ?_, fun φ s hw => ?_⟩
  · dsimp only [semCall, Sem.simple]
    repeat' (first | (with_reducible exact hw) | apply State.sound_ite | split)
    all_goals (first | (with_reducible exact hw) | simp +contextual [hw, -State.sound_if])
  · dsimp only [semCall, Sem.simple]
    repeat' (first | exact Wait.go_keeps | exact Wait.park_keeps | exact Wait.miss_keeps | exact Wait.stop_keeps |
      exact Wait.hold_keeps hw | exact State.bulkWait_keeps hw | exact queryWait_keeps hw | exact overflowWait_keeps | exact Wait.later_keeps hw |
      apply Wait.ite_keeps | apply tileWait_keeps | split)

@[simp] theorem semRet_keeps (g : Arg) : (semRet g).Keeps := by
  refine ⟨fun φ s hw => ?_, fun φ s hw => ?_⟩
  · dsimp only [semRet, Sem.simple]
    repeat' (first | (with_reducible exact hw) | apply State.sound_ite | split)
    all_goals (first | (with_reducible exact hw) | simp +contextual [hw, -State.sound_if])
  · dsimp only [semRet, Sem.simple]
    repeat' (first | exact Wait.go_keeps | exact Wait.park_keeps | exact Wait.miss_keeps | exact Wait.stop_keeps |
      exact Wait.hold_keeps hw | exact State.bulkWait_keeps hw | exact queryWait_keeps hw | exact overflowWait_keeps | exact Wait.later_keeps hw |
      apply Wait.ite_keeps | apply tileWait_keeps | split)

@[simp] theorem semFork_keeps (g : Arg) (pd : Nat) (n : Nat) (off : Word) : (semFork g pd n off).Keeps := by
  exact Sem.simple_keeps (fun φ s hw => State.sound_modWave _ _ _ (sound_foldl (fun t e ht => State.sound_forkOne _ _ _ _ _ _ _ _ ht) _ hw))

@[simp] theorem semFend_keeps (g : Arg) : (semFend g).Keeps := by
  refine ⟨fun φ s hw => ?_, fun φ s hw => ?_⟩
  · dsimp only [semFend, Sem.simple]
    repeat' (first | (with_reducible exact hw) | apply State.sound_ite | split)
    all_goals (first | (with_reducible exact hw) | simp +contextual [hw, -State.sound_if])
  · dsimp only [semFend, Sem.simple]
    repeat' (first | exact Wait.go_keeps | exact Wait.park_keeps | exact Wait.miss_keeps | exact Wait.stop_keeps |
      exact Wait.hold_keeps hw | exact State.bulkWait_keeps hw | exact queryWait_keeps hw | exact overflowWait_keeps | exact Wait.later_keeps hw |
      apply Wait.ite_keeps | apply tileWait_keeps | split)

@[simp] theorem loadSem_keeps (g : Arg) (shelf : Bool) : (loadSem g shelf).Keeps := by
  refine ⟨fun φ s hw => ?_, fun φ s hw => ?_⟩
  · dsimp only [loadSem, Sem.simple]
    repeat' (first | (with_reducible exact hw) | apply State.sound_ite | split)
    all_goals (first | (with_reducible exact hw) | simp +contextual [hw, -State.sound_if])
  · refine Wait.ite_keeps Wait.go_keeps (Wait.then_keeps (Wait.ite_keeps shelfWait_keeps Wait.go_keeps)
      (Wait.ite_keeps (Wait.hold_keeps hw) Wait.go_keeps))

@[simp] theorem semLdl_keeps (g : Arg) : (semLdl g).Keeps := by
  exact loadSem_keeps ..

@[simp] theorem semLds_keeps (g : Arg) : (semLds g).Keeps := by
  exact loadSem_keeps ..

@[simp] theorem storeSem_keeps (g : Arg) (shelf : Bool) : (storeSem g shelf).Keeps := by
  refine ⟨fun φ s hw => ?_, fun φ s hw => ?_⟩
  · exact State.sound_ite hw (sound_foldl (fun t e ht => sound_storeOne _ _ _ _ _ _ ht) _ (State.sound_fresh _ (State.sound_buffer _ _ _ _ hw)))
  · exact Wait.ite_keeps Wait.go_keeps (Wait.ite_keeps (Wait.ite_keeps Wait.park_keeps Wait.go_keeps)
      (Wait.then_keeps shelfWait_keeps overflowWait_keeps))

@[simp] theorem semStl_keeps (g : Arg) : (semStl g).Keeps := by
  exact storeSem_keeps ..

@[simp] theorem semSts_keeps (g : Arg) : (semSts g).Keeps := by
  exact storeSem_keeps ..

@[simp] theorem semSpush_keeps (g : Arg) : (semSpush g).Keeps := by
  refine ⟨fun φ s hw => ?_, fun φ s hw => ?_⟩
  · dsimp only [semSpush, Sem.simple]
    repeat' (first | (with_reducible exact hw) | apply State.sound_ite | split)
    all_goals (first | (with_reducible exact hw) | simp +contextual [hw, -State.sound_if])
  · dsimp only [semSpush, Sem.simple]
    repeat' (first | exact Wait.go_keeps | exact Wait.park_keeps | exact Wait.miss_keeps | exact Wait.stop_keeps |
      exact Wait.hold_keeps hw | exact State.bulkWait_keeps hw | exact queryWait_keeps hw | exact overflowWait_keeps | exact Wait.later_keeps hw |
      apply Wait.ite_keeps | apply tileWait_keeps | split)

@[simp] theorem semSpop_keeps (g : Arg) : (semSpop g).Keeps := by
  refine ⟨fun φ s hw => ?_, fun φ s hw => ?_⟩
  · exact State.sound_ite hw (State.sound_addFlight _ _ (State.sound_modWave _ _ _ (State.sound_countOp _ _ _ hw)))
  · dsimp only [semSpop, Sem.simple]
    repeat' (first | exact Wait.go_keeps | exact Wait.park_keeps | exact Wait.miss_keeps | exact Wait.stop_keeps |
      exact Wait.hold_keeps hw | exact State.bulkWait_keeps hw | exact queryWait_keeps hw | exact overflowWait_keeps | exact Wait.later_keeps hw |
      apply Wait.ite_keeps | apply tileWait_keeps | split)

@[simp] theorem atomSem_keeps (a : AtomArg) : (atomSem a).Keeps := by
  refine ⟨fun φ s hw => ?_, fun φ s hw => ?_⟩
  · refine State.sound_ite hw (sound_foldl (fun t e ht => sound_AtomArg_send _ _ _ _ _ _ _ ht) _ ?_)
    have h := fun w f => State.sound_countOp _ w f (State.sound_buffer s s.ctx.crewId [] (a.charges s s.ctx) hw)
    exact State.sound_ite (h _ _) (State.sound_modWave _ _ _ (h _ _))
  · exact AtomArg.wait_keeps hw

@[simp] theorem semAtom_keeps (g : Arg) (sub : Nat) : (semAtom g sub).Keeps := by
  exact atomSem_keeps ..

@[simp] theorem semAtomc_keeps (g : Arg) (sub : Nat) : (semAtomc g sub).Keeps := by
  exact atomSem_keeps ..

theorem barSem_keeps {g : Arg} {sub : Nat} {tag bad : Ctx → Bool} {unknown : State → Bool} {eff : State → State}
    (h : ∀ (φ : Facet) (s : State), s.sound φ = true → (eff s).sound φ = true) :
    (barSem g sub tag bad unknown (fun _ => .go) eff).Keeps :=
  ⟨h, fun _ _ _ => Wait.go_keeps⟩

@[simp] theorem semBarinit_keeps (g : Arg) : (semBarinit g).Keeps := by
  unfold semBarinit
  exact barSem_keeps (fun _ _ hw => sound_barEff g _ _ _ hw)

@[simp] theorem semBararr_keeps (g : Arg) : (semBararr g).Keeps := by
  unfold semBararr
  exact barSem_keeps (fun _ _ hw => sound_barEff g _ _ _ hw)

@[simp] theorem semBarexp_keeps (g : Arg) : (semBarexp g).Keeps := by
  unfold semBarexp
  exact barSem_keeps (fun _ _ hw => sound_barEff g _ _ _ hw)

@[simp] theorem semBarwait_keeps (g : Arg) : (semBarwait g).Keeps := by
  refine ⟨fun φ s hw => ?_, fun φ s hw => ?_⟩
  · refine State.sound_ite hw ?_
    split
    · exact State.sound_newSnaps _ _ _ (State.sound_markBarrier _ _ (State.sound_modWave _ _ _ (State.sound_barCaught _ _ _ _ hw)))
    · exact State.sound_modWave _ _ _ (State.sound_barCaught _ _ _ _ hw)
  · exact barwaitWait_keeps hw

@[simp] theorem semBartest_keeps (g : Arg) : (semBartest g).Keeps := by
  refine ⟨fun φ s hw => ?_, fun _ _ hw => bartestWait_keeps hw⟩
  dsimp only [semBartest, barSem]
  refine State.sound_ite hw ?_
  have h := State.sound_barCaught s s.ctx g (s.ctx.act g.m) hw
  split
  · exact State.sound_setTest _ _ _ (State.sound_markBarrier _ _ h)
  · exact h

@[simp] theorem copySem_keeps (g : Arg) (sub : Nat) : (copySem g sub).Keeps := by
  refine ⟨fun φ s hw => ?_, fun φ s hw => ?_⟩
  · dsimp only [copySem, Sem.simple]
    repeat' (first | (with_reducible exact hw) | apply State.sound_ite | split)
    all_goals (first | (with_reducible exact hw) | simp +contextual [hw, -State.sound_if])
  · exact copyWait_keeps hw

@[simp] theorem semCopy_keeps (g : Arg) : (semCopy g).Keeps := by
  exact copySem_keeps ..

@[simp] theorem semCopyb_keeps (g : Arg) : (semCopyb g).Keeps := by
  exact copySem_keeps ..

@[simp] theorem semCopyg_keeps (g : Arg) : (semCopyg g).Keeps := by
  exact copySem_keeps ..

@[simp] theorem semCopys_keeps (g : Arg) : (semCopys g).Keeps := by
  exact copySem_keeps ..

@[simp] theorem mmaSem_keeps (g : Arg) (q : Bool) : (mmaSem g q).Keeps := by
  refine ⟨fun φ s hw => ?_, fun φ s hw => ?_⟩
  · dsimp only [mmaSem, Sem.simple]
    repeat' (first | (with_reducible exact hw) | apply State.sound_ite | split)
    all_goals (first | (with_reducible exact hw) | simp +contextual [hw, -State.sound_if])
  · refine Wait.ite_keeps Wait.go_keeps (Wait.then_keeps (Wait.then_keeps (operandWait_keeps hw)
      (Wait.then_keeps (operandWait_keeps hw) (Wait.ite_keeps Wait.go_keeps (Wait.then_keeps ?_ ?_)))) ?_)
    · exact scaleWait_keeps hw
    · exact scaleWait_keeps hw
    · exact Wait.ite_keeps (Wait.hold_keeps hw) Wait.go_keeps

@[simp] theorem semMma_keeps (g : Arg) : (semMma g).Keeps := by
  exact mmaSem_keeps ..

@[simp] theorem semMmaq_keeps (g : Arg) : (semMmaq g).Keeps := by
  exact mmaSem_keeps ..

@[simp] theorem semMcommit_keeps (g : Arg) : (semMcommit g).Keeps := by
  refine ⟨fun φ s hw => ?_, fun φ s hw => ?_⟩
  · dsimp only [semMcommit, Sem.simple]
    repeat' (first | (with_reducible exact hw) | apply State.sound_ite | split)
    all_goals (first | (with_reducible exact hw) | simp +contextual [hw, -State.sound_if])
  · dsimp only [semMcommit, Sem.simple]
    repeat' (first | exact Wait.go_keeps | exact Wait.park_keeps | exact Wait.miss_keeps | exact Wait.stop_keeps |
      exact Wait.hold_keeps hw | exact State.bulkWait_keeps hw | exact queryWait_keeps hw | exact overflowWait_keeps | exact Wait.later_keeps hw |
      apply Wait.ite_keeps | apply tileWait_keeps | split)

@[simp] theorem semMwait_keeps (g : Arg) : (semMwait g).Keeps := by
  refine ⟨fun φ s hw => ?_, fun φ s hw => ?_⟩
  · dsimp only [semMwait, Sem.simple]
    repeat' (first | (with_reducible exact hw) | apply State.sound_ite | split)
    all_goals (first | (with_reducible exact hw) | (simp +contextual [hw, -State.sound_if]; done) | (simp +contextual [hw]; done))
  · dsimp only [semMwait, Sem.simple]
    repeat' (first | exact Wait.go_keeps | exact Wait.park_keeps | exact Wait.miss_keeps | exact Wait.stop_keeps |
      exact Wait.hold_keeps hw | exact State.bulkWait_keeps hw | exact queryWait_keeps hw | exact overflowWait_keeps | exact Wait.later_keeps hw |
      apply Wait.ite_keeps | apply tileWait_keeps | split)

@[simp] theorem semMrd_keeps (g : Arg) : (semMrd g).Keeps := by
  refine ⟨fun φ s hw => ?_, fun φ s hw => ?_⟩
  · exact State.sound_ite hw (sound_amxSend _ _ _ _ (State.sound_addFlight _ _ (State.sound_modWave _ _ _ (State.sound_countOp _ _ _ hw))))
  · have h := Wait.then_keeps (overflowWait_keeps (s := s) (x := s.ctx) (act := s.ctx.act g.m) (cs := amxCharges g s s.ctx))
      (Wait.ite_keeps (c := s.ctx.flagFull g.m.fsel) (Wait.hold_keeps hw) Wait.go_keeps)
    exact Wait.ite_keeps Wait.go_keeps (Wait.ite_keeps (tileWait_keeps h) h)

@[simp] theorem semMwr_keeps (g : Arg) : (semMwr g).Keeps := by
  refine ⟨fun φ s hw => ?_, fun φ s hw => ?_⟩
  · dsimp only [semMwr, Sem.simple]
    repeat' (first | (with_reducible exact hw) | apply State.sound_ite | split)
    all_goals (first | (with_reducible exact hw) | simp +contextual [hw, -State.sound_if])
  · dsimp only [semMwr, Sem.simple]
    repeat' (first | exact Wait.go_keeps | exact Wait.park_keeps | exact Wait.miss_keeps | exact Wait.stop_keeps |
      exact Wait.hold_keeps hw | exact State.bulkWait_keeps hw | exact queryWait_keeps hw | exact overflowWait_keeps | exact Wait.later_keeps hw |
      apply Wait.ite_keeps | apply tileWait_keeps | split)

@[simp] theorem semMzero_keeps (g : Arg) : (semMzero g).Keeps := by
  refine ⟨fun φ s hw => ?_, fun φ s hw => ?_⟩
  · dsimp only [semMzero, Sem.simple]
    repeat' (first | (with_reducible exact hw) | apply State.sound_ite | split)
    all_goals (first | (with_reducible exact hw) | simp +contextual [hw, -State.sound_if])
  · dsimp only [semMzero, Sem.simple]
    repeat' (first | exact Wait.go_keeps | exact Wait.park_keeps | exact Wait.miss_keeps | exact Wait.stop_keeps |
      exact Wait.hold_keeps hw | exact State.bulkWait_keeps hw | exact queryWait_keeps hw | exact overflowWait_keeps | exact Wait.later_keeps hw |
      apply Wait.ite_keeps | apply tileWait_keeps | split)

@[simp] theorem semSmv_keeps (g : Arg) : (semSmv g).Keeps := by
  refine ⟨fun φ s hw => ?_, fun φ s hw => ?_⟩
  · dsimp only [semSmv, Sem.simple]
    repeat' (first | (with_reducible exact hw) | apply State.sound_ite | split)
    all_goals (first | (with_reducible exact hw) | simp +contextual [hw, -State.sound_if])
  · exact Wait.then_keeps (smvReady_keeps hw) (Wait.ite_keeps Wait.park_keeps Wait.go_keeps)

@[simp] theorem semTld_keeps (g : Arg) : (semTld g).Keeps := by
  refine ⟨fun φ s hw => ?_, fun φ s hw => ?_⟩
  · dsimp only [semTld]
    split
    · exact State.sound_modWave _ _ _ (State.sound_bulkCaught _ _ _ _ hw)
    · exact hw
  · dsimp only [semTld, tldWait]
    split
    · exact tileWait_keeps (State.bulkWait_keeps hw)
    · exact Wait.go_keeps

@[simp] theorem semTst_keeps (g : Arg) : (semTst g).Keeps := by
  refine ⟨fun φ s hw => ?_, fun φ s hw => ?_⟩
  · dsimp only [semTst]
    split
    · exact sound_foldl (fun t i ht => State.sound_storeWords _ _ _ ht) _ (State.sound_bulkCaught _ _ _ _ hw)
    · exact hw
  · dsimp only [semTst]
    split
    · exact tileWait_keeps (Wait.ite_keeps Wait.park_keeps (State.bulkWait_keeps hw))
    · exact Wait.go_keeps

@[simp] theorem semTrd_keeps (g : Arg) : (semTrd g).Keeps := by
  refine ⟨fun φ s hw => ?_, fun φ s hw => ?_⟩
  · dsimp only [semTrd, Sem.simple]
    repeat' (first | (with_reducible exact hw) | apply State.sound_ite | split)
    all_goals (first | (with_reducible exact hw) | simp +contextual [hw, -State.sound_if])
  · dsimp only [semTrd, Sem.simple]
    repeat' (first | exact Wait.go_keeps | exact Wait.park_keeps | exact Wait.miss_keeps | exact Wait.stop_keeps |
      exact Wait.hold_keeps hw | exact State.bulkWait_keeps hw | exact queryWait_keeps hw | exact overflowWait_keeps | exact Wait.later_keeps hw |
      apply Wait.ite_keeps | apply tileWait_keeps | split)

@[simp] theorem semTwr_keeps (g : Arg) : (semTwr g).Keeps := by
  refine ⟨fun φ s hw => ?_, fun φ s hw => ?_⟩
  · dsimp only [semTwr, Sem.simple]
    repeat' (first | (with_reducible exact hw) | apply State.sound_ite | split)
    all_goals (first | (with_reducible exact hw) | simp +contextual [hw, -State.sound_if])
  · dsimp only [semTwr, Sem.simple]
    repeat' (first | exact Wait.go_keeps | exact Wait.park_keeps | exact Wait.miss_keeps | exact Wait.stop_keeps |
      exact Wait.hold_keeps hw | exact State.bulkWait_keeps hw | exact queryWait_keeps hw | exact overflowWait_keeps | exact Wait.later_keeps hw |
      apply Wait.ite_keeps | apply tileWait_keeps | split)

@[simp] theorem semBxunion_keeps (g : Arg) : (semBxunion g).Keeps := by
  refine ⟨fun φ s hw => ?_, fun φ s hw => ?_⟩
  · dsimp only [semBxunion, Sem.simple]
    repeat' (first | (with_reducible exact hw) | apply State.sound_ite | split)
    all_goals (first | (with_reducible exact hw) | simp +contextual [hw, -State.sound_if])
  · dsimp only [semBxunion, Sem.simple]
    repeat' (first | exact Wait.go_keeps | exact Wait.park_keeps | exact Wait.miss_keeps | exact Wait.stop_keeps |
      exact Wait.hold_keeps hw | exact State.bulkWait_keeps hw | exact queryWait_keeps hw | exact overflowWait_keeps | exact Wait.later_keeps hw |
      apply Wait.ite_keeps | apply tileWait_keeps | split)

@[simp] theorem semSahcost_keeps (g : Arg) : (semSahcost g).Keeps := by
  refine ⟨fun φ s hw => ?_, fun φ s hw => ?_⟩
  · dsimp only [semSahcost, Sem.simple]
    repeat' (first | (with_reducible exact hw) | apply State.sound_ite | split)
    all_goals (first | (with_reducible exact hw) | simp +contextual [hw, -State.sound_if])
  · dsimp only [semSahcost, Sem.simple]
    repeat' (first | exact Wait.go_keeps | exact Wait.park_keeps | exact Wait.miss_keeps | exact Wait.stop_keeps |
      exact Wait.hold_keeps hw | exact State.bulkWait_keeps hw | exact queryWait_keeps hw | exact overflowWait_keeps | exact Wait.later_keeps hw |
      apply Wait.ite_keeps | apply tileWait_keeps | split)

@[simp] theorem semNodepack_keeps (g : Arg) : (semNodepack g).Keeps := by
  refine ⟨fun φ s hw => ?_, fun φ s hw => ?_⟩
  · exact State.sound_ite hw (sound_foldl (fun t e ht => sound_storeRun _ _ _ _ _ _ ht) _ (State.sound_fresh _ hw))
  · dsimp only [semNodepack, Sem.simple]
    repeat' (first | exact Wait.go_keeps | exact Wait.park_keeps | exact Wait.miss_keeps | exact Wait.stop_keeps |
      exact Wait.hold_keeps hw | exact State.bulkWait_keeps hw | exact queryWait_keeps hw | exact overflowWait_keeps | exact Wait.later_keeps hw |
      apply Wait.ite_keeps | apply tileWait_keeps | split)

theorem hypSem_keeps (g : Arg) (sub : Nat) (opds : List Opd) (hs bs : List Nat) (f : Ctx → Wave → Wave) (hf : ∀ x w, (f x w).laidOut =
    w.laidOut) : (hypSem g sub opds hs bs f).Keeps := by
  exact Sem.simple_keeps (fun φ s hw => State.sound_ite hw (State.sound_modWave _ _ _ hw (fun w h => by rw [hf]; exact h)))

@[simp] theorem semHbind_keeps (g : Arg) : (semHbind g).Keeps := by
  exact hypSem_keeps _ _ _ _ _ _ (fun _ _ => rfl)

@[simp] theorem semHperm_keeps (g : Arg) : (semHperm g).Keeps := by
  exact hypSem_keeps _ _ _ _ _ _ (fun _ _ => rfl)

@[simp] theorem semHbund_keeps (g : Arg) : (semHbund g).Keeps := by
  exact hypSem_keeps _ _ _ _ _ _ (fun _ _ => rfl)

@[simp] theorem semHclr_keeps (g : Arg) : (semHclr g).Keeps := by
  exact hypSem_keeps _ _ _ _ _ _ (fun _ _ => rfl)

@[simp] theorem semHthr_keeps (g : Arg) : (semHthr g).Keeps := by
  exact hypSem_keeps _ _ _ _ _ _ (fun _ _ => rfl)

@[simp] theorem semHgen_keeps (g : Arg) : (semHgen g).Keeps := by
  exact hypSem_keeps _ _ _ _ _ _ (fun _ _ => rfl)

@[simp] theorem semHld_keeps (g : Arg) : (semHld g).Keeps := by
  refine ⟨fun φ s hw => ?_, fun φ s hw => ?_⟩
  · dsimp only [semHld, Sem.simple]
    repeat' (first | (with_reducible exact hw) | apply State.sound_ite | split)
    all_goals (first | (with_reducible exact hw) | simp +contextual [hw, -State.sound_if])
  · dsimp only [semHld]
    split
    · exact Wait.go_keeps
    · rename_i a _
      refine Wait.then_keeps (hypWait_keeps hw) ?_
      cases (s.bulkCaught s.ctx.cur.wave (s.ctx.act g.m) [(a, 1024)]).taskMiss s.ctx.crewId a 1024
      · exact Wait.go_keeps
      · exact State.bulkMiss_keeps hw

@[simp] theorem semHst_keeps (g : Arg) : (semHst g).Keeps := by
  refine ⟨fun φ s hw => ?_, fun φ s hw => ?_⟩
  · dsimp only [semHst]
    split
    · exact hw
    · refine sound_foldl (fun t e ht => ?_) _ (State.sound_buffer _ _ _ _ (State.sound_bulkCaught _ _ _ _ hw))
      split
      · exact State.sound_buffer _ _ _ _ ht
      · have h := fun a => State.sound_storeUnsafe t s.ctx a ht
        split
        · exact State.sound_markDirty (State.sound_storeWords _ _ _ (h _))
        · exact h _
  · dsimp only [semHst]
    split
    · exact Wait.go_keeps
    · refine Wait.ite_keeps Wait.park_keeps (Wait.then_keeps (hypWait_keeps hw) ?_)
      split
      · exact State.bulkMiss_keeps hw
      · exact overflowWait_keeps

@[simp] theorem semHdist_keeps (g : Arg) : (semHdist g).Keeps := by
  refine ⟨fun φ s hw => ?_, fun φ s hw => ?_⟩
  · dsimp only [semHdist, Sem.simple]
    repeat' (first | (with_reducible exact hw) | apply State.sound_ite | split)
    all_goals (first | (with_reducible exact hw) | simp +contextual [hw, -State.sound_if])
  · dsimp only [semHdist, Sem.simple]
    repeat' (first | exact Wait.go_keeps | exact Wait.park_keeps | exact Wait.miss_keeps | exact Wait.stop_keeps |
      exact Wait.hold_keeps hw | exact State.bulkWait_keeps hw | exact queryWait_keeps hw | exact overflowWait_keeps | exact Wait.later_keeps hw |
      apply Wait.ite_keeps | apply tileWait_keeps | split)

@[simp] theorem semHnear_keeps (g : Arg) : (semHnear g).Keeps := by
  refine ⟨fun φ s hw => ?_, fun φ s hw => ?_⟩
  · dsimp only [semHnear, Sem.simple]
    repeat' (first | (with_reducible exact hw) | apply State.sound_ite | split)
    all_goals (first | (with_reducible exact hw) | simp +contextual [hw, -State.sound_if])
  · exact Wait.then_keeps (nearReady_keeps hw) (queryWait_keeps hw)

@[simp] theorem semRemit_keeps (g : Arg) : (semRemit g).Keeps := by
  refine ⟨fun φ s hw => ?_, fun φ s hw => ?_⟩
  · dsimp only [semRemit, Sem.simple]
    repeat' (first | (with_reducible exact hw) | apply State.sound_ite | split)
    all_goals (first | (with_reducible exact hw) | simp +contextual [hw, -State.sound_if])
  · exact Wait.ite_keeps Wait.go_keeps (Wait.hold_keeps (sound_emitAll g s hw))

@[simp] theorem semKsusp_keeps (g : Arg) : (semKsusp g).Keeps := by
  exact Sem.simple_keeps (fun φ s hw => State.sound_endLanesBy _ _ _ (sound_foldl (fun t l ht => State.sound_saveContext _ _ _ _ ht) _ hw))

@[simp] theorem semKret_keeps (g : Arg) : (semKret g).Keeps := by
  exact Sem.simple_keeps (fun φ s hw => State.sound_endLanes _ _ (sound_foldl (fun t l ht => State.sound_endContext _ _ ht) _ hw))

@[simp] theorem semLaunch_keeps (g : Arg) : (semLaunch g).Keeps := by
  refine ⟨fun φ s hw => ?_, fun φ s hw => ?_⟩
  · have h : ∀ c : Prop, [Decidable c] → ∀ l n, (if c then s else
        ({ (s.catchUpLanes s.ctx.cur.wave (launchParked s s.ctx.wave)) with lreqs := l, nextUid := n } : State)).sound φ = true :=
      fun c _ l n => State.sound_ite hw (State.sound_eta (State.sound_catchUpLanes _ _ _ hw))
    refine State.sound_ite (h _ _ _) (State.sound_ite (State.sound_setUni _ _ _ _ (State.sound_setUni _ _ _ _ (h _ _ _)))
      (State.sound_modWave _ _ _ (h _ _ _)))
  · dsimp only [semLaunch, Sem.simple]
    repeat' (first | exact Wait.go_keeps | exact Wait.park_keeps | exact Wait.miss_keeps | exact Wait.stop_keeps |
      exact Wait.hold_keeps hw | exact State.bulkWait_keeps hw | exact queryWait_keeps hw | exact overflowWait_keeps | exact Wait.later_keeps hw |
      apply Wait.ite_keeps | apply tileWait_keeps | split)

@[simp] theorem semTrap_keeps (g : Arg) : (semTrap g).Keeps := by
  refine ⟨fun φ s hw => ?_, fun φ s hw => ?_⟩
  · dsimp only [semTrap, Sem.simple]
    repeat' (first | (with_reducible exact hw) | apply State.sound_ite | split)
    all_goals (first | (with_reducible exact hw) | simp +contextual [hw, -State.sound_if])
  · dsimp only [semTrap, Sem.simple]
    repeat' (first | exact Wait.go_keeps | exact Wait.park_keeps | exact Wait.miss_keeps | exact Wait.stop_keeps |
      exact Wait.hold_keeps hw | exact State.bulkWait_keeps hw | exact queryWait_keeps hw | exact overflowWait_keeps | exact Wait.later_keeps hw |
      apply Wait.ite_keeps | apply tileWait_keeps | split)

@[simp] theorem semSrd_keeps (g : Arg) : (semSrd g).Keeps := by
  refine ⟨fun φ s hw => ?_, fun φ s hw => ?_⟩
  · dsimp only [semSrd, Sem.simple]
    repeat' (first | (with_reducible exact hw) | apply State.sound_ite | split)
    all_goals (first | (with_reducible exact hw) | simp +contextual [hw, -State.sound_if])
  · dsimp only [semSrd, Sem.simple]
    repeat' (first | exact Wait.go_keeps | exact Wait.park_keeps | exact Wait.miss_keeps | exact Wait.stop_keeps |
      exact Wait.hold_keeps hw | exact State.bulkWait_keeps hw | exact queryWait_keeps hw | exact overflowWait_keeps | exact Wait.later_keeps hw |
      apply Wait.ite_keeps | apply tileWait_keeps | split)

@[simp] theorem semSwr_keeps (g : Arg) : (semSwr g).Keeps := by
  refine ⟨fun φ s hw => ?_, fun φ s hw => ?_⟩
  · dsimp only [semSwr, Sem.simple]
    repeat' (first | (with_reducible exact hw) | apply State.sound_ite | split)
    all_goals (first | (with_reducible exact hw) | simp +contextual [hw, -State.sound_if])
  · dsimp only [semSwr, Sem.simple]
    repeat' (first | exact Wait.go_keeps | exact Wait.park_keeps | exact Wait.miss_keeps | exact Wait.stop_keeps |
      exact Wait.hold_keeps hw | exact State.bulkWait_keeps hw | exact queryWait_keeps hw | exact overflowWait_keeps | exact Wait.later_keeps hw |
      apply Wait.ite_keeps | apply tileWait_keeps | split)

@[simp] theorem semFence_keeps (g : Arg) : (semFence g).Keeps := by
  refine ⟨fun φ s hw => ?_, fun φ s hw => ?_⟩
  · dsimp only [semFence, Sem.simple]
    repeat' (first | (with_reducible exact hw) | apply State.sound_ite | split)
    all_goals (first | (with_reducible exact hw) | simp +contextual [hw, -State.sound_if])
  · dsimp only [semFence, Sem.simple]
    repeat' (first | exact Wait.go_keeps | exact Wait.park_keeps | exact Wait.miss_keeps | exact Wait.stop_keeps |
      exact Wait.hold_keeps hw | exact State.bulkWait_keeps hw | exact queryWait_keeps hw | exact overflowWait_keeps | exact Wait.later_keeps hw |
      apply Wait.ite_keeps | apply tileWait_keeps | split)

@[simp] theorem semFwait_keeps (g : Arg) : (semFwait g).Keeps := by
  refine ⟨fun φ s hw => ?_, fun φ s hw => ?_⟩
  · dsimp only [semFwait, Sem.simple]
    repeat' (first | (with_reducible exact hw) | apply State.sound_ite | split)
    all_goals (first | (with_reducible exact hw) | (simp +contextual [hw, -State.sound_if]; done) | (simp +contextual [hw]; done))
  · dsimp only [semFwait, Sem.simple]
    repeat' (first | exact Wait.go_keeps | exact Wait.park_keeps | exact Wait.miss_keeps | exact Wait.stop_keeps |
      exact Wait.hold_keeps hw | exact State.bulkWait_keeps hw | exact queryWait_keeps hw | exact overflowWait_keeps | exact Wait.later_keeps hw |
      apply Wait.ite_keeps | apply tileWait_keeps | split)

@[simp] theorem semWqry_keeps (g : Arg) : (semWqry g).Keeps := by
  refine ⟨fun φ s hw => ?_, fun φ s hw => ?_⟩
  · dsimp only [semWqry, Sem.simple]
    repeat' (first | (with_reducible exact hw) | apply State.sound_ite | split)
    all_goals (first | (with_reducible exact hw) | simp +contextual [hw, -State.sound_if])
  · dsimp only [semWqry, Sem.simple]
    repeat' (first | exact Wait.go_keeps | exact Wait.park_keeps | exact Wait.miss_keeps | exact Wait.stop_keeps |
      exact Wait.hold_keeps hw | exact State.bulkWait_keeps hw | exact queryWait_keeps hw | exact overflowWait_keeps | exact Wait.later_keeps hw |
      apply Wait.ite_keeps | apply tileWait_keeps | split)

@[simp] theorem semView_keeps (g : Arg) : (semView g).Keeps := by
  refine ⟨fun φ s hw => ?_, fun φ s hw => ?_⟩
  · have h := fun l a => State.sound_catchUpLanes s l a hw
    refine State.sound_ite hw ?_
    dsimp only
    split
    · split
      · exact State.sound_landTile _ _ _ _ _ _ (h _ _)
      · exact State.sound_deferTranslate _ _ _ _ (State.sound_landTile _ _ _ _ _ _ (State.sound_dropFatal _ _ _ _ (h _ _)))
    · exact State.sound_eta (State.sound_modWave _ _ (fun w => w.setTile _ _) (State.sound_freeNext _ (h _ _)))
  · dsimp only [semView, Sem.simple]
    repeat' (first | exact Wait.go_keeps | exact Wait.park_keeps | exact Wait.miss_keeps | exact Wait.stop_keeps |
      exact Wait.hold_keeps hw | exact State.bulkWait_keeps hw | exact queryWait_keeps hw | exact overflowWait_keeps | exact Wait.later_keeps hw |
      apply Wait.ite_keeps | apply tileWait_keeps | split)

@[simp] theorem semVpix_keeps (g : Arg) : (semVpix g).Keeps := by
  exact Sem.simple_keeps (fun φ s hw => State.sound_ite hw (sound_foldl (fun t l ht => State.sound_deliverPixel _ _ _ _ _ _ _ ht) _
    (State.sound_notReplayable _ _ (State.sound_catchUpLanes _ _ _ hw))))

@[simp] theorem semVstat_keeps (g : Arg) : (semVstat g).Keeps := by
  refine ⟨fun φ s hw => ?_, fun φ s hw => ?_⟩
  · dsimp only [semVstat, Sem.simple]
    repeat' (first | (with_reducible exact hw) | apply State.sound_ite | split)
    all_goals (first | (with_reducible exact hw) | simp +contextual [hw, -State.sound_if])
  · dsimp only [semVstat, Sem.simple]
    repeat' (first | exact Wait.go_keeps | exact Wait.park_keeps | exact Wait.miss_keeps | exact Wait.stop_keeps |
      exact Wait.hold_keeps hw | exact State.bulkWait_keeps hw | exact queryWait_keeps hw | exact overflowWait_keeps | exact Wait.later_keeps hw |
      apply Wait.ite_keeps | apply tileWait_keeps | split)

@[simp] theorem semRayq_keeps (g : Arg) : (semRayq g).Keeps := by
  refine ⟨fun φ s hw => ?_, fun φ s hw => ?_⟩
  · exact State.sound_ite hw (sound_foldl (fun t l ht => State.sound_addFlight _ _ ht) _
      (State.sound_modWave _ _ _ (State.sound_countOp _ _ _ (State.sound_catchUpLanes _ _ _ hw))))
  · dsimp only [semRayq, Sem.simple]
    repeat' (first | exact Wait.go_keeps | exact Wait.park_keeps | exact Wait.miss_keeps | exact Wait.stop_keeps |
      exact Wait.hold_keeps hw | exact State.bulkWait_keeps hw | exact queryWait_keeps hw | exact overflowWait_keeps | exact Wait.later_keeps hw |
      apply Wait.ite_keeps | apply tileWait_keeps | split)

/-- Every instruction of a clause keeps every form: its effect, and what it holds its clause with. -/
theorem Instr.sem_keeps {i : Instr} {m : Sem} (h : i.sem = some m) : m.Keeps := by
  cases i <;> dsimp only [Instr.sem] at h <;> cases h
  all_goals simp

/-- Whatever an instruction of a clause does, every form is kept. -/
theorem Sem.step_keeps {m : Sem} (hm : m.Keeps) {s : State} (hw : s.sound φ = true) : (m.step s).sound φ = true := by
  rcases m.step_cases s with ⟨p, -, h⟩ | ⟨-, ⟨-, h⟩ | ⟨ls, r, -, h⟩ | ⟨ls, a, -, h⟩ | ⟨t, hh, h⟩ | ⟨t, hh, h⟩ | ⟨p, -, h⟩⟩ <;> rw [h]
  · exact State.sound_meetFault _ _ _ hw
  · exact State.sound_advance _ _ (hm.eff _ _ hw)
  · exact State.sound_advance _ _ (hm.eff _ _ (State.sound_parkLanes _ _ _ (State.sound_askFor _ _ hw)))
  · exact State.sound_meetMiss _ _ _ hw
  · exact State.sound_holdClause _ (State.sound_takeEntries _ _ (hm.hold _ _ hw _ (.inl hh)))
  · exact State.sound_giveBack _ (hm.hold _ _ hw _ (.inr hh))
  · exact State.sound_takeFault _ _ _ _ hw

@[simp] theorem State.sound_finishMove (s : State) (c : Cursor)
    (hw : s.sound φ = true) : (State.finishMove s c).sound φ = true := by
  unfold State.finishMove
  split
  · exact hw
  · rename_i m e
    obtain ⟨i, -, hi⟩ := Option.bind_eq_some_iff.mp e
    have h := Sem.step_keeps (Instr.sem_keeps hi) (s := { (s.modWave c.wave (fun w => { w with hold := none })) with cur := some c })
      (State.sound_same (State.sound_modWave s c.wave (fun w => { w with hold := none }) hw) rfl rfl)
    dsimp only
    split
    · exact State.sound_holdClause _ (State.sound_same h rfl rfl)
    · exact h

/-- A clause still holds with what its instruction holds it with. -/
theorem State.holdsOn_eq {s t : State} {w : Wait} (h : s.holdsOn w = some t) : w = .hold t := by
  unfold State.holdsOn at h
  split at h
  · split at h
    · cases h; rfl
    · cases h
  · cases h

@[simp] theorem State.sound_clauseContinue (s : State) (wave : Nat)
    (hw : s.sound φ = true) : (State.clauseContinue s wave).sound φ = true := by
  have h := fun c => State.sound_same (t := { (s.modWave wave (fun w => { w with hold := none })) with cur := some c })
    (State.sound_modWave s wave (fun w => { w with hold := none }) hw) rfl rfl
  unfold State.clauseContinue
  dsimp only
  split
  · exact hw
  · refine State.sound_ite hw (State.sound_ite (State.sound_ite (State.sound_finishMove _ _ hw) hw) ?_)
    split
    · exact State.sound_takeFault _ _ _ _ (h _)
    · split
      · rename_i e
        obtain ⟨m, hm, ht⟩ := Option.bind_eq_some_iff.mp e
        obtain ⟨i, -, hi⟩ := Option.bind_eq_some_iff.mp hm
        exact State.sound_holdClause _ ((Instr.sem_keeps hi).hold _ _ (h _) _ (.inl (State.holdsOn_eq ht)))
      · split
        · exact State.sound_meetFault _ _ _ (h _)
        · exact h _

@[simp] theorem State.sound_endPasses (s : State)
    (hw : s.sound φ = true) : (State.endPasses s).sound φ = true := by
  exact State.sound_of hw id id (all_laidOut_map (fun e he => by dsimp only; split <;> exact he)) rfl rfl

@[simp] theorem State.sound_fetchFault (s : State) (c : Cursor)
    (hw : s.sound φ = true) : (State.fetchFault s c).sound φ = true := by
  simp +contextual [State.fetchFault, hw]

@[simp] theorem State.sound_nextEvent (s : State)
    (hw : s.sound φ = true) : (State.nextEvent s).2.sound φ = true := by
  have h := State.sound_endPasses s hw
  unfold State.nextEvent
  dsimp only
  split
  · exact State.sound_same h rfl rfl
  · exact State.sound_same h rfl rfl

/-! ### Retire -/

@[simp] theorem State.sound_gangRetirement (s : State) (g : Nat)
    (hw : s.sound φ = true) : (State.gangRetirement s g).sound φ = true := by
  unfold State.gangRetirement
  dsimp only
  exact State.sound_ite hw (State.sound_eta3 hw (all_filter (q := fun c : Crew => Memory.wf c.lmem)) (all_filter (q := Wave.laidOut)))

@[simp] theorem State.sound_launchRetirement (s : State) (k : Nat)
    (hw : s.sound φ = true) : (State.launchRetirement s k).sound φ = true := by
  unfold State.launchRetirement
  repeat' (first | (with_reducible exact hw) | apply State.sound_ite | split)
  all_goals (first | (with_reducible exact hw) | simp +contextual [hw, -State.sound_if])

@[simp] theorem State.sound_launchStop (s : State) (k : Nat)
    (hw : s.sound φ = true) : (State.launchStop s k).sound φ = true := by
  simp +contextual [State.launchStop, hw]

@[simp] theorem State.sound_answerQuery (s : State) (k : Nat) (r : WRequest) (x y : Word)
    (hw : s.sound φ = true) : (State.answerQuery s k r x y).sound φ = true := by
  simp +contextual [State.answerQuery, hw]

@[simp] theorem State.sound_answerItem (s : State) (k : Nat) (r : WRequest) (d : Desc) (i : Option Nat)
    (hw : s.sound φ = true) : (State.answerItem s k r d i).sound φ = true := by
  unfold State.answerItem
  repeat' (first | (with_reducible exact hw) | apply State.sound_ite | split)
  all_goals (first | (with_reducible exact hw) | simp +contextual [hw, -State.sound_if])

@[simp] theorem State.sound_assignItem (s : State) (k : Nat)
    (hw : s.sound φ = true) : (State.assignItem s k).sound φ = true := by
  unfold State.assignItem
  repeat' (first | (with_reducible exact hw) | apply State.sound_ite | split)
  all_goals (first | (with_reducible exact hw) | simp +contextual [hw, -State.sound_if])

@[simp] theorem State.sound_roundAnswers (s : State) (k : Nat) (a0 : List Nat)
    (hw : s.sound φ = true) : (State.roundAnswers s k a0).sound φ = true := by
  induction a0 generalizing s with
  | nil => exact hw
  | cons c cs ih =>
    unfold State.roundAnswers
    dsimp only
    split
    · exact ih _ hw
    · exact State.sound_ite (ih _ (State.sound_modLaunch _ _ _ (State.sound_answerItem _ _ _ _ _ hw))) (ih _ (State.sound_answerItem _ _ _ _ _ hw))

@[simp] theorem State.sound_queryRound (s : State) (k : Nat)
    (hw : s.sound φ = true) : (State.queryRound s k).sound φ = true := by
  simp +contextual [State.queryRound, hw]

/-! ### Partitions -/

@[simp] theorem State.sound_modTenant (s : State) (part tenant : Nat) (f : Tenant → Tenant)
    (hw : s.sound φ = true) : (State.modTenant s part tenant f).sound φ = true := by
  simp +contextual [State.modTenant, hw]

@[simp] theorem State.sound_writeStatus (s : State) (part tenant off v : Nat)
    (hw : s.sound φ = true) : (State.writeStatus s part tenant off v).sound φ = true := by
  unfold State.writeStatus
  split
  · exact hw
  · split
    · exact hw
    · exact sound_getD (fun _ h => State.sound_writeNat? hw h) hw

@[simp] theorem State.sound_beginSlice (s : State) (part tenant : Nat)
    (hw : s.sound φ = true) : (State.beginSlice s part tenant).sound φ = true := by
  simp +contextual [State.beginSlice, hw]

@[simp] theorem State.sound_createTenant (s : State) (part : Nat) (t : TenantSpec)
    (hw : s.sound φ = true) : (State.createTenant s part t).sound φ = true := by
  simp +contextual [State.createTenant, hw]

@[simp] theorem State.sound_loadAllow (s : State) (part tenant : Nat) (bits : BitVec 1024)
    (hw : s.sound φ = true) : (State.loadAllow s part tenant bits).sound φ = true := by
  simp +contextual [State.loadAllow, hw]

@[simp] theorem State.sound_strand (s : State) (k : Nat)
    (hw : s.sound φ = true) : (State.strand s k).sound φ = true := by
  simp +contextual [State.strand, hw]

@[simp] theorem State.sound_reseat (s : State) (g : Nat)
    (hw : s.sound φ = true) : (State.reseat s g).sound φ = true := by
  unfold State.reseat
  dsimp only
  repeat' (first | (with_reducible exact hw) | apply State.sound_ite | split)
  all_goals (first | (with_reducible exact hw) | simp +contextual [hw, -State.sound_if])

@[simp] theorem State.sound_reseatAll (s : State)
    (hw : s.sound φ = true) : (State.reseatAll s).sound φ = true := by
  exact sound_foldl (fun t x ht => State.sound_reseat _ _ ht) _ (sound_foldl (fun t x ht => State.sound_strand _ _ ht) _ hw)

@[simp] theorem State.sound_sliceExpiry (s : State) (part : Nat)
    (hw : s.sound φ = true) : (State.sliceExpiry s part).sound φ = true := by
  simp +contextual [State.sliceExpiry, hw]

@[simp] theorem State.sound_stopRequest (s : State) (part tenant : Nat)
    (hw : s.sound φ = true) : (State.stopRequest s part tenant).sound φ = true := by
  simp +contextual [State.stopRequest, hw]

@[simp] theorem State.sound_lastEffects (s : State) (part tenant : Nat) (stop : Bool)
    (hw : s.sound φ = true) : (State.lastEffects s part tenant stop).sound φ = true := by
  unfold State.lastEffects
  dsimp only
  split
  · exact State.sound_modTenant _ _ _ _ hw
  · exact State.sound_writeStatus _ _ _ _ _ (State.sound_writeStatus _ _ _ _ _ (State.sound_modTenant _ _ _ _ hw))

@[simp] theorem State.sound_moveCluster (s : State) (giver taker c : Nat)
    (hw : s.sound φ = true) : (State.moveCluster s giver taker c).sound φ = true := by
  simp +contextual [State.moveCluster, hw]

@[simp] theorem State.sound_takeClusters (s : State) (giver taker : Nat) (a0 : Nat)
    (hw : s.sound φ = true) : (State.takeClusters s giver taker a0).sound φ = true := by
  induction a0 generalizing s with
  | zero => exact hw
  | succ n ih =>
    unfold State.takeClusters
    refine State.sound_ite hw ?_
    split
    · exact ih _ (State.sound_moveCluster _ _ _ _ hw)
    · exact hw

@[simp] theorem State.sound_giveQuotas (s : State) (part : Nat)
    (hw : s.sound φ = true) : (State.giveQuotas s part).sound φ = true := by
  simp +contextual [State.giveQuotas, hw]

@[simp] theorem State.sound_landAnswer (s : State) (k : Nat) (f : Flight)
    (hw : s.sound φ = true) : (State.landAnswer s k f).sound φ = true := by
  unfold State.landAnswer
  split
  · exact State.sound_endFlight _ _ _ (State.sound_putLmem hw)
  · exact State.sound_endFlight _ _ _ (State.sound_putLmem hw)
  · exact hw

@[simp] theorem State.sound_replayAnswers (s : State) (part tenant : Nat)
    (hw : s.sound φ = true) : (State.replayAnswers s part tenant).sound φ = true := by
  exact sound_foldl (fun t e ht => State.sound_landAnswer _ _ _ ht) _ hw

@[simp] theorem State.sound_nextSlice (s : State) (part : Nat) (out : Option Nat)
    (hw : s.sound φ = true) : (State.nextSlice s part out).sound φ = true := by
  unfold State.nextSlice
  dsimp only
  refine sound_foldl (fun t u ht => State.sound_stopRequest _ _ _ ht) _ (State.sound_modPart _ _ _ ?_)
  split
  · exact State.sound_replayAnswers _ _ _ (State.sound_restoreStores _ _ (State.sound_beginSlice _ _ _ hw))
  · exact hw

@[simp] theorem State.sound_contextSave (s : State) (part : Nat)
    (hw : s.sound φ = true) : (State.contextSave s part).sound φ = true := by
  unfold State.contextSave
  dsimp only
  split
  · exact State.sound_ite hw (State.sound_nextSlice _ _ _ (State.sound_reseatAll _ (State.sound_giveQuotas _ _ (State.sound_modPart _ _ _
      (State.sound_lastEffects _ _ _ _ hw)))))
  · exact State.sound_ite (State.sound_nextSlice _ _ _ hw) hw
  · exact hw

@[simp] theorem State.sound_quotaWrite (s : State) (part : Nat) (q : QuotaSpec)
    (hw : s.sound φ = true) : (State.quotaWrite s part q).sound φ = true := by
  simp +contextual [State.quotaWrite, hw]

@[simp] theorem State.sound_markFrom (s : State) (a0 : List Nat) (a1 : Nat) (a2 : Nat)
    (hw : s.sound φ = true) : (State.markFrom s a0 a1 a2).sound φ = true := by
  induction a0 generalizing s a1 a2 with
  | nil => exact hw
  | cons p ps ih =>
    exact State.sound_ite (ih _ _ _ (State.sound_modPart _ _ _ hw)) (sound_foldl (fun t x ht => State.sound_modPart _ _ _ ht) _ hw)

@[simp] theorem State.sound_retireUnit (s : State) (u : UnitId)
    (hw : s.sound φ = true) : (State.retireUnit s u).sound φ = true := by
  unfold State.retireUnit
  dsimp only
  refine State.sound_ite hw (State.sound_reseatAll _ (State.sound_markFrom _ _ _ _ ?_))
  split
  · exact State.sound_portDown _ _ (sound_foldl (fun t x ht => State.sound_postHost _ _ ht) _ (State.sound_eta hw))
  · exact sound_foldl (fun t x ht => State.sound_postHost _ _ ht) _ (State.sound_eta hw)

@[simp] theorem State.sound_rerunGang (s : State) (g : Nat)
    (hw : s.sound φ = true) : (State.rerunGang s g).sound φ = true := by
  exact State.sound_eta3 hw (all_filter (q := fun c : Crew => Memory.wf c.lmem)) (all_filter (q := Wave.laidOut))

@[simp] theorem State.sound_softError (s : State) (g code : Nat)
    (hw : s.sound φ = true) : (State.softError s g code).sound φ = true := by
  simp +contextual [State.softError, hw]

@[simp] theorem State.sound_correctable (s : State) (part counter : Nat)
    (hw : s.sound φ = true) : (State.correctable s part counter).sound φ = true := by
  simp +contextual [State.correctable, hw]

@[simp] theorem State.sound_readTelemetry (s : State) (part tenant counter : Nat)
    (hw : s.sound φ = true) : (State.readTelemetry s part tenant counter).sound φ = true := by
  simp +contextual [State.readTelemetry, hw]

@[simp] theorem State.sound_readSounding (s : State) (part n : Nat)
    (hw : s.sound φ = true) : (State.readSounding s part n).sound φ = true := by
  unfold State.readSounding
  dsimp only
  repeat' (first | (with_reducible exact hw) | apply State.sound_ite | split)
  all_goals (first | (with_reducible exact hw) | simp +contextual [hw, -State.sound_if])

@[simp] theorem State.sound_telemetry (s : State) (part tenant : Nat) (ask : TelemetryAsk)
    (hw : s.sound φ = true) : (State.telemetry s part tenant ask).sound φ = true := by
  unfold State.telemetry
  split
  · exact State.sound_readTelemetry _ _ _ _ hw
  · exact State.sound_modPart _ _ _ hw
  · exact State.sound_readSounding _ _ _ hw

@[simp] theorem State.sound_clearTelemetry (s : State) (part : Nat) (ones : Word)
    (hw : s.sound φ = true) : (State.clearTelemetry s part ones).sound φ = true := by
  simp +contextual [State.clearTelemetry, hw]

@[simp] theorem State.sound_alarm (s : State)
    (hw : s.sound φ = true) : (State.alarm s).sound φ = true := by
  simp +contextual [State.alarm, hw]

@[simp] theorem State.sound_attest (s : State) (leaf : Nat) (digest : BitVec 256)
    (hw : s.sound φ = true) : (State.attest s leaf digest).sound φ = true := by
  simp +contextual [State.attest, hw]

@[simp] theorem State.sound_bringUp (s : State) (b : BringUpSpec)
    (hw : s.sound φ = true) : (State.bringUp s b).sound φ = true := by
  unfold State.bringUp
  dsimp only
  refine State.sound_ite hw (State.sound_ite (State.sound_alarm _ hw)
    (State.sound_ite hw (State.sound_beginSlice _ _ _ (State.sound_modPart _ _ _ (State.sound_eta ?_)))))
  exact sound_foldl (fun t x ht => State.sound_retireUnit _ _ ht) _ (State.sound_eta hw)

@[simp] theorem State.sound_loadObject (s : State) (part : Nat) (o : ObjectSpec)
    (hw : s.sound φ = true) : (State.loadObject s part o).sound φ = true := by
  simp +contextual [State.loadObject, hw]

end Sys2Proof.Machine
end

