-- ==== Sys2Proof/Laws/Checks.lean ====
section
/-!
SUPPORT. When the checks that a family of instructions shares find nothing, one lemma per check: from the conditions the statements name
(Obligations.lean) to the absence of the fault, and what the choices among waves and positions choose (R18, R20).
-/
namespace Sys2Proof.Machine

/-! ### Checks made once for all active fibres -/

/-- A check that finds nothing. -/
theorem onceFault_none {cls : FaultClass} {act : Lanes} {i a : Dword} {b : Bool} (h : b = false) : onceFault cls act b i a = none := by
  simp [onceFault, h]

/-- The accumulator's role check (R25, R138). -/
theorem State.HasArray.none {s : State} {r : List Nat} {l : Bool} {sub : Nat} (h : s.HasArray r l) : matRole s.ctx r sub l = Option.none := by
  obtain ⟨h1, h2, h3, h4⟩ := h
  have : (l && s.ctx.crew.core % 2 == 1) = false := by cases l <;> simp_all
  simp [matRole, roleFault, h1, h2, h3, this]

/-- The accumulator's row checks (R141). -/
theorem State.RowsFree.none {s : State} {rs : List Range} {cls : FaultClass} {i a : Dword} {act : Lanes} (h : s.RowsFree rs) :
    rowsInflight s.ctx act rs = Option.none ∧
      onceFault cls act (rowsBeyond s s.ctx rs) i a = Option.none := by
  exact ⟨by simp [rowsInflight, h.2], onceFault_none h.1⟩

/-- The error a tile carries (R153). -/
theorem State.TileReady.none {s : State} {n : Nat} {act : Lanes} (h : s.TileReady n) :
    tileError s s.ctx act n = Option.none := by
  simp [tileError, h.2.2]

/-- Numbers of hypervector and bundle registers (R173). -/
theorem State.HyperIn.none {s : State} {hs bs : List Nat} {act : Lanes} (h : s.HyperIn hs bs) : hypBounds s.ctx act hs bs = Option.none := by
  refine onceFault_none ?_
  simp only [Bool.or_eq_false_iff, List.any_eq_false, decide_eq_true_eq, Nat.not_le]
  exact ⟨fun n hn => h.1 n hn, fun n hn => h.2 n hn⟩

/-- The two descriptor addresses of VIEW (R150). -/
theorem farFaults_none {act : Lanes} {a b : Dword × Nat} (h1 : farOk a.1 a.2) (h2 : farOk b.1 b.2) : ∀ o ∈ farFaults act [a, b], o = none := by
  obtain ⟨a1, a2, a3⟩ := h1
  obtain ⟨b1, b2, b3⟩ := h2
  have e1 : ¬ 2 ≤ spaceOf a.1 := by omega
  have e2 : ¬ 2 ≤ spaceOf b.1 := by omega
  simp only [farFaults, List.mem_cons, List.not_mem_nil, or_false, forall_eq_or_imp, forall_eq]
  refine ⟨onceFault_none ?_, onceFault_none ?_, onceFault_none ?_⟩
  · simp [e1, e2]
  · simp [a2, b2]
  · simp [Option.isSome_iff_ne_none.mp a3, Option.isSome_iff_ne_none.mp b3]

/-! ### Checks made lane by lane -/

/-- ALIGN and BOUNDS of a load or store (R88, R278). -/
theorem State.Reachable.none {s : State} {g : Arg} {shelf : Bool} (hr : s.Reachable g shelf) {l : Option Precise}
    (h : l ∈ lsFaults s s.ctx (s.ctx.act g.m) g shelf) : l = Option.none := by
  simp only [lsFaults, List.mem_cons, List.not_mem_nil, or_false] at h
  rcases h with rfl | rfl
  · exact laneFault_none (fun l hl ha => by simp [(hr l hl ha).1])
  · refine laneFault_none (fun l hl ha => ?_)
    have := (hr l hl ha).2
    rw [if_neg]
    simp [Option.isSome_iff_ne_none.mp this]

/-- Absent lines and transactions (R95, R109). -/
theorem State.LinesReady.go {s : State} {lines : List (Nat × Nat)} {act : Lanes} (h : s.LinesReady lines) : shelfWait s s.ctx act lines = .go := by
  have h1 : lines.any (fun k => s.lineAbsent s.ctx.launch.part s.ctx.launch.tenant k) = false := by
    rw [List.any_eq_false]; intro k hk; simp [h.1 k hk]
  simp [shelfWait, h1, h.2]

/-- Tags none of which is wrong. -/
theorem firstTag_none {l : List (Option (Tag × Option Tag))} (h : ∀ o ∈ l, o = none) : firstTag l = none := by
  induction l with
  | nil => rfl
  | cons a t ih => rw [h a (List.mem_cons_self ..)]; exact ih (fun o ho => h o (List.mem_cons_of_mem _ ho))

/-- A group of registers all of F32 (R334). -/
theorem notF32_none {t : List Reg} (h : ∀ r ∈ t, r.tag = .f32) : notF32 t = none := by
  refine firstTag_none ?_
  intro o ho
  obtain ⟨r, hr, rfl⟩ := List.mem_map.mp ho
  simp [oneTag, h r hr]

/-- The checks of the barrier instructions (R239 to R244). -/
theorem barSem_fault {g : Arg} {sub : Nat} {tag bad : Ctx → Bool} {u : State → Bool} {w : State → Wait} {e : State → State} {s : State}
    {a : VAddr} {h : Home} (hr : s.Ready g rolesAll (barOpds g)) (hb : s.BarrierAt g a h) (hbad : bad s.ctx = false)
    (ht : tag s.ctx = true → (s.ctx.crew.uni g.b).tag = .n32) : (barSem g sub tag bad u w e).fault s = none := by
  refine firstFault_eq_none ?_
  simp only [List.mem_cons, List.not_mem_nil, or_false, forall_eq_or_imp, forall_eq]
  refine ⟨hr.2.1.none, firstFault_eq_none ?_⟩
  simp only [List.mem_cons, List.not_mem_nil, or_false, forall_eq_or_imp, forall_eq]
  refine ⟨hr.2.2.1.none, formatFault_none (fun l hl hh => ?_), onceFault_none (by simp [hb.1]), onceFault_none (by simp [hb.2.1, hbad])⟩
  cases h : tag s.ctx
  · rfl
  · simp [ht h, oneTag]

/-! ### Choices -/

/-- The wave that comes first after slot rr (R20). -/
theorem nextSlot_least (rr : Nat) (es : List (Nat × Nat)) : ∀ e,
   (let m := es.foldl (fun a b => if (b.2 + 47 - rr) % 48 < (a.2 + 47 - rr) % 48 then b else a) e
   (m.2 + 47 - rr) % 48 ≤ (e.2 + 47 - rr) % 48 ∧ ∀ x ∈ es, (m.2 + 47 - rr) % 48 ≤ (x.2 + 47 - rr) % 48) := by
  induction es with
  | nil => intro e; exact ⟨Nat.le_refl _, by simp⟩
  | cons a t ih =>
    intro e
    simp only [List.foldl_cons]
    obtain ⟨h1, h2⟩ := ih (if (a.2 + 47 - rr) % 48 < (e.2 + 47 - rr) % 48 then a else e)
    refine ⟨?_, fun x hx => ?_⟩
    · by_cases c : (a.2 + 47 - rr) % 48 < (e.2 + 47 - rr) % 48
      · rw [if_pos c] at h1 ⊢; omega
      · rw [if_neg c] at h1 ⊢; exact h1
    · rcases List.mem_cons.mp hx with rfl | hx
      · by_cases c : (x.2 + 47 - rr) % 48 < (e.2 + 47 - rr) % 48
        · rw [if_pos c] at h1 ⊢; exact h1
        · rw [if_neg c] at h1 ⊢; omega
      · exact h2 x hx

/-- The greatest AGE, then the lowest PC, then the greatest Pos (R18). -/
theorem agedFirst_greatest (as : List Lane) : ∀ a : Lane, ∃ x ∈ a :: as, as.foldl agedFirst a = x ∧
    ∀ y ∈ a :: as, y.age ≤ x.age ∧ (y.age = x.age → x.pc ≤ y.pc ∧ (y.pc = x.pc → y.pos ≤ x.pos)) := by
  induction as with
  | nil => intro a; exact ⟨a, by simp, rfl, by simp⟩
  | cons b t ih =>
    intro a
    obtain ⟨x, hx, he, hp⟩ := ih (agedFirst a b)
    refine ⟨x, ?_, he, ?_⟩
    · rcases List.mem_cons.mp hx with rfl | h
      · unfold agedFirst; split <;> simp
      · simp [h]
    · intro y hy
      have hm := hp _ (List.mem_cons_self ..)
      have hcase : agedFirst a b = a ∨ agedFirst a b = b := by unfold agedFirst; split <;> simp
      have hl : ∀ z, z = a ∨ z = b → z.age ≤ (agedFirst a b).age ∧
          (z.age = (agedFirst a b).age → (agedFirst a b).pc ≤ z.pc ∧ (z.pc = (agedFirst a b).pc → z.pos ≤ (agedFirst a b).pos)) := by
        intro z hz
        unfold agedFirst
        rcases hz with rfl | rfl <;> split <;> rename_i hc <;> simp [BitVec.lt_def, BitVec.le_def, ← BitVec.toNat_inj] at hc ⊢ <;> omega
      rcases List.mem_cons.mp hy with rfl | h
      · have := hl y (.inl rfl); simp only [BitVec.le_def, ← BitVec.toNat_inj] at *; omega
      · rcases List.mem_cons.mp h with rfl | h
        · have := hl y (.inr rfl); simp only [BitVec.le_def, ← BitVec.toNat_inj] at *; omega
        · exact hp y (List.mem_cons_of_mem _ h)

/-- The lowest PC, then the greatest Pos (R18). -/
theorem lowFirst_least (as : List Lane) : ∀ a : Lane, ∃ x ∈ a :: as, as.foldl lowFirst a = x ∧
    ∀ y ∈ a :: as, x.pc ≤ y.pc ∧ (y.pc = x.pc → y.pos ≤ x.pos) := by
  induction as with
  | nil => intro a; exact ⟨a, by simp, rfl, by simp⟩
  | cons b t ih =>
    intro a
    obtain ⟨x, hx, he, hp⟩ := ih (lowFirst a b)
    refine ⟨x, ?_, he, ?_⟩
    · rcases List.mem_cons.mp hx with rfl | h
      · unfold lowFirst; split <;> simp
      · simp [h]
    · intro y hy
      have hm := hp _ (List.mem_cons_self ..)
      have hl : ∀ z, z = a ∨ z = b → (lowFirst a b).pc ≤ z.pc ∧ (z.pc = (lowFirst a b).pc → z.pos ≤ (lowFirst a b).pos) := by
        intro z hz
        unfold lowFirst
        rcases hz with rfl | rfl <;> split <;> rename_i hc <;> simp [BitVec.lt_def, BitVec.le_def, ← BitVec.toNat_inj] at hc ⊢ <;> omega
      rcases List.mem_cons.mp hy with rfl | h
      · have := hl y (.inl rfl); simp only [BitVec.le_def, ← BitVec.toNat_inj] at *; omega
      · rcases List.mem_cons.mp h with rfl | h
        · have := hl y (.inr rfl); simp only [BitVec.le_def, ← BitVec.toNat_inj] at *; omega
        · exact hp y (List.mem_cons_of_mem _ h)

end Sys2Proof.Machine
end

