-- ==== Sys2Proof/Laws/PerInstr.lean ====
section
/-!
SUPPORT. The family `Row`: the row of the opcode map an instruction's own fields select is that instruction (Tables 3.9, 3.10a,
3.10b); an event of the part has no row. One lemma per constructor.
-/
namespace Sys2Proof.Laws.Row

/-- The fields of `i` select `i` in the opcode map, or `i` is an event, which stands outside the map as OP 30. -/
def Statement (i : Instr) : Prop := i.wf = true → i.fields = Fields.event ∨ Decode.row i.fields = some i

/-! ### Branch offsets and immediates put together again -/

theorem cat16 (x : BitVec 16) : x.extractLsb' 8 8 ++ x.extractLsb' 0 8 = x := by
  rw [BitVec.extractLsb'_append_extractLsb'_eq_extractLsb' (by rfl)]
  exact BitVec.extractLsb'_eq_self

theorem cat24 (x : BitVec 24) : x.extractLsb' 16 8 ++ x.extractLsb' 8 8 ++ x.extractLsb' 0 8 = x := by
  rw [BitVec.append_assoc, BitVec.cast_eq, BitVec.extractLsb'_append_extractLsb'_eq_extractLsb' (by rfl),
    BitVec.extractLsb'_append_extractLsb'_eq_extractLsb' (by rfl)]
  exact BitVec.extractLsb'_eq_self

theorem brc_pred (o : BitVec 4) (n : Bool) (p : BitVec 3) : (o ++ BitVec.ofBool n ++ p : BitVec 8).extractLsb' 0 3 = p := by
  revert o n p; decide

theorem brc_neg (o : BitVec 4) (n : Bool) (p : BitVec 3) : (o ++ BitVec.ofBool n ++ p : BitVec 8).getLsbD 3 = n := by
  revert o n p; decide

theorem brc_low (o : BitVec 4) (n : Bool) (p : BitVec 3) : (o ++ BitVec.ofBool n ++ p : BitVec 8).extractLsb' 4 4 = o := by
  revert o n p; decide

theorem brc_off (off : BitVec 20) (n : Bool) (p : BitVec 3) :
    off.extractLsb' 12 8 ++ off.extractLsb' 4 8 ++ (off.extractLsb' 0 4 ++ BitVec.ofBool n ++ p : BitVec 8).extractLsb' 4 4 = off := by
  rw [brc_low, BitVec.append_assoc, BitVec.cast_eq, BitVec.extractLsb'_append_extractLsb'_eq_extractLsb' (by rfl),
    BitVec.extractLsb'_append_extractLsb'_eq_extractLsb' (by rfl)]
  exact BitVec.extractLsb'_eq_self

theorem fork_lt (p : BitVec 3) : (0#5 ++ p : BitVec 8) < 8#8 := by
  revert p; decide

theorem fork_pred (p : BitVec 3) : (0#5 ++ p : BitVec 8).extractLsb' 0 3 = p := by
  revert p; decide

/-! ### One lemma per constructor -/

theorem issueOpportunity (core : Nat) : Statement (.issueOpportunity core) := fun _ => .inl rfl
theorem clauseContinue (wave : Nat) : Statement (.clauseContinue wave) := fun _ => .inl rfl
theorem landing (flight : Nat) : Statement (.landing flight) := fun _ => .inl rfl
theorem copyPacket (copy first n : Nat) : Statement (.copyPacket copy first n) := fun _ => .inl rfl
theorem copyHoldRelease (copy : Nat) : Statement (.copyHoldRelease copy) := fun _ => .inl rfl
theorem faultServiced (fault : Nat) (pages : List PageSpec) : Statement (.faultServiced fault pages) := fun _ => .inl rfl
theorem faultDeclaredFatal (fault : Nat) : Statement (.faultDeclaredFatal fault) := fun _ => .inl rfl
theorem copysSignal (copy : Nat) : Statement (.copysSignal copy) := fun _ => .inl rfl
theorem arm (part slot : Nat) (m : MsgStep) : Statement (.arm part slot m) := fun _ => .inl rfl
theorem fire (part slot : Nat) (m : MsgStep) : Statement (.fire part slot m) := fun _ => .inl rfl
theorem launchAcceptance (src : AcceptSrc) : Statement (.launchAcceptance src) := fun _ => .inl rfl
theorem gangPlacement (part cluster : Nat) : Statement (.gangPlacement part cluster) := fun _ => .inl rfl
theorem nodeCrewPlacement (node cluster core : Nat) : Statement (.nodeCrewPlacement node cluster core) := fun _ => .inl rfl
theorem gangRetirement (gang : Nat) : Statement (.gangRetirement gang) := fun _ => .inl rfl
theorem launchRetirement (launch : Nat) : Statement (.launchRetirement launch) := fun _ => .inl rfl
theorem finalMerge (launch : Nat) : Statement (.finalMerge launch) := fun _ => .inl rfl
theorem detMerge (launch barrier : Nat) : Statement (.detMerge launch barrier) := fun _ => .inl rfl
theorem matrixCommandRetire (pair part : Nat) : Statement (.matrixCommandRetire pair part) := fun _ => .inl rfl
theorem smvPacket (smv first n : Nat) : Statement (.smvPacket smv first n) := fun _ => .inl rfl
theorem atomicPerform (access : Nat) : Statement (.atomicPerform access) := fun _ => .inl rfl
theorem fenceComplete (wave slot : Nat) : Statement (.fenceComplete wave slot) := fun _ => .inl rfl
theorem viewTraversal (view : Nat) : Statement (.viewTraversal view) := fun _ => .inl rfl
theorem viewLanding (view : Nat) : Statement (.viewLanding view) := fun _ => .inl rfl
theorem recordDelivery (node cluster crew : Nat) : Statement (.recordDelivery node cluster crew) := fun _ => .inl rfl
theorem retireDelivery (node cluster crew : Nat) : Statement (.retireDelivery node cluster crew) := fun _ => .inl rfl
theorem contextFetch (node : Nat) (key : BitVec 64) : Statement (.contextFetch node key) := fun _ => .inl rfl
theorem workItemAssign (request : Nat) : Statement (.workItemAssign request) := fun _ => .inl rfl
theorem wqryRound (launch : Nat) : Statement (.wqryRound launch) := fun _ => .inl rfl
theorem sliceExpiry (part : Nat) : Statement (.sliceExpiry part) := fun _ => .inl rfl
theorem stopRequest (part tenant : Nat) : Statement (.stopRequest part tenant) := fun _ => .inl rfl
theorem contextSave (part : Nat) : Statement (.contextSave part) := fun _ => .inl rfl
theorem quotaWrite (part : Nat) (q : QuotaSpec) : Statement (.quotaWrite part q) := fun _ => .inl rfl
theorem unitRetirement (u : UnitId) : Statement (.unitRetirement u) := fun _ => .inl rfl
theorem uncorrectableError (gang code : Nat) : Statement (.uncorrectableError gang code) := fun _ => .inl rfl
theorem correctableError (part counter : Nat) : Statement (.correctableError part counter) := fun _ => .inl rfl
theorem telemetryRead (part tenant : Nat) (ask : TelemetryAsk) : Statement (.telemetryRead part tenant ask) := fun _ => .inl rfl
theorem telemetryStatusClear (part : Nat) (ones : Word) : Statement (.telemetryStatusClear part ones) := fun _ => .inl rfl
theorem securityAlarm : Statement .securityAlarm := fun _ => .inl rfl
theorem bringUp (b : BringUpSpec) : Statement (.bringUp b) := fun _ => .inl rfl
theorem nop : Statement .nop := fun _ => .inr rfl
theorem yield : Statement .yield := fun _ => .inr rfl
theorem yieldExt (f : Ext) : Statement (.yieldExt f) := fun _ => .inr rfl
theorem add (f : Base) : Statement (.add f) := fun _ => .inr rfl
theorem addExt (f : Ext) : Statement (.addExt f) := fun _ => .inr rfl
theorem addLit (f : Lit) : Statement (.addLit f) := fun _ => .inr rfl
theorem addExtLit (f : ExtLit) : Statement (.addExtLit f) := fun _ => .inr rfl
theorem sub (f : Base) : Statement (.sub f) := fun _ => .inr rfl
theorem subExt (f : Ext) : Statement (.subExt f) := fun _ => .inr rfl
theorem subLit (f : Lit) : Statement (.subLit f) := fun _ => .inr rfl
theorem subExtLit (f : ExtLit) : Statement (.subExtLit f) := fun _ => .inr rfl
theorem mul (f : Base) : Statement (.mul f) := fun _ => .inr rfl
theorem mulExt (f : Ext) : Statement (.mulExt f) := fun _ => .inr rfl
theorem mulLit (f : Lit) : Statement (.mulLit f) := fun _ => .inr rfl
theorem mulExtLit (f : ExtLit) : Statement (.mulExtLit f) := fun _ => .inr rfl
theorem mulh (f : Base) : Statement (.mulh f) := fun _ => .inr rfl
theorem mulhExt (f : Ext) : Statement (.mulhExt f) := fun _ => .inr rfl
theorem mulhLit (f : Lit) : Statement (.mulhLit f) := fun _ => .inr rfl
theorem mulhExtLit (f : ExtLit) : Statement (.mulhExtLit f) := fun _ => .inr rfl
theorem fma (f : Base) : Statement (.fma f) := fun _ => .inr rfl
theorem fmaExt (f : Ext) : Statement (.fmaExt f) := fun _ => .inr rfl
theorem fmaLit (f : Lit) : Statement (.fmaLit f) := fun _ => .inr rfl
theorem fmaExtLit (f : ExtLit) : Statement (.fmaExtLit f) := fun _ => .inr rfl
theorem fms (f : Base) : Statement (.fms f) := fun _ => .inr rfl
theorem fmsExt (f : Ext) : Statement (.fmsExt f) := fun _ => .inr rfl
theorem fmsLit (f : Lit) : Statement (.fmsLit f) := fun _ => .inr rfl
theorem fmsExtLit (f : ExtLit) : Statement (.fmsExtLit f) := fun _ => .inr rfl
theorem min (f : Base) : Statement (.min f) := fun _ => .inr rfl
theorem minExt (f : Ext) : Statement (.minExt f) := fun _ => .inr rfl
theorem minLit (f : Lit) : Statement (.minLit f) := fun _ => .inr rfl
theorem minExtLit (f : ExtLit) : Statement (.minExtLit f) := fun _ => .inr rfl
theorem max (f : Base) : Statement (.max f) := fun _ => .inr rfl
theorem maxExt (f : Ext) : Statement (.maxExt f) := fun _ => .inr rfl
theorem maxLit (f : Lit) : Statement (.maxLit f) := fun _ => .inr rfl
theorem maxExtLit (f : ExtLit) : Statement (.maxExtLit f) := fun _ => .inr rfl
theorem and (f : Base) : Statement (.and f) := fun _ => .inr rfl
theorem andExt (f : Ext) : Statement (.andExt f) := fun _ => .inr rfl
theorem andLit (f : Lit) : Statement (.andLit f) := fun _ => .inr rfl
theorem andExtLit (f : ExtLit) : Statement (.andExtLit f) := fun _ => .inr rfl
theorem or (f : Base) : Statement (.or f) := fun _ => .inr rfl
theorem orExt (f : Ext) : Statement (.orExt f) := fun _ => .inr rfl
theorem orLit (f : Lit) : Statement (.orLit f) := fun _ => .inr rfl
theorem orExtLit (f : ExtLit) : Statement (.orExtLit f) := fun _ => .inr rfl
theorem xor (f : Base) : Statement (.xor f) := fun _ => .inr rfl
theorem xorExt (f : Ext) : Statement (.xorExt f) := fun _ => .inr rfl
theorem xorLit (f : Lit) : Statement (.xorLit f) := fun _ => .inr rfl
theorem xorExtLit (f : ExtLit) : Statement (.xorExtLit f) := fun _ => .inr rfl
theorem andn (f : Base) : Statement (.andn f) := fun _ => .inr rfl
theorem andnExt (f : Ext) : Statement (.andnExt f) := fun _ => .inr rfl
theorem andnLit (f : Lit) : Statement (.andnLit f) := fun _ => .inr rfl
theorem andnExtLit (f : ExtLit) : Statement (.andnExtLit f) := fun _ => .inr rfl
theorem shl (f : Base) : Statement (.shl f) := fun _ => .inr rfl
theorem shlExt (f : Ext) : Statement (.shlExt f) := fun _ => .inr rfl
theorem shlLit (f : Lit) : Statement (.shlLit f) := fun _ => .inr rfl
theorem shlExtLit (f : ExtLit) : Statement (.shlExtLit f) := fun _ => .inr rfl
theorem shr (f : Base) : Statement (.shr f) := fun _ => .inr rfl
theorem shrExt (f : Ext) : Statement (.shrExt f) := fun _ => .inr rfl
theorem shrLit (f : Lit) : Statement (.shrLit f) := fun _ => .inr rfl
theorem shrExtLit (f : ExtLit) : Statement (.shrExtLit f) := fun _ => .inr rfl
theorem cmpp (f : Base) : Statement (.cmpp f) := fun _ => .inr rfl
theorem cmppExt (f : Ext) : Statement (.cmppExt f) := fun _ => .inr rfl
theorem cmppLit (f : Lit) : Statement (.cmppLit f) := fun _ => .inr rfl
theorem cmppExtLit (f : ExtLit) : Statement (.cmppExtLit f) := fun _ => .inr rfl
theorem sel (f : Base) : Statement (.sel f) := fun _ => .inr rfl
theorem selExt (f : Ext) : Statement (.selExt f) := fun _ => .inr rfl
theorem selLit (f : Lit) : Statement (.selLit f) := fun _ => .inr rfl
theorem selExtLit (f : ExtLit) : Statement (.selExtLit f) := fun _ => .inr rfl
theorem mov (f : Base) : Statement (.mov f) := fun _ => .inr rfl
theorem movExt (f : Ext) : Statement (.movExt f) := fun h => .inr (by
  have hz : f.w2 = 0#32 := by simp [Instr.wf] at h; exact h.1.2
  change (if f.w2.getLsbD 31 then some (Instr.movWide f) else some (Instr.movExt f)) = _
  rw [hz]; rfl)
theorem movWide (f : Ext) : Statement (.movWide f) := fun h => .inr (by
  have hb : f.w2.getLsbD 31 = true := by simp [Instr.wf, WellFormed.wideOk] at h; exact h.2.1.1
  change (if f.w2.getLsbD 31 then some (Instr.movWide f) else some (Instr.movExt f)) = _
  rw [hb]; rfl)
theorem movLit (f : Lit) : Statement (.movLit f) := fun _ => .inr rfl
theorem movExtLit (f : ExtLit) : Statement (.movExtLit f) := fun _ => .inr rfl
theorem movi (d : BitVec 8) (imm : BitVec 16) : Statement (.movi d imm) := fun _ => .inr (congrArg (fun o => some (Instr.movi d o)) (cat16 imm))
theorem moviExt (f : Ext) : Statement (.moviExt f) := fun _ => .inr rfl
theorem cvt (f : Base) : Statement (.cvt f) := fun _ => .inr rfl
theorem cvtExt (f : Ext) : Statement (.cvtExt f) := fun _ => .inr rfl
theorem vtag (f : Base) : Statement (.vtag f) := fun _ => .inr rfl
theorem vtagExt (f : Ext) : Statement (.vtagExt f) := fun _ => .inr rfl
theorem sfu (f : Base) : Statement (.sfu f) := fun _ => .inr rfl
theorem sfuExt (f : Ext) : Statement (.sfuExt f) := fun _ => .inr rfl
theorem perm (f : Base) : Statement (.perm f) := fun _ => .inr rfl
theorem permExt (f : Ext) : Statement (.permExt f) := fun _ => .inr rfl
theorem shfl (f : Base) : Statement (.shfl f) := fun _ => .inr rfl
theorem shflExt (f : Ext) : Statement (.shflExt f) := fun _ => .inr rfl
theorem reduce (f : Base) : Statement (.reduce f) := fun _ => .inr rfl
theorem reduceExt (f : Ext) : Statement (.reduceExt f) := fun _ => .inr rfl
theorem scan (f : Base) : Statement (.scan f) := fun _ => .inr rfl
theorem scanExt (f : Ext) : Statement (.scanExt f) := fun _ => .inr rfl
theorem welf (f : Base) : Statement (.welf f) := fun _ => .inr rfl
theorem welfExt (f : Ext) : Statement (.welfExt f) := fun _ => .inr rfl
theorem ldl (f : Base) : Statement (.ldl f) := fun _ => .inr rfl
theorem ldlExt (f : Ext) : Statement (.ldlExt f) := fun _ => .inr rfl
theorem stl (f : Base) : Statement (.stl f) := fun _ => .inr rfl
theorem stlExt (f : Ext) : Statement (.stlExt f) := fun _ => .inr rfl
theorem lds (f : Base) : Statement (.lds f) := fun _ => .inr rfl
theorem ldsExt (f : Ext) : Statement (.ldsExt f) := fun _ => .inr rfl
theorem sts (f : Base) : Statement (.sts f) := fun _ => .inr rfl
theorem stsExt (f : Ext) : Statement (.stsExt f) := fun _ => .inr rfl
theorem spush (f : Base) : Statement (.spush f) := fun _ => .inr rfl
theorem spushExt (f : Ext) : Statement (.spushExt f) := fun _ => .inr rfl
theorem spop (f : Base) : Statement (.spop f) := fun _ => .inr rfl
theorem spopExt (f : Ext) : Statement (.spopExt f) := fun _ => .inr rfl
theorem bra (off : BitVec 24) : Statement (.bra off) := fun _ => .inr (congrArg (fun o => some (Instr.bra o)) (cat24 off))
theorem braExt (f : Ext) : Statement (.braExt f) := fun _ => .inr rfl
theorem brc (off : BitVec 20) (neg : Bool) (p : BitVec 3) : Statement (.brc off neg p) := fun _ => .inr (by
  change some (Instr.brc (off.extractLsb' 12 8 ++ off.extractLsb' 4 8 ++
      (off.extractLsb' 0 4 ++ BitVec.ofBool neg ++ p : BitVec 8).extractLsb' 4 4)
    ((off.extractLsb' 0 4 ++ BitVec.ofBool neg ++ p : BitVec 8).getLsbD 3)
    ((off.extractLsb' 0 4 ++ BitVec.ofBool neg ++ p : BitVec 8).extractLsb' 0 3)) = _
  rw [brc_off, brc_neg, brc_pred])
theorem call (off : BitVec 24) : Statement (.call off) := fun _ => .inr (congrArg (fun o => some (Instr.call o)) (cat24 off))
theorem callExt (f : Ext) : Statement (.callExt f) := fun _ => .inr rfl
theorem ret : Statement .ret := fun _ => .inr rfl
theorem retExt (f : Ext) : Statement (.retExt f) := fun _ => .inr rfl
theorem fork (pd : BitVec 3) (off : BitVec 16) : Statement (.fork pd off) := fun _ => .inr (by
  change (if (0#5 ++ pd : BitVec 8) < 8#8 then
    some (Instr.fork (BitVec.extractLsb' 0 3 (0#5 ++ pd)) (off.extractLsb' 8 8 ++ off.extractLsb' 0 8)) else none) = _
  rw [if_pos (fork_lt pd), fork_pred, cat16])
theorem forkExt (f : Ext) : Statement (.forkExt f) := fun _ => .inr rfl
theorem fend : Statement .fend := fun _ => .inr rfl
theorem fendExt (f : Ext) : Statement (.fendExt f) := fun _ => .inr rfl
theorem abs (f : Ext) : Statement (.abs f) := fun _ => .inr rfl
theorem neg (f : Ext) : Statement (.neg f) := fun _ => .inr rfl
theorem popc (f : Ext) : Statement (.popc f) := fun _ => .inr rfl
theorem clz (f : Ext) : Statement (.clz f) := fun _ => .inr rfl
theorem brev (f : Ext) : Statement (.brev f) := fun _ => .inr rfl
theorem bfx (f : Ext) : Statement (.bfx f) := fun _ => .inr rfl
theorem bfi (f : Ext) : Statement (.bfi f) := fun _ => .inr rfl
theorem idiv (f : Ext) : Statement (.idiv f) := fun _ => .inr rfl
theorem dot4 (f : Ext) : Statement (.dot4 f) := fun _ => .inr rfl
theorem wmerge (f : Ext) : Statement (.wmerge f) := fun _ => .inr rfl
theorem atom (f : AtomF) : Statement (.atom f) := fun _ => .inr rfl
theorem atomLit (f : AtomLitF) : Statement (.atomLit f) := fun _ => .inr rfl
theorem atomc (f : AtomF) : Statement (.atomc f) := fun _ => .inr rfl
theorem atomcLit (f : AtomLitF) : Statement (.atomcLit f) := fun _ => .inr rfl
theorem barinit (f : Ext) : Statement (.barinit f) := fun _ => .inr rfl
theorem bararr (f : Ext) : Statement (.bararr f) := fun _ => .inr rfl
theorem barexp (f : Ext) : Statement (.barexp f) := fun _ => .inr rfl
theorem barwait (f : Ext) : Statement (.barwait f) := fun _ => .inr rfl
theorem bartest (f : Ext) : Statement (.bartest f) := fun _ => .inr rfl
theorem copy (f : Ext) : Statement (.copy f) := fun _ => .inr rfl
theorem copyb (f : Ext) : Statement (.copyb f) := fun _ => .inr rfl
theorem copyg (f : Ext) : Statement (.copyg f) := fun _ => .inr rfl
theorem copys (f : Ext) : Statement (.copys f) := fun _ => .inr rfl
theorem mma (f : Ext) : Statement (.mma f) := fun _ => .inr rfl
theorem mmaq (f : Ext) : Statement (.mmaq f) := fun _ => .inr rfl
theorem mcommit (f : Ext) : Statement (.mcommit f) := fun _ => .inr rfl
theorem mwait (f : Ext) : Statement (.mwait f) := fun _ => .inr rfl
theorem mrd (f : Ext) : Statement (.mrd f) := fun _ => .inr rfl
theorem mwr (f : Ext) : Statement (.mwr f) := fun _ => .inr rfl
theorem mzero (f : Ext) : Statement (.mzero f) := fun _ => .inr rfl
theorem smv (f : Ext) : Statement (.smv f) := fun _ => .inr rfl
theorem view (f : Ext) : Statement (.view f) := fun _ => .inr rfl
theorem vstat (f : Ext) : Statement (.vstat f) := fun _ => .inr rfl
theorem vpix (f : Ext) : Statement (.vpix f) := fun _ => .inr rfl
theorem rayq (f : Ext) : Statement (.rayq f) := fun _ => .inr rfl
theorem tld (f : Ext) : Statement (.tld f) := fun _ => .inr rfl
theorem tst (f : Ext) : Statement (.tst f) := fun _ => .inr rfl
theorem trd (f : Ext) : Statement (.trd f) := fun _ => .inr rfl
theorem twr (f : Ext) : Statement (.twr f) := fun _ => .inr rfl
theorem bxunion (f : Ext) : Statement (.bxunion f) := fun _ => .inr rfl
theorem sahcost (f : Ext) : Statement (.sahcost f) := fun _ => .inr rfl
theorem nodepack (f : Ext) : Statement (.nodepack f) := fun _ => .inr rfl
theorem hld (f : Ext) : Statement (.hld f) := fun _ => .inr rfl
theorem hst (f : Ext) : Statement (.hst f) := fun _ => .inr rfl
theorem hbind (f : Ext) : Statement (.hbind f) := fun _ => .inr rfl
theorem hperm (f : Ext) : Statement (.hperm f) := fun _ => .inr rfl
theorem hbund (f : Ext) : Statement (.hbund f) := fun _ => .inr rfl
theorem hclr (f : Ext) : Statement (.hclr f) := fun _ => .inr rfl
theorem hthr (f : Ext) : Statement (.hthr f) := fun _ => .inr rfl
theorem hdist (f : Ext) : Statement (.hdist f) := fun _ => .inr rfl
theorem hnear (f : Ext) : Statement (.hnear f) := fun _ => .inr rfl
theorem hgen (f : Ext) : Statement (.hgen f) := fun _ => .inr rfl
theorem remit (f : Ext) : Statement (.remit f) := fun _ => .inr rfl
theorem ksusp (f : Ext) : Statement (.ksusp f) := fun _ => .inr rfl
theorem kret (f : Ext) : Statement (.kret f) := fun _ => .inr rfl
theorem launch (f : Ext) : Statement (.launch f) := fun _ => .inr rfl
theorem trap (f : Ext) : Statement (.trap f) := fun _ => .inr rfl
theorem srd (f : Ext) : Statement (.srd f) := fun _ => .inr rfl
theorem swr (f : Ext) : Statement (.swr f) := fun _ => .inr rfl
theorem fence (f : Ext) : Statement (.fence f) := fun _ => .inr rfl
theorem fwait (f : Ext) : Statement (.fwait f) := fun _ => .inr rfl
theorem wqry (f : Ext) : Statement (.wqry f) := fun _ => .inr rfl
theorem brx (f : Ext) : Statement (.brx f) := fun _ => .inr rfl
theorem launchStop (launch : Nat) : Statement (.launchStop launch) := fun _ => .inl rfl
theorem peerPortDown (port : Nat) : Statement (.peerPortDown port) := fun _ => .inl rfl
theorem peerCopysTraffic (m : PeerMsg) : Statement (.peerCopysTraffic m) := fun _ => .inl rfl
theorem reservedKindMessage (part kind : Nat) (m : MsgStep) : Statement (.reservedKindMessage part kind m) := fun _ => .inl rfl
theorem tenantCreation (part : Nat) (t : TenantSpec) : Statement (.tenantCreation part t) := fun _ => .inl rfl
theorem allowListLoad (part tenant : Nat) (bits : BitVec 1024) : Statement (.allowListLoad part tenant bits) := fun _ => .inl rfl
theorem objectLoad (part : Nat) (o : ObjectSpec) : Statement (.objectLoad part o) := fun _ => .inl rfl
theorem attestationReport (ask : AttestSpec) : Statement (.attestationReport ask) := fun _ => .inl rfl

end Sys2Proof.Laws.Row
end

