-- ==== Sys2Proof/Tests/Slice0.lean ====
section
/-!
SUPPORT. Tests: words of the manual's worked fragments decode to their instructions; ill-formed terms are refused; single steps on a
small machine; and, for every statement, a state and operands that meet its hypotheses.
-/
namespace Sys2Proof.Tests
set_option Elab.async false  -- one proof at a time: the file then checks in less memory
open Sys2Proof Sys2Proof.Machine

/-! ### Terms -/

def z : Mods := Mods.zero
def g0 (d a b : Nat) : Base := { d := BitVec.ofNat 8 d, a := BitVec.ofNat 8 a, b := BitVec.ofNat 8 b }
def x (d a b w2 : Nat) (m : Mods) : Ext :=
  { d := BitVec.ofNat 8 d, a := BitVec.ofNat 8 a, b := BitVec.ofNat 8 b, m := m, w2 := BitVec.ofNat 32 w2 }
def li (d a b lit : Nat) : Lit :=
  { d := BitVec.ofNat 8 d, a := BitVec.ofNat 8 a, b := BitVec.ofNat 8 b, lit := BitVec.ofNat 64 lit }
def xl (d a b w2 : Nat) (m : Mods) (lit : Nat) : ExtLit :=
  { d := BitVec.ofNat 8 d, a := BitVec.ofNat 8 a, b := BitVec.ofNat 8 b, m := m, w2 := BitVec.ofNat 32 w2, lit := BitVec.ofNat 64 lit }
def au : Mods := { z with au := true }
def bu : Mods := { z with bu := true }
def ab : Mods := { z with au := true, bu := true }
def bi : Mods := { z with bi := true }
def abc : Mods := { z with au := true, bu := true, cu := true }
def cu : Mods := { z with cu := true }

/-! ### Decoding: words written out from the encodings, and words of the manual's worked fragments -/

theorem test_decode_add_fields : decodeWords [6#8 ++ 5#8 ++ 5#8 ++ 0#1 ++ 1#5 ++ 0#2] = some (.add (g0 5 5 6)) := by decide
theorem test_decode_xor_fields : decodeWords [26#8 ++ 14#8 ++ 14#8 ++ 0#1 ++ 6#5 ++ 0#2] = some (.xor (g0 14 14 26)) := by decide
theorem test_decode_cmpp_fields : decodeWords [2#8 ++ 1#8 ++ 0#8 ++ 0#1 ++ 8#5 ++ 0#2] = some (.cmpp (g0 0 1 2)) := by decide
theorem test_decode_add_guarded_fields : decodeWords [0#8 ++ 5#8 ++ 4#8 ++ 0#1 ++ 1#5 ++ 1#2, 0#1 ++ 0#1 ++ 0#1 ++ 1#1 ++ 0#1 ++ 0#1 ++ 0#1 ++ 1#1 ++ 1#1 ++ 2#2 ++ 1#1 ++ 1#1 ++ 3#3 ++ 0#8 ++ 0#8, 0xDEAD_BEEF#32] = some (.addExt (x 4 5 0 0xDEADBEEF { bi with ftz := true, sat := true, rnd := 2, gen := true, pneg := true, pred := 3 })) := by decide
theorem test_decode_or : decodeWords [0x090C_0C94#32] = some (.or (g0 12 12 9)) := by decide
theorem test_decode_andn : decodeWords [0x0504_0398#32] = some (.andn (g0 3 4 5)) := by decide
theorem test_decode_mul : decodeWords [0x0504_0808#32] = some (.mul (g0 8 4 5)) := by decide
theorem test_decode_mulh : decodeWords [0x0504_0388#32] = some (.mulh (g0 3 4 5)) := by decide
theorem test_decode_max : decodeWords [0x0504_0390#32] = some (.max (g0 3 4 5)) := by decide
theorem test_decode_sub : decodeWords [0x0304_0484#32] = some (.sub (g0 4 4 3)) := by decide
theorem test_decode_fma : decodeWords [0x0504_060D#32, 0x0000_0700#32, 0x0000_0000#32] = some (.fmaExt (x 6 4 5 0 { z with c := 7 })) := by decide
theorem test_decode_fms : decodeWords [0x0504_098D#32, 0x0000_0700#32, 0x0000_0000#32] = some (.fmsExt (x 9 4 5 0 { z with c := 7 })) := by decide
theorem test_decode_min_guarded : decodeWords [0x0613_1311#32, 0x0017_0000#32, 0x0000_0000#32] = some (.minExt (x 19 19 6 0 { z with gen := true, pred := 7 })) := by decide
theorem test_decode_and_imm : decodeWords [0x0001_0515#32, 0x1000_0000#32, 0x0000_000F#32] = some (.andExt (x 5 1 0 15 bi)) := by decide
theorem test_decode_shr_imm : decodeWords [0x0009_0A9D#32, 0x1000_0000#32, 0x0000_0004#32] = some (.shrExt (x 10 9 0 4 bi)) := by decide
theorem test_decode_sel : decodeWords [0x0706_05A0#32] = some (.sel (g0 5 6 7)) := by decide
theorem test_decode_mov_lit : decodeWords [0x0000_0326#32, 0x3F80_0000#32, 0x0000_0003#32] = some (.movLit (li 3 0 0 0x000000033F800000)) := by decide
theorem test_decode_mov_uniform : decodeWords [0x0001_2C25#32, 0x0400_0000#32, 0x0000_0000#32] = some (.movExt (x 44 1 0 0 au)) := by decide
theorem test_decode_movi : decodeWords [0xFFFF_08A4#32] = some (.movi 8 0xFFFF) := by decide
theorem test_decode_cvt : decodeWords [0x1602_0828#32] = some (.cvt (g0 8 2 0x16)) := by decide
theorem test_decode_vtag : decodeWords [0x0100_01A8#32] = some (.vtag (g0 1 0 1)) := by decide
theorem test_decode_sfu : decodeWords [0x0304_052C#32] = some (.sfu (g0 5 4 3)) := by decide
theorem test_decode_shfl : decodeWords [0x100C_0D30#32] = some (.shfl (g0 13 12 16)) := by decide
theorem test_decode_reduce : decodeWords [0x0113_0AB0#32] = some (.reduce (g0 10 19 1)) := by decide
theorem test_decode_welf : decodeWords [0x0004_0AB4#32] = some (.welf (g0 10 4 0)) := by decide
theorem test_decode_wmerge : decodeWords [0x0D0A_0A51#32, 0x0000_0009#32, 0x0000_0000#32] = some (.wmerge (x 10 10 13 0 z)) := by decide
theorem test_decode_ldl : decodeWords [0x3201_0438#32] = some (.ldl (g0 4 1 0x32)) := by decide
theorem test_decode_stl : decodeWords [0x3201_04B8#32] = some (.stl (g0 4 1 0x32)) := by decide
theorem test_decode_lds_guarded : decodeWords [0x2008_093D#32, 0x0011_0000#32, 0x0000_0000#32] = some (.ldsExt (x 9 8 0x20 0 { z with gen := true, pred := 1 })) := by decide
theorem test_decode_spush : decodeWords [0x0004_0040#32] = some (.spush (g0 0 4 0)) := by decide
theorem test_decode_spop : decodeWords [0x1000_04C0#32] = some (.spop (g0 4 0 0x10)) := by decide
theorem test_decode_bra : decodeWords [0x0000_0C44#32] = some (.bra 12) := by decide
theorem test_decode_fork_ext : decodeWords [0x0004_014D#32, 0x0012_0300#32, 0x0000_0030#32] = some (.forkExt (x 1 4 0 0x30 { z with c := 3, gen := true, pred := 2 })) := by decide
theorem test_decode_call_ext : decodeWords [0x0000_0049#32, 0x0013_0800#32, 0x0000_0028#32] = some (.callExt (x 0 0 0 0x28 { z with c := 8, gen := true, pred := 3 })) := by decide
theorem test_decode_brx : decodeWords [0x0006_0075#32, 0x0000_0007#32, 0x0000_0000#32] = some (.brx (x 0 6 0 0 z)) := by decide
theorem test_decode_abs : decodeWords [0x0003_0251#32, 0x0000_0000#32, 0x0000_0000#32] = some (.abs (x 2 3 0 0 z)) := by decide
theorem test_decode_neg : decodeWords [0x0003_0251#32, 0x0000_0001#32, 0x0000_0000#32] = some (.neg (x 2 3 0 0 z)) := by decide
theorem test_decode_popc : decodeWords [0x0003_0251#32, 0x0000_0002#32, 0x0000_0000#32] = some (.popc (x 2 3 0 0 z)) := by decide
theorem test_decode_brev : decodeWords [0x0003_0251#32, 0x0000_0004#32, 0x0000_0000#32] = some (.brev (x 2 3 0 0 z)) := by decide
theorem test_decode_bfx : decodeWords [0x0005_0451#32, 0x0000_0005#32, 0x0000_0888#32] = some (.bfx (x 4 5 0 0x888 z)) := by decide
theorem test_decode_idiv : decodeWords [0x001E_1E51#32, 0x1400_0007#32, 0x0000_0003#32] = some (.idiv (x 30 30 0 3 { au with bi := true })) := by decide
theorem test_decode_dot4 : decodeWords [0x0605_0451#32, 0x0000_0708#32, 0x0000_0000#32] = some (.dot4 (x 4 5 6 0 { z with c := 7 })) := by decide
theorem test_decode_atomc : decodeWords [0x0702_06D5#32, 0x0000_0810#32, 0x0008_0000#32] = some (.atomc { sub := 0x10, e := x 6 2 7 0x80000 { z with c := 8 } }) := by decide
theorem test_decode_barinit : decodeWords [0x0028_0059#32, 0x0400_0000#32, 0x0001_0002#32] = some (.barinit (x 0 40 0 0x10002 au)) := by decide
theorem test_decode_bararr : decodeWords [0x002B_0059#32, 0x0410_0001#32, 0x0000_0000#32] = some (.bararr (x 0 43 0 0 { au with gen := true })) := by decide
theorem test_decode_barwait : decodeWords [0x2028_0059#32, 0x0C00_0003#32, 0x0000_0000#32] = some (.barwait (x 0 40 32 0 ab)) := by decide
theorem test_decode_copy : decodeWords [0x0000_165D#32, 0x0400_0000#32, 0x0000_0000#32] = some (.copy (x 22 0 0 0 au)) := by decide
theorem test_decode_copyb : decodeWords [0x002C_145D#32, 0x0400_0001#32, 0x0000_0000#32] = some (.copyb (x 20 44 0 0 au)) := by decide
theorem test_decode_mcommit : decodeWords [0x0000_0761#32, 0x0000_0002#32, 0x0000_0000#32] = some (.mcommit (x 7 0 0 0 z)) := by decide
theorem test_decode_mwait : decodeWords [0x0007_0061#32, 0x0400_0003#32, 0x0000_0000#32] = some (.mwait (x 0 7 0 0 au)) := by decide
theorem test_decode_mrd : decodeWords [0x0006_0861#32, 0x0400_0004#32, 0x0000_0003#32] = some (.mrd (x 8 6 0 3 au)) := by decide
theorem test_decode_mwr : decodeWords [0x0806_0061#32, 0x0400_0005#32, 0x0000_0000#32] = some (.mwr (x 0 6 8 0 au)) := by decide
theorem test_decode_mzero : decodeWords [0x0006_0061#32, 0x0400_0006#32, 0x0000_00F0#32] = some (.mzero (x 0 6 0 0xF0 au)) := by decide
theorem test_decode_view : decodeWords [0x0A08_0365#32, 0x0C00_0000#32, 0x0000_0120#32] = some (.view (x 3 8 10 0x120 ab)) := by decide
theorem test_decode_vstat : decodeWords [0x0000_0C65#32, 0x0000_0001#32, 0x0000_0013#32] = some (.vstat (x 12 0 0 0x13 z)) := by decide
theorem test_decode_vpix : decodeWords [0x0500_0065#32, 0x0000_0602#32, 0x0000_0000#32] = some (.vpix (x 0 0 5 0 { z with c := 6 })) := by decide
theorem test_decode_rayq : decodeWords [0x0802_0A65#32, 0x0800_0003#32, 0x0000_0000#32] = some (.rayq (x 10 2 8 0 bu)) := by decide
theorem test_decode_tld : decodeWords [0x0028_0269#32, 0x0400_0000#32, 0x0000_0013#32] = some (.tld (x 2 40 0 0x13 au)) := by decide
theorem test_decode_tst : decodeWords [0x0228_0069#32, 0x0400_0001#32, 0x0000_0003#32] = some (.tst (x 0 40 2 3 au)) := by decide
theorem test_decode_trd : decodeWords [0x1600_0869#32, 0x0800_0002#32, 0x0000_0000#32] = some (.trd (x 8 0 22 0 bu)) := by decide
theorem test_decode_twr : decodeWords [0x0008_0169#32, 0x1000_0003#32, 0x0000_0004#32] = some (.twr (x 1 8 0 4 bi)) := by decide
theorem test_decode_bxunion : decodeWords [0x1A14_08E9#32, 0x0000_0000#32, 0x0000_0000#32] = some (.bxunion (x 8 20 26 0 z)) := by decide
theorem test_decode_nodepack : decodeWords [0x1402_00E9#32, 0x2000_0C02#32, 0x0000_0000#32] = some (.nodepack (x 0 2 20 0 { cu with c := 12 })) := by decide
theorem test_decode_hbind : decodeWords [0x0002_026D#32, 0x0000_0002#32, 0x0000_0000#32] = some (.hbind (x 2 2 0 0 z)) := by decide
theorem test_decode_hperm : decodeWords [0x0002_026D#32, 0x1000_0003#32, 0x0000_0001#32] = some (.hperm (x 2 2 0 1 bi)) := by decide
theorem test_decode_hdist : decodeWords [0x0002_146D#32, 0x0000_0007#32, 0x0000_0000#32] = some (.hdist (x 20 2 0 0 z)) := by decide
theorem test_decode_remit : decodeWords [0x0304_0071#32, 0x0800_0000#32, 0x0000_0000#32] = some (.remit (x 0 4 3 0 bu)) := by decide
theorem test_decode_kret : decodeWords [0x0000_0071#32, 0x0000_0002#32, 0x0000_0000#32] = some (.kret (x 0 0 0 0 z)) := by decide
theorem test_decode_launch : decodeWords [0x0004_1475#32, 0x0400_0000#32, 0x0000_0000#32] = some (.launch (x 20 4 0 0 au)) := by decide
theorem test_decode_trap : decodeWords [0x0003_0075#32, 0x0011_0001#32, 0x0000_01C8#32] = some (.trap (x 0 3 0 0x1C8 { z with gen := true, pred := 1 })) := by decide
theorem test_decode_srd : decodeWords [0x0000_0175#32, 0x0000_0002#32, 0x0000_0012#32] = some (.srd (x 1 0 0 0x12 z)) := by decide
theorem test_decode_swr : decodeWords [0x0005_0075#32, 0x0400_0003#32, 0x0000_0013#32] = some (.swr (x 0 5 0 0x13 au)) := by decide
theorem test_decode_wqry : decodeWords [0x0006_0075#32, 0x0400_0006#32, 0x0000_0000#32] = some (.wqry (x 0 6 0 0 au)) := by decide

/-- OP 30 and OP 31, LEN 01 of NOP and a literal on CVT are ILLEGAL (Tables 3.9, 3.10). -/
theorem test_decode_illegal : decodeWords [0x0000_0078#32] = none ∧ decodeWords [0x0000_007C#32] = none ∧
    decodeWords [0x0000_0001#32, 0x0000_0000#32, 0x0000_0000#32] = none ∧
    decodeWords [0x0601_082A#32, 0x0000_0000#32, 0x0000_0000#32] = none := by decide
/-- An instruction cut short is no instruction. -/
theorem test_decode_short : decodeWords [0x0003_0251#32, 0x0000_0000#32] = none ∧ decodeWords [] = none := by decide
/-- Bytes of a word lie lowest first (R37). -/
theorem test_decode_bytes : (match decode [0x04, 0x05, 0x05, 0x06] with | .ok i => some i | .error _ => none) = some (.add (g0 5 5 6)) := by
  decide

/-! ### Ill-formed terms are refused: for every instruction, terms with a field its entry does not admit -/

def refused (is : List Instr) : Bool := is.all (fun i => !i.wf)

theorem test_ill_formed_1 :
  refused [.addLit (li 0 0 1 0), .addLit (li 0 0 0 0x100000000), .addExtLit (xl 0 0 1 0 z 0), .addExtLit (xl 0 0 0 1 z 0),
    .addExtLit (xl 0 0 0 0 z 0x100000000), .addExtLit (xl 0 0 0 0 bi 0), .addExtLit (xl 0 0 0 0 { z with rel := true } 0),
    .subLit (li 0 0 1 0), .subLit (li 0 0 0 0x100000000), .subExtLit (xl 0 0 1 0 z 0), .subExtLit (xl 0 0 0 1 z 0),
    .subExtLit (xl 0 0 0 0 z 0x100000000), .subExtLit (xl 0 0 0 0 bi 0), .subExtLit (xl 0 0 0 0 { z with rel := true } 0),
    .mulLit (li 0 0 1 0), .mulLit (li 0 0 0 0x100000000), .mulExtLit (xl 0 0 1 0 z 0), .mulExtLit (xl 0 0 0 1 z 0),
    .mulExtLit (xl 0 0 0 0 z 0x100000000), .mulExtLit (xl 0 0 0 0 bi 0), .mulExtLit (xl 0 0 0 0 { z with rel := true } 0),
    .mulhLit (li 0 0 1 0), .mulhLit (li 0 0 0 0x100000000), .mulhExtLit (xl 0 0 1 0 z 0), .mulhExtLit (xl 0 0 0 1 z 0),
    .mulhExtLit (xl 0 0 0 0 z 0x100000000), .mulhExtLit (xl 0 0 0 0 bi 0), .mulhExtLit (xl 0 0 0 0 { z with rel := true } 0),
    .fmaLit (li 0 0 1 0), .fmaLit (li 0 0 0 0x100000000), .fmaExtLit (xl 0 0 1 0 z 0), .fmaExtLit (xl 0 0 0 1 z 0),
    .fmaExtLit (xl 0 0 0 0 z 0x100000000), .fmaExtLit (xl 0 0 0 0 bi 0), .fmaExtLit (xl 0 0 0 0 { z with rel := true } 0),
    .fmsLit (li 0 0 1 0), .fmsLit (li 0 0 0 0x100000000), .fmsExtLit (xl 0 0 1 0 z 0), .fmsExtLit (xl 0 0 0 1 z 0),
    .fmsExtLit (xl 0 0 0 0 z 0x100000000)] = true := by decide
theorem test_ill_formed_2 :
  refused [.fmsExtLit (xl 0 0 0 0 bi 0), .fmsExtLit (xl 0 0 0 0 { z with rel := true } 0), .minLit (li 0 0 1 0),
    .minLit (li 0 0 0 0x100000000), .minExtLit (xl 0 0 1 0 z 0), .minExtLit (xl 0 0 0 1 z 0),
    .minExtLit (xl 0 0 0 0 z 0x100000000), .minExtLit (xl 0 0 0 0 bi 0), .minExtLit (xl 0 0 0 0 { z with rel := true } 0),
    .maxLit (li 0 0 1 0), .maxLit (li 0 0 0 0x100000000), .maxExtLit (xl 0 0 1 0 z 0), .maxExtLit (xl 0 0 0 1 z 0),
    .maxExtLit (xl 0 0 0 0 z 0x100000000), .maxExtLit (xl 0 0 0 0 bi 0), .maxExtLit (xl 0 0 0 0 { z with rel := true } 0),
    .andLit (li 0 0 1 0), .andLit (li 0 0 0 0x100000000), .andExtLit (xl 0 0 1 0 z 0), .andExtLit (xl 0 0 0 1 z 0),
    .andExtLit (xl 0 0 0 0 z 0x100000000), .andExtLit (xl 0 0 0 0 bi 0), .andExtLit (xl 0 0 0 0 { z with rel := true } 0),
    .orLit (li 0 0 1 0), .orLit (li 0 0 0 0x100000000), .orExtLit (xl 0 0 1 0 z 0), .orExtLit (xl 0 0 0 1 z 0),
    .orExtLit (xl 0 0 0 0 z 0x100000000), .orExtLit (xl 0 0 0 0 bi 0), .orExtLit (xl 0 0 0 0 { z with rel := true } 0),
    .xorLit (li 0 0 1 0), .xorLit (li 0 0 0 0x100000000), .xorExtLit (xl 0 0 1 0 z 0), .xorExtLit (xl 0 0 0 1 z 0),
    .xorExtLit (xl 0 0 0 0 z 0x100000000), .xorExtLit (xl 0 0 0 0 bi 0), .xorExtLit (xl 0 0 0 0 { z with rel := true } 0),
    .andnLit (li 0 0 1 0), .andnLit (li 0 0 0 0x100000000), .andnExtLit (xl 0 0 1 0 z 0)] = true := by decide
theorem test_ill_formed_3 :
  refused [.andnExtLit (xl 0 0 0 1 z 0), .andnExtLit (xl 0 0 0 0 z 0x100000000), .andnExtLit (xl 0 0 0 0 bi 0),
    .andnExtLit (xl 0 0 0 0 { z with rel := true } 0), .shlLit (li 0 0 1 0), .shlLit (li 0 0 0 0x100000000),
    .shlExtLit (xl 0 0 1 0 z 0), .shlExtLit (xl 0 0 0 1 z 0), .shlExtLit (xl 0 0 0 0 z 0x100000000),
    .shlExtLit (xl 0 0 0 0 bi 0), .shlExtLit (xl 0 0 0 0 { z with rel := true } 0), .shrLit (li 0 0 1 0),
    .shrLit (li 0 0 0 0x100000000), .shrExtLit (xl 0 0 1 0 z 0), .shrExtLit (xl 0 0 0 1 z 0),
    .shrExtLit (xl 0 0 0 0 z 0x100000000), .shrExtLit (xl 0 0 0 0 bi 0), .shrExtLit (xl 0 0 0 0 { z with rel := true } 0),
    .selLit (li 0 0 1 0), .selLit (li 0 0 0 0x100000000), .selExtLit (xl 0 0 1 0 z 0), .selExtLit (xl 0 0 0 1 z 0),
    .selExtLit (xl 0 0 0 0 z 0x100000000), .selExtLit (xl 0 0 0 0 bi 0), .selExtLit (xl 0 0 0 0 { z with rel := true } 0),
    .cmpp (g0 96 0 0), .cmpp (g0 8 0 0), .cmppLit (li 8 0 0 0), .cmppLit (li 0 0 1 0), .cmppLit (li 0 0 0 0x100000000),
    .cmppExtLit (xl 8 0 0 0 z 0), .cmppExtLit (xl 0 0 0 0 bu 0), .cmppExtLit (xl 0 0 1 0 z 0), .cmppExtLit (xl 0 0 0 1 z 0),
    .mov (g0 0 0 1), .movLit (li 0 1 0 0), .movLit (li 0 0 1 0), .movLit (li 0 0 0 0xF00000000),
    .movLit (li 0 0 0 0x1000000000), .movExtLit (xl 0 1 0 0 z 0)] = true := by decide
theorem test_ill_formed_4 :
  refused [.movExtLit (xl 0 0 0 1 z 0), .movExtLit (xl 0 0 0 0 bu 0), .movExtLit (xl 0 0 0 0 z 0xF00000000),
    .cvt (g0 0 0 0x81), .cvt (g0 0 0 0x10), .cvt (g0 0 0 0x0F), .vtag (g0 0 0 16), .vtag (g0 0 0 15), .sfu (g0 0 0 8),
    .sfu (g0 252 0 0), .perm (g0 0 249 0), .perm (g0 0 253 0), .reduce (g0 0 0 6), .scan (g0 0 0 6), .welf (g0 250 0 0),
    .welf (g0 0 0 1), .ldl (g0 0 0 0xF0), .ldl (g0 252 0 0), .stl (g0 0 0 0xF0), .lds (g0 0 0 0xF0), .lds (g0 252 0 0),
    .sts (g0 0 0 0xF0), .spush (g0 1 0 0), .spush (g0 0 0 1), .spop (g0 0 1 0), .spop (g0 0 0 1), .spop (g0 0 0 0xF0),
    .spop (g0 252 0 0), .callExt (x 0 0 0 0 { z with c := 252 }), .callExt (x 0 0 0 0 { z with c := 2 }),
    .forkExt (x 8 0 0 0 z), .forkExt (x 0 0 0 0 { z with c := 9 }), .forkExt (x 0 250 0 0 { z with c := 3 }),
    .movWide (x 0 0 0 0 z), .movWide (x 0 0 0 0x80300000 z), .movWide (x 0 0 0 0x80100100 z), .movWide (x 0 0 0 0x80240000 z),
    .movWide (x 0 0 0 0x80400000 z), .bfx (x 0 0 0 0 z), .bfx (x 0 0 0 0x2020 z)] = true := by decide
theorem test_ill_formed_5 :
  refused [.bfx (x 0 0 0 0x05F z), .bfx (x 0 0 0 0x1001 z), .bfx (x 0 0 1 0x020 z), .bfi (x 0 0 0 0x820 z),
    .bfi (x 0 0 0 0x020 { z with c := 1 }), .mrd (x 0 0 0 2 au), .mrd (x 16 0 0 0x23 au), .mrd (x 0 0 1 3 au),
    .mrd (x 0 0 0 0x13 au), .mrd (x 0 0 0 6 { au with ftz := true }), .mrd (x 252 0 0 3 au), .mrd (x 0 0 0 0x24 au),
    .view (x 0 0 0 4 ab), .view (x 0 0 0 0x50 ab), .view (x 0 0 0 0x280 ab), .view (x 0 0 0 0x1000 ab),
    .selExt (x 0 0 0 0 { z with c := 16 }), .sfuExt (x 0 0 0 0 bu), .reduceExt (x 0 0 3 0 { z with ftz := true }),
    .shflExt (x 0 0 0 0 au), .shflExt (x 0 0 0 0 { bu with bi := true }), .fence (x 0 0 0 5 { z with acq := true }),
    .fence (x 0 0 0 0 z), .fence (x 0 0 0 8 { ab with acq := true }), .fence (x 0 1 0 0 { z with acq := true }),
    .fence (x 0 0 0 16 { z with acq := true }), .fence (x 0 0 0 0 { au with acq := true }),
    .cvtExt (x 0 0 1 0 { z with ftz := true }), .cvtExt (x 0 0 0x0F 0 z), .atom { sub := 0xc, e := x 0 0 0 0x0 z },
    .atom { sub := 0x50, e := x 0 0 0 0x0 z }, .atom { sub := 0x0, e := x 0 0 0 0x4 z },
    .atom { sub := 0x0, e := x 1 0 0 0x1 z }, .atom { sub := 0x0, e := x 0 0 0 0x1 { z with acq := true } },
    .atom { sub := 0x0, e := x 0 0 0 0x2 z }, .atom { sub := 0x40, e := x 0 0 0 0x0 z },
    .atom { sub := 0x0, e := x 252 0 0 0x0 z }, .atom { sub := 0x80, e := x 251 0 0 0x0 z },
    .atom { sub := 0x80, e := x 0 0 251 0x0 z }, .atom { sub := 0x80, e := x 0 0 255 0x0 bu }] = true := by decide
theorem test_ill_formed_6 :
  refused [.atom { sub := 0x30, e := x 0 251 0 0x2 z }, .atom { sub := 0x30, e := x 0 255 0 0x2 au },
    .atom { sub := 0x0, e := x 0 0 0 0x0 { z with c := 1 } }, .atom { sub := 0x0, e := x 0 0 0 0x0 cu },
    .atom { sub := 0x0, e := x 0 0 0 0x0 { z with sat := true } }, .atom { sub := 0x8, e := x 0 0 0 0x0 z },
    .atom { sub := 0x81, e := x 0 0 0 0x0 z }, .atomc { sub := 0x1, e := x 0 0 0 0x0 z },
    .atomc { sub := 0x80, e := x 0 0 0 0x0 { z with c := 251 } },
    .atomc { sub := 0x80, e := x 0 0 0 0x0 { cu with c := 255 } }, .atomc { sub := 0x0, e := x 0 0 0 0x0 bi },
    .atomLit { sub := 0, e := xl 0 0 1 0 z 0 }, .atomLit { sub := 0, e := xl 0 0 0 0 bu 0 },
    .atomLit { sub := 0, e := xl 0 0 0 0 z 0x100000000 }, .atomcLit { sub := 0, e := xl 0 0 0 0 z 0x100000000 },
    .atomcLit { sub := 1, e := xl 0 0 0 0 z 0 }, .yieldExt (x 255 0 0 0x0 z), .yieldExt (x 1 0 0 0x0 z),
    .yieldExt (x 0 255 0 0x0 z), .yieldExt (x 0 0 0 0x0 { z with rel := true }),
    .yieldExt (x 0 0 0 0x0 { z with acq := true }), .addExt (x 0 0 0 0xffffffff z), .addExt (x 0 0 0 0x1 z),
    .addExt (x 0 0 0 0x0 { z with rel := true }), .addExt (x 0 0 0 0x0 { z with acq := true }), .subExt (x 0 0 0 0xffffffff z),
    .subExt (x 0 0 0 0x1 z), .subExt (x 0 0 0 0x0 { z with rel := true }), .subExt (x 0 0 0 0x0 { z with acq := true }),
    .mulExt (x 0 0 0 0xffffffff z), .mulExt (x 0 0 0 0x1 z), .mulExt (x 0 0 0 0x0 { z with rel := true }),
    .mulExt (x 0 0 0 0x0 { z with acq := true }), .mulhExt (x 0 0 0 0xffffffff z), .mulhExt (x 0 0 0 0x1 z),
    .mulhExt (x 0 0 0 0x0 { z with rel := true }), .mulhExt (x 0 0 0 0x0 { z with acq := true }),
    .fmaExt (x 0 0 0 0xffffffff z), .fmaExt (x 0 0 0 0x1 z), .fmaExt (x 0 0 0 0x0 { z with rel := true })] = true := by decide
theorem test_ill_formed_7 :
  refused [.fmaExt (x 0 0 0 0x0 { z with acq := true }), .fmsExt (x 0 0 0 0xffffffff z), .fmsExt (x 0 0 0 0x1 z),
    .fmsExt (x 0 0 0 0x0 { z with rel := true }), .fmsExt (x 0 0 0 0x0 { z with acq := true }), .minExt (x 0 0 0 0xffffffff z),
    .minExt (x 0 0 0 0x1 z), .minExt (x 0 0 0 0x0 { z with rel := true }), .minExt (x 0 0 0 0x0 { z with acq := true }),
    .maxExt (x 0 0 0 0xffffffff z), .maxExt (x 0 0 0 0x1 z), .maxExt (x 0 0 0 0x0 { z with rel := true }),
    .maxExt (x 0 0 0 0x0 { z with acq := true }), .andExt (x 0 0 0 0xffffffff z), .andExt (x 0 0 0 0x1 z),
    .andExt (x 0 0 0 0x0 { z with rel := true }), .andExt (x 0 0 0 0x0 { z with acq := true }), .orExt (x 0 0 0 0xffffffff z),
    .orExt (x 0 0 0 0x1 z), .orExt (x 0 0 0 0x0 { z with rel := true }), .orExt (x 0 0 0 0x0 { z with acq := true }),
    .xorExt (x 0 0 0 0xffffffff z), .xorExt (x 0 0 0 0x1 z), .xorExt (x 0 0 0 0x0 { z with rel := true }),
    .xorExt (x 0 0 0 0x0 { z with acq := true }), .andnExt (x 0 0 0 0xffffffff z), .andnExt (x 0 0 0 0x1 z),
    .andnExt (x 0 0 0 0x0 { z with rel := true }), .andnExt (x 0 0 0 0x0 { z with acq := true }),
    .shlExt (x 0 0 0 0xffffffff z), .shlExt (x 0 0 0 0x1 z), .shlExt (x 0 0 0 0x0 { z with rel := true }),
    .shlExt (x 0 0 0 0x0 { z with acq := true }), .shrExt (x 0 0 0 0xffffffff z), .shrExt (x 0 0 0 0x1 z),
    .shrExt (x 0 0 0 0x0 { z with rel := true }), .shrExt (x 0 0 0 0x0 { z with acq := true }), .cmppExt (x 255 0 0 0x0 z),
    .cmppExt (x 0 0 0 0xffffffff z), .cmppExt (x 0 0 0 0x1 z)] = true := by decide
theorem test_ill_formed_8 :
  refused [.cmppExt (x 0 0 0 0x0 { z with rel := true }), .cmppExt (x 0 0 0 0x0 { z with acq := true }),
    .selExt (x 0 0 0 0xffffffff z), .selExt (x 0 0 0 0x1 z), .selExt (x 0 0 0 0x0 { z with rel := true }),
    .selExt (x 0 0 0 0x0 { z with acq := true }), .movExt (x 0 0 255 0x0 z), .movExt (x 0 0 1 0x0 z),
    .movExt (x 0 0 0 0xffffffff z), .movExt (x 0 0 0 0x0 { z with rel := true }), .movExt (x 0 0 0 0x0 { z with acq := true }),
    .movWide (x 255 0 0 0x80000000 z), .movWide (x 1 0 0 0x80000000 z), .movWide (x 0 255 0 0x80000000 z),
    .movWide (x 0 0 0 0x80000000 { z with rel := true }), .movWide (x 0 0 0 0x80000000 { z with acq := true }),
    .moviExt (x 0 255 0 0x0 bi), .moviExt (x 0 1 0 0x0 bi), .moviExt (x 0 0 255 0x0 bi),
    .moviExt (x 0 0 0 0x0 { bi with rel := true }), .moviExt (x 0 0 0 0x0 { bi with acq := true }), .cvtExt (x 0 0 255 0x0 z),
    .cvtExt (x 0 0 0 0x0 z), .cvtExt (x 0 0 1 0xffffffff z), .cvtExt (x 0 0 1 0x0 { z with rel := true }),
    .cvtExt (x 0 0 1 0x0 { z with acq := true }), .vtagExt (x 0 0 255 0x0 z), .vtagExt (x 0 0 0 0xffffffff z),
    .vtagExt (x 0 0 0 0x1 z), .vtagExt (x 0 0 0 0x0 { z with rel := true }), .vtagExt (x 0 0 0 0x0 { z with acq := true }),
    .sfuExt (x 255 0 0 0x0 z), .sfuExt (x 0 0 255 0x0 z), .sfuExt (x 0 0 0 0xffffffff z),
    .sfuExt (x 0 0 0 0x0 { z with rel := true }), .sfuExt (x 0 0 0 0x0 { z with acq := true }), .permExt (x 0 255 0 0x0 z),
    .permExt (x 0 0 0 0xffffffff z), .permExt (x 0 0 0 0x1 z), .permExt (x 0 0 0 0x0 { z with rel := true })] = true := by decide
theorem test_ill_formed_9 :
  refused [.permExt (x 0 0 0 0x0 { z with acq := true }), .shflExt (x 0 0 0 0xffffffff z), .shflExt (x 0 0 0 0x1 z),
    .shflExt (x 0 0 0 0x0 { z with rel := true }), .shflExt (x 0 0 0 0x0 { z with acq := true }), .reduceExt (x 0 0 255 0x0 z),
    .reduceExt (x 0 0 0 0xffffffff z), .reduceExt (x 0 0 0 0x1 z), .reduceExt (x 0 0 0 0x0 { z with rel := true }),
    .reduceExt (x 0 0 0 0x0 { z with acq := true }), .scanExt (x 0 0 255 0x0 z), .scanExt (x 0 0 0 0xffffffff z),
    .scanExt (x 0 0 0 0x1 z), .scanExt (x 0 0 0 0x0 { z with rel := true }), .scanExt (x 0 0 0 0x0 { z with acq := true }),
    .welfExt (x 255 0 0 0x0 z), .welfExt (x 0 0 255 0x0 z), .welfExt (x 0 0 1 0x0 z),
    .welfExt (x 0 0 0 0x0 { z with rel := true }), .welfExt (x 0 0 0 0x0 { z with acq := true }), .ldlExt (x 255 0 0 0x0 z),
    .ldlExt (x 0 0 255 0x0 z), .ldlExt (x 0 0 0 0xffffffff z), .ldlExt (x 0 0 0 0x0 { z with rel := true }),
    .ldlExt (x 0 0 0 0x0 { z with acq := true }), .stlExt (x 0 0 255 0x0 z), .stlExt (x 0 0 0 0xffffffff z),
    .stlExt (x 0 0 0 0x1 z), .stlExt (x 0 0 0 0x0 { z with rel := true }), .stlExt (x 0 0 0 0x0 { z with acq := true }),
    .ldsExt (x 255 0 0 0x0 z), .ldsExt (x 0 0 255 0x0 z), .ldsExt (x 0 0 0 0xffffffff z),
    .ldsExt (x 0 0 0 0x0 { z with rel := true }), .ldsExt (x 0 0 0 0x0 { z with acq := true }), .stsExt (x 0 0 255 0x0 z),
    .stsExt (x 0 0 0 0xffffffff z), .stsExt (x 0 0 0 0x1 z), .stsExt (x 0 0 0 0x0 { z with rel := true }),
    .stsExt (x 0 0 0 0x0 { z with acq := true })] = true := by decide
theorem test_ill_formed_10 :
  refused [.spushExt (x 255 0 0 0x0 z), .spushExt (x 1 0 0 0x0 z), .spushExt (x 0 0 255 0x0 z),
    .spushExt (x 0 0 0 0x0 { z with rel := true }), .spushExt (x 0 0 0 0x0 { z with acq := true }), .spopExt (x 255 0 0 0x0 z),
    .spopExt (x 0 255 0 0x0 z), .spopExt (x 0 1 0 0x0 z), .spopExt (x 0 0 0 0x0 { z with rel := true }),
    .spopExt (x 0 0 0 0x0 { z with acq := true }), .braExt (x 255 0 0 0x0 z), .braExt (x 1 0 0 0x0 z),
    .braExt (x 0 255 0 0x0 z), .braExt (x 0 0 0 0x0 { z with rel := true }), .braExt (x 0 0 0 0x0 { z with acq := true }),
    .callExt (x 255 0 0 0x0 z), .callExt (x 1 0 0 0x0 z), .callExt (x 0 255 0 0x0 z),
    .callExt (x 0 0 0 0x0 { z with rel := true }), .callExt (x 0 0 0 0x0 { z with acq := true }), .retExt (x 255 0 0 0x0 z),
    .retExt (x 1 0 0 0x0 z), .retExt (x 0 255 0 0x0 z), .retExt (x 0 0 0 0x0 { z with rel := true }),
    .retExt (x 0 0 0 0x0 { z with acq := true }), .forkExt (x 255 0 0 0x0 z), .forkExt (x 0 255 0 0x0 z),
    .forkExt (x 0 0 255 0x0 z), .forkExt (x 0 0 0 0x0 { z with rel := true }), .forkExt (x 0 0 0 0x0 { z with acq := true }),
    .fendExt (x 255 0 0 0x0 z), .fendExt (x 1 0 0 0x0 z), .fendExt (x 0 255 0 0x0 z),
    .fendExt (x 0 0 0 0x0 { z with rel := true }), .fendExt (x 0 0 0 0x0 { z with acq := true }), .abs (x 0 0 255 0x0 z),
    .abs (x 0 0 1 0x0 z), .abs (x 0 0 0 0xffffffff z), .abs (x 0 0 0 0x0 { z with rel := true }),
    .abs (x 0 0 0 0x0 { z with acq := true })] = true := by decide
theorem test_ill_formed_11 :
  refused [.neg (x 0 0 255 0x0 z), .neg (x 0 0 1 0x0 z), .neg (x 0 0 0 0xffffffff z),
    .neg (x 0 0 0 0x0 { z with rel := true }), .neg (x 0 0 0 0x0 { z with acq := true }), .popc (x 0 0 255 0x0 z),
    .popc (x 0 0 1 0x0 z), .popc (x 0 0 0 0xffffffff z), .popc (x 0 0 0 0x0 { z with rel := true }),
    .popc (x 0 0 0 0x0 { z with acq := true }), .clz (x 0 0 255 0x0 z), .clz (x 0 0 1 0x0 z), .clz (x 0 0 0 0xffffffff z),
    .clz (x 0 0 0 0x0 { z with rel := true }), .clz (x 0 0 0 0x0 { z with acq := true }), .brev (x 0 0 255 0x0 z),
    .brev (x 0 0 1 0x0 z), .brev (x 0 0 0 0xffffffff z), .brev (x 0 0 0 0x0 { z with rel := true }),
    .brev (x 0 0 0 0x0 { z with acq := true }), .bfx (x 0 0 255 0x20 z), .bfx (x 0 0 1 0x20 z), .bfx (x 0 0 0 0xffffffff z),
    .bfx (x 0 0 0 0x20 { z with rel := true }), .bfx (x 0 0 0 0x20 { z with acq := true }), .bfi (x 0 0 0 0xffffffff z),
    .bfi (x 0 0 0 0x0 z), .bfi (x 0 0 0 0x20 { z with rel := true }), .bfi (x 0 0 0 0x20 { z with acq := true }),
    .idiv (x 0 0 0 0xffffffff z), .idiv (x 0 0 0 0x1 z), .idiv (x 0 0 0 0x0 { z with rel := true }),
    .idiv (x 0 0 0 0x0 { z with acq := true }), .dot4 (x 0 0 0 0xffffffff z), .dot4 (x 0 0 0 0x1 z),
    .dot4 (x 0 0 0 0x0 { z with rel := true }), .dot4 (x 0 0 0 0x0 { z with acq := true }), .wmerge (x 255 0 0 0x0 z),
    .wmerge (x 0 255 0 0x0 z), .wmerge (x 0 0 255 0x0 z)] = true := by decide
theorem test_ill_formed_12 :
  refused [.wmerge (x 0 0 0 0x0 { z with rel := true }), .wmerge (x 0 0 0 0x0 { z with acq := true }),
    .barinit (x 255 0 0 0x0 au), .barinit (x 1 0 0 0x0 au), .barinit (x 0 0 255 0x0 au),
    .barinit (x 0 0 0 0x0 { au with rel := true }), .barinit (x 0 0 0 0x0 { au with acq := true }), .bararr (x 255 0 0 0x0 au),
    .bararr (x 1 0 0 0x0 au), .bararr (x 0 0 255 0x0 au), .bararr (x 0 0 0 0x0 { au with acq := true }),
    .bararr (x 0 0 0 0x0 { au with cu := true }), .barexp (x 255 0 0 0x0 ab), .barexp (x 1 0 0 0x0 ab),
    .barexp (x 0 0 0 0xffffffff ab), .barexp (x 0 0 0 0x0 { ab with rel := true }),
    .barexp (x 0 0 0 0x0 { ab with acq := true }), .barwait (x 255 0 0 0x0 ab), .barwait (x 1 0 0 0x0 ab),
    .barwait (x 0 0 0 0xffffffff ab), .barwait (x 0 0 0 0x0 { ab with rel := true }),
    .barwait (x 0 0 0 0x0 { ab with cu := true }), .bartest (x 255 0 0 0x0 ab), .bartest (x 0 0 0 0xffffffff ab),
    .bartest (x 0 0 0 0x1 ab), .bartest (x 0 0 0 0x0 { ab with rel := true }), .bartest (x 0 0 0 0x0 { ab with cu := true }),
    .copy (x 0 255 0 0x0 au), .copy (x 0 0 255 0x0 au), .copy (x 0 0 1 0x0 au), .copy (x 0 0 0 0x0 { au with rel := true }),
    .copy (x 0 0 0 0x0 { au with acq := true }), .copyb (x 0 255 0 0x0 au), .copyb (x 0 0 255 0x0 au), .copyb (x 0 0 1 0x0 au),
    .copyb (x 0 0 0 0x0 { au with rel := true }), .copyb (x 0 0 0 0x0 { au with acq := true }), .copyg (x 0 255 0 0x0 au),
    .copyg (x 0 0 255 0x0 au), .copyg (x 0 0 1 0x0 au)] = true := by decide
theorem test_ill_formed_13 :
  refused [.copyg (x 0 0 0 0x0 { au with rel := true }), .copyg (x 0 0 0 0x0 { au with acq := true }),
    .copys (x 0 255 0 0x0 au), .copys (x 0 0 255 0x0 au), .copys (x 0 0 1 0x0 au),
    .copys (x 0 0 0 0x0 { au with rel := true }), .copys (x 0 0 0 0x0 { au with acq := true }), .mcommit (x 0 255 0 0x0 z),
    .mcommit (x 0 1 0 0x0 z), .mcommit (x 0 0 255 0x0 z), .mcommit (x 0 0 0 0x0 { z with rel := true }),
    .mcommit (x 0 0 0 0x0 { z with acq := true }), .mwait (x 255 0 0 0x0 au), .mwait (x 1 0 0 0x0 au),
    .mwait (x 0 0 255 0x0 au), .mwait (x 0 0 0 0x0 { au with rel := true }), .mwait (x 0 0 0 0x0 { au with acq := true }),
    .mrd (x 255 0 0 0x1 au), .mrd (x 0 0 255 0x1 au), .mrd (x 0 0 1 0x1 au), .mrd (x 0 0 0 0x1 { au with rel := true }),
    .mrd (x 0 0 0 0x1 { au with acq := true }), .mwr (x 255 0 0 0x0 au), .mwr (x 1 0 0 0x0 au), .mwr (x 0 0 255 0x0 au),
    .mwr (x 0 0 0 0x0 { au with rel := true }), .mwr (x 0 0 0 0x0 { au with acq := true }), .mzero (x 255 0 0 0x1 au),
    .mzero (x 1 0 0 0x1 au), .mzero (x 0 0 255 0x1 au), .mzero (x 0 0 0 0x1 { au with rel := true }),
    .mzero (x 0 0 0 0x1 { au with acq := true }), .smv (x 255 0 0 0x0 au), .smv (x 1 0 0 0x0 au), .smv (x 0 0 255 0x0 au),
    .smv (x 0 0 0 0x0 { au with rel := true }), .smv (x 0 0 0 0x0 { au with acq := true }), .view (x 255 0 0 0x0 ab),
    .view (x 0 255 0 0x0 ab), .view (x 0 0 255 0x0 ab)] = true := by decide
theorem test_ill_formed_14 :
  refused [.view (x 0 0 0 0x0 { ab with rel := true }), .view (x 0 0 0 0x0 { ab with acq := true }), .vstat (x 0 255 0 0x0 z),
    .vstat (x 0 1 0 0x0 z), .vstat (x 0 0 255 0x0 z), .vstat (x 0 0 0 0x0 { z with rel := true }),
    .vstat (x 0 0 0 0x0 { z with acq := true }), .vpix (x 255 0 0 0x0 z), .vpix (x 1 0 0 0x0 z), .vpix (x 0 0 0 0xffffffff z),
    .vpix (x 0 0 0 0x0 { z with rel := true }), .vpix (x 0 0 0 0x0 { z with acq := true }), .rayq (x 255 0 0 0x0 bu),
    .rayq (x 0 255 0 0x0 bu), .rayq (x 0 0 255 0x0 bu), .rayq (x 0 0 0 0x0 { bu with rel := true }),
    .rayq (x 0 0 0 0x0 { bu with acq := true }), .tld (x 255 0 0 0x0 au), .tld (x 0 0 255 0x0 au), .tld (x 0 0 1 0x0 au),
    .tld (x 0 0 0 0x0 { au with rel := true }), .tld (x 0 0 0 0x0 { au with acq := true }), .tst (x 255 0 0 0x0 au),
    .tst (x 1 0 0 0x0 au), .tst (x 0 0 255 0x0 au), .tst (x 0 0 0 0x0 { au with rel := true }),
    .tst (x 0 0 0 0x0 { au with acq := true }), .trd (x 0 255 0 0x0 bu), .trd (x 0 0 0 0xffffffff bu), .trd (x 0 0 0 0x1 bu),
    .trd (x 0 0 0 0x0 { bu with rel := true }), .trd (x 0 0 0 0x0 { bu with acq := true }), .twr (x 255 0 0 0x0 bu),
    .twr (x 0 0 0 0xffffffff bu), .twr (x 0 0 0 0x1 bu), .twr (x 0 0 0 0x0 { bu with rel := true }),
    .twr (x 0 0 0 0x0 { bu with acq := true }), .bxunion (x 255 0 0 0x0 z), .bxunion (x 0 255 0 0x0 z),
    .bxunion (x 0 0 255 0x0 z)] = true := by decide
theorem test_ill_formed_15 :
  refused [.bxunion (x 0 0 0 0x0 { z with rel := true }), .bxunion (x 0 0 0 0x0 { z with acq := true }),
    .sahcost (x 255 0 0 0x0 z), .sahcost (x 0 255 0 0x0 z), .sahcost (x 0 0 0 0xffffffff z),
    .sahcost (x 0 0 0 0x0 { z with rel := true }), .sahcost (x 0 0 0 0x0 { z with acq := true }), .nodepack (x 255 0 0 0x0 cu),
    .nodepack (x 1 0 0 0x0 cu), .nodepack (x 0 0 255 0x0 cu), .nodepack (x 0 0 0 0x0 { cu with rel := true }),
    .nodepack (x 0 0 0 0x0 { cu with acq := true }), .hld (x 255 0 0 0x0 au), .hld (x 0 0 255 0x0 au), .hld (x 0 0 1 0x0 au),
    .hld (x 0 0 0 0x0 { au with rel := true }), .hld (x 0 0 0 0x0 { au with acq := true }), .hst (x 255 0 0 0x0 au),
    .hst (x 1 0 0 0x0 au), .hst (x 0 0 255 0x0 au), .hst (x 0 0 0 0x0 { au with rel := true }),
    .hst (x 0 0 0 0x0 { au with acq := true }), .hbind (x 255 0 0 0x0 z), .hbind (x 0 255 0 0x0 z), .hbind (x 0 0 255 0x0 z),
    .hbind (x 0 0 0 0x0 { z with rel := true }), .hbind (x 0 0 0 0x0 { z with acq := true }), .hperm (x 255 0 0 0x0 bu),
    .hperm (x 0 255 0 0x0 bu), .hperm (x 0 0 0 0xffffffff bu), .hperm (x 0 0 0 0x0 { bu with rel := true }),
    .hperm (x 0 0 0 0x0 { bu with acq := true }), .hbund (x 255 0 0 0x1 z), .hbund (x 0 255 0 0x1 z), .hbund (x 0 0 255 0x1 z),
    .hbund (x 0 0 0 0x1 { z with rel := true }), .hbund (x 0 0 0 0x1 { z with acq := true }), .hclr (x 255 0 0 0x0 z),
    .hclr (x 0 255 0 0x0 z), .hclr (x 0 1 0 0x0 z)] = true := by decide
theorem test_ill_formed_16 :
  refused [.hclr (x 0 0 0 0x0 { z with rel := true }), .hclr (x 0 0 0 0x0 { z with acq := true }), .hthr (x 255 0 0 0x0 z),
    .hthr (x 0 255 0 0x0 z), .hthr (x 0 0 255 0x0 z), .hthr (x 0 0 0 0x0 { z with rel := true }),
    .hthr (x 0 0 0 0x0 { z with acq := true }), .hdist (x 0 255 0 0x0 z), .hdist (x 0 0 255 0x0 z),
    .hdist (x 0 0 0 0xffffffff z), .hdist (x 0 0 0 0x0 { z with rel := true }), .hdist (x 0 0 0 0x0 { z with acq := true }),
    .hnear (x 255 0 0 0x0 bu), .hnear (x 0 255 0 0x0 bu), .hnear (x 0 0 0 0xffffffff bu),
    .hnear (x 0 0 0 0x0 { bu with rel := true }), .hnear (x 0 0 0 0x0 { bu with acq := true }), .hgen (x 255 0 0 0x0 ab),
    .hgen (x 0 255 0 0x0 ab), .hgen (x 0 0 0 0xffffffff ab), .hgen (x 0 0 0 0x0 { ab with rel := true }),
    .hgen (x 0 0 0 0x0 { ab with acq := true }), .remit (x 255 0 0 0x0 bu), .remit (x 1 0 0 0x0 bu),
    .remit (x 0 0 0 0xffffffff bu), .remit (x 0 0 0 0x0 { bu with rel := true }), .remit (x 0 0 0 0x0 { bu with acq := true }),
    .ksusp (x 255 0 0 0x0 z), .ksusp (x 1 0 0 0x0 z), .ksusp (x 0 255 0 0x0 z), .ksusp (x 0 0 0 0x0 { z with rel := true }),
    .ksusp (x 0 0 0 0x0 { z with acq := true }), .kret (x 255 0 0 0x0 z), .kret (x 1 0 0 0x0 z), .kret (x 0 255 0 0x0 z),
    .kret (x 0 0 0 0x0 { z with rel := true }), .kret (x 0 0 0 0x0 { z with acq := true }), .launch (x 255 0 0 0x0 au),
    .launch (x 0 255 0 0x0 au), .launch (x 0 0 255 0x0 au)] = true := by decide
theorem test_ill_formed_17 :
  refused [.launch (x 0 0 0 0x0 { au with rel := true }), .launch (x 0 0 0 0x0 { au with acq := true }),
    .trap (x 255 0 0 0x0 z), .trap (x 1 0 0 0x0 z), .trap (x 0 255 0 0x0 z), .trap (x 0 0 0 0x0 { z with rel := true }),
    .trap (x 0 0 0 0x0 { z with acq := true }), .srd (x 0 255 0 0x0 z), .srd (x 0 1 0 0x0 z), .srd (x 0 0 255 0x0 z),
    .srd (x 0 0 0 0x0 { z with rel := true }), .srd (x 0 0 0 0x0 { z with acq := true }), .swr (x 255 0 0 0x0 z),
    .swr (x 1 0 0 0x0 z), .swr (x 0 0 255 0x0 z), .swr (x 0 0 0 0x0 { z with rel := true }),
    .swr (x 0 0 0 0x0 { z with acq := true }), .fence (x 0 255 0 0x0 { z with acq := true }),
    .fence (x 0 1 0 0x0 { z with acq := true }), .fence (x 0 0 255 0x0 { z with acq := true }),
    .fence (x 0 0 0 0x0 { { z with acq := true } with acq := false }),
    .fence (x 0 0 0 0x0 { { z with acq := true } with cu := true }), .fwait (x 255 0 0 0x0 au), .fwait (x 1 0 0 0x0 au),
    .fwait (x 0 0 255 0x0 au), .fwait (x 0 0 0 0x0 { au with rel := true }), .fwait (x 0 0 0 0x0 { au with acq := true }),
    .wqry (x 255 0 0 0x0 au), .wqry (x 1 0 0 0x0 au), .wqry (x 0 0 255 0x0 au), .wqry (x 0 0 0 0x0 { au with rel := true }),
    .wqry (x 0 0 0 0x0 { au with acq := true }), .brx (x 255 0 0 0x0 z), .brx (x 1 0 0 0x0 z), .brx (x 0 0 255 0x0 z),
    .brx (x 0 0 0 0x0 { z with rel := true }), .brx (x 0 0 0 0x0 { z with acq := true }), .mma (x 1 0 0 0x2200080 abc),
    .mma (x 0 0 0 0x2200080 ab), .mma (x 0 0 0 0x12200080 abc)] = true := by decide
theorem test_ill_formed_18 :
  refused [.mma (x 0 0 0 0x2200000 abc), .mma (x 0 0 0 0x3200080 abc), .mma (x 0 0 0 0x2200080 { abc with fsel := true }),
    .mmaq (x 255 0 0 0x2200080 abc), .mmaq (x 0 0 0 0x4C00080 abc), .mmaq (x 0 0 0 0x2200080 { abc with rel := true })] = true := by decide

/-- The helper checks on values they refuse. -/
theorem test_checks_refuse : WellFormed.tileW2 15#32 = false ∧ WellFormed.tileW2 32#32 = false ∧ WellFormed.kStep .f16x2 .bf16x2 = none ∧
    WellFormed.rowForm (x 0 0 0 0 z) = false ∧ WellFormed.rowForm (x 0 0 0 0 { bu with bi := true }) = false ∧
    Tag.ofCode 15#4 = none := by decide

/-! ### Single steps on a small machine

One launch of one gang of one crew with one wave, its fibre in lane 0 at the only instruction of a clause (`State.withFetchWord`). -/

/-- The small machine, between the check and the effect of one instruction. -/
def m0 : State := State.reset.withFetchWord 32 0

def withV (n v : Nat) (t : Tag) (s : State) : State :=
  s.modWave 1 (fun w => { w with lanes := w.lanes.modify 0 (fun ln => ln.writeV n (Reg.done (BitVec.ofNat 32 v) t)) })
def withU (n v : Nat) (t : Tag) (s : State) : State := s.setUni 1 n (Reg.done (BitVec.ofNat 32 v) t)

/-- The state after an instruction. -/
def after (i : Instr) (s : State) : State :=
  match exec i s with
  | .next t => t
  | _ => s
def v (n : Nat) (s : State) : Nat × Tag := let r := ((s.wave 1).lane 0).readV n; (r.val.toNat, r.tag)
def u (n : Nat) (s : State) : Nat × Tag := let r := (s.crew 1).uni n; (r.val.toNat, r.tag)
def word (o : Nat) (s : State) : Nat := (s.homeWord (.loc 1 o)).toNat
/-- Registers 3 and 4 of the fibre. -/
def two (a b : Nat) (t : Tag) : State := withV 4 b t (withV 3 a t m0)
/-- The class of the record that stopped the gang is not seen where no queue stands: the gang is stopped. -/
def stopped (s : State) : Bool := (s.gang 1).phase == .stopped && s.cur.isNone

-- Integer arithmetic wraps, and SAT clamps to the element's range (R68).
theorem test_add_wraps : v 2 (after (.add (g0 2 3 4)) (two 0xFFFFFFFF 1 .n32)) = (0, .n32) := by decide
theorem test_add_sat : v 2 (after (.addExt (x 2 3 4 0 { z with sat := true })) (two 0x7F80FF00 0x01FF0100 .i8x4)) = (0x7F800000, .i8x4) := by decide
theorem test_sub_borrow : v 2 (after (.sub (g0 2 3 4)) (two 0 1 .n32)) = (0xFFFFFFFF, .n32) := by decide
theorem test_add_format : stopped (after (.add (g0 2 3 4)) (withV 4 1 .f32 (two 1 1 .n32))) = true := by decide
-- 1.0 + 2.0 = 3.0; 1.5 × 2.0 = 3.0.
theorem test_add_f32 : v 2 (after (.add (g0 2 3 4)) (two 0x3F800000 0x40000000 .f32)) = (0x40400000, .f32) := by decide
theorem test_mul_f32 : v 2 (after (.mul (g0 2 3 4)) (two 0x3FC00000 0x40000000 .f32)) = (0x40400000, .f32) := by decide
-- MIN(+0, −0) is −0 and MAX(+0, −0) is +0 (R74).
theorem test_min_zero : v 2 (after (.min (g0 2 3 4)) (two 0 0x80000000 .f32)) = (0x80000000, .f32) := by decide
theorem test_max_zero : v 2 (after (.max (g0 2 3 4)) (two 0 0x80000000 .f32)) = (0, .f32) := by decide
theorem test_xor : v 2 (after (.xor (g0 2 3 4)) (two 0xFF00FF00 0x0FF00FF0 .i32)) = (0xF0F0F0F0, .raw) := by decide
theorem test_or : v 2 (after (.or (g0 2 3 4)) (two 0xFF00FF00 0x0FF00FF0 .i32)) = (0xFFF0FFF0, .raw) := by decide
theorem test_andn : v 2 (after (.andn (g0 2 3 4)) (two 0xFF00FF00 0x0FF00FF0 .i32)) = (0xF000F000, .raw) := by decide
-- CLZ of 1 is 31 (R254); BREV moves bit 0 to bit 31.
theorem test_clz : v 2 (after (.clz (x 2 3 0 0 z)) (two 1 0 .f32)) = (31, .n32) := by decide
theorem test_brev : v 2 (after (.brev (x 2 3 0 0 z)) (two 1 0 .raw)) = (0x80000000, .raw) := by decide +kernel
-- The first two lines of Table 19.7: 1.0625 ties to 0x38, and 500.0 saturates to 448 in byte 1.
theorem test_cvt_tie : v 8 (after (.cvt (g0 8 3 6)) (withV 8 0xAABBCCDD .raw (two 0x3F880000 0 .f32))) = (0xAABBCC38, .e4m3x4) := by decide
theorem test_cvt_sat : v 8 (after (.cvt (g0 8 3 0x16)) (withV 8 0x38 .e4m3x4 (two 0x43FA0000 0 .f32))) = (0x7E38, .e4m3x4) := by decide
-- The last line of Table 19.7: byte 1 of 0x30FE7E38 is 448.0.
theorem test_cvt_widen : v 9 (after (.cvt (g0 9 8 0x13)) (withV 8 0x30FE7E38 .e4m3x4 m0)) = (0x43E00000, .f32) := by decide
-- A comparison with a NaN is false but for ne (R74).
theorem test_cmpp_nan : (((after (.cmpp (g0 0x10 3 4)) (two 0x7FC00000 0x3F800000 .f32)).wave 1).lane 0).preds = 1#8 := by decide
theorem test_cmpp_zero : (((after (.cmpp (g0 0x01 3 4)) (two 0 0x80000000 .f32)).wave 1).lane 0).preds = 2#8 := by decide
theorem test_movi : v 8 (after (.movi 8 0xFFFF) m0) = (0xFFFFFFFF, .i32) := by decide
theorem test_mov_lit : v 3 (after (.movLit (li 3 0 0 0x000000033F800000)) m0) = (0x3F800000, .f32) := by decide
theorem test_mov_uniform : u 44 (after (.movExt (x 44 1 0 0 au)) (withU 1 7 .n32 m0)) = (7, .n32) := by decide
-- A guarded instruction leaves an inactive fibre's register alone (R44).
theorem test_guard : v 3 (after (.movExt (x 3 4 0 0 { z with gen := true, pred := 1 })) (two 5 6 .n32)) = (5, .n32) := by decide
-- A store is little-endian, and an odd address stops the gang with ALIGN (R88).
theorem test_stl : word 16 (after (.stl (g0 4 3 0x22)) (two 8 0x11223344 .n32)) = 0x11223344 := by decide
theorem test_stl_byte : ((after (.stl (g0 4 3 0x22)) (two 8 0x11223344 .n32)).readHome (.loc 1 16)) = 0x44#8 := by decide
theorem test_stl_align : stopped (after (.stl (g0 4 3 0)) (two 2 0 .n32)) = true := by decide
theorem test_ldl_pending : (((after (.ldl (g0 5 3 0x20)) (two 8 0 .n32)).wave 1).lane 0).readV 5 = { val := 0, tag := .raw, pend := true } := by decide
theorem test_spush : (((after (.spush (g0 0 3 0)) (two 9 0 .n32)).wave 1).lane 0).spill = [9#32] := by decide
theorem test_spop_empty : stopped (after (.spop (g0 5 0 0x20)) m0) = true := by decide
-- Control: the target is relative to the instruction's own address, here 1; the stack holds the return address and the window base.
theorem test_bra : (((after (.bra 12) m0).wave 1).lane 0).pc = 13#32 := by decide
theorem test_call : (((after (.callExt (x 0 0 0 0x28 { z with c := 8 })) m0).wave 1).lane 0).spill = [4#32, 0#32] := by decide
theorem test_fork : (((after (.fork 1 12) m0).wave 1).lane 1).status = .live ∧ (((after (.fork 1 12) m0).wave 1).lane 1).pc = 13#32 := by decide
theorem test_fend : (((after .fend m0).wave 1).lane 0).status ≠ .live := by decide
-- Barriers (Table 5.7): BARINIT 3 sets both counts; one arrival of one fibre on a count of 1 flips the phase.
theorem test_barinit : word 0 (after (.barinit (x 0 40 0 0x30002 au)) m0) = 0x30000 ∧ word 4 (after (.barinit (x 0 40 0 0x30002 au)) m0) = 3 := by decide
theorem test_bararr : word 0 (after (.bararr (x 0 40 0 2 au)) (m0.putLmem 1 0 8 0x100010000)) = 0x10001 := by decide
-- ROLE reads 0 for G; a NaN written to OPTHR is 1.0 (R66).
theorem test_srd : v 1 (after (.srd (x 1 0 0 0x12 z)) m0) = (0, .raw) := by decide
theorem test_swr : ((after (.swr (x 0 5 0 0x13 au)) (withU 5 0x7FC00001 .f32 m0)).crew 1).opthr = 0x3F800000#32 := by decide
theorem test_trap_stops : stopped (after (.trap (x 0 0 0 0xC8 z)) m0) = true ∧ stopped (after (.trap (x 0 0 0 5 z)) m0) = false := by decide
-- HPERM by 1 moves bit 8191 to bit 0 (R176); counters stop at 127.
theorem test_hperm : (((after (.hperm (x 0 1 0 1 bi)) (m0.modWave 1 (fun w => w.setHyp 1 (BitVec.twoPow 8192 8191)))).wave 1).hyp 0) = 1#8192 := by
  decide +kernel
theorem test_hbind : ((((after (.hbind (x 0 1 1 0 z)) (m0.modWave 1 (fun w => w.setHyp 1 5#8192))).wave 1).hyp 0)) = 0#8192 := by decide +kernel
-- The token of the first fence is generation 1 in place 0 (R119).
theorem test_fence : u 4 (after (.fence (x 4 0 0 3 { z with rel := true })) m0) = (8, .n32) := by decide
-- An instruction fetched from memory runs: XOR v14, v14, v26 of R332, and NOP moves the fibre to the next header.
theorem test_step_xor : (match step (State.reset.withFetchWord 32 0x1A0E0E18) with | .next t => v 14 t | _ => (1, .f32)) = (0, .raw) := by decide
theorem test_step_nop : (match step m0 with | .next t => ((t.wave 1).lane 0).pc | _ => 0) = 2#32 := by decide
theorem test_step_halted : (match step { m0 with halted := true } with | .fault .partStopped => true | _ => false) = true := by decide

/-! ### Hypotheses that are met

For every statement with hypotheses, a state and operands that meet all of them together. -/

theorem lane_zero (P : Nat → Prop) (h : P 0) : ∀ l, l < 32 → (1#32).getLsbD l = true → P l := by
  have k : ∀ l, l < 32 → (1#32).getLsbD l = true → l = 0 := by decide
  intro l hl hb
  rw [k l hl hb]
  exact h
/-- Register d of vector registers 3 and 4, both N32. -/
def m1 : State := two 8 16 .n32
def m2 : State := two 0x3F800000 0x40000000 .f32

theorem wit_RegisterResult : ∃ o, regOpOf (.add (g0 2 3 4)) = some o ∧ m1.Clear o.g o.roles o.opds ∧
    m1.OnLanes (m1.ctx.act o.g.m) (fun ln => o.fmt (readAll m1.ctx.crew ln o.srcs) = none) :=
  ⟨_, rfl, by decide +kernel, by decide +kernel⟩
theorem wit_RegisterResult_uniform : ∃ o, regOpOf (.movExt (x 44 1 0 0 au)) = some o ∧ o.uni = true ∧ m1.Clear o.g o.roles o.opds ∧
    m1.OnLanes (m1.ctx.act o.g.m) (fun ln => o.fmt (readAll m1.ctx.crew ln o.srcs) = none) :=
  ⟨_, rfl, by decide +kernel, by decide +kernel, by decide +kernel⟩
theorem wit_RegisterFrame : ∃ o t, regOpOf (.add (g0 2 3 4)) = some o ∧ m1.Clear o.g o.roles o.opds ∧
    m1.OnLanes (m1.ctx.act o.g.m) (fun ln => o.fmt (readAll m1.ctx.crew ln o.srcs) = none) ∧ exec (.add (g0 2 3 4)) m1 = .next t :=
  ⟨_, _, rfl, by decide +kernel, by decide +kernel, rfl⟩
theorem wit_CompareResult : ∃ g, cmppOf (.cmpp (g0 0x10 3 4)) = some g ∧ m2.Clear g rolesAll (g.srcA.opds ++ g.srcB.opds) ∧
    m2.OnLanes (m2.ctx.act g.m) (fun ln => sameTags addRow ((readAll m2.ctx.crew ln [g.srcA, g.srcB]).map (·.tag)) = none) :=
  ⟨_, rfl, by decide +kernel, by decide +kernel⟩
/-- What WideMoveResult asks. -/
abbrev wideOk (f : Ext) (s : State) : Prop :=
  let g := f.arg
  s.Clear g rolesAll [if g.w2f 20 2 = 2 then Opd.v (g.w2f 10 10) else .u (g.w2f 10 10),
    if g.w2f 20 2 = 1 then .v (g.w2f 0 10) else .u (g.w2f 0 10)] ∧ s.Active g
theorem wit_WideMoveResult : wideOk (x 0 0 0 (44 + 1 * 1024) z) m1 ∧ wideOk (x 0 0 0 (5 + 1000 * 1024 + 2 ^ 20) z) m1 ∧
    wideOk (x 0 0 0 (1000 + 3 * 1024 + 2 ^ 21) z) m1 := by decide +kernel
/-- A triple in registers 10 to 12 and in uniform registers 4 to 6, and a sample in register 3. -/
def mTriple : State := withU 4 1 .n32 (withU 5 0 .f32 (withU 6 0 .f32 (withV 10 1 .n32 (withV 11 0 .f32 (withV 12 0 .f32 m2)))))
theorem wit_TripleResult_welf : ∃ g, welfOf (.welf (g0 10 3 0)) = some g ∧ mTriple.Clear g rolesGV [.v g.a, .v g.d, .v (g.d + 1), .v (g.d + 2)] ∧
    mTriple.OnLanes (mTriple.ctx.act g.m) (fun ln => (ln.readV g.a).tag = .f32 ∧ (ln.readV g.d).tag = .n32 ∧ (ln.readV (g.d + 1)).tag = .f32 ∧
      (ln.readV (g.d + 2)).tag = .f32) := ⟨_, rfl, by decide +kernel, by decide +kernel⟩
abbrev regOf (uni : Bool) (n : Nat) : Opd := if uni then .u n else .v n
abbrev mergeOk (g : Arg) (s : State) : Prop :=
  s.Clear g rolesAll [regOf g.m.au g.a, regOf g.m.au (g.a + 1), regOf g.m.au (g.a + 2), regOf g.m.bu g.b, regOf g.m.bu (g.b + 1),
    regOf g.m.bu (g.b + 2), regOf (g.m.au && g.m.bu) g.d, regOf (g.m.au && g.m.bu) (g.d + 1), regOf (g.m.au && g.m.bu) (g.d + 2)] ∧
  s.OnLanes (s.ctx.act g.m) (fun ln =>
    (readOpd s.ctx.crew ln g.m.au g.a).tag = .n32 ∧ (readOpd s.ctx.crew ln g.m.bu g.b).tag = .n32 ∧
    (readOpd s.ctx.crew ln g.m.au (g.a + 1)).tag = .f32 ∧ (readOpd s.ctx.crew ln g.m.au (g.a + 2)).tag = .f32 ∧
    (readOpd s.ctx.crew ln g.m.bu (g.b + 1)).tag = .f32 ∧ (readOpd s.ctx.crew ln g.m.bu (g.b + 2)).tag = .f32) ∧ s.Active g
theorem wit_TripleResult_wmerge : mergeOk (x 20 10 10 0 z).arg mTriple := ⟨by decide +kernel, lane_zero _ (by decide +kernel), by decide +kernel⟩
theorem wit_TripleResult_uniform : mergeOk (x 8 4 4 0 ab).arg mTriple := ⟨by decide +kernel, lane_zero _ (by decide +kernel), by decide +kernel⟩
theorem wit_CrossLaneResult_perm : ∃ g, permOf (.permExt (x 2 3 4 0 z)) = some g ∧ m1.Clear g rolesGV (permTable g ++ g.srcB.opds ++ [.v g.d]) :=
  ⟨_, rfl, by decide +kernel⟩
theorem wit_CrossLaneResult_shfl : ∃ g, shflOf (.shflExt (x 2 3 4 0 z)) = some g ∧ m1.Issuing ∧ m1.HasRole rolesGV ∧
    m1.InWindow (.v g.a :: (g.srcB.opds ++ [.v g.d])) ∧ m1.Landed g (g.srcB.opds ++ [.v g.d]) ∧
    m1.OnLanes (m1.ctx.act g.m) (fun ln => (shflSource m1.ctx g.a (shflLane m1.ctx g ln)).pend = false) :=
  ⟨_, rfl, by decide +kernel, by decide +kernel, by decide +kernel, by decide +kernel, by decide +kernel⟩
theorem wit_TreeResult : ∃ g, treeOf (.scan (g0 2 3 0)) = some (g, true) ∧ m1.Clear g rolesGV [.v g.a, .v g.d] ∧
    redTagOk (g.b % 16) .n32 = true ∧ m1.OnLanes (m1.ctx.act g.m) (fun ln => (ln.readV g.a).tag = .n32) ∧ m1.Active g :=
  ⟨_, rfl, by decide +kernel, by decide +kernel, by decide +kernel, by decide +kernel⟩
/-- Every flag of the wave stands at 63, so that a long-latency operation holds (R51). -/
def full (s : State) : State := s.modWave 1 (fun w => { w with flags := List.replicate 12 63 })
/-- An operation that holds every transaction of core 0 (R109). -/
def noTxns (s : State) : State :=
  { s with flights := [(9, { op := 9, wave := 1, flag := none, txns := 8192, lines := [], payload := .regs [], fault := none })] }
/-- A matrix command pins row 0 of the crew's local memory (R97). -/
def pinned (s : State) : State := s.modGangPair 1 0 (fun p => p.join [(1, 0)] { base := 0, len := 0 })
theorem wit_FunctionIssues : ∃ g, sfuOf (.sfu (g0 2 3 1)) = some g ∧ m2.Clear g rolesGV (g.srcA.opds ++ [.v g.d]) ∧
    m2.OnLanes (m2.ctx.act g.m) (fun ln => (g.srcA.read m2.ctx.crew ln .raw).tag = .f32 ∨ (g.srcA.read m2.ctx.crew ln .raw).tag = .f16x2) ∧
    m2.Active g ∧ m2.FlagFree g.m.fsel :=
  ⟨_, rfl, by decide +kernel, by decide +kernel, by decide +kernel, by decide +kernel⟩
theorem wit_FunctionIssues_full : ∃ g, sfuOf (.sfu (g0 2 3 1)) = some g ∧ (full m2).Clear g rolesGV (g.srcA.opds ++ [.v g.d]) ∧
    (full m2).OnLanes ((full m2).ctx.act g.m) (fun ln => (g.srcA.read (full m2).ctx.crew ln .raw).tag = .f32 ∨
      (g.srcA.read (full m2).ctx.crew ln .raw).tag = .f16x2) ∧ (full m2).Active g ∧ ¬ (full m2).FlagFree g.m.fsel :=
  ⟨_, rfl, by decide +kernel, by decide +kernel, by decide +kernel, by decide +kernel⟩
/-- One word on the spill stack. -/
def mSpill : State := m1.modWave 1 (fun w => { w with lanes := w.lanes.modify 0 (fun ln => ln.push 7#32) })
theorem wit_SpillResult : (∃ g, spushOf (.spush (g0 0 3 0)) = some g ∧ mSpill.Clear g rolesAll g.srcA.opds ∧
      mSpill.OnLanes (mSpill.ctx.act g.m) (fun ln => ln.spill.length < mSpill.ctx.crew.spillMax)) ∧
    ∃ g, spopOf (.spop (g0 5 0 0x20)) = some g ∧ mSpill.Clear g rolesAll [.v g.d] ∧
      mSpill.OnLanes (mSpill.ctx.act g.m) (fun ln => ln.spill ≠ []) ∧ mSpill.Active g ∧ mSpill.FlagFree g.m.fsel :=
  ⟨⟨_, rfl, by decide +kernel, by decide +kernel⟩, _, rfl, by decide +kernel, by decide +kernel, by decide +kernel, by decide +kernel⟩
theorem wit_SpillResult_full : ∃ g, spopOf (.spop (g0 5 0 0x20)) = some g ∧ (full mSpill).Clear g rolesAll [.v g.d] ∧
    (full mSpill).OnLanes ((full mSpill).ctx.act g.m) (fun ln => ln.spill ≠ []) ∧ (full mSpill).Active g ∧ ¬ (full mSpill).FlagFree g.m.fsel :=
  ⟨_, rfl, by decide +kernel, by decide +kernel, by decide +kernel, by decide +kernel⟩
/-- A tenant with 2 MiB of shelf and 2 MiB of global memory, and quotas of cluster 0 for its cores, views and matrix commands. -/
def tenant0 : Tenant :=
  { id := 0, slice := 0, status := 0, shadow := [], allow := 1#1024, ebbs := 0, runnable := true,
    pages := [{ shelfDie := some 0, base := 0, size := 0x200000, target := .shelf 0, phys := 0, dirty := false },
      { shelfDie := none, base := 0, size := 0x200000, target := .hbm, phys := 0, dirty := false }] }
def shape1 : Shape := { waves := 1, nreg := 16, ntile := 0, nhyp := 0, nbun := 0, lmem := 128 }
def withTenant (s : State) : State :=
  s.modPart 0 (fun p => { p with
    tenants := [tenant0],
    quota := { p.quota with
      matCrew := List.replicate 6 shape1,
      clusters := p.quota.clusters.modify 0 (fun c => { c with
        front := List.replicate 6 coreWhole, back := coreWhole,
        views := List.replicate 6 { base := 0, len := 1 }, accRows := { base := 0, len := 512 }, queue := { base := 0, len := 4 } }) } })
/-- Registers 3 and 4 of the fibre, and pages. -/
def mp : State := withTenant (two 8 0x11223344 .n32)
/-- Several words of local memory of the crew. -/
def poke (s : State) (ws : List (Nat × Nat)) : State := ws.foldl (fun s e => s.putLmem 1 e.1 4 e.2) s

/-- A copy of 16 bytes from local memory to shelf, which holds line 4 of die 0 absent. -/
def copy1 : Copy :=
  { op := 2, wave := 1, crew := 1, flag := some 0, d := 6, signal := false,
    desc := { addr := 0#64, src := .loc 1 0, dst := .shelf 0 256, form := 0, esize := 1, len := 16, ext := [1, 1, 1, 1], sstr := [0, 0, 0, 0],
              dstr := [0, 0, 0, 0], cred := none, rows := .glob 0, fill := 0#32, ctr := .glob 0, dec := 0#32, tgt := 0, port := 0, axes := [], steps := [] },
    left := [{ base := 0, len := 16 }], sent := [], asked := false, claims := [(0, 4)], wants := [], det := none, susp := none, failed := false }
/-- Register 3 names shelf offset 256, in the absent line. -/
def mAbsent : State := { withV 3 256 .n32 mp with copies := [(2, copy1)] }
abbrev loadOk (g : Arg) (shelf : Bool) (s : State) : Prop :=
  s.Clear g rolesAll (g.srcA.opds ++ [.v g.d]) ∧ s.Reachable g shelf ∧ s.Active g
abbrev linesOk (g : Arg) (shelf : Bool) (s : State) : Prop := shelf = true → s.LinesReady (lsLines (lsLanes s s.ctx g shelf))
theorem wit_LoadIssues_ldl : ∃ g, loadOf (.ldl (g0 5 3 0x20)) = some (g, false) ∧ (loadOk g false mp ∧ mp.FlagFree g.m.fsel ∧ linesOk g false mp) ∧
    loadOk g false (full mp) ∧ ¬ (full mp).FlagFree g.m.fsel ∧ linesOk g false (full mp) := ⟨_, rfl, by decide +kernel, by decide +kernel⟩
theorem wit_LoadIssues_lds : ∃ g, loadOf (.lds (g0 5 3 0x20)) = some (g, true) ∧ loadOk g true mp ∧ mp.FlagFree g.m.fsel ∧ linesOk g true mp :=
  ⟨_, rfl, by decide +kernel⟩
theorem wit_LoadIssues_parks : ∃ g, loadOf (.lds (g0 5 3 0x20)) = some (g, true) ∧
    (loadOk g true mAbsent ∧ mAbsent.SomeAbsent (lsLines (lsLanes mAbsent mAbsent.ctx g true))) ∧
    loadOk g true (noTxns mp) ∧ ¬ (noTxns mp).SomeAbsent (lsLines (lsLanes (noTxns mp) (noTxns mp).ctx g true)) ∧
    (noTxns mp).txnsFree (noTxns mp).ctx.crew.core (lsLines (lsLanes (noTxns mp) (noTxns mp).ctx g true)).length = false :=
  ⟨_, rfl, by decide +kernel, by decide +kernel⟩
theorem wit_LoadIssues_lands : mp.NothingQueued ∧ mp.Active (g0 5 3 0x20).arg ∧
    (∀ e ∈ lsLanes mp mp.ctx (g0 5 3 0x20).arg true, (mp.taskWord? mp.ctx.crewId e.2).isSome = true) ∧
    lsLanes mp mp.ctx (g0 5 3 0x20).arg true ≠ [] := by decide +kernel
abbrev storeOk (g : Arg) (shelf : Bool) (s : State) : Prop :=
  s.Clear g rolesAll (g.srcA.opds ++ [.v g.d]) ∧
    s.OnLanes (s.ctx.act g.m) (fun ln => tagOf (g.b / 16) = .raw ∨ (ln.readV g.d).tag = tagOf (g.b / 16)) ∧
    s.Reachable g shelf ∧ s.Active g
abbrev storeGo (g : Arg) (shelf : Bool) (s : State) : Prop :=
  (shelf = true → s.LinesReady (lsLines (lsLanes s s.ctx g shelf)) ∧
      s.ctx.crew.overflows (storeCharges s s.ctx (lsLanes s s.ctx g shelf)) = none) ∧
    (shelf = false → s.anyPinned (lsRows (lsLanes s s.ctx g shelf)) = false)
theorem wit_StoreResult_stl : ∃ g, storeOf (.stl (g0 4 3 0x20)) = some (g, false) ∧ (storeOk g false mp ∧ storeGo g false mp) ∧
    storeOk g false (pinned mp) ∧ (pinned mp).anyPinned (lsRows (lsLanes (pinned mp) (pinned mp).ctx g false)) = true :=
  ⟨_, rfl, by decide +kernel, by decide +kernel⟩
theorem wit_StoreResult_sts : ∃ g, storeOf (.sts (g0 4 3 0x20)) = some (g, true) ∧ storeOk g true mp ∧ storeGo g true mp :=
  ⟨_, rfl, by decide +kernel⟩
theorem wit_StoreResult_parks : ∃ g, storeOf (.sts (g0 4 3 0x20)) = some (g, true) ∧
    (storeOk g true mAbsent ∧ mAbsent.SomeAbsent (lsLines (lsLanes mAbsent mAbsent.ctx g true))) ∧
    storeOk g true (noTxns mp) ∧ ¬ (noTxns mp).SomeAbsent (lsLines (lsLanes (noTxns mp) (noTxns mp).ctx g true)) ∧
    (noTxns mp).txnsFree (noTxns mp).ctx.crew.core (lsLines (lsLanes (noTxns mp) (noTxns mp).ctx g true)).length = false :=
  ⟨_, rfl, by decide +kernel, by decide +kernel⟩
/-- A DET region holds the word that register 3 names, and the write buffer has no room (R127). -/
def mNoBuf : State :=
  mp.modLaunch 1 (fun l => { l with regions :=
    [{ base := .shelf 0 0, len := 64, det := true, lock := false, sync := .shelf 0 64, snap0 := [], last := none }] })
theorem wit_StoreResult_overflow : ∃ g, storeOf (.sts (g0 4 3 0x20)) = some (g, true) ∧ storeOk g true mNoBuf ∧ linesOk g true mNoBuf ∧
    storeCharges mNoBuf mNoBuf.ctx (lsLanes mNoBuf mNoBuf.ctx g true) ≠ [] ∧
    mNoBuf.ctx.crew.overflows (storeCharges mNoBuf mNoBuf.ctx (lsLanes mNoBuf mNoBuf.ctx g true)) = some 80 :=
  ⟨_, rfl, by decide +kernel, by decide +kernel, by decide +kernel, by decide +kernel⟩
theorem wit_StoreFrame_wf : mp.memoriesWf = true := by decide +kernel
theorem mp_homes : ∀ e ∈ lsLanes mp mp.ctx (g0 4 3 0x20).arg true, mp.PlainHome e.2 := by
  have h : ∀ e ∈ lsLanes mp mp.ctx (g0 4 3 0x20).arg true, mp.home? mp.ctx.launch.part mp.ctx.launch.tenant e.2 = some (.phys 0x8000000008) ∧
      mp.barLive (.phys 0x8000000000) = false := by decide +kernel
  exact fun e he => ⟨_, (h e he).1, (h e he).2, fun b hb => by cases hb; decide, fun _ _ hc => nomatch hc⟩
theorem wit_StoreFrame : ∃ g, storeOf (.sts (g0 4 3 0x20)) = some (g, true) ∧ (storeOk g true mp ∧ storeGo g true mp) ∧ mp.NothingQueued ∧
    ∀ e ∈ lsLanes mp mp.ctx g true, mp.PlainHome e.2 := ⟨_, rfl, by decide +kernel, by decide +kernel, mp_homes⟩
theorem wit_StoreResult_reads : lsLanes mp mp.ctx (g0 4 3 0x20).arg true = [(0, .shelf 0 8)] ∧ mp.detAt mp.ctx.crewId (.shelf 0 8) = none ∧
    mp.home? mp.ctx.launch.part mp.ctx.launch.tenant (.shelf 0 8) = some (.phys 0x8000000008) := by decide +kernel
abbrev atomOk (a : AtomArg) (s : State) : Prop :=
  (a.scope < 2 → s.anyPinned (a.rows s s.ctx) = false) ∧
    (2 ≤ a.scope → s.txnsFree s.ctx.crew.core (laneList (s.ctx.act a.g.m)).length = true) ∧ s.ctx.crew.overflows (a.charges s s.ctx) = none
abbrev atomClear (a : AtomArg) (s : State) : Prop := s.Clear a.g rolesAll a.opds ∧ s.Active a.g
theorem wit_AtomicIssues : ∃ a, atomOf (.atom { sub := 0x30, e := x 6 3 4 0 z }) = some a ∧
    (atomClear a mp ∧ atomOk a mp ∧ (a.noret = false → mp.FlagFree a.g.m.fsel)) ∧ mp.AtomReachable a := by
  refine ⟨_, rfl, by decide +kernel, ?_⟩
  refine lane_zero _ ⟨by decide +kernel, by decide +kernel, ?_⟩
  exact ⟨by decide +kernel, fun _ => by decide +kernel⟩
theorem wit_AtomicIssues_full : ∃ a, atomOf (.atom { sub := 0x30, e := x 6 3 4 0 z }) = some a ∧
    (atomClear a (full mp) ∧ atomOk a (full mp) ∧ a.noret = false ∧ ¬ (full mp).FlagFree a.g.m.fsel) ∧ (full mp).AtomReachable a := by
  refine ⟨_, rfl, by decide +kernel, ?_⟩
  refine lane_zero _ ⟨by decide +kernel, by decide +kernel, ?_⟩
  exact ⟨by decide +kernel, fun _ => by decide +kernel⟩
theorem wit_AtomicIssues_txns : ∃ a, atomOf (.atom { sub := 0x30, e := x 6 3 4 0 z }) = some a ∧
    (atomClear a (noTxns mp) ∧ 2 ≤ a.scope ∧ (noTxns mp).txnsFree (noTxns mp).ctx.crew.core (laneList ((noTxns mp).ctx.act a.g.m)).length = false) ∧
    (noTxns mp).AtomReachable a := by
  refine ⟨_, rfl, by decide +kernel, ?_⟩
  refine lane_zero _ ⟨by decide +kernel, by decide +kernel, ?_⟩
  exact ⟨by decide +kernel, fun _ => by decide +kernel⟩
theorem wit_AtomicIssues_pinned : ∃ a, atomOf (.atom { sub := 0x00, e := x 6 3 4 0 z }) = some a ∧
    (atomClear a (pinned mp) ∧ a.scope < 2 ∧ (pinned mp).anyPinned (a.rows (pinned mp) (pinned mp).ctx) = true) ∧ (pinned mp).AtomReachable a := by
  refine ⟨_, rfl, by decide +kernel, ?_⟩
  refine lane_zero _ ⟨by decide +kernel, by decide +kernel, ?_⟩
  exact ⟨by decide +kernel, fun _ => by decide +kernel⟩
theorem wit_AtomicIssues_overflow : ∃ a, atomOf (.atom { sub := 0x20, e := x 0 3 4 1 z }) = some a ∧
    (atomClear a mNoBuf ∧ 2 ≤ a.scope ∧ mNoBuf.txnsFree mNoBuf.ctx.crew.core (laneList (mNoBuf.ctx.act a.g.m)).length = true ∧
      a.charges mNoBuf mNoBuf.ctx ≠ [] ∧ mNoBuf.ctx.crew.overflows (a.charges mNoBuf mNoBuf.ctx) = some 16) ∧ mNoBuf.AtomReachable a := by
  refine ⟨_, rfl, by decide +kernel, ?_⟩
  refine lane_zero _ ⟨by decide +kernel, by decide +kernel, ?_⟩
  exact ⟨by decide +kernel, by decide +kernel⟩
theorem wit_AtomicIssues_sent : ∀ e ∈ ({ g := (x 6 3 4 0 z).arg, sub := 0x30, cas := false } : AtomArg).lanes mp mp.ctx,
    mp.detAt mp.ctx.crewId e.2 = none := by decide +kernel
/-- The same DET region, with room in the write buffer. -/
def mDetBuf : State := mNoBuf.modCrew 1 (fun c => { c with wbufCap := 256 })
theorem wit_AtomicIssues_buffered : ∃ a k, atomOf (.atom { sub := 0x20, e := x 0 3 4 1 z }) = some a ∧
    (atomClear a mDetBuf ∧ atomOk a mDetBuf ∧ mDetBuf.NothingQueued ∧ (∀ e ∈ a.lanes mDetBuf mDetBuf.ctx, mDetBuf.detAt mDetBuf.ctx.crewId e.2 ≠ none) ∧
      mDetBuf.ctx.gang.phase ≠ .stopped) ∧ look mDetBuf.ctx.crewId mDetBuf.crews = some k ∧ mDetBuf.AtomReachable a := by
  refine ⟨_, _, rfl, by decide +kernel, rfl, ?_⟩
  refine lane_zero _ ⟨by decide +kernel, by decide +kernel, ?_⟩
  exact ⟨by decide +kernel, by decide +kernel⟩
-- A reduction entry names its region, offset, operation, operand, fibre and sequence (R127, R128).
theorem test_atom_red : ((after (.atom { sub := 0x20, e := x 0 3 4 1 z }) mDetBuf).crew 1).wbuf = [.red 0 8 0 false 0x11223344#64 .n32 0 0] := by decide +kernel
/-- A fibre that may call and return. -/
theorem wit_TransferResult_bra : ∃ g pc, branchOf mp (.bra 12) = some (g, pc) ∧ mp.Issuing ∧ mp.HasRole rolesAll ∧
    mp.OnLanes (mp.ctx.act g.m) (branchOk mp (.bra 12)) :=
  ⟨_, _, rfl, by decide +kernel, by decide +kernel, fun _ _ _ => trivial⟩
theorem wit_TransferResult_brx : ∃ g pc, branchOf mp (.brx (x 0 3 0 0 z)) = some (g, pc) ∧ mp.Issuing ∧ mp.HasRole rolesAll ∧
    mp.InWindow (x 0 3 0 0 z).arg.srcA.opds ∧ mp.OnLanes (mp.ctx.act g.m) (branchOk mp (.brx (x 0 3 0 0 z))) :=
  ⟨_, _, rfl, by decide +kernel, by decide +kernel, by decide +kernel, lane_zero _ (fun o ho => by revert o; decide +kernel)⟩
theorem wit_TransferResult_call : ∃ g pc, branchOf mp (.callExt (x 0 0 0 0x28 { z with c := 8 })) = some (g, pc) ∧ mp.Issuing ∧
    mp.HasRole rolesAll ∧ mp.OnLanes (mp.ctx.act g.m) (branchOk mp (.callExt (x 0 0 0 0x28 { z with c := 8 }))) :=
  ⟨_, _, rfl, by decide +kernel, by decide +kernel, lane_zero _ ⟨by decide +kernel, by decide +kernel⟩⟩
/-- A fibre that was called. -/
def mCalled : State := mp.modWave 1 (fun w => { w with lanes := w.lanes.modify 0 (fun ln => (ln.push 9#32).push 0#32) })
theorem wit_TransferResult_ret : ∃ g pc, branchOf mCalled .ret = some (g, pc) ∧ mCalled.Issuing ∧ mCalled.HasRole rolesAll ∧
    mCalled.OnLanes (mCalled.ctx.act g.m) (branchOk mCalled .ret) :=
  ⟨_, _, rfl, by decide +kernel, by decide +kernel, lane_zero _ ⟨by decide +kernel, by decide +kernel, by decide +kernel⟩⟩
/-- Two fibres in the cohort, of which one takes the transfer. -/
def mTwo : State :=
  { (m0.modWave 1 (fun w => { w with lanes := w.lanes.modify 1 (fun ln => { ln with status := .live, fibre := 2 }) })) with
    cur := some { oneCursor with lanes := 3#32 } }
theorem wit_ClauseLeft : ∃ w, mTwo.cur = some { oneCursor with lanes := 3#32 } ∧ (1 : Nat) ≤ 0 + 1 ∧ look 1 mTwo.waves = some w ∧
    w.lanes.length = 32 ∧ (∀ l, (1#32).getLsbD l = true → (3#32).getLsbD l = true) ∧ (3#32).getLsbD 1 = true ∧ (3#32).getLsbD 2 = false := by
  refine ⟨_, rfl, by decide, rfl, by decide +kernel, fun l h => ?_, by decide, by decide⟩
  have hl : l < 32 := by
    rcases Nat.lt_or_ge l 32 with h' | h'
    · exact h'
    · rw [BitVec.getLsbD_of_ge _ _ h'] at h; exact absurd h (by decide)
  exact lane_zero (fun l => (3#32).getLsbD l = true) (by decide) l hl h
theorem wit_ForkResult : ∃ g, forkOf (.forkExt (x 1 3 0 16 { z with c := 2 })) = some (g, 1, 2, 16#32) ∧
    mp.Clear g rolesAll ((List.range 2).map (fun k => .v (g.a + k))) ∧ mp.keyedCrew mp.ctx = false ∧
    mp.OnLanes (mp.ctx.act g.m) (fun ln => ln.wb + g.a + 2 ≤ mp.ctx.crew.nreg) :=
  ⟨_, rfl, by decide +kernel, by decide +kernel, by decide +kernel⟩
theorem wit_EndResult_fend : ∃ g, fendOf .fend = some g ∧ mp.Issuing ∧ mp.HasRole rolesAll ∧ mp.keyedCrew mp.ctx = false :=
  ⟨_, rfl, by decide +kernel, by decide +kernel, by decide +kernel⟩
/-- A keyed node, the fibre's crew as its node crew, and the context of key 5 in the fibre's lane. -/
def ctx5 : KeyCtx :=
  { key := 5#64, cluster := 0, pc := 0#32, susp := 0#32, preds := 0#8, regs := [], last := 0, place := .lane, mark := false }
def node2 : Node :=
  { ident := 64#32, launch := 1, part := 0, keyed := true, crole := 0, home := 16, rw := 4, kregs := 1, shape := shape1, entry := 0#32, tmpl := 0#32,
    qcap := 8, idle := 0, ccap := 4, epoch := none, queue := [], heldRecs := [], ctxs := [ctx5], counts := [], opened := true }
def mKeyed : State :=
  { (mp.modGang 1 (fun g => { g with node := some 2 })).modWave 1 (fun w => { w with
      lanes := w.lanes.modify 0 (fun ln => { ln with key := some { node := 2, key := 5#64, retire := false } }) }) with
    nodes := [(2, node2)] }
theorem wit_EndResult_keyed : mKeyed.Clear (x 0 0 0 0 z).arg rolesAll (keyOpds (mKeyed.kregsOf mKeyed.ctx)) ∧ mKeyed.keyedCrew mKeyed.ctx = true := by
  decide +kernel
theorem wit_NopAndYield : ∃ g, yieldOf .yield = some g ∧ mp.Issuing ∧ mp.Active g := ⟨_, rfl, by decide +kernel, by decide +kernel⟩
theorem wit_NopAndYield_none : ∃ g, yieldOf (.yieldExt (x 0 0 0 0 { z with gen := true, pred := 1 })) = some g ∧ mp.Issuing ∧ ¬ mp.Active g :=
  ⟨_, rfl, by decide +kernel, by decide +kernel⟩
/-- A copy of 16 bytes from local offset 0 to shelf offset 256; the descriptor stands at local offset 64. -/
def mCopy : State :=
  withU 4 64 .raw (withU 5 0x80000000 .raw (poke mp [(68, 0x80000000), (72, 256), (76, 0x40000000), (80, 16), (84, 16)]))
theorem wit_CopyIssues : ∃ g d, copyOf (.copy (x 6 4 0 0 z)) = some (g, 0) ∧ mCopy.Issuing ∧ mCopy.HasRole rolesGC ∧
    mCopy.Landed g [.u g.a, .u (g.a + 1), .u g.d] ∧ mCopy.Active g ∧
    (spaceOf (copyAddr mCopy.ctx g) = 1 ∨ spaceOf (copyAddr mCopy.ctx g) = 2) ∧ (copyAddr mCopy.ctx g).extractLsb' 0 4 = 0#4 ∧
    (copyPlace mCopy mCopy.ctx g 0).isSome = true ∧ copyFault mCopy mCopy.ctx g 0 = none ∧ copyReady mCopy mCopy.ctx g 0 = .go ∧
    copyDesc mCopy mCopy.ctx g 0 = some d ∧
    mCopy.txnsFree mCopy.ctx.crew.core 1 = true ∧ mCopy.ctx.crew.overflows (mCopy.copyCharges mCopy.ctx.crewId d mCopy.nextUid) = none ∧
    mCopy.FlagFree g.m.fsel :=
  ⟨_, _, rfl, by decide +kernel, by decide +kernel, by decide +kernel, by decide +kernel, by decide +kernel, by decide +kernel, by decide +kernel,
    by decide +kernel, rfl, rfl, by decide +kernel, by decide +kernel, by decide +kernel⟩
theorem wit_CopyIssues_status : ∃ c, look mCopy.ctx.crewId (mCopy.catchUpLanes mCopy.ctx.cur.wave (mCopy.ctx.act (x 6 4 0 0 z).m)).crews = some c ∧
    (x 6 4 0 0 z).arg.d < c.unis.length := ⟨_, rfl, by decide +kernel⟩
abbrev copyOk (s : State) : Prop :=
  let g := (x 6 4 0 0 z).arg
  s.Issuing ∧ s.HasRole rolesGC ∧ s.Landed g [.u g.a, .u (g.a + 1), .u g.d] ∧ s.Active g ∧ spaceOf (copyAddr s.ctx g) = 2 ∧
    (copyAddr s.ctx g).extractLsb' 0 4 = 0#4 ∧ (copyPlace s s.ctx g 0).isSome = true ∧ copyFault s s.ctx g 0 = none
theorem wit_CopyIssues_waits : (copyOk (noTxns mCopy) ∧ (noTxns mCopy).txnsFree (noTxns mCopy).ctx.crew.core 1 = false) ∧
    copyOk (full mCopy) ∧ ¬ (full mCopy).FlagFree false ∧ copyReady (noTxns mCopy) (noTxns mCopy).ctx (x 6 4 0 0 z).arg 0 = .go ∧
    copyReady (full mCopy) (full mCopy).ctx (x 6 4 0 0 z).arg 0 = .go :=
  ⟨by decide +kernel, by decide +kernel, by decide +kernel, rfl, rfl⟩
/-- Behind an atomic with ACQ of the fibre whose page is missing. -/
def behind (s : State) : State :=
  { s with
    nextUid := 10,
    accesses := [(5, { op := 5, wave := 1, crew := 1, lane := 0, lanes := 1#32, fibres := [1], flag := none, scope := 3, rel := false, acq := true,
                       what := .atom 0 false 1#64 .n32, addr := .glob 0x400000, ret := none, txns := 1, fault := none })] }
/-- A descriptor on a page that is missing, or that will not come. -/
def mCopyMiss : State := withU 4 0x400000 .raw (withU 5 0x40000000 .raw mCopy)
def fatalPage (s : State) : State := { s with tfaults := [(7, { part := 0, tenant := 0, addr := .shelf 0 0x400000, fatal := true })] }
theorem wit_CopyIssues_behind : (copyOk (behind mCopy) ∧ ∃ v, copyReady (behind mCopy) (behind mCopy).ctx (x 6 4 0 0 z).arg 0 = .later v) ∧
    ((copyFault mCopyMiss mCopyMiss.ctx (x 6 4 0 0 z).arg 0 = none ∧ spaceOf (copyAddr mCopyMiss.ctx (x 6 4 0 0 z).arg) = 1) ∧
      copyReady mCopyMiss mCopyMiss.ctx (x 6 4 0 0 z).arg 0 = .miss 1#32 (.shelf 0 0x400000)) ∧
    mCopyMiss.faultOn 0 0 (.shelf 0 0x400000) true = false ∧ (fatalPage mCopyMiss).faultOn 0 0 (.shelf 0 0x400000) true = true :=
  ⟨⟨by decide +kernel, _, rfl⟩, ⟨by decide +kernel, rfl⟩, by decide +kernel⟩
-- Its fibre stands before the COPY: it is not parked and its clause does not hold; the page is asked for once (R17, R52, R108).
theorem test_copy_behind : (let t := after (.copy (x 6 4 0 0 z)) (behind mCopy)
      t.cur = none ∧ (t.wave 1).hold = none ∧ ((t.wave 1).lane 0).park = none ∧ ((t.wave 1).lane 0).pos = 1 ∧ t.copies = []) ∧
    (let t := after (.copy (x 6 4 0 0 z)) mCopyMiss
     t.cur = none ∧ (t.wave 1).hold = none ∧ ((t.wave 1).lane 0).park = none ∧ t.tfaults.length = 1 ∧
        (after (.copy (x 6 4 0 0 z)) { t with cur := mCopyMiss.cur }).tfaults.length = 1) ∧
    stopped (after (.copy (x 6 4 0 0 z)) (fatalPage mCopyMiss)) = true := by decide +kernel
/-- A generator program of two steps, the second with COUNT 0; and a copy with LEN 0 from a PEER address. -/
def genWords (n : Nat) : List Word :=
  (List.range 64).map (fun i => if i == 0 || i == 2 then BitVec.ofNat 32 (1024 * i) else if i == 1 || i == 3 then 0x40000000#32
    else if i == 4 then 3#32 else if i == 5 then 4#32 else if i == 40 then 2#32 else if i == 43 then BitVec.ofNat 32 (n + 0x40000) else 0#32)
-- Table 5.5: COUNT of step 1 stands at byte 172 (R101); SRC, which names PEER, lies below LEN (R98, R99).
theorem test_copy_bad : (mCopy.copyBad 1 2 (rawCopy 0#64 2 (genWords 0)) (genWords 0) = some 172 ∧
      mCopy.copyBad 1 2 (rawCopy 0#64 2 (genWords 3)) (genWords 3) = none) ∧
    (let ws := [0#32, 0xC0000000#32, 64#32, 0x40000000#32, 16#32, 0#32, 0#32, 0#32]
     mCopy.copyBad 1 0 (rawCopy 0#64 0 ws) ws = some 0) := by decide +kernel
/-- A barrier object at local offset 64, phase 0, one arrival of one expected. -/
def mBar : State := withU 40 64 .n32 (withU 41 16 .n32 (withU 42 0 .n32 (poke mp [(64, 0x10000), (68, 1)])))
abbrev barOk (g : Arg) (a : VAddr) (h : Home) (s : State) : Prop := s.Ready g rolesAll (barOpds g) ∧ s.BarrierAt g a h
/-- Nothing is under way that an operation at local offset 64 must follow. -/
abbrev barGo (rel : Option Nat) (act : Lanes) (s : State) : Prop :=
  let fs := s.ctx.wave.fibres act
  let t := (s.catchUpLanes s.ctx.cur.wave act).catchUp s.ctx.cur.wave act fs (.loc 1 64) 16
  t.blocked t.nextUid s.ctx.cur.wave act fs (.loc 1 64) 16 = false ∧ t.behindCore t.nextUid t.nextUid s.ctx.crewId (.loc 1 64) = false ∧
    (∀ n ∈ rel, t.unreleased t.nextUid s.ctx.cur.wave act fs n = false) ∧ (∀ e ∈ t.accesses, e.1 < t.nextUid) ∧
    t.home? (t.spaceOfCrew s.ctx.crewId).1 (t.spaceOfCrew s.ctx.crewId).2 (.loc 1 64) = some (.loc 1 64)
theorem wit_BarrierResult : ∃ g op, barrierOf mBar (.bararr (x 0 40 0 2 au)) = some (g, op, some 1) ∧ barOk g (.loc 1 64) (.loc 1 64) mBar ∧
    barrierOk mBar (.bararr (x 0 40 0 2 au)) ∧ barGo (some 1) 1#32 mBar :=
  ⟨_, _, rfl, by decide +kernel, trivial, by decide +kernel⟩
theorem wit_BarrierResult_init : ∃ g op, barrierOf mBar (.barinit (x 0 40 0 0x30002 au)) = some (g, op, none) ∧
    barOk g (.loc 1 64) (.loc 1 64) mBar ∧ barrierOk mBar (.barinit (x 0 40 0 0x30002 au)) ∧ barGo none 1#32 mBar :=
  ⟨_, _, rfl, by decide +kernel, (by decide +kernel : (if _ then _ else _) ≤ 65535), by decide +kernel⟩
theorem wit_BarrierResult_expect : ∃ g op, barrierOf mBar (.barexp (x 0 40 41 2 ab)) = some (g, op, none) ∧
    barOk g (.loc 1 64) (.loc 1 64) mBar ∧ barrierOk mBar (.barexp (x 0 40 41 2 ab)) ∧ barGo none 1#32 mBar :=
  ⟨_, _, rfl, by decide +kernel, ⟨by decide +kernel, by decide +kernel⟩, by decide +kernel⟩
/-- The object of BarrierResult: one arrival completes its phase, and BAREXP does not. -/
theorem wit_BarrierResult_object : mBar.memoriesWf = true ∧ (look 1 mBar.crews).isSome = true ∧ mBar.detBarsOf (.loc 1 64) = [] ∧
    (mBar.homeWord (.loc 1 64) >>> 16).toNat = 1 ∧ mBar.homeWord (.loc 1 72) = 0#32 := by decide +kernel
abbrev barRead (s : State) : Prop :=
  barOk (x 0 40 42 2 ab).arg (.loc 1 64) (.loc 1 64) s ∧ s.BarrierRead (x 0 40 42 2 ab).arg (.loc 1 64) (.loc 1 64)
theorem wit_BarrierWaitResult : barRead mBar ∧
    (mBar.atBarrier (x 0 40 42 2 ab).arg (.loc 1 64)).deferredAt mBar.ctx.crewId (.barrier (.loc 1 64)) = none ∧
    (mBar.atBarrier (x 0 40 42 2 ab).arg (.loc 1 64)).barPhase (.loc 1 64) = barParity mBar.ctx (x 0 40 42 2 ab).arg ∧
    mBar.OnLanes (mBar.ctx.act (x 0 40 42 2 ab).m) (fun ln => ln.woken = false) ∧ mBar.ctx.wave.lanes.length = 32 := by decide +kernel
/-- A fault that a wait at the object delivers. -/
def mBarLate : State :=
  { mBar with deferred := [{ gang := 1, crew := 1, till := [.barrier (.loc 1 64)], cls := .translate, info := 0#64, addr := 0#64 }] }
theorem wit_BarrierWaitResult_late : ∃ d, barRead mBarLate ∧
    (mBarLate.atBarrier (x 0 40 42 2 ab).arg (.loc 1 64)).deferredAt mBarLate.ctx.crewId (.barrier (.loc 1 64)) = some d :=
  ⟨_, by decide +kernel, rfl⟩
/-- The same with a parity that the phase has left. -/
def mBar1 : State := withU 42 1 .n32 mBar
theorem wit_BarrierWaitResult_left : barRead mBar1 ∧
    (mBar1.atBarrier (x 0 40 42 2 ab).arg (.loc 1 64)).deferredAt mBar1.ctx.crewId (.barrier (.loc 1 64)) = none ∧
    (mBar1.atBarrier (x 0 40 42 2 ab).arg (.loc 1 64)).barPhase (.loc 1 64) ≠ barParity mBar1.ctx (x 0 40 42 2 ab).arg := by
  decide +kernel
/-- A fibre that a completion has woken, whose parity PHASE equals again (R244). -/
def mBarWoken : State := mBar.modWave 1 (fun w => { w with lanes := w.lanes.modify 0 (fun ln => { ln with woken := true }) })
theorem wit_BarrierWaitResult_woken : barRead mBarWoken ∧
    (mBarWoken.atBarrier (x 0 40 42 2 ab).arg (.loc 1 64)).deferredAt mBarWoken.ctx.crewId (.barrier (.loc 1 64)) = none ∧
    (mBarWoken.atBarrier (x 0 40 42 2 ab).arg (.loc 1 64)).barPhase (.loc 1 64) = barParity mBarWoken.ctx (x 0 40 42 2 ab).arg ∧
    mBarWoken.OnLanes (mBarWoken.ctx.act (x 0 40 42 2 ab).m) (fun ln => ln.woken = true) := by decide +kernel
def parkOf (s : State) : Option ParkReason := ((s.wave 1).lane 0).park
theorem test_barwait_woken : parkOf (after (.barwait (x 0 40 42 2 ab)) mBarWoken) = none ∧
    parkOf (after (.barwait (x 0 40 42 2 ab)) mBar) = some (.barrier (.loc 1 64) false) := by decide +kernel
/-- Behind an atomic with ACQ of the fibre whose page is missing; an object in slack water; and one whose page is missing, or will not come. -/
def mBarBehind : State := behind mBar
def mBarSlack : State := mBar.modLaunch 1 (fun l => { l with
  detBars := [{ pa := 0x8000000040, regions := [0], slack := true, arrived := [], held := [] }] })
def mBarMiss : State := withU 40 0x400000 .n32 mBar
def mBarFatal : State := fatalPage mBarMiss
theorem wit_BarrierWaitResult_behind : barOk (x 0 40 42 2 ab).arg (.loc 1 64) (.loc 1 64) mBarBehind ∧
    mBarBehind.BarrierThere (x 0 40 42 2 ab).arg (.loc 1 64) (.loc 1 64) ∧
    (mBarBehind.atBarrier (x 0 40 42 2 ab).arg (.loc 1 64)).waitsAt 1 1#32 (.loc 1 64) 16 = true ∧
    (mBarBehind.atBarrier (x 0 40 42 2 ab).arg (.loc 1 64)).deferredAt mBarBehind.ctx.crewId (.barrier (.loc 1 64)) = none := by decide +kernel
theorem wit_BarrierWaitResult_slack : barOk (x 0 40 42 0 ab).arg (.shelf 0 64) (.phys 0x8000000040) mBarSlack ∧
    mBarSlack.BarrierThere (x 0 40 42 0 ab).arg (.shelf 0 64) (.phys 0x8000000040) ∧
    (mBarSlack.atBarrier (x 0 40 42 0 ab).arg (.shelf 0 64)).waitsAt 1 1#32 (.shelf 0 64) 16 = false ∧
    (mBarSlack.atBarrier (x 0 40 42 0 ab).arg (.shelf 0 64)).inSlack (.phys 0x8000000040) = true ∧
    (mBarSlack.atBarrier (x 0 40 42 0 ab).arg (.shelf 0 64)).deferredAt mBarSlack.ctx.crewId (.barrier (.phys 0x8000000040)) = none := by decide +kernel
abbrev missOk (fatal : Bool) (s : State) : Prop :=
  s.Ready (x 0 40 42 0 ab).arg rolesAll (barOpds (x 0 40 42 0 ab).arg) ∧ (s.ctx.crew.uni 40).val.extractLsb' 0 4 = 0#4 ∧
    barPlace s s.ctx (x 0 40 42 0 ab).arg = some (.shelf 0 0x400000) ∧
    barHome (s.atBarrier (x 0 40 42 0 ab).arg (.shelf 0 0x400000)) s.ctx (x 0 40 42 0 ab).arg = none ∧
    (s.atBarrier (x 0 40 42 0 ab).arg (.shelf 0 0x400000)).faultOn 0 0 (.shelf 0 0x400000) true = fatal
theorem wit_BarrierWaitResult_miss : missOk false mBarMiss ∧ missOk true mBarFatal ∧ mBarMiss.pageAsked 0 0 (.shelf 0 0x400000) = false ∧
    mBarFatal.faultOn 0 0 (.shelf 0 0x400000) true = true ∧ mBarMiss.taskWord? 1 (.shelf 0 0x400000) = none ∧
    (after (.barwait (x 0 40 42 0 ab)) mBarMiss).pageAsked 0 0 (.shelf 0 0x400000) = true := by decide +kernel
-- BARWAIT parks in each of these cases, and a fibre that waits for slack water to end is parked on the object from then on (R17, R244).
theorem test_barwait_parks : parkOf (after (.barwait (x 0 40 42 2 ab)) mBarBehind) = some (.object (.loc 1 64)) ∧
    parkOf (after (.barwait (x 0 40 42 0 ab)) mBarSlack) = some (.slack (.phys 0x8000000040) false) ∧
    parkOf (after (.barwait (x 0 40 42 0 ab)) mBarMiss) = some (.object (.shelf 0 0x400000)) ∧
    parkOf ((after (.barwait (x 0 40 42 0 ab)) mBarSlack).completePhase (.phys 0x8000000040)) = some (.slack (.phys 0x8000000040) false) := by
  decide +kernel
theorem test_slack_ends : (((after (.barwait (x 0 40 42 0 ab)) mBarSlack).completePhase (.phys 0x8000000040)).wave 1).lane 0 |>.woken := by decide +kernel
theorem wit_BarrierWaitResult_test_behind : ∃ v, barReady mBarBehind mBarBehind.ctx (x 1 40 42 2 ab).arg 1#32 = .later v ∧
    mBarBehind.Ready (x 1 40 42 2 ab).arg rolesAll (barOpds (x 1 40 42 2 ab).arg) ∧
    barReady mBarMiss mBarMiss.ctx (x 1 40 42 0 ab).arg 1#32 = .miss 1#32 (.shelf 0 0x400000) := ⟨_, rfl, by decide +kernel, rfl⟩
theorem test_bartest_behind : (let t := after (.bartest (x 1 40 42 2 ab)) mBarBehind
    t.cur = none ∧ (t.wave 1).hold = none ∧ parkOf t = none ∧ ((t.wave 1).lane 0).pos = 1) := by decide +kernel
theorem wit_BarrierWaitResult_test : barOk (x 1 40 42 2 ab).arg (.loc 1 64) (.loc 1 64) mBar ∧
    mBar.BarrierRead (x 1 40 42 2 ab).arg (.loc 1 64) (.loc 1 64) := by decide +kernel
/-- A PAIRED launch; windows over all local memory; operands in local memory, scales of KIND 0 named there, accumulator row 0. -/
def mPair : State :=
  withU 20 0 .n32 (withU 21 1024 .n32 (withU 22 0 .n32 (withU 23 2048 .n32 (withU 24 2064 .n32
    (poke ((mp.modLaunch 1 (fun l => { l with desc := { l.desc with paired := true } })).modCrew 1 (fun c => { c with
      wins := [{ base := 0, len := 4096 }] })) [(2052, 0x80000000), (2068, 0x80000000)])))))
/-- M 16, N 16, K 32, both operands E4M3X4 with the inner layout. -/
def mmaForm : Ext := x 23 20 21 ((4 <<< 7) + (6 <<< 19) + (6 <<< 23)) { z with c := 22 }
abbrev multiplyOk (f : Ext) (q : Bool) (ca oa cb ob : Nat) (s : State) : Prop :=
  s.Issuing ∧ s.HasArray rolesGM true ∧
    s.Landed f.arg ([.u f.arg.a, .u f.arg.b, .u f.arg.c] ++ (if q then [.u f.arg.d, .u (f.arg.d + 1)] else [])) ∧ s.Active f.arg ∧
    s.footprint s.ctx (s.ctx.crew.uni f.arg.a).val (MmaArg.of f.arg).ta (MmaArg.of f.arg).da (MmaArg.of f.arg).m (MmaArg.of f.arg).k = some (ca, oa) ∧
    s.footprint s.ctx (s.ctx.crew.uni f.arg.b).val (MmaArg.of f.arg).tb (MmaArg.of f.arg).db (MmaArg.of f.arg).n (MmaArg.of f.arg).k = some (cb, ob) ∧
    (s.ctx.crew.uni f.arg.c).val.toNat + (MmaArg.of f.arg).n / 16 * (MmaArg.of f.arg).m ≤ accShare s s.ctx
abbrev multiplyOk' (f : Ext) (q : Bool) (s : State) : Prop :=
  (q = true → ∀ p ∈ scaleFaults s s.ctx (s.ctx.act f.arg.m) f.arg false (MmaArg.of f.arg).ta (MmaArg.of f.arg).da (MmaArg.of f.arg).m (MmaArg.of f.arg).k ++
      scaleFaults s s.ctx (s.ctx.act f.arg.m) f.arg true (MmaArg.of f.arg).tb (MmaArg.of f.arg).db (MmaArg.of f.arg).n (MmaArg.of f.arg).k, p = none)
/-- No operand waits for the fibres' own accesses. -/
abbrev operandsReady (f : Ext) (s : State) : Prop :=
    operandWait s s.ctx (s.ctx.act f.arg.m) (s.ctx.crew.uni f.arg.a).val (MmaArg.of f.arg).ta (MmaArg.of f.arg).da (MmaArg.of f.arg).m (MmaArg.of f.arg).k = .go ∧
    operandWait s s.ctx (s.ctx.act f.arg.m) (s.ctx.crew.uni f.arg.b).val (MmaArg.of f.arg).tb (MmaArg.of f.arg).db (MmaArg.of f.arg).n (MmaArg.of f.arg).k = .go
abbrev queueRoom (s : State) : Nat := (s.quotaAt s.ctx.launch.part (clusterOfCore s.ctx.crew.core)).queue.len
/-- Footprints as they stand once the fibres' own accesses have performed. -/
theorem wit_MultiplyIssues_caught : let t := mPair.catchUpLanes 1 1#32
    t.footprint mPair.ctx 0#32 .e4m3x4 false 16 32 = some (1, 0) ∧ t.footprint mPair.ctx 1024#32 .e4m3x4 false 16 32 = some (1, 1024) := by
  decide +kernel
/-- An operand behind a word that an atomic with ACQ holds back. -/
def mPairHeld : State := behind mPair
theorem wit_MultiplyIssues_waits : multiplyOk mmaForm false 1 0 1 1024 mPairHeld ∧
    ∃ v, operandWait mPairHeld mPairHeld.ctx 1#32 (mPairHeld.ctx.crew.uni mmaForm.arg.a).val .e4m3x4 false 16 32 = .later v :=
  ⟨by decide +kernel, _, rfl⟩
/-- Its partition has no queue entries. -/
def mNoQueue : State := mPair.modPart 0 (fun p => { p with
  quota := { p.quota with clusters := p.quota.clusters.modify 0 (fun c => { c with queue := Range.nil }) } })
theorem wit_MultiplyIssues_ready : operandsReady mmaForm mPair ∧ operandsReady mmaForm mNoQueue := ⟨⟨rfl, rfl⟩, rfl, rfl⟩
theorem wit_MultiplyIssues : ∃ g, multiplyOf (.mma mmaForm) = some (g, false) ∧ g = mmaForm.arg ∧
    (multiplyOk mmaForm false 1 0 1 1024 mPair ∧ multiplyOk' mmaForm false mPair ∧ mPair.queued mPair.ctx.pairNo 0 < queueRoom mPair) ∧
    multiplyOk mmaForm false 1 0 1 1024 mNoQueue ∧ multiplyOk' mmaForm false mNoQueue ∧ queueRoom mNoQueue ≤ mNoQueue.queued mNoQueue.ctx.pairNo 0 :=
  ⟨_, rfl, rfl, by decide +kernel, by decide +kernel⟩
theorem wit_MultiplyIssues_scaled : ∃ g, multiplyOf (.mmaq mmaForm) = some (g, true) ∧ g = mmaForm.arg ∧
    multiplyOk mmaForm true 1 0 1 1024 mPair ∧ multiplyOk' mmaForm true mPair ∧
    scaleWait mPair mPair.ctx (mPair.ctx.act g.m) g false (MmaArg.of g).m (MmaArg.of g).k = .go ∧
    scaleWait mPair mPair.ctx (mPair.ctx.act g.m) g true (MmaArg.of g).n (MmaArg.of g).k = .go :=
  ⟨_, rfl, rfl, by decide +kernel, by decide +kernel, rfl, rfl⟩
theorem wit_BatchResult : mPair.Issuing ∧ mPair.HasArray rolesGM true ∧ mPair.Landed (x 22 0 0 0 z).arg [.u 22] ∧ mPair.Active (x 22 0 0 0 z).arg := by
  decide +kernel
/-- Batch 0 has retired. -/
def mRetired : State := mPair.modGangPair 1 0 (fun p => { p with opened := 1#32, retiredN := 1#32 })
theorem wit_BatchResult_wait : mRetired.Issuing ∧ mRetired.HasArray rolesGMV false ∧ mRetired.Landed (x 0 22 0 0 z).arg [.u 22] ∧
    mRetired.ctx.share.retired (mRetired.ctx.crew.uni 22).val = true := by decide +kernel
theorem wit_BatchResult_park : mPair.Issuing ∧ mPair.HasArray rolesGMV false ∧ mPair.Landed (x 0 22 0 0 z).arg [.u 22] ∧
    mPair.ctx.share.retired (mPair.ctx.crew.uni 22).val = false ∧ mPair.Active (x 0 22 0 0 z).arg := by decide +kernel
abbrev mrdOk (g : Arg) (s : State) : Prop :=
  let opds := [Opd.u g.a] ++ (if mrdAmx g then [.u g.b] else []) ++ (if mrdTile g then [] else [.v g.d])
  s.Issuing ∧ s.HasArray [0, 3] false ∧ s.InWindow opds ∧ s.Landed g opds ∧ s.Active g ∧
    (mrdAmx g = true → (amxAddr g s.ctx).extractLsb' 0 2 = 0#2 ∧ (shelfAddr (amxAddr g s.ctx) 4).isSome = true ∧
      s.ctx.crew.overflows (amxCharges g s s.ctx) = none) ∧ s.RowsFree (mrdRows g s.ctx (s.ctx.act g.m)) ∧
    (mrdTile g = true → g.d < s.ctx.crew.ntile ∧ s.deferredAt s.ctx.crewId (.tile s.ctx.cur.wave g.d) = none)
abbrev mrdReady (g : Arg) (s : State) : Prop := mrdTile g = true → (s.ctx.wave.tile g.d).pend = false
/-- Tile 1 waits for its contents. -/
def tilePend (s : State) : State := s.modWave 1 (fun w => w.setTile 1 (fun t => { t with pend := true }))
theorem wit_AccumulatorReadIssues : (mrdOk (x 5 22 0 3 z).arg mPair ∧ mPair.FlagFree false ∧ mrdTile (x 5 22 0 3 z).arg = false) ∧
    (mrdOk (x 5 22 0 3 z).arg (full mPair) ∧ ¬ (full mPair).FlagFree false ∧ mrdReady (x 5 22 0 3 z).arg (full mPair)) ∧
    mrdOk (x 5 22 22 0x13 z).arg mPair ∧ mrdAmx (x 5 22 22 0x13 z).arg = true ∧ mrdReady (x 5 22 22 0x13 z).arg mPair :=
  ⟨⟨by decide +kernel, by decide +kernel, by decide +kernel⟩, ⟨by decide +kernel, by decide +kernel, by decide +kernel⟩,
    by decide +kernel, by decide +kernel, by decide +kernel⟩
theorem wit_AccumulatorReadIssues_tile : (mrdOk (x 1 22 0 0x23 z).arg mPair ∧ mrdTile (x 1 22 0 0x23 z).arg = true ∧
      mrdReady (x 1 22 0 0x23 z).arg mPair) ∧
    mrdOk (x 1 22 0 0x23 z).arg (tilePend mPair) ∧ ¬ mrdReady (x 1 22 0 0x23 z).arg (tilePend mPair) :=
  ⟨⟨by decide +kernel, by decide +kernel, by decide +kernel⟩, by decide +kernel, by decide +kernel⟩
abbrev mwrOk (g : Arg) (s : State) : Prop :=
  s.Issuing ∧ s.HasArray [0, 3] false ∧ s.InWindow ([Opd.u g.a] ++ (if mwrTile g then [] else [.v g.b])) ∧
    s.Landed g ([Opd.u g.a] ++ (if mwrTile g then [] else [.v g.b])) ∧ s.Active g ∧
    s.RowsFree (mwrRows g s.ctx (s.ctx.act g.m)) ∧ (mwrTile g = true → s.TileReady g.b ∧ (s.ctx.wave.tile g.b).tag = .f32) ∧
    (mwrTile g = false → s.OnLanes (s.ctx.act g.m) (fun ln => (ln.readV g.b).tag = .f32))
/-- Register 6 and tile 1 hold F32. -/
def mPairF : State := (withV 6 0x3F800000 .f32 mPair).modWave 1 (fun w => w.setTile 1 (fun t => { t with tag := .f32 }))
theorem wit_AccumulatorWriteResult : mwrOk (x 0 22 6 0 z).arg mPairF ∧ mwrTile (x 0 22 6 0 z).arg = false := ⟨by decide +kernel, by decide +kernel⟩
theorem wit_AccumulatorWriteResult_tile : mwrOk (x 0 22 1 0x20 z).arg mPairF ∧ mwrTile (x 0 22 1 0x20 z).arg = true :=
  ⟨by decide +kernel, by decide +kernel⟩
theorem wit_AccumulatorWriteResult_park : ∃ t, t = tilePend mPairF ∧ (t.Issuing ∧ t.HasArray [0, 3] false ∧ t.Landed (x 0 22 1 0x20 z).arg [.u 22] ∧
      t.Active (x 0 22 1 0x20 z).arg ∧ t.RowsFree (mwrRows (x 0 22 1 0x20 z).arg t.ctx (t.ctx.act (x 0 22 1 0x20 z).m))) ∧
    t.TileWaits 1 ∧ (t.ctx.wave.tile 1).pend = true ∧ (t.ctx.wave.tile 1).tag = .f32 := ⟨_, rfl, by decide +kernel⟩
theorem wit_AccumulatorWriteResult_zero : mPair.Issuing ∧ mPair.HasArray rolesGMV false ∧ mPair.Landed (x 0 22 0 512 z).arg [.u 22] ∧
    mPair.Active (x 0 22 0 512 z).arg ∧ mPair.RowsFree [{ base := (mPair.ctx.crew.uni 22).val.toNat, len := (x 0 22 0 512 z).arg.w2f 0 14 }] := by
  decide +kernel
/-- A product of one row of 32 elements of E4M3X4: descriptor at local 64, x at 256, y at 512, the barrier object at 128. -/
def mSmv : State := withU 4 64 .raw (poke mp [(80, 1024), (88, 1 + 32 * 65536), (92, 6), (96, 256), (100, 512), (104, 128), (108, 0x80000000)])
theorem wit_ProductIssues : ∃ p ws, mSmv.Ready (x 0 4 0 0 z).arg rolesGM [.u 4] ∧ mSmv.ctx.crew.core % 2 = 0 ∧
    (mSmv.ctx.crew.uni 4).val.extractLsb' 0 4 = 0#4 ∧ (smvPlace mSmv mSmv.ctx (x 0 4 0 0 z).arg).isSome = true ∧
    smvReady mSmv mSmv.ctx (x 0 4 0 0 z).arg = .go ∧ smvWords mSmv mSmv.ctx (x 0 4 0 0 z).arg = some ws ∧
    smvBad mSmv mSmv.ctx.crewId ws = none ∧ smvOf mSmv mSmv.ctx ws = some p ∧ mSmv.txnsFree mSmv.ctx.crew.core 1 = true :=
  ⟨_, _, by decide +kernel, by decide +kernel, by decide +kernel, by decide +kernel, rfl, rfl, by decide +kernel, rfl, by decide +kernel⟩
theorem wit_ProductIssues_txns : ∃ p ws, (noTxns mSmv).Ready (x 0 4 0 0 z).arg rolesGM [.u 4] ∧ (noTxns mSmv).ctx.crew.core % 2 = 0 ∧
    ((noTxns mSmv).ctx.crew.uni 4).val.extractLsb' 0 4 = 0#4 ∧ (smvPlace (noTxns mSmv) (noTxns mSmv).ctx (x 0 4 0 0 z).arg).isSome = true ∧
    smvReady (noTxns mSmv) (noTxns mSmv).ctx (x 0 4 0 0 z).arg = .go ∧ smvWords (noTxns mSmv) (noTxns mSmv).ctx (x 0 4 0 0 z).arg = some ws ∧
    smvBad (noTxns mSmv) (noTxns mSmv).ctx.crewId ws = none ∧ smvOf (noTxns mSmv) (noTxns mSmv).ctx ws = some p ∧
    (noTxns mSmv).txnsFree (noTxns mSmv).ctx.crew.core 1 = false :=
  ⟨_, _, by decide +kernel, by decide +kernel, by decide +kernel, by decide +kernel, rfl, rfl, by decide +kernel, rfl, by decide +kernel⟩
theorem wit_ProductIssues_behind : (behind mSmv).Ready (x 0 4 0 0 z).arg rolesGM [.u 4] ∧ smvWords (behind mSmv) (behind mSmv).ctx (x 0 4 0 0 z).arg = none ∧
    ∃ v, smvReady (behind mSmv) (behind mSmv).ctx (x 0 4 0 0 z).arg = .later v := ⟨by decide +kernel, by decide +kernel, _, rfl⟩
/-- Descriptor addresses at shelf offsets 0 and 128. -/
def mFar : State := withU 4 0 .raw (withU 5 0x40000000 .raw (withU 6 128 .raw (withU 7 0x40000000 .raw mp)))
abbrev viewOk (s : State) : Prop :=
  s.Ready (x 1 4 6 0 z).arg rolesGV [.u 4, .u 5, .u 6, .u 7] ∧ 1 < s.ctx.crew.ntile ∧ s.deferredAt s.ctx.crewId (.tile s.ctx.cur.wave 1) = none ∧
    farOk (viewCam s.ctx (x 1 4 6 0 z).arg) 80 ∧ farOk (viewCut s.ctx (x 1 4 6 0 z).arg) 96
abbrev viewUsed (s : State) : Nat := s.viewsHeld s.ctx.launch.part (clusterOfCore s.ctx.crew.core) (s.ctx.crew.vlevel + 1)
abbrev viewRoom (s : State) : Nat := s.viewQuota s.ctx.launch.part (clusterOfCore s.ctx.crew.core) (s.ctx.crew.vlevel + 1)
theorem wit_ViewIssues : viewOk mFar ∧ (mFar.ctx.wave.tile 1).pend = false ∧ mFar.ctx.crew.vlevel ≠ 6 ∧ viewUsed mFar < viewRoom mFar ∧
    viewRefused (mFar.catchUpLanes 1 1#32) mFar.ctx = none := by decide +kernel
/-- A view of the crew's level in progress, and the deepest level, where no slot is. -/
def view1 : View :=
  { handle := 1#32, part := 0, tenant := 0, cluster := 0, core := 0, level := 1, crew := 1, wave := 1, tile := 1, cam := 0x4000000000000000#64,
    cut := 0x4000000000000080#64, w2 := 0x400#32, opthr := 0#32, traced := false, pixels := [], miss := 0#32, badmat := false, error := none,
    fault := none, owed := [] }
def mSlots : State := { mFar with views := [(4, view1)] }
def mLimit : State := mFar.modCrew 1 (fun c => { c with vlevel := 6 })
theorem wit_ViewIssues_parks : (viewOk (tilePend mFar) ∧ ((tilePend mFar).ctx.wave.tile 1).pend = true) ∧
    viewOk mSlots ∧ (mSlots.ctx.wave.tile 1).pend = false ∧ mSlots.ctx.crew.vlevel ≠ 6 ∧ viewRoom mSlots ≠ 0 ∧ viewRoom mSlots ≤ viewUsed mSlots := by
  decide +kernel
theorem wit_ViewIssues_limit : viewOk mLimit ∧ (mLimit.ctx.wave.tile 1).pend = false ∧ mLimit.ctx.crew.vlevel = 6 ∧
    missUnread mLimit mLimit.ctx 1#32 (x 1 4 6 1 z).arg = false ∧ viewRefused (mLimit.catchUpLanes 1 1#32) mLimit.ctx = viewRefused mLimit mLimit.ctx ∧
    missRead (x 1 4 6 1 z).arg = false := by decide +kernel
/-- The same with DEPTH, whose MISS is read from the camera. -/
theorem wit_ViewIssues_depth : missRead (x 1 4 6 0 z).arg = true ∧ missUnread mLimit mLimit.ctx 1#32 (x 1 4 6 0 z).arg = false ∧
    (mLimit.catchUpLanes 1 1#32).taskWord? 1 (missPlace mLimit.ctx (x 1 4 6 0 z).arg) = some 0#32 := by decide +kernel
/-- MISS stands on a page that is missing, at the deepest level. -/
def mLimitMiss : State := withU 4 0x400000 .raw mLimit
theorem wit_ViewIssues_miss : viewOk mLimitMiss ∧ (mLimitMiss.ctx.wave.tile 1).pend = false ∧ mLimitMiss.ctx.crew.vlevel = 6 ∧
    missUnread mLimitMiss mLimitMiss.ctx 1#32 (x 1 4 6 0 z).arg = true ∧ (∃ e ∈ (behind mLimit).accesses, e.2.of [1] = true) := by decide +kernel
-- Two fibres parked for MISS stay parked together while an access of one of them has not performed (R150).
theorem test_view_miss : (let t := after (.view (x 1 4 6 0 z)) mLimitMiss
      parkOf t = some (.missWord (.shelf 0 (0x400000 + 60)) [1]) ∧ t.pageAwaited 0 0 (.shelf 0 0x400000) = true) ∧
    (behind mLimit).stillParked 1 { (mLimit.ctx.wave.lane 1) with fibre := 2 } (.missWord (.shelf 0 60) [1, 2]) = true ∧
    mLimit.stillParked 1 { (mLimit.ctx.wave.lane 1) with fibre := 2 } (.missWord (.shelf 0 60) [1, 2]) = false := by decide +kernel
theorem wit_ViewAnswerResult : (mp.Ready (x 9 0 0 0 z).arg rolesGV [.u 9] ∧ (x 9 0 0 0 z).arg.w2f 0 4 < mp.ctx.crew.ntile) ∧
    mp.Clear (x 0 5 6 0 { z with c := 7 }).arg rolesGV [.v 5, .v 6, .v 7] ∧ mp.Active (x 0 5 6 0 { z with c := 7 }).arg ∧
    mp.OnLanes (mp.ctx.act (x 0 5 6 0 { z with c := 7 }).m) (fun ln => (ln.readV 7).tag = .n8x4 ∨ (ln.readV 7).tag = .raw) := by decide +kernel
/-- Registers 10 to 23 hold F32. -/
def mBox : State := (List.range 14).foldl (fun s i => withV (10 + i) 0 .f32 s) mFar
theorem wit_RayIssues : mBox.Issuing ∧ mBox.HasRole rolesGV ∧ mBox.InWindow ([Opd.v 1, .v 2] ++ rayOpds (x 1 10 6 0 z).arg) ∧
    mBox.Landed (x 1 10 6 0 z).arg (([Opd.v 1, .v 2] ++ rayOpds (x 1 10 6 0 z).arg) ++ [.u 6, .u 7]) ∧ mBox.Active (x 1 10 6 0 z).arg ∧
    mBox.OnLanes (mBox.ctx.act (x 1 10 6 0 z).m) (fun ln => ∀ i < 8, (ln.readV (10 + i)).tag = .f32) ∧
    farOk (viewCut mBox.ctx (x 1 10 6 0 z).arg) 96 ∧ mBox.txnsFree mBox.ctx.crew.core 1 = true ∧ mBox.FlagFree false := by decide +kernel
theorem wit_RayIssues_waits : ((noTxns mBox).Ready (x 1 10 6 0 z).arg rolesGV [.u 6, .u 7] ∧ (noTxns mBox).txnsFree (noTxns mBox).ctx.crew.core 1 = false) ∧
    (full mBox).Ready (x 1 10 6 0 z).arg rolesGV [.u 6, .u 7] ∧ (full mBox).txnsFree (full mBox).ctx.crew.core 1 = true ∧ ¬ (full mBox).FlagFree false := by
  decide +kernel
/-- A tile at local offset 1024. -/
def mTile : State := withU 4 1024 .raw mp
abbrev tileOk (g : Arg) (n c o : Nat) (s : State) : Prop := s.Ready g rolesGV [.u g.a] ∧ s.TileWaits n ∧ s.TileAt g c o
/-- No earlier access of the fibres to the tile's rows waits. -/
abbrev tileFree (g : Arg) (c o : Nat) (s : State) : Prop :=
  ¬ ∃ r ∈ tileRuns (.loc c o), (s.bulkCaught s.ctx.cur.wave (s.ctx.act g.m) (tileRuns (.loc c o))).waitsAt s.ctx.cur.wave (s.ctx.act g.m) r.1 r.2 = true
abbrev tileRows (o : Nat) : List (Nat × Nat) := (List.range 16).map (fun i => (1, o / 128 + i))
theorem wit_TileMemoryResult : tileOk (x 1 4 0 0 z).arg 1 1 1024 mTile ∧ tileOk (x 0 4 1 0 z).arg 1 1 1024 mTile ∧ tileTag (x 0 4 1 0 z).arg = .raw ∧
    (mTile.ctx.wave.tile 1).pend = false ∧ tileFree (x 1 4 0 0 z).arg 1 1024 mTile ∧ mTile.anyPinned (tileRows 1024) = false := by decide +kernel
/-- The tile at local offset 0, whose first row is pinned; and behind a word that an atomic with ACQ holds back. -/
def mTilePin : State := withU 4 0 .raw (pinned mp)
def mTileHeld : State := behind mTile
theorem wit_TileMemoryResult_waits : (tileOk (x 1 4 0 0 z).arg 1 1 1024 (tilePend mTile) ∧ ((tilePend mTile).ctx.wave.tile 1).pend = true) ∧
    (tileOk (x 0 4 1 0 z).arg 1 1 0 mTilePin ∧ (mTilePin.ctx.wave.tile 1).pend = false ∧ mTilePin.anyPinned (tileRows 0) = true) ∧
    tileOk (x 1 4 0 0 z).arg 1 1 1024 mTileHeld ∧ ¬ tileFree (x 1 4 0 0 z).arg 1 1024 mTileHeld := by decide +kernel
theorem wit_TileRowResult : (mp.Clear (x 3 1 0 14 bi).arg rolesGV (rowOpds (x 3 1 0 14 bi).arg ++ [.v 3]) ∧ mp.TileReady 1 ∧
      tileRow mp.ctx (x 3 1 0 14 bi).arg + 2 ≤ 16) ∧
    mp.Clear (x 1 3 0 14 bi).arg rolesGV (rowOpds (x 1 3 0 14 bi).arg ++ [.v 3]) ∧ mp.Active (x 1 3 0 14 bi).arg ∧
      mp.OnLanes (mp.ctx.act (x 1 3 0 14 bi).m) (fun ln => (ln.readV 3).tag = .n32) := by decide +kernel
theorem wit_TileRowResult_park : (tilePend mp).Clear (x 3 1 0 14 bi).arg rolesGV (rowOpds (x 3 1 0 14 bi).arg ++ [.v 3]) ∧ (tilePend mp).TileWaits 1 ∧
    ((tilePend mp).ctx.wave.tile 1).pend = true ∧ (tilePend mp).Active (x 3 1 0 14 bi).arg := by decide +kernel
theorem wit_GeometryResult_box : (mBox.Clear (x 24 10 17 0 z).arg rolesGV (boxOpds 10 ++ boxOpds 17 ++ boxOpds 24) ∧
      mBox.OnLanes (mBox.ctx.act (x 24 10 17 0 z).m) (fun ln => ∀ i < 6, (ln.readV (10 + i)).tag = .f32 ∧ (ln.readV (17 + i)).tag = .f32)) ∧
    mBox.Clear (x 24 10 17 0 z).arg rolesGV (boxOpds 10 ++ [.v 17, .v 24]) ∧
      mBox.OnLanes (mBox.ctx.act (x 24 10 17 0 z).m) (fun ln => (∀ i < 6, (ln.readV (10 + i)).tag = .f32) ∧ (ln.readV 17).tag = .f32) := by decide +kernel
/-- A node to pack, to local offset 1024. -/
def mPack : State := withV 3 1024 .raw mBox
abbrev packOk (o : Nat) (s : State) : Prop :=
  let g := (x 0 3 10 0 { z with c := 8 }).arg
  s.Issuing ∧ s.HasRole rolesGV ∧ s.InWindow ([Opd.v 3] ++ (List.range 7).map (fun i => Opd.v (10 + i))) ∧
    s.Landed g (([Opd.v 3] ++ (List.range 7).map (fun i => Opd.v (10 + i))) ++ (List.range 4).map (fun i => Opd.u (8 + i))) ∧ s.Active g ∧
    s.OnLanes (s.ctx.act g.m) (fun ln => ∀ i < 6, (ln.readV (10 + i)).tag = .f32) ∧
    ∀ e ∈ packGroups (s.ctx.act g.m), (packAddr s.ctx g e.2).extractLsb' 0 7 = 0#7 ∧
      s.localAddr s.ctx.crewId (packAddr s.ctx g e.2) 128 = some (.loc 1 o)
theorem wit_GeometryResult_pack : packOk 1024 mPack ∧ mPack.anyPinned [(1, 1024 / 128)] = false ∧ mPack.NothingQueued ∧ mPack.barObjs = [] := by
  decide +kernel
theorem wit_GeometryResult_pack_unused : ∀ h, mPack.barInUse h = false := fun _ => rfl
theorem wit_GeometryResult_pack_park : packOk 0 (pinned (withV 3 0 .n32 mBox)) ∧ (pinned (withV 3 0 .n32 mBox)).anyPinned [(1, 0 / 128)] = true := by
  decide +kernel
theorem wit_HyperResult : ∃ g os hs bs f, hyperOf (.hbind (x 0 1 1 0 z)) = some (g, os, hs, bs, f) ∧ mp.Ready g rolesGV os ∧ mp.HyperIn hs bs :=
  ⟨_, _, _, _, _, rfl, by decide +kernel, by decide +kernel⟩
/-- A hypervector at local offset 1024. -/
def mHyp : State := withU 4 1024 .raw mp
abbrev hypOk (g : Arg) (a : VAddr) (hs : List Nat) (s : State) : Prop :=
  s.Ready g rolesGV [.u g.a] ∧ s.HyperIn hs [] ∧ s.HyperAt g a
theorem wit_HyperMemoryResult_hld : ∃ n, hypOk (x 1 4 0 0 z).arg (.loc 1 1024) [1] mHyp ∧
    hypWait mHyp mHyp.ctx 1#32 (.loc 1 1024) = .go ∧ (mHyp.catchUpLanes 1 1#32).taskMiss 1 (.loc 1 1024) 1024 = none ∧ (mHyp.catchUpLanes 1 1#32).taskNat? 1 (.loc 1 1024) 1024 = some n :=
  ⟨0, by decide +kernel, rfl, by decide +kernel, by decide +kernel⟩
theorem wit_HyperMemoryResult_hst : hypOk (x 0 4 1 0 z).arg (.loc 1 1024) [1] mHyp ∧
    hypWait mHyp mHyp.ctx 1#32 (.loc 1 1024) = .go ∧ mHyp.anyPinned (rowsTouched 1 1024 1024) = false ∧ hypShelf (x 0 4 1 0 z).arg = false :=
  ⟨by decide +kernel, rfl, by decide +kernel, by decide +kernel⟩
/-- Register 4 names shelf offset 1024. -/
theorem wit_HyperMemoryResult_shelf : hypOk (x 0 4 1 1 z).arg (.shelf 0 1024) [1] mHyp ∧ hypShelf (x 0 4 1 1 z).arg = true ∧
    hypWait mHyp mHyp.ctx 1#32 (.shelf 0 1024) = .go ∧ hstMiss mHyp mHyp.ctx (.shelf 0 1024) = none ∧
    (∀ i < 16, mHyp.detAt mHyp.ctx.crewId (VAddr.plus (.shelf 0 1024) (64 * i)) = none) ∧
    ∀ i < 16, (mHyp.bulkCaught 1 1#32 [(.shelf 0 1024, 1024)]).home? 0 0 (VAddr.plus (.shelf 0 1024) (64 * i)) = some (.phys (0x8000000400 + 64 * i)) :=
  ⟨by decide +kernel, by decide +kernel, rfl, by decide +kernel, by decide +kernel, by decide +kernel⟩
/-- Both forms go on with no line absent and transactions free, and with the transactions the clause holds. -/
theorem wit_HyperMemoryResult_held : mHyp.LinesHeld (x 0 4 1 1 z).arg (linesTouched (.shelf 0 1024) 1024) ∧
    (mHyp.bulkCaught 1 1#32 [(.shelf 0 1024, 1024)]).waitsAt 1 1#32 (.shelf 0 1024) 1024 = false ∧
    hstCharges mHyp mHyp.ctx (.shelf 0 1024) = [] := by decide +kernel
/-- Forms that park: a line that is absent, no transactions, a pinned row. -/
def mHypAbsent : State := { mHyp with copies := [(2, { copy1 with claims := [(0, 16)] })] }
theorem wit_HyperMemoryResult_parks : (hypOk (x 1 4 0 1 z).arg (.shelf 0 1024) [1] mHypAbsent ∧ mHypAbsent.SomeAbsent (linesTouched (.shelf 0 1024) 1024)) ∧
    (hypOk (x 1 4 0 1 z).arg (.shelf 0 1024) [1] (noTxns mHyp) ∧ ¬ (noTxns mHyp).SomeAbsent (linesTouched (.shelf 0 1024) 1024) ∧
      (noTxns mHyp).ctx.cur.txns = 0 ∧ (noTxns mHyp).txnsFree (noTxns mHyp).ctx.crew.core (linesTouched (.shelf 0 1024) 1024).length = false) ∧
    hypOk (x 0 4 1 0 z).arg (.loc 1 0) [1] (withU 4 0 .raw (pinned mHyp)) ∧
      (withU 4 0 .raw (pinned mHyp)).anyPinned (rowsTouched 1 0 1024) = true := by decide +kernel
/-- The clause holds behind an earlier access of its fibre; and a page is not there. -/
theorem wit_HyperMemoryResult_waits : (hypOk (x 1 4 0 0 z).arg (.loc 1 1024) [1] mTileHeld ∧
      (mTileHeld.bulkCaught 1 1#32 [(.loc 1 1024, 1024)]).waitsAt 1 1#32 (.loc 1 1024) 1024 = true) ∧
    ∃ m, hypOk (x 1 4 0 1 z).arg (.shelf 0 0x400000) [1] (withU 4 0x400000 .raw mHyp) ∧
      ((withU 4 0x400000 .raw mHyp).bulkCaught 1 1#32 [(.shelf 0 0x400000, 1024)]).waitsAt 1 1#32 (.shelf 0 0x400000) 1024 = false ∧
      ((withU 4 0x400000 .raw mHyp).bulkCaught 1 1#32 [(.shelf 0 0x400000, 1024)]).taskMiss 1 (.shelf 0 0x400000) 1024 = some m ∧
      hstMiss (withU 4 0x400000 .raw mHyp) (withU 4 0x400000 .raw mHyp).ctx (.shelf 0 0x400000) = some m :=
  ⟨by decide +kernel, .shelf 0 0x400000, by decide +kernel⟩
theorem wit_HyperMemoryResult_page : (fatalPage mHyp).faultOn 0 0 (.shelf 0 0x400000) true = true ∧ mHyp.faultOn 0 0 (.shelf 0 0x400000) true = false := by
  decide +kernel
-- The clause of an HLD holds at a missing page, which it asks for once (R52, R177).
theorem test_hld_page : (let t := after (.hld (x 1 4 0 1 z)) (withU 4 0x400000 .raw mHyp)
    (t.wave 1).hold.isSome = true ∧ t.tfaults.length = 1 ∧ stopped t = false) ∧
    stopped (after (.hld (x 1 4 0 1 z)) (fatalPage (withU 4 0x400000 .raw mHyp))) = true := by decide +kernel
/-- A DET region holds the first line; the buffer has room for it, or none. -/
def mHypDet : State :=
  mHyp.modLaunch 1 (fun l => { l with regions :=
    [{ base := .shelf 0 1024, len := 64, det := true, lock := false, sync := .shelf 0 64, snap0 := [], last := none }] })
theorem wit_HyperMemoryResult_det : (mHypDet.bulkCaught 1 1#32 [(.shelf 0 1024, 1024)]).detAt 1 (VAddr.plus (.shelf 0 1024) (64 * 0)) = some (0, 0) ∧
    hstMiss mHypDet mHypDet.ctx (.shelf 0 1024) = none ∧ hstCharges mHypDet mHypDet.ctx (.shelf 0 1024) ≠ [] ∧
    mHypDet.ctx.crew.overflows (hstCharges mHypDet mHypDet.ctx (.shelf 0 1024)) = some 80 ∧
    ((mHypDet.modCrew 1 (fun c => { c with wbufCap := 80 })).ctx.crew).overflows (hstCharges mHypDet mHypDet.ctx (.shelf 0 1024)) = none := by
  decide +kernel
theorem wit_QueryIssues_waits : ((noTxns mp).Ready (x 9 0 1 0 z).arg rolesGV [.u 9] ∧ (noTxns mp).txnsFree (noTxns mp).ctx.crew.core 1 = false) ∧
    (full mp).Ready (x 9 0 1 0 z).arg rolesGV [.u 9] ∧ (full mp).txnsFree (full mp).ctx.crew.core 1 = true ∧ ¬ (full mp).FlagFree false := by
  decide +kernel
theorem wit_QueryIssues_hdist : mp.Ready (x 9 0 1 0 z).arg rolesGV [.u 9] ∧ mp.HyperIn [0, 1] [] ∧ mp.MayQuery (x 9 0 1 0 z).arg := by decide +kernel
/-- The same before another instruction of the clause. -/
def mHyp2 : State := { mp with cur := some { oneCursor with count := 2 } }
theorem wit_DistanceRule : ∃ k c, mHyp2.Ready (x 9 0 1 0 z).arg rolesGV [.u 9] ∧ mHyp2.HyperIn [0, 1] [] ∧ mHyp2.MayQuery (x 9 0 1 0 z).arg ∧
    mHyp2.ctx.cur.flagOf (x 9 0 1 0 z).arg.m.fsel = some k ∧ look mHyp2.ctx.crewId mHyp2.crews = some c ∧ 9 < c.unis.length ∧
    mHyp2.ctx.cur.idx + 1 < mHyp2.ctx.cur.count ∧ mHyp2.ctx.cur.lanes ≠ 0#32 :=
  ⟨_, _, by decide +kernel, by decide +kernel, by decide +kernel, rfl, rfl, by decide +kernel, by decide +kernel, by decide +kernel⟩
/-- Once the distance is on its way, it can land. -/
theorem wit_DistanceRule_lands : ∃ fl, (after (.hdist (x 9 0 1 0 z)) mHyp2).flights = [fl] ∧
    look fl.1 (after (.hdist (x 9 0 1 0 z)) mHyp2).flights = some fl.2 ∧
    (after (.hdist (x 9 0 1 0 z)) mHyp2).awake ((after (.hdist (x 9 0 1 0 z)) mHyp2).wave fl.2.wave).crew = true := ⟨_, rfl, rfl, by decide +kernel⟩
/-- A query descriptor at local offset 64: two hypervectors from shelf offset 0. -/
def mNear : State := withU 4 64 .raw (poke mp [(68, 0x40000000), (72, 2)])
theorem wit_QueryIssues_hnear : ∃ ws base, mNear.Ready (x 8 0 4 0 z).arg rolesGV [.u 4, .u 8, .u 9] ∧ mNear.HyperIn [0] [] ∧
    mNear.MayQuery (x 8 0 4 0 z).arg ∧ (mNear.ctx.crew.uni 4).val.extractLsb' 0 4 = 0#4 ∧
    (mNear.localAddr mNear.ctx.crewId (mNear.ctx.crew.uni 4).val 16).isSome = true ∧ nearReady mNear mNear.ctx (x 8 0 4 0 z).arg = .go ∧ nearWords mNear mNear.ctx (x 8 0 4 0 z).arg = some ws ∧
    nearBad ws = none ∧ taggedFar (dwordAt ws 0) 0 = some base :=
  ⟨_, _, by decide +kernel, by decide +kernel, by decide +kernel, by decide +kernel, by decide +kernel, rfl, rfl, by decide +kernel, rfl⟩
theorem wit_QueryIssues_behind : ((behind mNear).Ready (x 8 0 4 0 z).arg rolesGV [.u 4, .u 8, .u 9] ∧ (behind mNear).HyperIn [0] [] ∧
      nearWords (behind mNear) (behind mNear).ctx (x 8 0 4 0 z).arg = none) ∧
    ∃ v, nearReady (behind mNear) (behind mNear).ctx (x 8 0 4 0 z).arg = .later v := ⟨by decide +kernel, _, rfl⟩
abbrev wqryOk (s : State) : Prop :=
  s.Ready (x 0 4 0 0 z).arg rolesAll [.u 4] ∧ s.MayQuery (x 0 4 0 0 z).arg ∧ (s.ctx.crew.uni 4).val.extractLsb' 0 3 = 0#3 ∧
    wqryPlace s s.ctx (x 0 4 0 0 z).arg = some (.loc 1 1024)
/-- A launch with a work grid of 4 items. -/
def mItems : State := mHyp.modLaunch 1 (fun l => { l with desc := { l.desc with wqx := 4, wqy := 1 } })
theorem wit_QueryIssues_wqry : wqryOk mHyp ∧ mHyp.ctx.launch.desc.wqx = 0 := by decide +kernel
theorem wit_QueryIssues_items : wqryOk mItems ∧ mItems.ctx.gang.node = none ∧ mItems.ctx.launch.desc.wqx ≠ 0 := by decide +kernel
/-- An ordinary node at shelf offset 4096, named by uniform register 4. -/
def mNode : State := { withU 4 64 .raw mp with nodes := [(2, { node2 with keyed := false, kregs := 0, ctxs := [] })] }
theorem wit_RecordResult : ∃ n, mNode.Clear (x 0 3 4 0 z).arg rolesGV [.v 3] ∧ mNode.Active (x 0 3 4 0 z).arg ∧ mNode.Landed (x 0 3 4 0 z).arg [.u 4] ∧
    mNode.Landed (x 0 3 4 0 z).arg ((List.range n.rw).map (fun i => .v (3 + i))) ∧ mNode.ctx.cur.served = 0#32 ∧
    emitNode mNode mNode.ctx (x 0 3 4 0 z).arg = some (2, n) ∧ 3 + n.rw ≤ 252 ∧
    mNode.OnLanes mNode.ctx.cur.lanes (fun ln => ln.wb + 3 + n.rw ≤ mNode.ctx.crew.nreg) ∧
    look 2 (mNode.catchUpLanes 1 1#32).nodes = some n ∧ n.epoch = none ∧ n.queue.length + (laneList 1#32).length ≤ n.qcap :=
  ⟨_, by decide +kernel, by decide +kernel, by decide +kernel, by decide +kernel, by decide +kernel, rfl, by decide +kernel, by decide +kernel, rfl,
    by decide +kernel, by decide +kernel⟩
/-- The same with a node whose records wait for the end of a phase, and with one whose queue is full. -/
def emitOk (s : State) : Bool :=
  match emitNode s s.ctx (x 0 3 4 0 z).arg with
  | some (2, n) => look 2 (s.catchUpLanes 1 1#32).nodes == some n && decide (3 + n.rw ≤ 252)
  | _ => false
def mHold : State := { mNode with nodes := [(2, { node2 with epoch := some 0x8000000040 })] }
def mQFull : State := { mNode with nodes := [(2, { node2 with keyed := false, ctxs := [], qcap := 0 })] }
theorem wit_RecordResult_epoch : (emitOk mHold = true ∧ mHold.Clear (x 0 3 4 0 z).arg rolesGV [.v 3]) ∧
    emitOk mQFull = true ∧ mQFull.Clear (x 0 3 4 0 z).arg rolesGV [.v 3] := by decide +kernel
/-- The launch of the node runs; or another launch sends to a node of one that has stopped, which discards the record (log 86). -/
def mNodeStopped : State :=
  { mNode with nodes := [(2, { node2 with launch := 6, keyed := false, kregs := 0, ctxs := [] })],
               launches := mNode.launches ++ [(6, { mNode.ctx.launch with phase := .stopped 2 })] }
theorem wit_RecordResult_runs : ((mNode.catchUpLanes 1 1#32).launch node2.launch).phase = .running ∧ emitOk mNodeStopped = true ∧
    ((mNodeStopped.catchUpLanes 1 1#32).launch 6).phase ≠ .running ∧ mNodeStopped.Clear (x 0 3 4 0 z).arg rolesGV [.v 3] := by
  decide +kernel
theorem test_remit_stopped : ((look 2 (after (.remit (x 0 3 4 0 z)) mNodeStopped).nodes).map (·.queue.length)) = some 0 ∧
    ((look 2 (after (.remit (x 0 3 4 0 z)) mNode).nodes).map (·.queue.length)) = some 1 := by decide +kernel
-- A REMIT that a full queue holds leaves its gang replayable; one that appends a record does not (R132).
theorem test_remit_replayable : ((after (.remit (x 0 3 4 0 z)) mQFull).gang 1).replayable = true ∧
    ((after (.remit (x 0 3 4 0 z)) mNode).gang 1).replayable = false := by decide +kernel
/-- Two fibres, and room for one record. -/
def mFits1 : State :=
  { (mNode.modWave 1 (fun w => { w with lanes := w.lanes.modify 1 (fun ln => { ln with status := .live, fibre := 2 }) })) with
    nodes := [(2, { node2 with keyed := false, ctxs := [], qcap := 1 })], cur := some { oneCursor with lanes := 3#32 } }
theorem wit_RecordResult_part : emitOk mFits1 = true ∧ mFits1.Clear (x 0 3 4 0 z).arg rolesGV [.v 3] ∧
    mFits1.OnLanes mFits1.ctx.cur.lanes (fun ln => ln.wb + 3 + node2.rw ≤ mFits1.ctx.crew.nreg) ∧
    (mFits1.catchUpLanes 1 3#32).cur = some { oneCursor with lanes := 3#32 } ∧ node2.epoch = none ∧ node2.queue.length < 1 ∧
    1 < node2.queue.length + (laneList (mFits1.ctx.act (x 0 3 4 0 z).m)).length := by decide +kernel
abbrev launchOk (s : State) : Prop :=
  s.Ready (x 8 4 0 0 z).arg rolesAll [.u 4, .u 5, .u 8, .u 9] ∧ s.ctx.crew.idx = 0 ∧ s.ctx.gang.node = none ∧
  spaceOf (launchAddr s.ctx (x 8 4 0 0 z).arg) ≠ 3 ∧
    (launchAddr s.ctx (x 8 4 0 0 z).arg).extractLsb' 0 4 = 0#4 ∧
    (s.tagged s.ctx.crewId (launchAddr s.ctx (x 8 4 0 0 z).arg) launchBytes).isSome = true ∧ launchParked s s.ctx.wave = 0#32
/-- The deepest level; and a fibre woken by its answer. -/
def mDeep : State := mFar.modLaunch 1 (fun l => { l with level := 10 })
def mWoken : State := mFar.modWave 1 (fun w => { w with lanes := w.lanes.modify 0 (fun ln => { ln with woken := true }) })
theorem wit_LaunchResult : launchOk mDeep ∧ mDeep.ctx.launch.level = 10 := by decide +kernel
theorem wit_LaunchResult_woken : launchOk mWoken ∧ mWoken.ctx.launch.level ≠ 10 ∧ mWoken.OnLanes 1#32 (fun ln => ln.woken = true) := by decide +kernel
theorem wit_LaunchResult_asks : launchOk mFar ∧ mFar.ctx.launch.level ≠ 10 ∧ mFar.OnLanes 1#32 (fun ln => ln.woken = false) ∧
    look mFar.ctx.cur.wave mFar.waves = some mFar.ctx.wave ∧ mFar.ctx.wave.lanes.length = 32 :=
  ⟨by decide +kernel, by decide +kernel, by decide +kernel, rfl, by decide +kernel⟩
theorem wit_TrapResult : mp.Clear (x 0 3 0 0x105 z).arg rolesAll [.v 3] ∧ mp.Active (x 0 3 0 0x105 z).arg ∧ trapNum (x 0 3 0 0x105 z).arg < 128 ∧
    trapVal (x 0 3 0 0x105 z).arg = true ∧ (mp.catchUpLanes 1 1#32).quietLanes 1 1#32 = true := by decide +kernel
theorem wit_TrapResult_stop : mp.Clear (x 0 3 0 0x1FF z).arg rolesAll [.v 3] ∧ mp.Active (x 0 3 0 0x1FF z).arg ∧ 128 ≤ trapNum (x 0 3 0 0x1FF z).arg := by
  decide +kernel
/-- An access of the fibre that waits behind itself: its page is not there. -/
def mTrapHeld : State := { mTileHeld with cur := mp.cur }
theorem wit_TrapResult_held : mTrapHeld.Clear (x 0 3 0 0x1FF z).arg rolesAll [.v 3] ∧ mTrapHeld.Active (x 0 3 0 0x1FF z).arg ∧
    (mTrapHeld.catchUpLanes 1 1#32).quietLanes 1 1#32 = false := by decide +kernel
theorem wit_TrapResult_stop_quiet : (mp.catchUpLanes 1 1#32).quietLanes 1 1#32 = true ∧
    (mp.catchUpLanes 1 1#32).unreleased (mp.catchUpLanes 1 1#32).nextUid 1 1#32 (mp.ctx.wave.fibres 1#32) 4 = false := by decide +kernel
theorem wit_SpecialResult : mp.ctx.crew.core < 256 ∧ mp.Clear (x 5 0 0 10 z).arg rolesAll [.v 5] ∧ mp.Active (x 5 0 0 10 z).arg ∧
    mp.Clear (x 5 0 0 0x10A z).arg rolesAll [.u 5] ∧ srdUni (x 5 0 0 0x10A z).arg = true ∧
    mp.Clear (x 0 4 0 0x13 au).arg rolesAll (x 0 4 0 0x13 au).arg.srcA.opds ∧ mp.Active (x 0 4 0 0x13 au).arg ∧
    mp.OnLanes 1#32 (fun ln => ((x 0 4 0 0x13 au).arg.srcA.read mp.ctx.crew ln .raw).val = 0#32) := by decide +kernel
theorem wit_SpecialResult_node : mp.ctx.gang.node = none ∧ mp.ctx.launch.desc.mcast = false ∧ mKeyed.ctx.gang.node ≠ none := by decide +kernel
abbrev fenceOk (g : Arg) (s : State) : Prop :=
  s.Ready g rolesAll ([.u g.d] ++ (if fenceRange g then [.u g.a, .u (g.a + 1), .u g.b] else [])) ∧
    (fenceRange g = true → fenceBad (s.ctx.crew.pair g.a) = false) ∧ s.ctx.wave.fences.all (·.busy) = false
theorem wit_FenceResult : fenceOk (x 8 0 0 2 { z with rel := true }).arg mFar ∧ fenceOk (x 8 4 6 0xA { z with rel := true }).arg mFar := by decide +kernel
/-- The token of the first fence of place 0, which has completed. -/
def mToken : State := withU 4 8 .n32 mp
theorem wit_FenceResult_wait : mToken.Ready (x 0 4 0 0 z).arg rolesAll [.u 4] ∧ (mToken.ctx.crew.uni 4).tag = .n32 ∧
    fenceOpen mToken.ctx (x 0 4 0 0 z).arg = none ∧ mToken.deferredAt mToken.ctx.crewId .fwait = none := by decide +kernel
/-- Every place holds a fence. -/
def mFences : State := mToken.modWave 1 (fun w => { w with fences := List.replicate 8 { gen := 1, busy := true, acq := false, cover := [9] } })
theorem wit_FenceResult_busy : (mFences.Ready (x 8 0 0 2 { z with rel := true }).arg rolesAll [.u 8] ∧ mFences.ctx.wave.fences.all (·.busy) = true) ∧
    mFences.Ready (x 0 4 0 0 z).arg rolesAll [.u 4] ∧ (mFences.ctx.crew.uni 4).tag = .n32 ∧
    ((mFences.ctx.wave.fences[0]?).getD Fence.idle).busy = true ∧ ((mFences.ctx.wave.fences[0]?).getD Fence.idle).gen = 1 := by decide +kernel
/-- A deferred fault waits for FWAIT. -/
def mLate : State :=
  { mToken with deferred := [{ gang := 1, crew := 1, till := [.fwait], cls := .translate, info := 0#64, addr := 0#64 }] }
theorem wit_FenceResult_late : ∃ d, mLate.Ready (x 0 4 0 0 z).arg rolesAll [.u 4] ∧ (mLate.ctx.crew.uni 4).tag = .n32 ∧
    fenceOpen mLate.ctx (x 0 4 0 0 z).arg = none ∧ mLate.deferredAt mLate.ctx.crewId .fwait = some d :=
  ⟨_, by decide +kernel, by decide +kernel, by decide +kernel, rfl⟩
theorem wit_CountRule : mp.Clear (x 2 3 0 0 z).arg rolesAll ((x 2 3 0 0 z).arg.srcA.opds ++ [.v 2]) ∧ mp.Active (x 2 3 0 0 z).arg := by decide +kernel
theorem wit_PositionChoice : [m0.ctx.wave.lane 0] ≠ [] ∧ (∀ y ∈ [m0.ctx.wave.lane 0], y.age < 64) := by decide +kernel
theorem wit_PositionChoice_old : ∃ y ∈ [{ m0.ctx.wave.lane 0 with age := 64 }], 64 ≤ y.age := ⟨_, List.mem_singleton.2 rfl, by decide +kernel⟩
theorem wit_RoundTrip : (Instr.add (g0 2 3 4)).wf = true ∧ (Instr.add (g0 2 3 4)).fields ≠ Fields.event := by decide
theorem wit_StepRunsDecoded : ∃ c, m0.halted = false ∧ m0.cur = some c ∧ decodeWords (m0.codeWords m0.ctx.launchId c.addr 5) = some .nop :=
  ⟨_, rfl, rfl, by decide +kernel⟩
theorem wit_StepRunsDecoded_event : State.reset.halted = false ∧ State.reset.cur = none := ⟨rfl, rfl⟩
theorem wit_StepRunsDecoded_halted : { m0 with halted := true }.halted = true := rfl
theorem wit_MemoryStaysCanonical : ∃ t, (m0.memoriesWf = true ∧ m0.laidOut = true ∧ m0.wavesLaidOut = true) ∧ step m0 = .next t :=
  ⟨_, by decide +kernel, rfl⟩
/-- The crew takes role 1, which may not use a tile. -/
def mRole : State := mp.modCrew 1 (fun c => { c with role := 1 })
theorem wit_FaultTaken : ∃ m p c, (Instr.add (g0 2 3 4)).sem = some m ∧ (withV 4 1 .f32 mp).cur = some c ∧ m.fault (withV 4 1 .f32 mp) = some p ∧
    p.cls ≠ .trap := ⟨_, _, _, rfl, rfl, rfl, by decide +kernel⟩
theorem wit_FaultTaken_stop : ∃ c y, mp.cur = some c ∧ mp.ctx.launch.desc.policy = false ∧ look mp.ctx.gangId mp.gangs = some y ∧ y.phase = .running ∧
    ∀ e ∈ mp.launches, e.2.phase = .running → e.2.parent ≠ some mp.ctx.gangId :=
  ⟨_, _, rfl, by decide +kernel, rfl, by decide +kernel, by decide +kernel⟩
theorem wit_FaultTaken_role : (∃ op sub p c, roleOf mRole (.trd (x 3 1 0 14 bi)) = some (op, sub, p) ∧ mRole.cur = some c ∧ p) ∧
    (∃ op sub p, roleOf mRole (.smv (x 0 4 0 0 z)) = some (op, sub, p) ∧ p) ∧ ∃ op sub p, roleOf mp (.mcommit (x 7 0 0 0 z)) = some (op, sub, p) ∧ p :=
  ⟨⟨_, _, _, _, rfl, rfl, by decide +kernel⟩, ⟨_, _, _, rfl, by decide +kernel⟩, _, _, _, rfl, by decide +kernel⟩
theorem wit_FaultTaken_keyed : (∃ op sub p, roleOf mKeyed .fend = some (op, sub, p) ∧ p) ∧
    (∃ op sub p, roleOf mp (.ksusp (x 0 0 0 0 z)) = some (op, sub, p) ∧ p) ∧
    ∃ op sub p, roleOf (mp.modCrew 1 (fun c => { c with idx := 1 })) (.launch (x 8 4 0 0 z)) = some (op, sub, p) ∧ p :=
  ⟨⟨_, _, _, rfl, by decide +kernel⟩, ⟨_, _, _, rfl, by decide +kernel⟩, _, _, _, rfl, by decide +kernel⟩
/-- An address that is no multiple of 4. -/
def mOdd : State := withTenant (two 9 5 .n32)
theorem wit_FaultTaken_align : ∃ g c, storeOf (.stl (g0 4 3 0x20)) = some (g, false) ∧ mOdd.cur = some c ∧
    mOdd.Clear g rolesAll (g.srcA.opds ++ [.v g.d]) ∧
    mOdd.OnLanes (mOdd.ctx.act g.m) (fun ln => tagOf (g.b / 16) = .raw ∨ (ln.readV g.d).tag = tagOf (g.b / 16)) ∧ mOdd.misaligned g ≠ 0#32 :=
  ⟨_, _, rfl, rfl, by decide +kernel, by decide +kernel, by decide +kernel⟩
/-! #### Events -/

/-- The part is up, and no clause is being issued. -/
def mUp : State := { mp with up := true, cur := none }
theorem wit_IssueEvents : ∃ wave slot,
    (let u := mUp.freeNext.2.modCore 0 (fun c => { c with cycles := (c.cycles + Config.freeClocks mUp.freeNext.1) % 2 ^ 64 })
     mUp.cur = none ∧
     nextSlot (u.core 0).rr (((u.readyOn 0).filter (fun k => !u.passedOver (u.readyOn 0) k)).map (fun k => (k, (u.wave k).slot))) = some (wave, slot)) :=
  ⟨_, _, rfl, rfl⟩
/-- A held clause. -/
def mHeld : State := mUp.modWave 1 (fun w => { w with hold := some oneCursor })
theorem wit_IssueEvents_held : ∃ cl,
    (let t := { (mHeld.modWave 1 (fun w => { w with hold := none })) with cur := some oneCursor }
     mHeld.cur = none ∧ (mHeld.wave 1).hold = some oneCursor ∧ (mHeld.wave 1).ended = false ∧
     (mHeld.gang (mHeld.crew (mHeld.wave 1).crew).gang).phase = .running ∧
     mHeld.awake (mHeld.wave 1).crew = true ∧
     mHeld.resides (mHeld.gang (mHeld.crew (mHeld.wave 1).crew).gang).launch = true ∧ t.decodeClause 1 0 = .ok cl ∧
     (cl.instrs.drop 0).head? = some .nop ∧ (∃ m, Instr.nop.sem = some m ∧ ∀ u, m.wait t ≠ .hold u) ∧
     checkAll (cl.instrs.drop 0) t = none) :=
  ⟨_, rfl, by decide +kernel, by decide +kernel, by decide +kernel, by decide +kernel, by decide +kernel, rfl, rfl, ⟨_, rfl, fun _ => nofun⟩, rfl⟩
/-- A clause held at a REMIT of two fibres, the first served: a node whose queue is full, and one with room again. -/
def mRemitHeld (n : Nat) : State :=
  let t := (after (.remit (x 0 3 4 0 z)) mFits1).modPart 0 (fun p => { p with
    code := putCode 0 ([0x1008_007C#32] ++ encode (.remit (x 0 3 4 0 bu)) ++ [0xFF08_007C#32]) [] })
  { t with up := true, cur := none, nodes := t.nodes.map (fun e => (e.1, { e.2 with qcap := n })) }
theorem wit_IssueEvents_remit : (let t := { ((mRemitHeld 1).modWave 1 (fun w => { w with hold := none })) with cur := ((mRemitHeld 1).wave 1).hold }
      ∃ m u, Instr.sem (.remit (x 0 3 4 0 z)) = some m ∧ m.wait t = .hold u ∧ u.ctx.cur.served = t.ctx.cur.served) ∧
    ((mRemitHeld 1).wave 1).hold = some { oneCursor with lanes := 3#32, served := 1#32 } := ⟨⟨_, _, rfl, rfl, by decide +kernel⟩, by decide +kernel⟩
-- It holds on while the queue is full; with room it goes on, and its check step comes before a record is sent (R58, R304).
theorem test_remit_continues : ((after (.clauseContinue 1) (mRemitHeld 1)).cur = none ∧
      ((after (.clauseContinue 1) (mRemitHeld 1)).wave 1).hold.isSome = true) ∧
    ((after (.clauseContinue 1) (mRemitHeld 2)).cur.isSome = true ∧
      ((look 2 (after (.clauseContinue 1) (mRemitHeld 2)).nodes).map (·.queue.length)) = some 1) ∧
    stopped (after (.clauseContinue 1) ((mRemitHeld 2).setUni 1 4 { ((mRemitHeld 2).crew 1).uni 4 with pend := true })) = true := by decide +kernel
/-- A clause of one ADD of two tags, and one that does not decode. -/
def mAdd : State := { withTenant (withV 4 1 .f32 (withV 3 8 .n32 (State.reset.withFetchWord 32 0x04030204))) with up := true, cur := none }
def mBad : State := { withTenant (State.reset.withFetchWord 32 0x78) with up := true, cur := none }
theorem wit_IssueEvents_held_fault : ∃ cl d p,
    (let t := { ((mAdd.modWave 1 (fun w => { w with hold := some oneCursor })).modWave 1 (fun w => { w with hold := none })) with cur := some oneCursor }
     t.decodeClause 1 0 = .ok cl ∧ checkAll (cl.instrs.drop 0) t = some (d, p)) := ⟨_, _, _, rfl, rfl⟩
/-- In an ebb, a clause held at an HLD, or before it; and a held clause of a gang whose crew has lost its slot. -/
def mHeldHyp (c : Cursor) : State :=
  ((withU 4 1024 .raw mUp).modWave 1 (fun w => { w with hold := some c })).modPart 0 (fun p => { p with
    ebb := some { stop := false }, code := putCode 0 ([0x1008_007C#32] ++ encode (.hld (x 1 4 0 0 au)) ++ [0xFF08_007C#32]) [] })
theorem wit_IssueEvents_ebb : ∃ i m, ((mHeldHyp oneCursor).cur = none ∧ ((mHeldHyp oneCursor).wave 1).hold = some oneCursor ∧
      (mHeldHyp oneCursor).awake 1 = true ∧ (mHeldHyp oneCursor).resides 1 = false ∧ oneCursor.ebbed = false) ∧
    (mHeldHyp oneCursor).fetchInstr oneCursor = some i ∧ isHyperMove i = true ∧ i.sem = some m :=
  ⟨.hld (x 1 4 0 0 au), _, by decide +kernel, by decide +kernel, rfl, rfl⟩
theorem test_ebb_hld : (after (.clauseContinue 1) (mHeldHyp oneCursor)).moving ((after (.clauseContinue 1) (mHeldHyp oneCursor)).wave 1) = false ∧
    (mHeldHyp oneCursor).moving ((mHeldHyp oneCursor).wave 1) = true := by decide +kernel
theorem test_ebb_before : ((after (.clauseContinue 1) (mHeldHyp { oneCursor with ebbed := true })).wave 1).hold = some { oneCursor with ebbed := true } := by
  decide +kernel
def noSlotsHeld : State := mHeld.modPart 0 (fun p => { p with
  quota := { p.quota with clusters := p.quota.clusters.map (fun c => { c with front := [], back := { c.back with crewSlots := Range.nil } }) } })
theorem wit_IssueEvents_unseated : noSlotsHeld.gangSeated (noSlotsHeld.crew (noSlotsHeld.wave 1).crew).gang = false := by decide +kernel
theorem wit_IssueEvents_wave : choosePosition ((laneList (mUp.readyLanes 1)).map (mUp.wave 1).lane) = some (0#32, 0) := by decide +kernel
theorem wit_IssueEvents_clause : (∃ k, mBad.decodeClause 1 0 = .error (.illegal, k)) ∧
    (∃ cl, mUp.decodeClause 1 0 = .ok cl ∧ (∀ f < 12, cl.head.wait.getLsbD f = true → (0 : Nat) = 0 → mUp.deferredAt (mUp.wave 1).crew (.flag 1 f) = none) ∧
      checkAll (cl.instrs.drop (0 - 1)) { mUp with cur := some oneCursor } = none) ∧
    ∃ cl d p, mAdd.decodeClause 1 0 = .ok cl ∧ checkAll (cl.instrs.drop (0 - 1)) { mAdd with cur := some oneCursor } = some (d, p) :=
  ⟨⟨_, rfl⟩, ⟨_, rfl, by decide +kernel, rfl⟩, _, _, _, rfl, rfl⟩
theorem wit_IssueEvents_check : ∃ m, Instr.nop.sem = some m ∧ m.fault mp = none ∧ m.unknown mp = false ∧ m.faultBehind Doubt.nil mp = none :=
  ⟨_, rfl, rfl, rfl, rfl⟩
theorem wit_IssueEvents_unknown : ∃ m, (Instr.launch (x 8 4 0 0 z)).sem = some m ∧ m.fault mFar = none ∧ m.unknown mFar = true :=
  ⟨_, rfl, by decide +kernel, by decide +kernel⟩
theorem wit_IssueEvents_waits : ∃ m, (Instr.stl (g0 4 3 0x20)).sem = some m ∧ m.fault (pinned mp) = none ∧ m.unknown (pinned mp) = false ∧
    (m.wait (pinned mp)).isGo = false ∧ m.faultBehind Doubt.nil (pinned mp) = none := ⟨_, rfl, rfl, rfl, by decide +kernel, rfl⟩
theorem wit_IssueEvents_behind : ∃ m p, (Instr.add (g0 2 3 4)).sem = some m ∧ m.faultBehind Doubt.nil (withV 4 1 .f32 mp) = some p := ⟨_, _, rfl, rfl⟩
/-- A clause of four instructions. Behind a LAUNCH, whether a TRAP on its status is executed is not known; a TRAP of every fibre is met at the check step, whatever the
value it reports (R58, R59). -/
def mFour : State := { mFar with cur := some { oneCursor with count := 4 } }
theorem test_check_unknown : checkAll [.launch (x 8 4 0 0 z), .cmppExt (x 0 8 9 0 ab), .trap (x 0 0 0 200 { z with gen := true })] mFour = none := by
  decide +kernel
theorem test_check_first : (checkAll [.launch (x 8 4 0 0 z), .movWide (x 0 0 0 0x102403 z), .trap (x 0 3 0 0x1C8 z), .add (g0 2 3 20)] mFour).map
    (fun c => c.2.cls) = some .trap := by decide +kernel
-- What TRD reads of a tile that is still pending is not known: a TRAP of the fibres that compare it stops nothing at the check step (R58).
def mPendTile : State := { mFour with waves := (mp.modWave 1 (fun w => w.setTile 0 (fun t => { t with pend := true, tag := .n32 }))).waves }
theorem test_check_tile : checkAll [.trd (x 5 0 0 0 bi), .cmpp (g0 0 5 3), .trap (x 0 0 0 200 { z with gen := true })] mPendTile = none ∧
    (checkAll [.cmpp (g0 0 3 3), .trap (x 0 0 0 200 { z with gen := true })] mPendTile).isSome = true := by decide +kernel
-- Behind the fibre's own queued store a TLD waits, and what it will read is not known: nor what TRD takes from the tile (R58, R112).
def mTileQ : State :=
  { withU 4 0 .raw mFour with
    nextUid := 10,
    accesses := [(5, { op := 5, wave := 1, crew := 1, lane := 0, lanes := 1#32, fibres := [1], flag := none, scope := 3, rel := false, acq := true,
                       what := .atom 0 false 1#64 .n32, addr := .glob 0x400000, ret := none, txns := 1, fault := none }),
                 (6, { op := 6, wave := 1, crew := 1, lane := 0, lanes := 1#32, fibres := [1], flag := none, scope := 4, rel := false, acq := false,
                       what := .store 9#32, addr := .loc 1 0, ret := none, txns := 0, fault := none })] }
def tileClause : List Instr := [.tld (x 0 4 0 1 z), .trd (x 5 0 0 0 bi), .cmpp (g0 0 5 5), .trap (x 0 0 0 200 { z with gen := true })]
theorem test_check_tld : checkAll tileClause mTileQ = none ∧ (checkAll tileClause { mTileQ with accesses := [] }).isSome = true := by decide +kernel
-- A node crew belongs to no gang and may not LAUNCH; one that stops under POLICY 0 leaves the launch STATUS 1 (R26, R207).
theorem test_launch_node : stopped (after (.launch (x 8 4 0 0 z)) (mFar.modGang 1 (fun g => { g with node := some 2 }))) = true ∧
    stopped (after (.launch (x 8 4 0 0 z)) mFar) = false := by decide +kernel
theorem test_node_status : ((after (.trap (x 0 0 0 0xC8 z)) (mp.modGang 1 (fun g => { g with node := some 2 }))).launch 1).status = 1 := by decide +kernel
-- A product of opposite infinities makes a sum NaN, one of equal infinities does not (R81).
theorem test_sum_inf : sumMul (.inf false) (.inf true) = .nan ∧ sumMul (.inf true) (.inf true) = .inf false := by decide
-- A fibre waits at an object that plain stores laid out: an atomic that takes its last arrival away completes the phase (R245).
theorem test_barrier_stores : ((mBar.modWave 1 (fun w => { w with lanes := w.lanes.modify 0 (fun ln =>
      { ln with park := some (.barrier (.loc 1 64) false) }) })).performAt (.loc 1 64) (.atom 7 false 0#64 .n32)).2.barPhase (.loc 1 64) = true := by
  decide +kernel
/-- A load that has been answered. -/
def flight1 : Flight := { op := 2, wave := 1, flag := some 0, txns := 1, lines := [], payload := .regs [.lane 0 5 7#32 .n32], fault := none }
/-- An atomic of the fibre on global word 64. -/
def access1 : Access :=
  { op := 2, wave := 1, crew := 1, lane := 0, lanes := 1#32, fibres := [1], flag := some 0, scope := 3, rel := false, acq := false,
    what := .atom 0 false 1#64 .n32, addr := .glob 64, ret := some 5, txns := 1, fault := none }
def mFly : State :=
  { mUp.modWave 1 (fun w => { w with fences := w.fences.set 0 { gen := 1, busy := true, acq := false, cover := [9] } }) with
    flights := [(2, flight1)], accesses := [(3, access1)] }
theorem wit_LandingEvents : look 2 mFly.flights = some flight1 ∧ flight1.fault = none ∧ flight1.payload = .regs [.lane 0 5 7#32 .n32] ∧
    mFly.awake (mFly.wave flight1.wave).crew = true := by decide +kernel
/-- A scene at shelf offset 0x1000: a cut of one root, whose first child is one triangle in the plane z = 1; rays that hit and miss. -/
def scene (s : State) : State :=
  (((s.storeWords (.phys 0x8000001000) ([0x2000, 0x40000000].map (BitVec.ofNat 32))).storeWords (.phys 0x8000001058) [1#32]).storeWords (.phys 0x8000002000)
    ([0xBF800000, 0xBF800000, 0x3F800000, 0x3F800000, 0x3F800000, 0x3F800000].map (BitVec.ofNat 32))).storeWords (.phys 0x8000002068)
      ([0x3000, 0x40000000, 0x80000000].map (BitVec.ofNat 32)) |>.storeWords (.phys 0x8000003000)
        ([0xBF800000, 0xBF800000, 0x3F800000, 0x3F800000, 0xBF800000, 0x3F800000, 0, 0x3F800000, 0x3F800000, 7].map (BitVec.ofNat 32))
def sceneCut : Dword := 0x4000000000001000#64
def ray (z : Nat) : List Word := [0, 0, 0, 0, 0, z, 0, 0x41200000].map (BitVec.ofNat 32)
def hits (s : State) (ws : List Word) : Option (Option Word) :=
  match s.rayQuery 1 sceneCut ws with
  | .ok h => some (h.map (·.t))
  | .error _ => none
/-- One operation of every kind on its way to landing, and the words 3 and 4 of a query of two hypervectors. -/
def fly (p : Payload) : State := { scene mUp with nextUid := 20, flights := [(2, { flight1 with payload := p })] }
theorem wit_LandingEvents_kinds : (look 2 (fly (.hdist 9 5#32)).flights = some { flight1 with payload := .hdist 9 5#32 }) ∧
    (look 2 (fly (.tile 1 .f32 [])).flights = some { flight1 with payload := .tile 1 .f32 [] }) ∧
    (look 2 (fly (.answer 1 64 1#32 2#32)).flights = some { flight1 with payload := .answer 1 64 1#32 2#32 }) ∧
    (look 2 (fly (.rest 1 64 2#32)).flights = some { flight1 with payload := .rest 1 64 2#32 }) ∧
    (fly (.answer 1 64 1#32 2#32)).awake ((fly (.answer 1 64 1#32 2#32)).wave 1).crew = true := by decide +kernel
-- The two words of an answer land one after the other: between them the slot holds the first alone (R331).
theorem test_answer : word 64 (after (.landing 2) (fly (.answer 1 64 1#32 2#32))) = 1 ∧ word 68 (after (.landing 2) (fly (.answer 1 64 1#32 2#32))) = 0 ∧
    (look 2 (after (.landing 2) (fly (.answer 1 64 1#32 2#32))).flights).map (·.payload) = some (.rest 1 64 2#32) ∧
    word 68 (after (.landing 2) (fly (.rest 1 64 2#32))) = 2 ∧ (after (.landing 2) (fly (.rest 1 64 2#32))).flights = [] := by decide +kernel
theorem wit_LandingEvents_load : ∃ v, (let s := fly (.load 0 5 (.glob 64) .n32)
    s.blocked 2 1 (laneBit 0) [((s.wave 1).lane 0).fibre] (.glob 64) 4 = false ∧ s.behindCore 2 2 (s.wave 1).crew (.glob 64) = false ∧
      s.taskWord? (s.wave 1).crew (.glob 64) = some v) := ⟨_, by decide +kernel, by decide +kernel, rfl⟩
theorem wit_LandingEvents_ray : (fly (.rayq 0 5 sceneCut (ray 0x3F800000))).quiet 1 2 = true ∧ hits (scene mUp) (ray 0x3F800000) = some (some 0x3F800000#32) ∧
    hits (scene mUp) (ray 0xBF800000) = some none := by decide +kernel
theorem wit_LandingEvents_near : (fly (.hnear 8 1#8192 (.shelf 0 0) 2)).quiet 1 2 = true ∧
    (match (fly (.hnear 8 1#8192 (.shelf 0 0) 2)).nearest 1 1#8192 (.shelf 0 0) 0 2 (0xFFFF_FFFF, 8193) with
      | .ok r => r == (0, 1)
      | .error _ => false) = true := by decide +kernel
theorem wit_LandingEvents_turn : (fly (.hnear 8 1#8192 (.shelf 0 0) 2)).recallTurn { flight1 with payload := .hnear 8 1#8192 (.shelf 0 0) 2 } = true ∧
    ({ fly (.hnear 8 1#8192 (.shelf 0 0) 2) with flights := [] } : State).recallTurn { flight1 with payload := .hnear 8 1#8192 (.shelf 0 0) 2 } = false := by
  decide +kernel
theorem wit_LandingEvents_near_miss : (match (fly (.hnear 8 1#8192 (.shelf 0 0x400000) 2)).nearest 1 1#8192 (.shelf 0 0x400000) 0 2 (0xFFFF_FFFF, 8193) with
    | .ok _ => false
    | .error _ => true) = true := by decide +kernel
/-- How a ray stops: at a field that is bad, or at a page that is missing. -/
def rayStop (cut : Dword) : Nat :=
  match (scene mUp).rayQuery 1 cut (ray 0x3F800000) with
  | .ok _ => 0
  | .error (.bad _ _) => 1
  | .error (.miss _) => 2
theorem wit_LandingEvents_ray_stops : rayStop 0x4000000000001010#64 = 1 ∧ rayStop 0x400000#64 = 2 := by decide +kernel
/-- A store of the fibre into a DET region. -/
def mBuffered : State :=
  { (mUp.modLaunch 1 (fun l => { l with desc := { l.desc with det := true }, regions := [{ base := .glob 0, len := 128, det := true, lock := false, sync := .shelf 0 64, snap0 := [], last := none }] })) with
    nextUid := 20, accesses := [(3, { access1 with what := .store 5#32, ret := none })] }
theorem wit_LandingEvents_buffered : mBuffered.accessReady 3 { access1 with what := .store 5#32, ret := none } = true ∧
    mBuffered.buffersAt { access1 with what := .store 5#32, ret := none } = some (0, 64) ∧ mFly.buffersAt access1 = none := by decide +kernel
theorem wit_LandingEvents_fence : (((mFly.wave 1).fences[0]?).getD Fence.idle).busy = true ∧
    ∀ k ∈ (((mFly.wave 1).fences[0]?).getD Fence.idle).cover, look k mFly.accesses = none ∧ look k mFly.flights = none := by decide +kernel
theorem wit_LandingEvents_atomic : ∃ h, look 3 mFly.accesses = some access1 ∧ mFly.accessReady 3 access1 = true ∧
    mFly.home? (mFly.spaceOfCrew 1).1 (mFly.spaceOfCrew 1).2 (.glob 64) = some h ∧
    reaches access1.what 3 (.glob 64) (mFly.targetOf (mFly.spaceOfCrew 1).1 (mFly.spaceOfCrew 1).2 (.glob 64)) = true :=
  ⟨_, rfl, by decide +kernel, rfl, by decide +kernel⟩
/-- Global memory is host memory: an atomic at system scope goes over the host link, and a copy too; partition 3 was served last, or it is. -/
def mHost (last : Nat) : State :=
  let s : State := { mFly with accesses := [(3, { access1 with scope := 4 })], turns := [(.host, last)] }
  s.modPart 0 (fun p => { p with tenants := p.tenants.map (fun t => { t with pages := t.pages.map (fun g =>
    if g.shelfDie == none then { g with target := .host } else g) }) })
theorem wit_LandingEvents_host : (mHost 3).overHost { access1 with scope := 4 } = true ∧ (mHost 3).accessReady 3 { access1 with scope := 4 } = true ∧
    (mHost 3).engineServes .host (fun p => p == 0 || p == 5) = some 5 ∧ mFly.overHost access1 = false ∧
    reaches access1.what 4 (.glob 64) ((mHost 3).targetOf 0 0 (.glob 64)) = true ∧
    ({ mHost 3 with accesses := [] } : State).accessReady 3 { access1 with scope := 4 } = false := by decide +kernel
/-- Two lanes of one atomic on two words of one line (R110, R237). -/
def mTwoAtoms : State := { mFly with accesses := [(3, access1), (4, { access1 with lane := 1, lanes := 2#32, fibres := [2], addr := .glob 68 })] }
theorem wit_LandingEvents_lanes : access1.what.inTurn = true ∧ mTwoAtoms.sameLine 1 (.glob 64) 1 (.glob 68) = true ∧ mTwoAtoms.sent 3 access1 = true ∧
    (look 4 mTwoAtoms.accesses).isSome = true ∧ look 3 mTwoAtoms.accesses = some access1 := by decide +kernel
theorem test_atom_lanes : (after (.atomicPerform 4) mTwoAtoms).accesses.length = 2 ∧
    (after (.atomicPerform 4) (after (.atomicPerform 3) mTwoAtoms)).accesses.length = 0 := by decide +kernel
theorem test_host_turn : (after (.atomicPerform 3) (mHost 3)).turns = [(.host, 0)] ∧ (after (.atomicPerform 3) (mHost 3)).accesses = [] := by decide +kernel
theorem wit_LandingEvents_word : mFly.memoriesWf = true ∧ mFly.barrierAtom (.phys 64) = false ∧
    ({ mFly with barObjs := [.phys 64] } : State).barrierAtom (.phys 64) = true ∧ access1.ret = some 5 := by decide +kernel
-- Table 5.10: MAX of −1 and 1 is 1 under I32 and −1, the greater natural number, under N32; INC of 5 with bound 5 gives 0.
theorem test_atom_max : (mFly.putHomeWord (.phys 64) 0xFFFFFFFF#32 |>.performAt (.phys 64) (.atom 3 false 1#64 .i32)).2.homeWord (.phys 64) = 1#32 ∧
    (mFly.putHomeWord (.phys 64) 0xFFFFFFFF#32 |>.performAt (.phys 64) (.atom 3 false 1#64 .n32)).2.homeWord (.phys 64) = 0xFFFFFFFF#32 := by decide +kernel
theorem test_atom_inc : (mFly.putHomeWord (.phys 64) 5#32 |>.performAt (.phys 64) (.atom 11 false 5#64 .n32)).2.homeWord (.phys 64) = 0#32 := by decide +kernel
/-- A COPYS all of whose elements have landed, with its counter at global 128. -/
def copy2 : Copy := { copy1 with signal := true, left := [], desc := { copy1.desc with ctr := .glob 128, dec := 1#32 } }
def mCopies : State := { mUp with copies := [(2, copy1), (3, copy2)] }
theorem wit_CopyEvents : ∃ u, look 2 mCopies.copies = some copy1 ∧ copy1.susp = none ∧ mCopies.awake copy1.crew = true ∧ 0 < 8 ∧
    8 * copy1.desc.unit ≤ 64 ∧ allLeft copy1.left 0 8 = true ∧
    mCopies.elemGoes 2 copy1 0 = true ∧ mCopies.copyTurn copy1 (mCopies.packetHost copy1 0 8) = true ∧
    (mCopies.copyServed copy1 (mCopies.packetHost copy1 0 8)).moveElems 2 copy1 0 8 0 = (8, none, u) ∧ copy1.desc.cred = none ∧
    (copy1.landed 0 8).left ≠ [] :=
  ⟨_, by decide +kernel, by decide +kernel, by decide +kernel, by decide, by decide +kernel, by decide +kernel, by decide +kernel, by decide +kernel, rfl,
    by decide +kernel, by decide +kernel⟩
/-- Why a packet stops, as a number. -/
def stopNo (r : Nat × Option ElemStop × State) : Nat × Nat :=
  (r.1, match r.2.1 with | none => 0 | some .held => 1 | some (.miss _) => 2 | some .late => 3 | some (.fatal _) => 4)
def packetOk (c : Copy) (n : Nat) (s : State) : Prop :=
  c.susp = none ∧ ({ s with copies := [(2, c)] } : State).awake c.crew = true ∧ n * c.desc.unit ≤ 64 ∧ allLeft c.left 0 n = true ∧
    ({ s with copies := [(2, c)] } : State).elemGoes 2 c 0 = true ∧ 
    ({ s with copies := [(2, c)] } : State).copyTurn c (({ s with copies := [(2, c)] } : State).packetHost c 0 n) = true
/-- The last packet of a copy that credits a barrier; one held at its ninth element; one whose page is missing; one whose offsets are bad; one
whose port is down. -/
def copyBar : Copy := { copy1 with desc := { copy1.desc with cred := some (.loc 1 128) } }
def copyHeld1 : Copy := { copy1 with desc := { copy1.desc with dst := .shelf 0 312 }, wants := [(0, 5)] }
def copyMiss : Copy := { copy1 with desc := { copy1.desc with dst := .shelf 0 0x400000 } }
def copyLate : Copy := { copy1 with desc := { copy1.desc with form := 2, rows := .loc 1 512 } }
def copyDown : Copy := { copy1 with signal := true, desc := { copy1.desc with dst := .peer 256, tgt := 2, port := 2 } }
def mOffsets : State := { poke mUp [(512, 9), (516, 1)] with portsDown := [2] }
theorem wit_CopyEvents_last : packetOk copyBar 16 mUp ∧ stopNo (mCopies.moveElems 2 copyBar 0 16 0) = (16, 0) ∧ (copyBar.landed 0 16).left = [] := by
  unfold packetOk; decide +kernel
theorem wit_CopyEvents_held : packetOk copyHeld1 16 mUp ∧ stopNo (mCopies.moveElems 2 copyHeld1 0 16 0) = (8, 1) ∧
    ({ mUp with copies := [(2, { copyHeld1 with claims := [], wants := [(0, 4)] })] } : State).elemGoes 2 { copyHeld1 with claims := [], wants := [(0, 4)] } 0 = false := by unfold packetOk; decide +kernel
theorem wit_CopyEvents_miss : packetOk copyMiss 4 mUp ∧ stopNo (mCopies.moveElems 2 copyMiss 0 4 0) = (0, 2) := by unfold packetOk; decide +kernel
theorem wit_CopyEvents_late : packetOk copyLate 4 mOffsets ∧ stopNo (mOffsets.moveElems 2 copyLate 0 4 0) = (0, 3) := by unfold packetOk; decide +kernel
theorem wit_CopyEvents_fatal : packetOk copyDown 4 mOffsets ∧ stopNo (mOffsets.moveElems 2 copyDown 0 4 0) = (0, 4) := by unfold packetOk; decide +kernel
/-- A copy of local memory to host memory takes the turn there; one whose partition has not the turn at its engine does not. -/
def copyHost : Copy := { copy1 with claims := [], desc := { copy1.desc with dst := .glob 256 } }
theorem wit_CopyEvents_host : (let s : State := { mHost 3 with copies := [(2, copyHost)], accesses := [] }
    s.packetHost copyHost 0 4 = true ∧ s.copyTurn copyHost true = true) ∧ ({ mUp with copies := [] } : State).copyTurn copyHost false = false := by
  decide +kernel
theorem test_copy_host : (let s : State := { mHost 3 with copies := [(2, copyHost)], accesses := [] }
    (after (.copyPacket 2 0 4) s).turns.contains (.host, 0) = true) ∧ (after (.copyPacket 2 0 4) { mUp with copies := [(2, copyHost)] }).turns = [(.copies 0, 0)] := by
  decide +kernel
/-- The signals of copies out of port 2: it is up, or down. -/
def copyOut : Copy := { copy2 with desc := { copy2.desc with ctr := .peer 128, tgt := 2, port := 2 } }
theorem wit_CopyEvents_peer : (copyOut.signal = true ∧ copyOut.left = [] ∧ copyOut.sent = [] ∧ copyOut.asked = false) ∧
    mUp.copyUnreached copyOut copyOut.desc.ctr = false ∧ copyOut.desc.ctr = .peer 128 ∧ mOffsets.copyUnreached copyOut copyOut.desc.ctr = true := by
  decide +kernel
theorem wit_CopyEvents_signal : ∃ h, look 3 mCopies.copies = some copy2 ∧ copy2.signal = true ∧ copy2.left = [] ∧ copy2.susp = none ∧
    mCopies.awake copy2.crew = true ∧ mCopies.copyUnreached copy2 copy2.desc.ctr = false ∧ copy2.desc.ctr = .glob 128 ∧
    mCopies.copyTurn copy2 (mCopies.inHost copy2.crew copy2.desc.ctr) = true ∧
    mCopies.home? (mCopies.spaceOfCrew copy2.crew).1 (mCopies.spaceOfCrew copy2.crew).2 (.glob 128) = some h :=
  ⟨_, by decide +kernel, by decide +kernel, by decide +kernel, by decide +kernel, by decide +kernel, by decide +kernel, by decide +kernel,
    by decide +kernel, rfl⟩
/-- A copy of host memory out of port 2: its partition has the turn at the host link, or partition 3 was not served there yet. -/
def copyHostOut : Copy := { copyOut with left := [{ base := 0, len := 16 }], desc := { copyOut.desc with src := .glob 256, dst := .peer 256 } }
theorem wit_CopyEvents_links : (let s : State := { mHost 3 with copies := [(2, copyHostOut)], accesses := [] }
    s.elemHost copyHostOut 0 = true ∧ copyHostOut.toPeer = true ∧ s.copyTurn copyHostOut true = true) ∧
    (let s : State := { mHost 3 with copies := [(2, copyOut), (3, copyHostOut)], accesses := [], turns := [] }
     s.hostTurn copyOut.crew = true ∧ s.copyMay 2 copyOut = true) ∧
    (let s : State := { mUp with copies := [(2, copyOut)] }
     s.copyMay 2 copyOut = true ∧ s.hostTurn copyOut.crew = false) := by decide +kernel
-- The offsets of a ragged copy in host memory are read over the host link (R100, R210).
theorem test_rows_host : (mHost 3).elemHost { copyLate with desc := { copyLate.desc with rows := .glob 256 } } 0 = true ∧
    (mHost 3).elemHost copyLate 0 = false := by decide +kernel
/-- A counter in shelf, and one whose page is not there. -/
theorem wit_CopyEvents_signal_shelf : ∃ h, mUp.home? 0 0 (.shelf 0 128) = some h ∧ mUp.copyUnreached { copy2 with desc := { copy2.desc with ctr := .shelf 0 128 } } (.shelf 0 128) = false ∧
    mUp.home? 0 0 (.glob 0x400000) = none := ⟨_, rfl, by decide +kernel, by decide +kernel⟩
/-- Counters that pass zero and that do not, with a slot bound to one. -/
theorem wit_CopyEvents_counter : (mUp.boundSlots 0 0 (.phys 128) = [] ∧ mUp.memoriesWf = true) ∧
    ¬ (0 < (mUp.homeDword (.phys 128)).toInt ∧ (mUp.homeDword (.phys 128) - (1#32).setWidth 64).toInt ≤ 0) := by decide +kernel
-- Of partitions 3 and 5 with work ready, the one after the last served is taken (R210).
theorem test_turns : ({ mUp with turns := [(.copies 0, 3)] } : State).engineServes (.copies 0) (fun p => p == 3 || p == 5) = some 5 ∧
    ({ mUp with turns := [(.copies 0, 5)] } : State).engineServes (.copies 0) (fun p => p == 3 || p == 5) = some 3 := by decide +kernel
/-- An open translation fault. -/
def tfault1 : TFault := { part := 0, tenant := 0, addr := .glob 0x400000, fatal := false }
def mFault : State := { mFly with tfaults := [(7, tfault1)], copies := [(4, copy1)] }
theorem wit_TranslationEvents : look 7 mFault.tfaults = some tfault1 ∧ tfault1.fatal = false ∧ (∀ e ∈ mFault.accesses, e.2.fault ≠ some 7) ∧
    (∀ e ∈ mFault.flights, e.2.fault ≠ some 7) ∧ ∀ e ∈ mFault.views, e.2.fault ≠ some 7 := by decide +kernel
theorem wit_TranslationEvents_copies : ∀ e ∈ mFault.copies, ∀ n, e.2.susp ≠ some (n, 7) := by
  intro e he n
  rw [show mFault.copies = [(4, copy1)] from rfl, List.mem_singleton] at he
  subst he
  exact fun h => nomatch h
/-- The fault holds one access, one load, one copy or one view. -/
def mHeldA : State := { mUp with tfaults := [(7, tfault1)], accesses := [(3, { access1 with fault := some 7 })] }
def loadHeld : Flight := { flight1 with payload := .load 0 5 (.glob 0x400000) .n32, fault := some 7 }
def mHeldF : State := { mUp with tfaults := [(7, tfault1)], flights := [(3, loadHeld)] }
def mHeldC : State := { mUp with tfaults := [(7, tfault1)], copies := [(3, { copy1 with susp := some (0, 7) })] }
def mHeldV : State := { mUp with tfaults := [(7, tfault1)], views := [(3, { view1 with fault := some 7 })] }
/-- It holds two accesses, a load, a ray and a query at once; and nothing. -/
def mHeldAll : State :=
  { mUp with
    nextUid := 20, tfaults := [(7, tfault1)],
    accesses := [(3, { access1 with fault := some 7 }), (4, { access1 with what := .bar (.credit 4), ret := none, flag := none, fault := some 7 })],
    flights := [(5, loadHeld), (6, { loadHeld with payload := .rayq 0 5 sceneCut (ray 0) }), (8, { loadHeld with payload := .hnear 8 1#8192 (.shelf 0 0) 2 })] }
theorem wit_TranslationEvents_fatal : mHeldAll.faultHolds 7 = true ∧ mHeldA.faultHolds 7 = true ∧ mHeldF.faultHolds 7 = true ∧
    mHeldC.faultHolds 7 = true ∧ mHeldV.faultHolds 7 = true ∧ mFault.faultHolds 7 = false ∧ loadHeld.payload = .load 0 5 (.glob 0x400000) .n32 ∧ loadHeld.flag = some 0 ∧
    (mHeldAll.accesses.filter (fun e => e.2.fault == some 7)).length = 2 ∧ (mHeldAll.flights.filter (fun e => e.2.fault == some 7)).length = 3 := by
  decide +kernel
-- The credit's fault waits for the barrier; every other waits for its flag; the query's error result is on its way (R108, R179).
theorem test_fatal_all : (after (.faultDeclaredFatal 7) mHeldAll).deferred.map (·.till) =
      [[.flag 1 0], [.object (.glob 64)], [.flag 1 0], [.flag 1 0], [.flag 1 0]] ∧
    (look 8 (after (.faultDeclaredFatal 7) mHeldAll).flights).map (·.payload) = some (.regs [.uni 8 0xFFFFFFFE#32 .n32, .uni 9 8194#32 .n32]) := by
  decide +kernel
/-- Two pages of 64 KiB that meet no page of the tenant. -/
def newPages : List PageSpec :=
  [{ shelfDie := none, base := 0x400000, size := 0x10000, target := .hbm, phys := 0x400000, dirty := false },
   { shelfDie := none, base := 0x410000, size := 0x10000, target := .hbm, phys := 0x410000, dirty := false }]
theorem wit_TranslationEvents_pages : newPages.all Page.ok = true ∧ (tenant0.pages ++ newPages).Pairwise (fun p q => Page.meets q p = false) := by
  decide +kernel
/-- A command message (Table 11.1): KIND, SLOT, FIRES, TAG, DESC, CTR, RELOAD; ARM of slot 5 with descriptor at global 4096. -/
def flit (kind slot tag desc ctr : Nat) : Flit := BitVec.ofNat 512 (kind + 2 ^ 8 * slot + 2 ^ 32 * tag + 2 ^ 64 * desc + 2 ^ 128 * ctr)
def armMsg : Flit := flit 1 5 3 4096 0
def mArmed : State := mUp.modSlot 0 5 (fun s => s.bind armMsg)
theorem wit_MessageEvents : mUp.takesMessages 0 0 = true ∧ msgKind armMsg = 1 ∧ msgKind (flit 2 5 0 0 0) = 2 ∧ msgKind (flit 3 5 0 0 0) = 3 := by
  decide +kernel
/-- A message at the head of the queue. -/
def mMsg (m : Flit) : State := mUp.modPart 0 (fun p => { p with queue := [m] })
theorem wit_MessageEvents_arm : (mMsg armMsg).takesMessages 0 0 = true ∧ ((mMsg armMsg).part 0).queue = armMsg :: [] ∧ msgReserved armMsg = false ∧
    ctrUsable (msgCtr armMsg) = true ∧ msgDesc armMsg ≠ 0#64 ∧ msgDesc (flit 1 5 0 0 0) = 0#64 ∧ msgReserved (flit 1 5 0 0 0) = false ∧
    ctrUsable (msgCtr (flit 1 5 0 0 4)) = false ∧ msgReserved (flit 1 5 0 0 4) = false ∧ msgReserved (armMsg ||| 1#512 <<< 300) = true ∧
    msgKind (armMsg ||| 1#512 <<< 300) = 1 := by decide +kernel
def mFire (m : Flit) : State := mArmed.modPart 0 (fun p => { p with queue := [m] })
theorem wit_MessageEvents_fire : (mFire (flit 2 5 0 0 0)).takesMessages 0 0 = true ∧ msgReserved (flit 2 5 0 0 0) = false ∧ msgSlot (flit 2 5 0 0 0) = 5 ∧
    (((mFire (flit 2 5 0 0 0)).part 0).slot 5).armed = true ∧ (((mFire (flit 2 5 0 0 0)).part 0).slot 5).waiting.length < 16 ∧
    (((mFire (flit 2 6 0 0 0)).part 0).slot 6).armed = false ∧ msgReserved (flit 2 5 1 0 0) = true ∧
    16 ≤ (((mArmed.modSlot 0 5 (fun s => { s with waiting := List.replicate 16 { desc := 0#64, tag := 0#32, num := 1 } })).part 0).slot 5).waiting.length := by
  decide +kernel
/-- Port 2 is bound to partition 0, and copies go out of it. -/
def copy3 : Copy := { copy1 with signal := true, left := [], sent := [{ base := 0, len := 16 }], desc := { copy1.desc with dst := .peer 256, tgt := 2, port := 2 } }
def mPeer : State := { mArmed with portPart := [(2, 0)], copies := [(4, copy3), (5, { copy3 with sent := [], asked := true })] }
theorem wit_MessageEvents_peer : ∃ h hs, mPeer.up = true ∧ mPeer.halted = false ∧ mPeer.portsDown.contains 2 = false ∧ look 2 mPeer.portPart = some 0 ∧
    mPeer.homes? 0 (mPeer.part 0).owner (.glob 128) 8 = some (h :: hs) := ⟨_, _, rfl, rfl, by decide +kernel, rfl, rfl⟩
theorem wit_MessageEvents_peer_data : ∃ hs, mPeer.homes? 0 (mPeer.part 0).owner (.glob 128) [1#8, 2#8].length = some hs ∧
    mPeer.homes? 0 (mPeer.part 0).owner (.glob 0x400000) 8 = none ∧ mPeer.homes? 0 (mPeer.part 0).owner (.glob 0x400000) [1#8, 2#8].length = none :=
  ⟨_, rfl, by decide +kernel, by decide +kernel⟩
theorem wit_MessageEvents_peer_answer : look 4 mPeer.copies = some copy3 ∧ copy3.toPeer = true ∧ copy3.desc.port = 2 ∧ (0 : Nat) < 8 ∧
    allLeft copy3.sent 0 8 = true ∧ look 5 mPeer.copies = some { copy3 with sent := [], asked := true } := by decide +kernel
/-- Slot 5 has fired; its descriptor, at global 4096, asks for one gang of one crew of one fibre at word 0. -/
def mFired : State :=
  let s := (mArmed.modSlot 0 5 Slot.fire).storeWords (.phys 4096)
    ([0x0, 0x0, 0x0, 0x10000, 0x10001, 0x101, 0x1, 0x20] |>.map (BitVec.ofNat 32))
  s.modPart 0 (fun p => { p with
    objects := [[{ base := 0, len := 16 }]],
    quota := { p.quota with clusters := p.quota.clusters.modify 0 (fun c => { c with
      front := List.replicate 6 { crewSlots := { base := 0, len := 4 }, rows := { base := 0, len := 64 }, lmem := { base := 0, len := 64 } } }) } })
def firing1 : Firing := { desc := 4096#64, tag := 3#32, num := 1 }
theorem accepted_of (a : Accepted) (h : (match a with | .accepted _ _ => true | _ => false) = true) : ∃ i u, a = .accepted i u := by
  cases a with
  | accepted i u => exact ⟨i, u, rfl⟩
  | waiting | unreadable | rejected => exact absurd h Bool.false_ne_true
def asker1 : Asker :=
  { part := 0, tenant := 0, level := 1, da := firing1.desc, place := farAt firing1.desc launchBytes 16, tag := firing1.tag, firing := firing1.num,
    parent := none, pref := [] }
/-- How an acceptance ends: 0 accepted, 1 rejected, 2 unreadable, 3 waiting. -/
def endOf : Accepted → Nat
  | .accepted _ _ => 0
  | .rejected _ _ => 1
  | .unreadable _ => 2
  | .waiting _ => 3
/-- A LAUNCH of the fibre waits for its status; what it asks with a descriptor at an address. -/
def lreq1 (da : Nat) : LaunchReq :=
  { wave := 1, crew := 1, lanes := 1#32, d := 8, desc := BitVec.ofNat 64 da, local_ := farAt (BitVec.ofNat 64 da) launchBytes 16 }
def mAsks (da : Nat) : State := { mFired with lreqs := [(3, lreq1 da)] }
def asker2 (s : State) (r : LaunchReq) : Asker :=
  { part := 0, tenant := 0, level := (s.launch 1).level + 1, da := r.desc, place := r.local_, tag := 0#32, firing := 0, parent := some 1,
    pref := taskPath (s.crew 1) (s.gang 1) (s.launch 1) }
/-- The page at global 0x400000 is missing; or its fault has been declared fatal. -/
def mFatal : State := { mAsks 0x400000 with tfaults := [(7, { tfault1 with fatal := true })] }
theorem wit_LaunchResult_acceptance : (look 3 (mAsks 4096).lreqs = some (lreq1 4096) ∧ (mAsks 4096).quietLanes 1 1#32 = true ∧ (mAsks 4096).awake 1 = true) ∧
    endOf ((mAsks 4096).acceptance (asker2 (mAsks 4096) (lreq1 4096))) = 0 ∧ endOf ((mAsks 8192).acceptance (asker2 (mAsks 8192) (lreq1 8192))) = 1 ∧
    endOf (mFatal.acceptance (asker2 mFatal (lreq1 0x400000))) = 2 ∧
    endOf ((mAsks 0x400000).acceptance (asker2 (mAsks 0x400000) (lreq1 0x400000))) = 3 := by decide +kernel
/-- The descriptor asks for no crew, and its region table stands on a page whose fault was declared fatal: what was read comes first (R275). -/
def mUnread : State :=
  { ((mAsks 4096).storeWords (.phys (4096 + 20)) [0#32]).storeWords (.phys (4096 + 64)) ([0x400000, 0, 1].map (BitVec.ofNat 32)) with
    tfaults := [(7, { tfault1 with fatal := true })] }
def descOf (s : State) : List Word := (s.readWords? 0 0 (.glob 4096) 64).getD []
theorem wit_LaunchResult_unread : (∃ qok, mUnread.faultqOk 0 0 (dwordAt (descOf mUnread) 104) = .ok qok) ∧
    mUnread.signalMiss 0 0 (dwordAt (descOf mUnread) 120) = none ∧ (mUnread.readWords? 0 0 (.glob 4096) 64).isSome = true ∧
    (∃ off a, mUnread.readBlocks 0 0 (descOf mUnread) = .error (.unread off a)) ∧ mUnread.descBad 0 (descOf mUnread) true = some 20 :=
  ⟨⟨_, rfl⟩, by decide +kernel, by decide +kernel, ⟨_, _, rfl⟩, by decide +kernel⟩
/-- It asks for no crew and names a payload of 4 bytes, at global 128, for global 256: the payload is copied, and the launch rejected. -/
def mPayload : State :=
  ((((mAsks 4096).storeWords (.phys (4096 + 20)) [0#32]).storeWords (.phys (4096 + 136)) ([128, 0, 256, 0, 4].map (BitVec.ofNat 32)))).storeWords
    (.phys 128) [77#32]
theorem wit_LaunchResult_payload : ∃ b u, mPayload.readBlocks 0 0 (descOf mPayload) = .ok b ∧ mPayload.copyPayload 0 0 (descOf mPayload) = .ok u ∧
    u.plan 0 0 4096#64 (descOf mPayload) true b = .error (.reject 20 4096#64) :=
  ⟨_, _, rfl, rfl, rfl⟩
theorem test_launch_reads_first : ((after (.launchAcceptance (.device 3)) mUnread).crew 1).uni 8 = Reg.done 3#32 .n32 ∧
    ((after (.launchAcceptance (.device 3)) mPayload).crew 1).uni 8 = Reg.done 2#32 .n32 ∧
    (after (.launchAcceptance (.device 3)) mPayload).readWords? 0 0 (.glob 256) 1 = some [77#32] := by decide +kernel
theorem wit_LaunchEvents : ∃ ident u, mFired.takesMessages 0 5 = true ∧ (mFired.part 0).ebb = none ∧ (mFired.part 0).resident = some 0 ∧
    ((mFired.part 0).slot 5).waiting = [firing1] ∧ mFired.acceptance asker1 = .accepted ident u := by
  obtain ⟨i, u, h⟩ := accepted_of (mFired.acceptance asker1) (by decide +kernel)
  exact ⟨i, u, by decide +kernel, by decide +kernel, by decide +kernel, by decide +kernel, h⟩
theorem wit_LaunchEvents_retire : (mUp.modGang 1 (fun g => { g with phase := .retired })).launchDone 1 = true ∧
    mUp.signalMiss (mUp.launch 1).part (mUp.launch 1).tenant (mUp.launch 1).desc.done = none := by decide +kernel
theorem wit_LaunchEvents_stop : (mUp.launch 1).phase = .running := by decide +kernel
/-- A DET region of 64 bytes of shelf, whose barrier stands at shelf offset 64 and is in slack water. -/
def region1 : Region := { base := .shelf 0 0, len := 64, det := true, lock := false, sync := .shelf 0 64, snap0 := [], last := none }
def detBar1 : DetBar := { pa := 0x8000000040, regions := [0], slack := true, arrived := [], held := [] }
def mDet : State :=
  (mUp.modLaunch 1 (fun l => { l with desc := { l.desc with det := true }, regions := [region1], detBars := [detBar1] })).modCrew 1 (fun c => { c with
    wbuf := [.red 0 8 0 false 5#64 .n32 0 0] })
theorem wit_LaunchEvents_merge : ∃ gangs u, mDet.detBarsOf (.phys 0x8000000040) = [(1, detBar1)] ∧ detBar1.slack = true ∧
    mDet.mergeWants 1 (mDet.barRegions 1 detBar1) = none ∧ mDet.mergeLaunches (mDet.detBarsOf (.phys 0x8000000040)) = (gangs, u) :=
  ⟨_, _, by decide +kernel, rfl, by decide +kernel, Prod.ext rfl rfl⟩
/-- The same object, in slack water and before it: objects of BarrierResult that are bound to DET regions. -/
def mDetOpen : State := mDet.modLaunch 1 (fun l => { l with detBars := [{ detBar1 with slack := false }] })
theorem wit_BarrierResult_bound : (mDet.detBarsOf (.phys 0x8000000040) = (1, detBar1) :: [] ∧ mDet.inSlack (.phys 0x8000000040) = true) ∧
    mDetOpen.memoriesWf = true ∧ mDetOpen.detBarsOf (.phys 0x8000000040) ≠ [] ∧ mDetOpen.inSlack (.phys 0x8000000040) = false := by decide +kernel
theorem wit_LaunchEvents_merge_one : ∃ u,
    mDet.mergeAll 1 (State.mergers 1) ((mDet.launch 1).pick (fun i r => r.det && detBar1.regions.contains i)) = (false, u) :=
  ⟨_, Prod.ext (by decide +kernel) rfl⟩
/-- The task has ended with an entry in its buffer. -/
def mEnded : State :=
  ((mDet.modLaunch 1 (fun l => { l with detBars := [] })).modCrew 1 (fun c => { c with ended := true })).modGang 1 (fun g => { g with phase := .finished })
theorem wit_LaunchEvents_final : ∃ u,
    (let l := mEnded.launch 1
     let mine := mEnded.crews.filter (fun e => (mEnded.gang e.2.gang).launch == 1 && e.2.ended)
     let rs := l.pick (fun _ r => r.det)
     let t : State := { mEnded with crews := mEnded.crews.map (fun e =>
       if (mEnded.gang e.2.gang).launch == 1 && e.2.ended then (e.1, e.2.seal (mEnded.owedCharges e.1) (rs.map (·.1))) else e) }
     l.phase ≠ .retired ∧ mEnded.onPart 1 = true ∧ l.detBars.any (·.slack) = false ∧ mEnded.copiesOf 1 = false ∧ mEnded.buffering 1 = false ∧
     (mEnded.gangs.filter (fun e => e.2.launch == 1 && e.2.node.isNone)).all (fun e => e.2.over) = true ∧
     mine.all (fun e => e.2.wbuf.isEmpty && e.2.sealed.isEmpty) = false ∧ t.mergeWants 1 rs = none ∧
     t.mergeAll 1 (State.mergers 1) rs = (false, u)) :=
  ⟨_, by decide +kernel, by decide +kernel, by decide +kernel, by decide +kernel, by decide +kernel, by decide +kernel, by decide +kernel,
    by decide +kernel, Prod.ext (by decide +kernel) rfl⟩
/-- Two copies of the ended task lie on one byte (R129). -/
def mClash : State := mEnded.modCrew 1 (fun c => { c with wbuf := [.byte 0 8 1#8 (some 2), .byte 0 8 2#8 (some 3)] })
theorem wit_LaunchEvents_conflict : ∃ u,
    (let l := mClash.launch 1
     let rs := l.pick (fun _ r => r.det)
     let t : State := { mClash with crews := mClash.crews.map (fun e =>
       if (mClash.gang e.2.gang).launch == 1 && e.2.ended then (e.1, e.2.seal (mClash.owedCharges e.1) (rs.map (·.1))) else e) }
     mClash.buffering 1 = false ∧ t.mergeWants 1 rs = none ∧ t.conflict 0 [1] = some (8, 1, 1) ∧
     t.mergeAll 1 (State.mergers 1) rs = (true, u)) :=
  ⟨_, by decide +kernel, by decide +kernel, by decide +kernel, Prod.ext (by decide +kernel) rfl⟩
theorem test_final_conflict : ((after (.finalMerge 1) mClash).launch 1).status = 1 ∧ ((after (.finalMerge 1) mClash).crew 1).wbuf = [] ∧
    (after (.finalMerge 1) mClash).readHome (.phys 0x8000000008) = 0#8 := by decide +kernel
/-- A gang waits in the queue of cluster 0. -/
def mQueue : State := { mFired with gangs := mFired.gangs ++ [(4, { oneGang with phase := .waiting, cluster := some 0 })] }
theorem wit_GangEvents : ∃ i, mQueue.queueHead 0 0 = some 4 ∧ (mQueue.launch (mQueue.gang 4).launch).unit = false ∧
    (mQueue.launch (mQueue.gang 4).launch).desc.fixed = false ∧ (List.range 16).find? (fun i => mQueue.fitsAt 4 0 i) = some i :=
  ⟨0, by decide +kernel, by decide +kernel, by decide +kernel, by decide +kernel⟩
/-- A gang of partition 1 waits in the same queue behind it (R34). -/
def mQueue2 : State :=
  let s : State := { mQueue with
    launches := mQueue.launches ++ [(6, { mQueue.launch 1 with part := 1 })],
    gangs := mQueue.gangs ++ [(7, { oneGang with launch := 6, phase := .waiting, cluster := some 0 })] }
  s.modPart 1 (fun p => { p with resident := some 0, configured := true, quota := (s.part 0).quota })
theorem test_one_queue : mQueue2.queueHead 0 0 = some 4 ∧ mQueue2.queueHead 1 0 = none ∧
    ({ mQueue2 with gangs := mQueue2.gangs.filter (fun e => e.1 != 4) } : State).queueHead 1 0 = some 7 := by decide +kernel
/-- Gangs with a fixed start core, and of a launch placed as one unit. -/
def mFixed : State := mQueue.modLaunch 1 (fun l => { l with desc := { l.desc with det := true } })
def mUnit : State := mQueue.modLaunch 1 (fun l => { l with unit := true })
/-- No core has a crew slot. -/
def noSlots (s : State) : State := s.modPart 0 (fun p => { p with
  quota := { p.quota with clusters := p.quota.clusters.map (fun c => { c with front := [], back := { c.back with crewSlots := Range.nil } }) } })
theorem wit_GangEvents_fixed : (mFixed.queueHead 0 0 = some 4 ∧ (mFixed.launch (mFixed.gang 4).launch).unit = false ∧
      (mFixed.launch (mFixed.gang 4).launch).desc.fixed = true ∧ mFixed.fitsAt 4 0 ((mFixed.gang 4).start % 16) = true ∧
      (mFixed.launch (mFixed.gang 4).launch).desc.mcast = false) ∧
    (noSlots mFixed).queueHead 0 0 = some 4 ∧ (noSlots mFixed).fitsAt 4 0 (((noSlots mFixed).gang 4).start % 16) = false := by decide +kernel
theorem wit_GangEvents_unit : ∃ t, (mUnit.queueHead 0 0 = some 4 ∧ (mUnit.launch (mUnit.gang 4).launch).unit = true ∧ mUnit.usableClusters 0 = [0]) ∧
    mUnit.placeAll 0 (mUnit.waitingOf (mUnit.gang 4).launch) = some t := ⟨_, by decide +kernel, rfl⟩
theorem wit_GangEvents_unit_waits : (noSlots mUnit).queueHead 0 0 = some 4 ∧ ((noSlots mUnit).launch ((noSlots mUnit).gang 4).launch).unit = true ∧
    ((noSlots mUnit).placeAll 0 ((noSlots mUnit).waitingOf ((noSlots mUnit).gang 4).launch)).isNone = true := by decide +kernel
/-- An ordinary node with a record of view level 1, and a reserved crew slot of that level on core 0. -/
def record1 : Record := { words := [1#32, 2#32, 3#32, 4#32], producer := 0, order := [], seq := 0, lin := 0, cluster := 0, vlevel := 1 }
def node3 : Node := { node2 with keyed := false, kregs := 0, ctxs := [], queue := [record1] }
def mNodeQ : State :=
  let s : State := { mFired with nodes := [(3, node3)] }
  s.modPart 0 (fun p => { p with quota := { p.quota with clusters := p.quota.clusters.modify 0 (fun c => { c with reserved := [(1, 0)], keyed := { base := 0, len := 4 } }) } })
theorem wit_GangEvents_node : look 3 mNodeQ.nodes = some node3 ∧ node3.opened = true ∧ mNodeQ.resides node3.launch = true ∧ clusterOfCore 0 = 0 ∧
    (node3.home = 16 ∨ node3.home = 0) ∧ (mNodeQ.nodeNeed 3 0 node3).find? (mNodeQ.nodeCrewFits node3 0 0) = some 1 ∧
    mNodeQ.reservedFree node3.part 0 1 node3.shape = true := by decide +kernel
theorem wit_GangEvents_slots : (∃ i < 16, mNodeQ.reservedFree node3.part (16 * 0 + i) 1 node3.shape = true) ∧
    ∀ i < 16, mQueue.reservedFree node3.part (16 * 0 + i) 1 node3.shape = false := ⟨⟨0, by decide +kernel⟩, by decide +kernel⟩
theorem wit_GangEvents_retire : (mUp.modGang 1 (fun g => { g with phase := .finished })).gangDone 1 = true ∧ (mUp.gang 1).node = none := by decide +kernel
/-- A matrix command, a product and views in progress. -/
def cmd1 : MatCmd :=
  { gang := 1, crew := 1, wave := 1, part := 0, pair := 0, batch := 0#32, opA := { crew := 1, off := 0, tag := .e4m3x4, outer := false, rows := 16, scale := none },
    opB := { crew := 1, off := 1024, tag := .e4m3x4, outer := false, rows := 16, scale := none }, k := 32, zero := true, row := 0 }
def smv1 : Smv :=
  { crew := 1, wave := 1, wtag := .e4m3x4, xtag := .f16x2, rows := 2, k := 32, wbase := 0, wstride := 1024, scale := none, stack := 0, xcrew := 1, xoff := 256,
    ycrew := 1, yoff := 512, bar := .loc 1 128, left := [{ base := 0, len := 2 }] }
/-- A camera at shelf offset 0 and a cut of no roots at offset 128. -/
def mUnits : State :=
  let s : State := { mUp with cmds := [(2, cmd1)], smvs := [(3, smv1)], views := [(4, view1), (5, { view1 with traced := true })] }
  (s.storeWords (.phys 0x8000000030) [0x3F800000#32, 0x3F800000#32]).modPart 0 (fun p => { p with
    tenants := p.tenants.map (fun t => { t with pages := t.pages.map (fun g => if g.shelfDie == none then { g with target := .stack 0 } else g) }) })
theorem wit_UnitEvents : mUnits.cmds.find? (fun e => e.2.pair == 0 && e.2.part == 0) = some (2, cmd1) := by decide +kernel
theorem wit_UnitEvents_serves : mUnits.pairServes 0 = some 0 ∧ mUnits.pairServes 0 ≠ some 1 := by decide +kernel
/-- The other packet of the product is its last; a row in a page that is not there. -/
def smvFar : Smv := { smv1 with wbase := 0x400000 }
theorem wit_UnitEvents_product_end : allLeft smv1.left 0 2 = true ∧ takeRange 0 2 smv1.left = [] ∧
    ((List.range 1).map (· + 0)).findSome? (mUnits.smvMiss smvFar) = some (.glob 0x400000) := by decide +kernel
theorem wit_UnitEvents_product : look 3 mUnits.smvs = some smv1 ∧ (0 : Nat) < 1 ∧ (1 : Nat) ≤ 16 ∧ allLeft smv1.left 0 1 = true ∧ mUnits.quiet smv1.wave 3 = true ∧
    (∀ r ∈ (List.range 1).map (· + 0), mUnits.smvMiss smv1 r = none) ∧ takeRange 0 1 smv1.left ≠ [] := by decide +kernel
theorem wit_UnitEvents_product_turn : mUnits.smvTurn smv1 = true ∧ ({ mUnits with smvs := [] } : State).smvTurn smv1 = false ∧
    (mUnits.engineServed (.multiplier smv1.stack) (mUnits.partOf smv1.crew)).smvMiss smv1 0 = none := by decide +kernel
theorem traced_of (a : Except Trouble (Word × Bool × List Pixel)) (h : (match a with | .ok _ => true | .error _ => false) = true) :
    ∃ m b ps, a = .ok (m, b, ps) := by
  cases a with
  | ok r => exact ⟨r.1, r.2.1, r.2.2, rfl⟩
  | error e => exact absurd h Bool.false_ne_true
theorem wit_UnitEvents_view : ∃ m b ps, look 4 mUnits.views = some view1 ∧ view1.error = none ∧ view1.fault = none ∧ view1.traced = false ∧
    mUnits.awake view1.crew = true ∧ mUnits.quiet view1.wave 4 = true ∧ mUnits.viewTurn view1 = true ∧
    (mUnits.viewServed view1).traceView view1 = .ok (m, b, ps) := by
  obtain ⟨m, b, ps, h⟩ := traced_of ((mUnits.viewServed view1).traceView view1) (by decide +kernel)
  exact ⟨m, b, ps, by decide +kernel, rfl, rfl, rfl, by decide +kernel, by decide +kernel, by decide +kernel, h⟩
theorem wit_UnitEvents_landing : look 5 mUnits.views = some { view1 with traced := true } ∧ mUnits.viewDone { view1 with traced := true } = true := by decide +kernel
/-- The crew is a node crew of node 3, and has had no delivery. -/
def mDeliver : State :=
  let s : State := { mUp with nodes := [(3, node3)] }
  (s.modGang 1 (fun g => { g with node := some 3 })).modCrew 1 (fun c => { c with vlevel := 1 })
/-- Why a traversal stops, as a number: a bad field, or a page that is missing. -/
def traceNo (v : View) : Nat :=
  match mUnits.traceView v with
  | .ok _ => 0
  | .error (.bad _ _) => 1
  | .error (.miss _) => 2
theorem wit_UnitEvents_view_stops : traceNo { view1 with cam := 0x4000000000000040#64 } = 1 ∧ traceNo { view1 with cam := 0x400000#64 } = 2 := by
  decide +kernel
/-- A view that met an error, and one whose pixels are done. -/
def mLand : State := { mUp with views := [(4, { view1 with error := some (.descriptor, 0#64, 48#64) }), (5, { view1 with traced := true })] }
theorem wit_UnitEvents_lands : look 4 mLand.views = some { view1 with error := some (.descriptor, 0#64, 48#64) } ∧ mLand.awake view1.crew = true ∧
    look 5 mLand.views = some { view1 with traced := true } ∧ mLand.viewDone { view1 with traced := true } = true := by decide +kernel
theorem wit_RecordEvents : look 3 mDeliver.nodes = some node3 ∧ node3.opened = true ∧ mDeliver.resides node3.launch = true ∧
    mDeliver.nodeCrewOn 3 0 1 = true ∧ node3.keyed = false ∧ (mDeliver.crew 1).recstat = 0#32 ∧ mDeliver.batch node3 0 (mDeliver.crew 1).vlevel ≠ [] := by
  decide +kernel
/-- A keyed node with a context in the store that is marked, and one in the cellar that a record waits for. -/
def node4 : Node :=
  { node2 with
    ctxs := [{ ctx5 with place := .store, mark := true }, { ctx5 with key := 6#64, place := .cellar }],
    queue := [{ record1 with words := [6#32, 0#32] }] }
def mRetire : State :=
  let s : State := { mNodeQ with nodes := [(3, node4)] }
  s.modGang 1 (fun g => { g with node := some 3 })
theorem wit_RecordEvents_retire : look 3 mRetire.nodes = some node4 ∧ node4.opened = true ∧ node4.keyed = true ∧ mRetire.resides node4.launch = true ∧
    mRetire.nodeCrewOn 3 0 1 = true ∧ (mRetire.wave (mRetire.nodeWave 1)).freeLanes.zip (mRetire.retiring node4 0) ≠ [] := by decide +kernel
theorem wit_RecordEvents_fetch : ∃ u, look 3 mRetire.nodes = some node4 ∧
    node4.ctxs.find? (fun c => c.key == 6#64) = some { ctx5 with key := 6#64, place := .cellar } ∧
    node4.queue.any (fun r => r.key == 6#64) = true ∧ mRetire.makeRoom node4.part 0 = some u :=
  ⟨_, by decide +kernel, by decide +kernel, by decide +kernel, rfl⟩
/-- The share is one entry, which a suspended context holds: it spills; and a context that was left in the shadow area (log 84). -/
def node6 : Node := { node4 with ctxs := [{ ctx5 with place := .store }, { ctx5 with key := 6#64, place := .shadow }] }
def mFull : State :=
  ({ mRetire with nodes := [(3, node6)] } : State).modPart 0 (fun p => { p with
    quota := { p.quota with clusters := p.quota.clusters.modify 0 (fun c => { c with keyed := { base := 0, len := 1 } }) } })
theorem wit_RecordEvents_room : (mFull.makeRoom 0 0).isSome = true ∧ mFull.storeUsed 0 0 = 1 ∧
    node6.ctxs.find? (fun c => c.key == 6#64) = some { ctx5 with key := 6#64, place := .shadow } ∧
    ((after (.contextFetch 3 6#64) mFull).nodes.flatMap (fun e => e.2.ctxs.map (·.place))) = [.cellar, .store] := by decide +kernel
-- A store that holds more than its share gives no entry (R188); a tenant restored there leaves the rest in its shadow area (log 84).
def mOver : State := mFull.modNode 3 (fun n => { n with ctxs := [{ ctx5 with place := .store }, { ctx5 with key := 6#64, place := .store, last := 1 }] })
theorem test_store_over : (mOver.makeRoom 0 0).isNone = true ∧
    ((mOver.restoreStores 0).nodes.flatMap (fun e => e.2.ctxs.map (·.place))) = [.shadow, .store] := by decide +kernel
/-- The context of key 5 waits in the store for its record; a record of key 7 has none, and its share has room, or none. -/
def record5 : Record := { record1 with words := [5#32, 0#32] }
def record7 : Record := { record1 with words := [7#32, 0#32] }
def node5 : Node := { node2 with ctxs := [{ ctx5 with place := .store }], queue := [record5, record7] }
def mKeys : State := (({ mNodeQ with nodes := [(3, node5)] } : State).modGang 1 (fun g => { g with node := some 3 }))
def mNoRoom : State := (mKeys.modNode 3 (fun n => { n with ccap := 0 })).modPart 0 (fun p => { p with
  quota := { p.quota with clusters := p.quota.clusters.modify 0 (fun c => { c with keyed := Range.nil }) } })
theorem wit_RecordEvents_keyed : ∃ count pitch key t, look 3 mKeys.nodes = some node5 ∧ node5.opened = true ∧ mKeys.resides node5.launch = true ∧
    mKeys.nodeCrewOn 3 0 1 = true ∧ node5.keyed = true ∧
    mKeys.fillKeyed 3 0 1 (32 + node5.queue.length) [] (mKeys.wave (mKeys.nodeWave 1)).freeLanes (0, false, none) = ((count, pitch, key), t) :=
  ⟨_, _, _, _, by decide +kernel, by decide +kernel, by decide +kernel, by decide +kernel, by decide +kernel, rfl⟩
theorem wit_RecordEvents_next : mKeys.nextKeyed node5 0 [] node5.queue = some record5 ∧
    node5.ctxs.find? (fun c => c.key == record5.key) = some { ctx5 with place := .store } ∧ node5.ctxs.find? (fun c => c.key == record7.key) = none ∧
    (mKeys.makeRoom node5.part 0).isSome = true ∧ mNoRoom.makeRoom node5.part 0 = none := by decide +kernel
/-- A crew asks for a work item. -/
def wreq1 : WRequest := { op := 2, wave := 1, crew := 1, flag := some 0, ycrew := 1, off := 1024 }
def mAsk : State := { mUp with wreqs := [(3, wreq1)] }
def mAskDet : State := mAsk.modLaunch 1 (fun l => { l with desc := { l.desc with det := true, wqx := 2, wqy := 2 }, dist := { ranges := [], next := 4 } })
theorem wit_RecordEvents_item : look 3 mAsk.wreqs = some wreq1 ∧ mAsk.awake wreq1.crew = true ∧ (mAsk.launch 1).desc.det = false := by decide +kernel
/-- Items are left, and every crew has asked. -/
def mAskDet1 : State := mAskDet.modLaunch 1 (fun l => { l with dist := { ranges := [], next := 1 } })
theorem wit_RecordEvents_round_left : (mAskDet1.launch 1).desc.det = true ∧ mAskDet1.onPart 1 = true ∧ mAskDet1.roundReady 1 = true ∧
    ((mAskDet1.roundAnswers 1 (mAskDet1.askers 1)).launch 1).dist.next < 4 ∧ mAskDet1.oldestRequest 1 = some (3, wreq1) ∧
    mAskDet.oldestRequest 1 = some (3, wreq1) ∧ (mAskDet.launch 1).dist.next = 4 := by decide +kernel
/-- Its items are exhausted, and a gang has not been placed yet. -/
def mRound : State := { mAskDet with gangs := mAskDet.gangs ++ [(4, { oneGang with phase := .waiting, cluster := some 0 })] }
theorem wit_RecordEvents_round : (mRound.launch 1).desc.det = true ∧ mRound.onPart 1 = true ∧ mRound.roundReady 1 = false ∧
    (mRound.launch 1).desc.wqx * (mRound.launch 1).desc.wqy ≤ (mRound.launch 1).dist.next := by decide +kernel
theorem wit_SliceEvents : (mUp.part 0).resident = some 0 ∧ (mUp.part 0).ebb = none := by decide +kernel
/-- The tenant ebbs, and nothing of it is under way. -/
def mEbb : State := mUp.modPart 0 (fun p => { p with ebb := some { stop := false } })
theorem wit_SliceEvents_save : (mEbb.part 0).resident = some 0 ∧ (mEbb.part 0).ebb = some { stop := false } ∧ mEbb.atRest 0 0 = true := by decide +kernel
/-- A TRAP record of the tenant waits for a page of its queue (R324). -/
def mTrapWaits : State := { mEbb with waitingRecs := [{ queue := 0#64, tenant := 0, rec' := FaultRec.plain .trap 0 0 }] }
theorem wit_SliceEvents_trap : (∃ w ∈ mTrapWaits.waitingRecs, w.rec'.cls = .trap ∧ w.rec'.part = 0 ∧ w.rec'.tenant = 0) ∧
    (mTrapWaits.part 0).resident = some 0 ∧ (mTrapWaits.part 0).ebb = some { stop := false } := by decide +kernel
theorem test_trap_first : (after (.contextSave 0) mTrapWaits).waitingRecs.length = 1 ∧ ((after (.contextSave 0) mTrapWaits).part 0).ebb.isSome = true ∧
    ((after (.contextSave 0) mEbb).part 0).ebb.isNone = true := by decide +kernel
/-- Gang 1 has stopped, with a copy under way, or a ray (R207). -/
def mEbbStopped : State := { mEbb.modGang 1 (fun g => { g with phase := .stopped }) with copies := [(4, copy1)] }
def mEbbRay : State :=
  { mEbbStopped with copies := [], flights := [(2, { flight1 with payload := .rayq 0 5 sceneCut (ray 0x3F800000) })] }
theorem wit_SliceEvents_stopped : (mEbbStopped.part 0).resident = some 0 ∧ (mEbbStopped.part 0).ebb = some { stop := false } ∧
    (mEbbStopped.gang 1).phase = .stopped ∧ (mEbbStopped.launch (mEbbStopped.gang 1).launch).part = 0 ∧
    (mEbbStopped.launch (mEbbStopped.gang 1).launch).tenant = 0 ∧ (∃ c ∈ mEbbStopped.copies, (mEbbStopped.crew c.2.crew).gang = 1) ∧
    ∃ f ∈ mEbbRay.flights, (mEbbRay.crew (mEbbRay.wave f.2.wave).crew).gang = 1 := by decide +kernel
theorem test_ebb_stopped : mEbbStopped.atRest 0 0 = false ∧ mEbbRay.atRest 0 0 = false ∧ ({ mEbbRay with flights := [] } : State).atRest 0 0 = true ∧
    ({ mEbb with copies := [(4, copy1)] } : State).atRest 0 0 = true := by decide +kernel
/-- A partition without a tenant. -/
def mFree : State := mUp.modPart 0 (fun p => { p with resident := none })
def tenantSpec3 : TenantSpec := { id := 3, slice := 100, status := 64, shadow := [], pages := tenant0.pages, allow := 0#1024 }
theorem wit_SliceEvents_free : mFree.up = true ∧ (mFree.part 0).resident = none ∧ (mFree.part 0).ebb = none ∧ (mFree.part 0).configured = true ∧
    mFree.quotaOk 0 QuotaSpec.nil = true := by decide +kernel
-- Before the part has come up the management interface takes no quota (R218).
theorem test_quota_down : (after (.quotaWrite 0 QuotaSpec.nil) { mFree with up := false }).mgmt = [.quotaRefused 0] := by decide +kernel
/-- A quota that the management interface does not take. -/
theorem wit_SliceEvents_refused : mFree.quotaOk 0 { QuotaSpec.nil with prio := 8 } = false ∧ mUp.shadowOk tenantSpec3.shadow = true := by decide +kernel
theorem wit_SliceEvents_create : tenantSpec3.id < 16 ∧ (mUp.part 0).tenants.length < 16 ∧ ∀ t ∈ (mUp.part 0).tenants, t.id ≠ tenantSpec3.id := by decide +kernel
theorem wit_PartEvents_retire : mUp.unitRetired (.pair 3) = false ∧ unitExists (.pair 3) = true ∧ ∀ n, UnitId.pair 3 ≠ .port n :=
  ⟨by decide +kernel, by decide +kernel, fun _ h => nomatch h⟩
/-- The launch may run its gang again once. -/
def mRetry : State := mUp.modLaunch 1 (fun l => { l with desc := { l.desc with retry := 1 } })
theorem wit_PartEvents_retired : (mUp.retireUnit (.pair 3)).unitRetired (.pair 3) = true := by decide +kernel
theorem wit_PartEvents_error : mRetry.owns 1 = true ∧ (mRetry.gang 1).replayable = true ∧
    (mRetry.gang 1).node = none ∧ (mRetry.gang 1).attempt < (mRetry.launch (mRetry.gang 1).launch).desc.retry := by decide +kernel
theorem wit_PartEvents_stop : (mUp.notReplayable 1).owns 1 = true ∧ ((mUp.notReplayable 1).gang 1).replayable = false := by decide +kernel
theorem wit_PartEvents_attest : mUp.halted = false ∧ mUp.keysErased = false ∧ { mUp with leaf := 5 }.leaf = 5 ∧ (3 : Nat) < 5 := by decide +kernel
theorem wit_PartEvents_sound : (Sounding.fresh 0 10 2).bin 9 = 0 ∧ (Sounding.fresh 0 10 2).bin 14 = 1 ∧ (Sounding.fresh 0 10 2).bin 1000 = 15 := by
  decide +kernel
theorem wit_PartEvents_telemetry : mUp.tenant? 0 0 = some tenant0 ∧ (0 : Nat) < 1024 ∧ tenant0.allow.getLsbD 0 = true ∧ tenant0.allow.getLsbD 1 = false := by
  decide +kernel
/-- A sounding of the partition. -/
def mSound : State := mUp.modPart 0 (fun p => { p with soundings := [Sounding.fresh 0 10 2] })
theorem wit_PartEvents_sounding : (mSound.part 0).soundings[0]? = some (Sounding.fresh 0 10 2) ∧ (mSound.part 0).soundings[1]? = none := by decide +kernel
theorem wit_PartEvents_bringUp : State.reset.up = false ∧ State.reset.halted = false ∧ State.reset.shadowOk [] = true ∧
    State.reset.shadowOk [{ base := 0, len := 465 }] = false := by decide +kernel
theorem wit_PartEvents_port : mUp.portsDown.contains 2 = false ∧ (∀ e ∈ mUp.copies, e.2.desc.tgt ≠ 2) ∧
    (mPeer.copies.filter (fun e => e.2.desc.tgt == 2 && e.2.desc.port == 2)).length = 2 ∧ ({ mUp with portsDown := [2] } : State).portsDown.contains 2 = true := by
  decide +kernel

end Sys2Proof.Tests
end

section
/-!
The forms of the state that every step keeps (O56), and the state at reset (O57).
-/
namespace Sys2Proof.Machine

variable {φ : Facet}

/-- An instruction of a clause keeps the form: it runs its meaning, and every meaning keeps it. -/
theorem runSem_sound {m : Sem} {s t : State} (hm : m.Keeps) (hs : s.sound φ = true) (ht : runSem m s = .next t) :
    t.sound φ = true := by
  unfold runSem at ht
  split at ht
  · cases ht; exact hs
  · cases ht; exact Sem.step_keeps hm hs

/-- Every event goes on to a next state of that form. -/
theorem exec_event_sound {i : Instr} {s t : State} (hi : i.sem = none) (hs : s.sound φ = true) (ht : exec i s = .next t) :
    t.sound φ = true := by
  cases i with
  | issueOpportunity core => cases ht; exact State.sound_issueOpportunity s core hs
  | clauseContinue wave => cases ht; exact State.sound_clauseContinue s wave hs
  | landing flight => cases ht; exact State.sound_landFlight s flight hs
  | copyPacket copy first n => cases ht; exact State.sound_copyPacket s copy first n hs
  | copyHoldRelease copy => cases ht; exact State.sound_copyRelease s copy hs
  | faultServiced fault pages => cases ht; exact State.sound_faultServiced s fault pages hs
  | faultDeclaredFatal fault => cases ht; exact State.sound_faultFatal s fault hs
  | copysSignal copy => cases ht; exact State.sound_copysSignal s copy hs
  | arm part slot m => cases ht; exact State.sound_command s part _ m hs
  | fire part slot m => cases ht; exact State.sound_command s part _ m hs
  | launchAcceptance src => cases ht; exact State.sound_launchAcceptance s src hs
  | gangPlacement part cluster => cases ht; exact State.sound_gangPlacement s part cluster hs
  | nodeCrewPlacement node cluster core => cases ht; exact State.sound_nodeCrewPlacement s node cluster core hs
  | gangRetirement gang => cases ht; exact State.sound_gangRetirement s gang hs
  | launchRetirement launch => cases ht; exact State.sound_launchRetirement s launch hs
  | finalMerge launch => cases ht; exact State.sound_finalMerge s launch hs
  | detMerge launch barrier => cases ht; exact State.sound_detMerge s launch barrier hs
  | matrixCommandRetire pair part => cases ht; exact State.sound_retireCommand s pair part hs
  | smvPacket smv first n => cases ht; exact State.sound_smvLand s smv first n hs
  | atomicPerform access => cases ht; exact State.sound_performAccess s access hs
  | fenceComplete wave slot => cases ht; exact State.sound_fenceComplete s wave slot hs
  | viewTraversal view => cases ht; exact State.sound_traverseView s view hs
  | viewLanding view => cases ht; exact State.sound_landView s view hs
  | recordDelivery node cluster crew => cases ht; exact State.sound_recordDelivery s node cluster crew hs
  | retireDelivery node cluster crew => cases ht; exact State.sound_retireDelivery s node cluster crew hs
  | contextFetch node key => cases ht; exact State.sound_contextFetch s node key hs
  | workItemAssign request => cases ht; exact State.sound_assignItem s request hs
  | wqryRound launch => cases ht; exact State.sound_queryRound s launch hs
  | sliceExpiry part => cases ht; exact State.sound_sliceExpiry s part hs
  | stopRequest part tenant => cases ht; exact State.sound_stopRequest s part tenant hs
  | contextSave part => cases ht; exact State.sound_contextSave s part hs
  | quotaWrite part q => cases ht; exact State.sound_quotaWrite s part q hs
  | unitRetirement u => cases ht; exact State.sound_retireUnit s u hs
  | uncorrectableError gang code => cases ht; exact State.sound_softError s gang code hs
  | correctableError part counter => cases ht; exact State.sound_correctable s part counter hs
  | telemetryRead part tenant ask => cases ht; exact State.sound_telemetry s part tenant ask hs
  | telemetryStatusClear part ones => cases ht; exact State.sound_clearTelemetry s part ones hs
  | securityAlarm => cases ht; exact State.sound_alarm s hs
  | bringUp b => cases ht; exact State.sound_bringUp s b hs
  | launchStop launch => cases ht; exact State.sound_launchStop s launch hs
  | peerPortDown port => cases ht; exact State.sound_portDown s port hs
  | peerCopysTraffic m => cases ht; exact State.sound_peerTraffic s m hs
  | reservedKindMessage part kind m => cases ht; exact State.sound_command s part _ m hs
  | tenantCreation part x => cases ht; exact State.sound_createTenant s part x hs
  | allowListLoad part tenant bits => cases ht; exact State.sound_loadAllow s part tenant bits hs
  | objectLoad part o => cases ht; exact State.sound_loadObject s part o hs
  | attestationReport ask => cases ht; exact State.sound_attest s ask.leaf ask.digest hs
  | _ => cases hi

/-- Whatever an instruction or event is, executing it keeps the form. -/
theorem exec_sound {i : Instr} {s t : State} (hs : s.sound φ = true) (ht : exec i s = .next t) : t.sound φ = true := by
  cases hi : i.sem with
  | none => exact exec_event_sound hi hs ht
  | some m => exact runSem_sound (Instr.sem_keeps hi) hs (exec_of_sem s hi ▸ ht)

/-- Everything a step to a next state can be: it executes the instruction at the cursor, takes the fault of a cursor at which none
stands, or executes the next event. -/
theorem step_next_cases {s t : State} (ht : step s = .next t) :
    (∃ c i, s.cur = some c ∧ s.fetchInstr c = some i ∧ exec i s = .next t) ∨
    (∃ c, s.cur = some c ∧ s.fetchInstr c = none ∧ t = s.fetchFault c) ∨
    (s.cur = none ∧ exec s.nextEvent.1 s.nextEvent.2 = .next t) := by
  unfold step at ht
  split at ht
  · cases ht
  · cases hc : s.cur with
    | none => rw [hc] at ht; exact .inr (.inr ⟨rfl, ht⟩)
    | some c =>
      rw [hc] at ht
      cases hi : s.fetchInstr c with
      | none => simp only [hi] at ht; cases ht; exact .inr (.inl ⟨c, rfl, hi, rfl⟩)
      | some i => simp only [hi] at ht; exact .inl ⟨c, i, rfl, hi, ht⟩

/-- One step keeps each of the three forms. -/
theorem step_sound {s t : State} (hs : s.sound φ = true) (ht : step s = .next t) : t.sound φ = true := by
  obtain ⟨_, _, _, _, h⟩ | ⟨c, _, _, rfl⟩ | ⟨_, h⟩ := step_next_cases ht
  · exact exec_sound hs h
  · exact State.sound_fetchFault s c hs
  · exact exec_sound (State.sound_nextEvent s hs) h

/-- Settles O56: the three forms are the facets that `step_sound` speaks of. -/
theorem memoryStaysCanonical : Obligations.MemoryStaysCanonical :=
  ⟨fun _ _ hs ht => step_sound (φ := .memory) hs ht, fun _ _ hs ht => step_sound (φ := .part) hs ht,
    fun _ _ hs ht => step_sound (φ := .waves) hs ht⟩

/-- Where nothing is on the agenda the next event is an issue opportunity of the next core in turn. -/
theorem State.nextEvent_idle {s : State} (h : s.agenda = []) :
    s.nextEvent = (.issueOpportunity s.nextCore, { s.endPasses with nextCore := (s.nextCore + 1) % 256 }) := by
  have he : s.endPasses.agenda = [] := h
  simp only [State.nextEvent, he]
  rfl

/-- Between clauses a part that is not stopped executes the next event. -/
theorem step_between {s : State} (hh : s.halted = false) (hc : s.cur = none) : step s = exec s.nextEvent.1 s.nextEvent.2 := by
  simp [step, hh, hc]

/-- With no wave there is none whose passing over could end. -/
theorem State.endPasses_no_waves {s : State} (h : s.waves = []) : s.endPasses = s := by
  cases s
  cases h
  rfl

theorem step_reset : step State.reset = exec (.issueOpportunity 0) { State.reset with nextCore := 1 } := by
  rw [step_between rfl rfl, State.nextEvent_idle rfl, State.endPasses_no_waves rfl]
  rfl

/-- At reset there are 256 cores and eight partitions. -/
theorem State.reset_laidOut : State.reset.laidOut = true := by
  have hc : State.reset.cores.length = 256 := List.length_replicate
  have hp : State.reset.parts.length = 8 := List.length_replicate
  simp [State.laidOut, hc, hp]

/-- At reset every partition is one that is not configured. -/
theorem State.eq_reset_of_mem_parts {p : Partition} (h : p ∈ State.reset.parts) : p = Partition.reset :=
  List.eq_of_mem_replicate h

/-- Settles O57, field by field; the partitions are copies of one, and the first step is `step_reset`. -/
theorem resetState : Obligations.ResetState := by
  refine ⟨rfl, State.reset_laidOut, rfl, rfl, rfl, rfl, rfl, rfl, fun p hp => ?_, step_reset⟩
  rw [State.eq_reset_of_mem_parts hp]
  exact ⟨rfl, rfl, rfl, rfl, rfl⟩

end Sys2Proof.Machine
end

section
/-!
The special registers (O37): core numbers, Table 3.11 register by register, SRD and SWR.
-/
namespace Sys2Proof.Machine

/-! ### Core numbers (R4) -/

/-- Of 256 cores, each number is made of its die, its cluster and its index. -/
theorem coreNumber_digits {core : Nat} (h : core < 256) :
    dieOfCore core * 64 + clusterOfCore core % 4 * 16 + core % 16 = core ∧ dieOfCore core < 4 := by
  unfold dieOfCore clusterOfCore
  omega

/-- CORE, CLUSTER and DIE read the number and its parts: none of them is cut to 32 bits. -/
theorem special_core_cluster_die {s : State} {x : Ctx} (l : Nat) (h : x.crew.core < 256) :
    (special s x l 4).toNat = x.crew.core ∧ (special s x l 5).toNat = clusterOfCore x.crew.core % 4 ∧
      (special s x l 6).toNat = dieOfCore x.crew.core := by
  obtain ⟨-, hd⟩ := coreNumber_digits h
  refine ⟨Nat.mod_eq_of_lt ?_, Nat.mod_eq_of_lt ?_, Nat.mod_eq_of_lt ?_⟩ <;> omega

/-! ### Table 3.11 (R65, R182) -/

/-- A reserved index reads as zero. -/
theorem special_reserved {s : State} {x : Ctx} {l i : Nat} (h : 23 ≤ i) : special s x l i = 0#32 := by
  obtain ⟨n, rfl⟩ := Nat.exists_eq_add_of_le' h
  rfl

/-- The two halves of a register pair put together again. -/
theorem dword_halves (v : Dword) : v.extractLsb' 32 32 ++ v.extractLsb' 0 32 = v :=
  BitVec.extractLsb'_append_extractLsb'_eq_extractLsb' rfl |>.trans (BitVec.extractLsb'_eq_self)

/-- GANGID, TASKID, NCREW and NGANG of a crew that belongs to no node. -/
theorem special_of_gang {s : State} {x : Ctx} (l : Nat) (h : x.gang.node = none) :
    special s x l 3 = BitVec.ofNat 32 x.gang.lin ∧
    special s x l 15 = BitVec.ofNat 32 (x.gang.lin * x.launch.desc.ncrew + x.crew.idx) ∧
    special s x l 16 = BitVec.ofNat 32 x.launch.desc.ncrew ∧ special s x l 17 = BitVec.ofNat 32 x.launch.desc.ngang := by
  simp [special, gangIdOf, taskIdOf, taskEntry, ncrewOf, h]

/-- The same of a node crew (R182). -/
theorem special_of_node {s : State} {x : Ctx} (l : Nat) (h : x.gang.node ≠ none) :
    special s x l 3 = 0xFFFF_FFFF#32 ∧ special s x l 15 = 0xFFFF_FFFF#32 ∧ special s x l 16 = 1#32 ∧
    special s x l 17 = 0xFFFF_FFFF#32 := by
  have h : x.gang.node.isSome = true := Option.isSome_iff_ne_none.mpr h
  simp [special, gangIdOf, taskIdOf, taskEntry, ncrewOf, h]

/-- Under MCAST a launch has a gang for every set bit of MASK. -/
theorem Desc.ngang_mcast {d : Desc} (h : d.mcast = true) :
    d.ngang = ((List.range 64).filter (fun i => d.mask.getLsbD i)).length := by
  simp [Desc.ngang, h]

/-- Without it, one for every place of the grid. -/
theorem Desc.ngang_grid {d : Desc} (h : d.mcast = false) : d.ngang = d.gx * d.gy * d.gz := by
  simp [Desc.ngang, h]

/-! ### SRD and SWR -/

/-- An extended form is three words long. -/
theorem Ext.arg_size (f : Ext) : f.arg.size = 3 := rfl

/-- What SRD does once its checks find nothing, with an active fibre. -/
theorem exec_srd {f : Ext} {s : State} (hc : s.Clear f.arg rolesAll [if srdUni f.arg then .u f.arg.d else .v f.arg.d])
    (ha : s.Active f.arg) :
    let g := f.arg
    let act := s.ctx.act g.m
    let t := if srdUni g then s.setUni s.ctx.crewId g.d (Reg.done (special s s.ctx (lowestLane act) (srIndex g)) .raw)
      else s.modWave s.ctx.cur.wave (fun w => w.mapLanes act (fun l ln =>
        ln.writeV g.d (Reg.done (special s s.ctx l (srIndex g)) .raw)))
    exec (.srd f) s = .next (State.advance (if srIndex g = 10 then
      t.modWave s.ctx.cur.wave (fun w => { w with cyclesH := BitVec.ofNat 32 ((s.core s.ctx.crew.core).cycles / 2 ^ 32) }) else t) 3) := by
  obtain ⟨hi, hr, hw, hl⟩ := hc
  obtain ⟨c, hcur⟩ := hi.cur
  have h := exec_simple (i := .srd f) rfl hcur (State.static_none hr hw) hl.none
  simpa [ha, Ext.arg_size] using h

/-- The fibres of an SWR that are active give one value. -/
theorem swr_uniform {s : State} {act : Lanes} {value : Lane → Word} {v : Word} (hv : s.OnLanes act (fun ln => value ln = v))
    (ha : act ≠ 0#32) {i : Dword} :
    onceFault .nonuniform act ((laneList act).any (fun l => value (s.ctx.wave.lane l) != value (s.ctx.wave.lane (lowestLane act)))) i 0#64
      = none := by
  obtain ⟨hl, hm⟩ := lowestLane_spec ha
  refine onceFault_none (List.any_eq_false.mpr fun l h => ?_)
  obtain ⟨h1, h2⟩ := mem_laneList.mp h
  simp [hv l h1 h2, hv _ hl hm]

/-- What SWR does once its checks find nothing, with one value in all active fibres. -/
theorem exec_swr {f : Ext} {v : Word} {s : State} (hc : s.Clear f.arg rolesAll f.arg.srcA.opds) (ha : s.Active f.arg)
    (hv : s.OnLanes (s.ctx.act f.arg.m) (fun ln => (f.arg.srcA.read s.ctx.crew ln .raw).val = v)) :
    exec (.swr f) s = .next (State.advance
      (if srIndex f.arg = 19 then s.modCrew s.ctx.crewId (fun c => { c with opthr := opthrOf v }) else s) 3) := by
  obtain ⟨hi, hr, hw, hl⟩ := hc
  obtain ⟨c, hcur⟩ := hi.cur
  obtain ⟨hlow, hm⟩ := lowestLane_spec ha
  have hval := hv _ hlow hm
  have hu := swr_uniform (value := fun ln => (f.arg.srcA.read s.ctx.crew ln .raw).val) (i := BitVec.ofNat 64 f.arg.a) hv ha
  have h := exec_simple (i := .swr f) rfl hcur (State.static_none hr hw)
    (firstFault_eq_none (by simp [hu, hl.none]))
  by_cases h19 : srIndex f.arg = 19 <;> simpa [ha, hval, h19, Ext.arg_size] using h

/-- Settles O37: core numbers, the table, SRD, SWR. -/
theorem specialResult : Obligations.SpecialResult := by
  unfold Obligations.SpecialResult
  refine ⟨⟨fun _ => coreNumber_digits, fun s l h => ?_⟩, fun s l => ?_, fun f s hc ha => exec_srd hc ha,
    fun f v s hc ha hv => ⟨fun h => by simpa [h] using exec_swr hc ha hv, fun h => by simpa [h] using exec_swr hc ha hv⟩⟩
  · obtain ⟨hcore, hcluster, hdie⟩ := special_core_cluster_die (s := s) l h
    obtain ⟨hsum, hlt⟩ := coreNumber_digits h
    rw [hcore, hcluster, hdie]
    exact ⟨rfl, Nat.mod_lt _ (by decide), hlt, hsum⟩
  · refine ⟨rfl, rfl, rfl, rfl, rfl, rfl, rfl, rfl, rfl, dword_halves _, rfl, rfl, dword_halves _, rfl, fun _ => special_reserved,
      fun h => ?_, special_of_node l⟩
    obtain ⟨h3, h15, h16, h17⟩ := special_of_gang (s := s) l h
    exact ⟨h3, h15, h16, fun hm => h17.trans (congrArg _ (Desc.ngang_grid hm)), fun hm => h17.trans (congrArg _ (Desc.ngang_mcast hm))⟩

end Sys2Proof.Machine
end

section
/-!
The events of the part as a whole (O49): retired units, soft errors, telemetry, the alarm, bring-up, peer ports, objects, attestation.
-/
namespace Sys2Proof.Machine

/-! ### Retired units and ports (R9, R211, R104) -/

/-- A unit that exists and is not retired yet: it is noted and reported to every partition that held it, copies through a retired port
end, and partitions are marked and waiting gangs seated again. -/
theorem State.retireUnit_working {s : State} {u : UnitId} (hr : s.unitRetired u = false) (hx : unitExists u = true) :
    let r : State := { s with retiredUnits := s.retiredUnits ++ [u], mgmt := s.mgmt ++ [.retired u] }
    let t : State := ((List.range 8).filter (fun p => r.heldUnit p u)).foldl (fun (t : State) p =>
      t.postHost { t.recOfPart .retired p with info := unitInfo u }) r
    let d := match u with
      | .port n => t.portDown n
      | _ => t
    s.retireUnit u = State.reseatAll (d.markFrom d.byPriority 0 0) :=
  if_neg (by simp [hr, hx])

/-- A unit is retired once. -/
theorem State.retireUnit_retired {s : State} {u : UnitId} (hr : s.unitRetired u = true) : s.retireUnit u = s := by
  simp [State.retireUnit, hr]

/-- A port goes down: it is listed, and every copy routed through it fails. -/
theorem State.portDown_working {s : State} {port : Nat} (h : s.portsDown.contains port = false) :
    s.portDown port = (s.copies.filter (fun e => e.2.desc.tgt == 2 && e.2.desc.port == port)).foldl
      (fun u e => u.failCopy e.1 e.2 .translate (u.toTagged e.2.desc.dst) 0#64)
      ({ s with portsDown := s.portsDown ++ [port] } : State) := by
  simp [State.portDown, h, -List.contains_eq_mem]

/-- A port that is down already, with no copy left that is routed through it. -/
theorem State.portDown_down {s : State} {port : Nat} (h : s.portsDown.contains port = true)
    (hc : s.copies.filter (fun e => e.2.desc.tgt == 2 && e.2.desc.port == port) = []) : s.portDown port = s := by
  simp [State.portDown, h, hc, -List.contains_eq_mem]

/-! ### Soft errors (R132, R214) -/

/-- A replayable gang with a retry left runs again, outside nodes; every other gang that owns state stops. -/
theorem State.softError_eq {s : State} {g code : Nat} (ho : s.owns g = true) (h1 : 1 ≤ code) (h6 : code ≤ 6) :
    let x := s.gang g
    let r := { s.recOfGang .hwerror g with info := BitVec.ofNat 64 code }
    s.softError g code =
      if x.replayable = true ∧ x.node = none ∧ x.attempt < (s.launch x.launch).desc.retry then
        (s.postLaunch x.launch { r with rerun := true }).rerunGang g
      else (s.postLaunch x.launch { r with stop := true, lstop := (s.launch x.launch).desc.policy }).faultGang g := by
  have hc : code ≠ 0 := by omega
  simp [State.softError, ho, hc, Nat.not_lt_of_le h6, and_assoc]

/-! ### Telemetry and soundings (R215, R216) -/

/-- A counter on the tenant's list is reported. -/
theorem State.readTelemetry_allowed {s : State} {part tenant counter : Nat} {t : Tenant} (ht : s.tenant? part tenant = some t)
    (hc : counter < 1024) (ha : t.allow.getLsbD counter = true) :
    s.readTelemetry part tenant counter =
      { s with mgmt := s.mgmt ++ [.telemetry part tenant counter (((s.part part).counters[counter]?).getD 0)] } := by
  simp [State.readTelemetry, ht, hc, ha]

/-- A counter outside the list reads as zero, and DENIED is set. -/
theorem State.readTelemetry_denied {s : State} {part tenant counter : Nat} {t : Tenant} (ht : s.tenant? part tenant = some t)
    (ha : t.allow.getLsbD counter = false) :
    s.readTelemetry part tenant counter = { (s.modPart part (fun p => { p with tstat := p.tstat ||| 1#32 })) with
      mgmt := s.mgmt ++ [.telemetry part tenant counter 0] } := by
  simp [State.readTelemetry, ht, ha]

/-- A sounding that is set up records what it has measured, and is reported. -/
theorem State.readSounding_some {s : State} {part n : Nat} {x : Sounding} (h : (s.part part).soundings[n]? = some x) :
    let y := (Config.freeSounding s.freeCtr).foldl Sounding.record x
    s.readSounding part n = { (s.modPart part (fun p => { p with soundings := p.soundings.set n y })) with
      mgmt := s.mgmt ++ [.sounding part n y], freeCtr := s.freeCtr + 1 } := by
  simp [State.readSounding, State.freeNext, State.modPart, h]

/-- There is nothing to read of one that is not. -/
theorem State.readSounding_none {s : State} {part n : Nat} (h : (s.part part).soundings[n]? = none) :
    s.readSounding part n = s := by
  simp only [State.readSounding, h]

/-- Sixteen bins. -/
theorem Sounding.bin_lt (x : Sounding) (v : Nat) : x.bin v < 16 :=
  Nat.lt_succ_of_le (Nat.min_le_right _ _)

/-- Values below the base count in the first bin. -/
theorem Sounding.bin_below {x : Sounding} {v : Nat} (h : v < x.base) : x.bin v = 0 := by
  simp [Sounding.bin, Nat.sub_eq_zero_of_le (Nat.le_of_lt h)]

/-- A value counts in the bin it lies in, the last one having no upper end. -/
theorem Sounding.bin_eq {x : Sounding} {v i : Nat} (hi : i < 16) (hl : x.base + i * 2 ^ x.shift ≤ v)
    (hu : i < 15 → v < x.base + (i + 1) * 2 ^ x.shift) : x.bin v = i := by
  have hw : 0 < 2 ^ x.shift := Nat.two_pow_pos _
  have hlow : i ≤ (v - x.base) / 2 ^ x.shift := (Nat.le_div_iff_mul_le hw).mpr (by omega)
  unfold Sounding.bin
  rcases Nat.lt_or_ge i 15 with h | h
  · have hup : (v - x.base) / 2 ^ x.shift < i + 1 := (Nat.div_lt_iff_lt_mul hw).mpr (by have := hu h; omega)
    omega
  · omega

/-- The range after a value holds the value and the range before. -/
theorem Sounding.record_range (x : Sounding) (v : Nat) :
    ∃ lo hi, (x.record v).range = some (lo, hi) ∧ lo ≤ v ∧ v ≤ hi ∧ ∀ r, x.range = some r → lo ≤ r.1 ∧ r.2 ≤ hi := by
  cases h : x.range with
  | none => exact ⟨v, v, by simp [Sounding.record, h], Nat.le_refl v, Nat.le_refl v, fun _ e => nomatch e⟩
  | some r =>
    refine ⟨min r.1 v, max r.2 v, by simp [Sounding.record, h], Nat.min_le_right _ _, Nat.le_max_right _ _, fun q e => ?_⟩
    cases e
    exact ⟨Nat.min_le_left _ _, Nat.le_max_left _ _⟩

/-! ### Alarm, bring-up, attestation (R217, R218) -/

/-- A part that the alarm has stopped takes no step. -/
theorem step_alarm (s : State) : step s.alarm = .fault .partStopped := rfl

/-- Firmware that does not verify raises the alarm. -/
theorem State.bringUp_unverified {s : State} {b : BringUpSpec} (hu : s.up = false) (hh : s.halted = false)
    (hv : Config.lmsVerifies b.firmware.image b.firmware.signature = false) : s.bringUp b = s.alarm := by
  simp [State.bringUp, hu, hh, hv]

/-- A shadow area that does not fit leaves the part as it is. -/
theorem State.bringUp_noRoom {s : State} {b : BringUpSpec} (hu : s.up = false) (hh : s.halted = false)
    (hv : Config.lmsVerifies b.firmware.image b.firmware.signature = true) (hs : s.shadowOk b.tenant.shadow = false) :
    s.bringUp b = s := by
  simp [State.bringUp, hu, hh, hv, hs]

/-- Otherwise what failed is retired, and partition 0 owns every quota and begins its tenant's slice. -/
theorem State.bringUp_ready {s : State} {b : BringUpSpec} (hu : s.up = false) (hh : s.halted = false)
    (hv : Config.lmsVerifies b.firmware.image b.firmware.signature = true) (hs : s.shadowOk b.tenant.shadow = true) :
    let u := b.failed.foldl State.retireUnit { s with portPart := b.ports }
    s.bringUp b = State.beginSlice (({ u with mgmt := u.mgmt ++ [.ready], up := true } : State).modPart 0 (fun p => { p with
      configured := true, quota := quotaWhole b.hostQ b.tenant.shadow, tenants := [tenantOf b.tenant] })) 0 b.tenant.id := by
  simp [State.bringUp, hu, hh, hv, hs]

/-- A leaf already passed raises the alarm. -/
theorem State.attest_passed {s : State} {leaf : Nat} {digest : BitVec 256} (h : leaf < s.leaf) : s.attest leaf digest = s.alarm := by
  simp [State.attest, h]

/-- There is no key beyond the last leaf. -/
theorem State.attest_noKey {s : State} {leaf : Nat} {digest : BitVec 256} (h : s.leaf ≤ leaf) (hn : Config.leafCount 0 ≤ leaf) :
    s.attest leaf digest = s := by
  simp [State.attest, Nat.not_lt_of_le h, hn]

/-- A leaf not used yet signs the report, and is passed. -/
theorem State.attest_sign {s : State} {leaf : Nat} {digest : BitVec 256} (hh : s.halted = false) (hk : s.keysErased = false)
    (h : s.leaf ≤ leaf) (hn : leaf < Config.leafCount 0) :
    s.attest leaf digest = { s with
      leaf := leaf + 1, attested := s.attested ++ [(leaf, digest)],
      mgmt := s.mgmt ++ [.attestation leaf digest (Config.lmsSign leaf digest)] } := by
  simp [State.attest, Nat.not_lt_of_le h, hh, hk, Nat.not_le_of_lt hn]

/-- Settles O49, one clause after the other: `exec` of an event is the event's operation. -/
theorem partEvents : Obligations.PartEvents :=
  ⟨fun _ _ hr hx => congrArg Host.Outcome.next (State.retireUnit_working hr hx),
    fun _ _ hr => congrArg Host.Outcome.next (State.retireUnit_retired hr),
    fun _ _ _ ho h1 h6 => ⟨fun ha => congrArg Host.Outcome.next ((State.softError_eq ho h1 h6).trans (if_pos ha)),
      fun ha => congrArg Host.Outcome.next ((State.softError_eq ho h1 h6).trans (if_neg ha))⟩,
    fun _ _ _ => rfl,
    fun _ _ _ _ _ ht hc => ⟨fun ha => congrArg Host.Outcome.next (State.readTelemetry_allowed ht hc ha),
      fun ha => congrArg Host.Outcome.next (State.readTelemetry_denied ht ha)⟩,
    fun _ _ _ _ _ _ => rfl,
    fun _ _ _ _ => ⟨fun _ hx => congrArg Host.Outcome.next (State.readSounding_some hx),
      fun hx => congrArg Host.Outcome.next (State.readSounding_none hx)⟩,
    fun x v => ⟨x.bin_lt v, Sounding.bin_below, fun _ hi => Sounding.bin_eq hi, rfl, x.record_range v⟩,
    fun _ _ _ => rfl,
    fun s => ⟨s.alarm, rfl, rfl, rfl, step_alarm s⟩,
    fun _ _ hu hh => ⟨fun hv => congrArg Host.Outcome.next (State.bringUp_unverified hu hh hv),
      fun hv hs => congrArg Host.Outcome.next (State.bringUp_noRoom hu hh hv hs),
      fun hv hs => congrArg Host.Outcome.next (State.bringUp_ready hu hh hv hs)⟩,
    fun _ _ h => congrArg Host.Outcome.next (State.portDown_working h),
    fun _ _ h hc => congrArg Host.Outcome.next (State.portDown_down h hc),
    fun _ _ _ => rfl,
    fun _ _ _ hh hk => ⟨fun h => congrArg Host.Outcome.next (State.attest_passed h),
      fun h hn => congrArg Host.Outcome.next (State.attest_noKey h hn),
      fun h hn => congrArg Host.Outcome.next (State.attest_sign hh hk h hn)⟩⟩

end Sys2Proof.Machine
end

section
/-!
Decoding (O53, O54, R37 to R40) and what a step runs (O55): the words of any fields parse to those fields, short of what their length
leaves out, and the row of the opcode map that an instruction's fields select is that instruction.
-/
namespace Sys2Proof

/-! ### The fields of word 0 (Table 3.2) -/

@[simp] theorem Fields.head_len (f : Fields) : f.head.extractLsb' 0 2 = f.len := BitVec.extractLsb'_append_eq_right

@[simp] theorem Fields.head_op (f : Fields) : f.head.extractLsb' 2 5 = f.op := by
  change (f.b ++ f.a ++ f.d ++ BitVec.ofBool f.x ++ f.op ++ f.len).extractLsb' 2 5 = f.op
  simp (disch := decide) only [BitVec.extractLsb'_append_eq_of_le, Nat.reduceSub, BitVec.extractLsb'_append_eq_right]

theorem Fields.head_x (f : Fields) : f.head.getLsbD 7 = f.x := by
  change (f.b ++ f.a ++ f.d ++ BitVec.ofBool f.x ++ f.op ++ f.len).getLsbD 7 = f.x
  simp only [BitVec.getLsbD_append, Nat.reduceLT, ↓reduceIte, Nat.reduceSub, BitVec.getLsbD_ofBool, decide_true, Bool.true_and]

@[simp] theorem Fields.head_d (f : Fields) : f.head.extractLsb' 8 8 = f.d := by
  change (f.b ++ f.a ++ f.d ++ BitVec.ofBool f.x ++ f.op ++ f.len).extractLsb' 8 8 = f.d
  simp (disch := decide) only [BitVec.extractLsb'_append_eq_of_le, Nat.reduceSub, BitVec.extractLsb'_append_eq_right]

@[simp] theorem Fields.head_a (f : Fields) : f.head.extractLsb' 16 8 = f.a := by
  change (f.b ++ f.a ++ f.d ++ BitVec.ofBool f.x ++ f.op ++ f.len).extractLsb' 16 8 = f.a
  simp (disch := decide) only [BitVec.extractLsb'_append_eq_of_le, Nat.reduceSub, BitVec.extractLsb'_append_eq_right]

@[simp] theorem Fields.head_b (f : Fields) : f.head.extractLsb' 24 8 = f.b := by
  change (f.b ++ f.a ++ f.d ++ BitVec.ofBool f.x ++ f.op ++ f.len).extractLsb' 24 8 = f.b
  simp (disch := decide) only [BitVec.extractLsb'_append_eq_of_le, Nat.reduceSub, BitVec.extractLsb'_eq_self]

/-! ### Word 1 (Table 3.3) and the literal (R40) -/

@[simp] theorem Mods.ofWord_toWord (m : Mods) (sub : BitVec 8) : Mods.ofWord (m.toWord sub) = m := by
  change Mods.ofWord (BitVec.ofBool m.rel ++ BitVec.ofBool m.acq ++ BitVec.ofBool m.cu ++ BitVec.ofBool m.bi ++ BitVec.ofBool m.bu ++
    BitVec.ofBool m.au ++ BitVec.ofBool m.fsel ++ BitVec.ofBool m.ftz ++ BitVec.ofBool m.sat ++ m.rnd ++
    BitVec.ofBool m.gen ++ BitVec.ofBool m.pneg ++ m.pred ++ m.c ++ sub) = m
  simp (disch := decide) only [Mods.ofWord, BitVec.getLsbD_append, Nat.reduceLT, ↓reduceIte, BitVec.getLsbD_ofBool,
    decide_true, Bool.true_and, BitVec.extractLsb'_append_eq_of_le, Nat.reduceSub, BitVec.extractLsb'_append_eq_right]

@[simp] theorem Mods.toWord_sub (m : Mods) (sub : BitVec 8) : (m.toWord sub).extractLsb' 0 8 = sub :=
  BitVec.extractLsb'_append_eq_right

/-! ### Words and fields -/

/-- The fields that a length admits; those it leaves out are zero (Table 3.1). -/
def Fields.trim (f : Fields) : Fields :=
  match f.len.toNat with
  | 0 => { f with sub := 0#8, m := Mods.zero, w2 := 0#32, lit := 0#64 }
  | 1 => { f with lit := 0#64 }
  | 2 => { f with sub := 0#8, m := Mods.zero, w2 := 0#32 }
  | _ => f

/-- Each length LEN has. -/
theorem len_cases (l : BitVec 2) : l = 0#2 ∨ l = 1#2 ∨ l = 2#2 ∨ l = 3#2 := by
  revert l; decide

/-- The words of some fields parse to the fields their length admits, whatever words follow. -/
theorem Fields.parse_words (f : Fields) (rest : List Word) : Fields.parse (f.words ++ rest) = some f.trim := by
  obtain ⟨len, op, x, sub, d, a, b, m, w2, lit⟩ := f
  obtain rfl | rfl | rfl | rfl := len_cases len <;>
    simp [Fields.parse, Fields.words, Fields.trim, Fields.word0, Fields.head_x, Machine.dword_halves, -BitVec.getLsbD_eq_getElem]

/-- The encoding tables give an instruction no field that its length leaves out. -/
theorem Instr.trim_fields (i : Instr) : i.fields.trim = i.fields := by
  cases i <;> rfl

/-! ### Rows of the opcode map (Tables 3.9 and 3.10a) -/

/-- What has no meaning in a clause stands outside the map. -/
theorem Instr.fields_of_event {i : Instr} (h : i.sem = none) : i.fields = Fields.event := by
  cases i <;> dsimp only [Instr.sem] at h <;> cases h <;> rfl

/-- The row that the fields of an instruction of a clause select is that instruction. -/
theorem Instr.row_fields {i : Instr} (hw : i.wf = true) (h : i.fields ≠ Fields.event) : Decode.row i.fields = some i := by
  obtain ⟨m, hm⟩ : ∃ m, i.sem = some m := Option.ne_none_iff_exists'.mp (mt Instr.fields_of_event h)
  cases i with
  | movExt f => exact (Laws.Row.movExt f hw).resolve_left h
  | movWide f => exact (Laws.Row.movWide f hw).resolve_left h
  | movi d imm => exact (Laws.Row.movi d imm hw).resolve_left h
  | bra off => exact (Laws.Row.bra off hw).resolve_left h
  | brc off neg p => exact (Laws.Row.brc off neg p hw).resolve_left h
  | call off => exact (Laws.Row.call off hw).resolve_left h
  | fork pd off => exact (Laws.Row.fork pd off hw).resolve_left h
  | _ => cases hm <;> rfl

/-- Settles O53: the words parse to the fields, and the fields select their row. -/
theorem roundTrip : Obligations.RoundTrip := by
  intro i rest hw h
  rw [decodeWords, encode, Fields.parse_words, Instr.trim_fields, Option.bind_some, Fields.instr, Instr.row_fields hw h,
    Option.bind_some, if_pos hw]

/-! ### Words of the manual -/

/-- Settles O54: each word is decoded. -/
theorem decodedWords : Obligations.DecodedWords :=
  ⟨rfl, rfl, rfl, rfl, rfl, rfl, rfl, rfl, rfl⟩

end Sys2Proof

namespace Sys2Proof.Machine

/-! ### What a step runs (R48, R58, R217) -/

/-- With a clause being issued, a step executes the instruction the clause has come to. -/
theorem step_issuing {s : State} {c : Cursor} {i : Instr} (hh : s.halted = false) (hc : s.cur = some c) (hi : s.fetchInstr c = some i) :
    step s = exec i s := by
  simp [step, hh, hc, hi]

/-- A part that has stopped takes no step. -/
theorem step_halted {s : State} (h : s.halted = true) : step s = .fault .partStopped := by
  simp [step, h]

/-- Settles O55: the words at the cursor are those that the step fetches. -/
theorem stepRunsDecoded : Obligations.StepRunsDecoded := by
  refine ⟨fun s c i hh hc hi => step_issuing hh hc ?_, fun s hh hc => step_between hh hc, fun s h => step_halted h⟩
  simpa [State.fetchInstr, State.ctx, hc] using hi

end Sys2Proof.Machine
end

section
/-!
What the move to the next instruction leaves alone, and instructions of one result register (O1, O58).
-/
namespace Sys2Proof.Machine

/-! ### One wave, one crew, the lanes of a wave after a change -/

/-- Changing one wave: every other is left alone, and so is a name that no wave has. -/
theorem State.wave_modWave_cases (s : State) (k j : Nat) (f : Wave → Wave) :
    (s.modWave k f).wave j = s.wave j ∨ j = k ∧ (s.modWave k f).wave j = f (s.wave j) := by
  by_cases hj : j = k
  · subst hj
    cases hw : look j s.waves with
    | none => exact .inl (by simp [State.wave, State.modWave, hw])
    | some w => exact .inr ⟨rfl, by rw [State.wave_modWave f hw]; simp [State.wave, hw]⟩
  · exact .inl (State.wave_modWave_ne hj f)

/-- Changing one crew: every other is left alone, and so is a name that no crew has. -/
theorem State.crew_modCrew_cases (s : State) (k j : Nat) (f : Crew → Crew) :
    (s.modCrew k f).crew j = s.crew j ∨ j = k ∧ (s.modCrew k f).crew j = f (s.crew j) := by
  by_cases hj : j = k
  · subst hj
    cases hc : look j s.crews with
    | none => exact .inl (by simp [State.crew, State.modCrew, hc])
    | some c => exact .inr ⟨rfl, by rw [State.crew_modCrew f hc]; simp [State.crew, hc]⟩
  · exact .inl (State.crew_modCrew_ne hj f)

/-- Changing lanes of a wave: a lane is left alone, or it is one of the set. -/
theorem Wave.lane_mapLanes_cases (w : Wave) (m : Lanes) (f : Nat → Lane → Lane) (l : Nat) :
    (w.mapLanes m f).lane l = w.lane l ∨ m.getLsbD l = true ∧ (w.mapLanes m f).lane l = f l (w.lane l) := by
  cases hm : m.getLsbD l with
  | false => exact .inl (Wave.lane_mapLanes_out hm)
  | true =>
    by_cases hl : l < w.lanes.length
    · exact .inr ⟨rfl, Wave.lane_mapLanes hl hm⟩
    · exact .inl (by simp [Wave.lane, Wave.mapLanes, hl])

/-- The fibre is as before but for where it stands. -/
def Lane.Stays (x y : Lane) : Prop := ∃ pc pos xfer, y = { x with pc := pc, pos := pos, xfer := xfer }

theorem Lane.Stays.refl (x : Lane) : x.Stays x := ⟨_, _, _, rfl⟩

/-- The wave is as before but for where its fibres stand and which waves it lets by (R333). -/
structure Wave.Stays (w v : Wave) : Prop where
  rest : ∃ xs p, v = { w with lanes := xs, passTo := p }
  lane : ∀ l, (w.lane l).Stays (v.lane l)

theorem Wave.Stays.refl (w : Wave) : w.Stays w := ⟨⟨_, _, rfl⟩, fun _ => .refl _⟩

/-! ### What the move to the next instruction leaves alone (R48) -/

theorem State.endClause_waves_cur (s : State) (c : Cursor) : ∃ ws, s.endClause c = { s with waves := ws, cur := none } := by
  unfold State.endClause
  split
  · exact ⟨_, rfl⟩
  · exact ⟨s.waves, rfl⟩

/-- Only waves and the cursor change. -/
theorem State.advance_waves_cur (s : State) (n : Nat) : ∃ ws c, s.advance n = { s with waves := ws, cur := c } := by
  unfold State.advance
  split
  · exact ⟨s.waves, s.cur, rfl⟩
  · next c _ =>
    dsimp only
    split
    · obtain ⟨ws, h⟩ := s.endClause_waves_cur c
      exact ⟨ws, none, h⟩
    · split
      · obtain ⟨ws, h⟩ := State.endClause_waves_cur _ c
        exact ⟨ws, none, h⟩
      · exact ⟨s.waves, _, rfl⟩

/-- The end of a clause moves no fibre. -/
theorem State.endClause_wave (s : State) (c : Cursor) (k : Nat) :
    ∃ p, (s.endClause c).wave k = { s.wave k with passTo := p } := by
  unfold State.endClause
  split
  · obtain h | ⟨_, h⟩ := s.wave_modWave_cases c.wave k (fun w => { w with passTo := some (s.othersOnCore c.wave) })
    · exact ⟨_, h⟩
    · exact ⟨_, h⟩
  · exact ⟨_, rfl⟩

theorem State.endClause_lane (s : State) (c : Cursor) (k l : Nat) : ((s.endClause c).wave k).lane l = (s.wave k).lane l := by
  obtain ⟨p, h⟩ := s.endClause_wave c k
  rw [h]
  rfl

theorem State.endClause_stays (s : State) (c : Cursor) (k : Nat) : (s.wave k).Stays ((s.endClause c).wave k) := by
  obtain ⟨p, h⟩ := s.endClause_wave c k
  rw [h]
  exact ⟨⟨_, p, rfl⟩, fun _ => .refl _⟩

/-- Fibres that are stood elsewhere. -/
theorem Wave.mapLanes_stays (w : Wave) (m : Lanes) {f : Nat → Lane → Lane} (hf : ∀ l x, Lane.Stays x (f l x)) :
    w.Stays (w.mapLanes m f) := by
  refine ⟨⟨_, _, rfl⟩, fun l => ?_⟩
  obtain h | ⟨_, h⟩ := w.lane_mapLanes_cases m f l <;> rw [h]
  · exact .refl _
  · exact hf l _

theorem Lane.Stays.trans {x y z : Lane} (h : x.Stays y) (k : y.Stays z) : x.Stays z := by
  obtain ⟨_, _, _, rfl⟩ := h
  obtain ⟨_, _, _, rfl⟩ := k
  exact ⟨_, _, _, rfl⟩

theorem Wave.Stays.trans {u v w : Wave} (h : u.Stays v) (k : v.Stays w) : u.Stays w := by
  obtain ⟨⟨_, _, rfl⟩, hl⟩ := h
  obtain ⟨⟨_, _, rfl⟩, kl⟩ := k
  exact ⟨⟨_, _, rfl⟩, fun l => (hl l).trans (kl l)⟩

/-- The move to the next instruction changes at most where the fibres stand. -/
theorem State.advance_stays (s : State) (n k : Nat) : (s.wave k).Stays ((s.advance n).wave k) := by
  unfold State.advance
  split
  · exact .refl _
  · next c _ =>
    dsimp only
    split
    · exact s.endClause_stays c k
    · split
      · refine .trans ?_ (State.endClause_stays _ c k)
        obtain h | ⟨_, h⟩ := s.wave_modWave_cases c.wave k (fun w => w.mapLanes c.lanes _) <;> rw [h]
        · exact .refl _
        · exact Wave.mapLanes_stays _ _ fun _ _ => ⟨_, _, _, rfl⟩
      · exact .refl _

/-! ### One result register (R231, R42) -/

/-- The meaning of an instruction of one result register. -/
theorem Instr.sem_of_regOpOf {i : Instr} {o : RegOp} (h : regOpOf i = some o) : i.sem = some o.sem := by
  cases i <;> dsimp only [regOpOf] at h <;> cases h <;> rfl

/-- Its length is that of its form. -/
theorem Instr.size_of_regOpOf {i : Instr} {o : RegOp} (h : regOpOf i = some o) : i.size = o.g.size := by
  cases i <;> dsimp only [regOpOf] at h <;> cases h <;> rfl

/-- Once its checks find nothing it writes its result and goes on. -/
theorem exec_regOp {i : Instr} {o : RegOp} {s : State} (h : regOpOf i = some o) (hc : s.Clear o.g o.roles o.opds)
    (hf : s.OnLanes (s.ctx.act o.g.m) (fun ln => o.fmt (readAll s.ctx.crew ln o.srcs) = none)) :
    exec i s = .next ((o.eff s).advance i.size) := by
  obtain ⟨hi, hr, hw, hl⟩ := hc
  obtain ⟨c, hcur⟩ := hi.cur
  rw [Instr.size_of_regOpOf h]
  exact exec_simple (Instr.sem_of_regOpOf h) hcur (State.static_none hr hw) (State.check_none hl hf.format)

/-- Settles O1: the effect of `RegOp.eff`, which writes once in the uniform form and in every active lane otherwise. -/
theorem registerResult : Obligations.RegisterResult := by
  intro i o s h hc hf
  rw [exec_regOp h hc hf]
  simp [RegOp.eff]

/-- The result goes to a crew or to a wave. -/
theorem RegOp.eff_crews_waves (o : RegOp) (s : State) : ∃ cs ws, o.eff s = { s with crews := cs, waves := ws } := by
  simp only [RegOp.eff]
  split
  · split
    · exact ⟨s.crews, s.waves, rfl⟩
    · exact ⟨_, s.waves, rfl⟩
  · exact ⟨s.crews, _, rfl⟩

/-- A crew is left alone, or it is the one served, and the uniform form writes its one register. -/
theorem RegOp.eff_crew (o : RegOp) (s : State) (k : Nat) :
    (o.eff s).crew k = s.crew k ∨ k = s.ctx.crewId ∧ o.uni = true ∧ ∃ r, (o.eff s).crew k = (s.crew k).setUni o.g.d r := by
  simp only [RegOp.eff]
  split
  · next hu =>
    split
    · exact .inl rfl
    · obtain h | ⟨hk, h⟩ := s.crew_modCrew_cases s.ctx.crewId k (fun c => c.setUni o.g.d _)
      · exact .inl h
      · exact .inr ⟨hk, hu, _, h⟩
  · exact .inl rfl

/-- Of a wave at most lanes change. -/
theorem RegOp.eff_wave (o : RegOp) (s : State) (k : Nat) : ∃ xs, (o.eff s).wave k = { s.wave k with lanes := xs } := by
  simp only [RegOp.eff]
  split
  · split <;> exact ⟨_, rfl⟩
  · obtain h | ⟨_, h⟩ := s.wave_modWave_cases s.ctx.cur.wave k (fun w => w.mapLanes (s.ctx.act o.g.m) _)
    · exact ⟨_, h⟩
    · exact ⟨_, h⟩

/-- A lane is left alone, or it is an active one of the wave served, and the vector form writes its one register. -/
theorem RegOp.eff_lane (o : RegOp) (s : State) (k l : Nat) :
    ((o.eff s).wave k).lane l = (s.wave k).lane l ∨
      (k = s.ctx.cur.wave ∧ o.uni = false ∧ (s.ctx.act o.g.m).getLsbD l = true) ∧
        ∃ r, ((o.eff s).wave k).lane l = ((s.wave k).lane l).writeV o.g.d r := by
  simp only [RegOp.eff]
  split
  · split <;> exact .inl rfl
  · next hu =>
    obtain h | ⟨hk, h⟩ := s.wave_modWave_cases s.ctx.cur.wave k (fun w => w.mapLanes (s.ctx.act o.g.m) _) <;> rw [h]
    · exact .inl rfl
    · obtain h | ⟨hm, h⟩ := (s.wave k).lane_mapLanes_cases (s.ctx.act o.g.m) _ l <;> rw [h]
      · exact .inl rfl
      · exact .inr ⟨⟨hk, by simpa using hu, hm⟩, _, rfl⟩

section
variable (o : RegOp) (s : State) (n k : Nat)

/-- Completing the instruction changes crews, waves and the cursor alone. -/
theorem RegOp.advance_eff_rest : ∃ cs ws c, (o.eff s).advance n = { s with crews := cs, waves := ws, cur := c } := by
  obtain ⟨cs, ws, he⟩ := o.eff_crews_waves s
  obtain ⟨vs, c, ha⟩ := (o.eff s).advance_waves_cur n
  exact ⟨cs, vs, c, by rw [ha, he]⟩

/-- The crews are those that the write leaves. -/
theorem RegOp.advance_eff_crew : ((o.eff s).advance n).crew k = (o.eff s).crew k := by
  simp [State.crew]

/-- No local memory changes. -/
theorem RegOp.advance_eff_lmem : (((o.eff s).advance n).crew k).lmem = (s.crew k).lmem := by
  rw [o.advance_eff_crew]
  obtain h | ⟨_, _, _, h⟩ := o.eff_crew s k <;> rw [h]
  rfl

/-- No uniform register changes but the destination of the uniform form in the crew served. -/
theorem RegOp.advance_eff_uni {r : Nat} (hr : k ≠ s.ctx.crewId ∨ o.uni = false ∨ r ≠ o.g.d) :
    (((o.eff s).advance n).crew k).uni r = (s.crew k).uni r := by
  rw [o.advance_eff_crew]
  obtain h | ⟨hk, hu, _, h⟩ := o.eff_crew s k <;> rw [h]
  exact Crew.uni_setUni_ne fun hd => by simp [hk, hu, hd] at hr

/-- Nothing of a wave changes but its lanes and which waves it lets by. -/
theorem RegOp.advance_eff_wave : ∃ xs p, ((o.eff s).advance n).wave k = { s.wave k with lanes := xs, passTo := p } := by
  obtain ⟨xs, hw⟩ := o.eff_wave s k
  obtain ⟨⟨ys, p, hv⟩, _⟩ := (o.eff s).advance_stays n k
  exact ⟨ys, p, by rw [hv, hw]⟩

/-- Of a lane the destination changes, where the lane is active in the wave served and the form is not uniform, and where the fibre
stands. -/
theorem RegOp.advance_eff_lane (l : Nat) :
    let x := (s.wave k).lane l
    let y := (((o.eff s).advance n).wave k).lane l
    y.preds = x.preds ∧ y.spill = x.spill ∧ y.wb = x.wb ∧ y.status = x.status ∧
      ∀ r, (k ≠ s.ctx.cur.wave ∨ o.uni = true ∨ r ≠ o.g.d ∨ (s.ctx.act o.g.m).getLsbD l = false) → y.readV r = x.readV r := by
  intro x y
  obtain ⟨_, _, _, hy⟩ : Lane.Stays _ y := ((o.eff s).advance_stays n k).lane l
  rw [hy]
  obtain h | ⟨⟨hk, hu, hm⟩, v, h⟩ := o.eff_lane s k l <;> rw [h]
  · exact ⟨rfl, rfl, rfl, rfl, fun _ _ => rfl⟩
  · refine ⟨Lane.writeV_preds .., Lane.writeV_spill .., Lane.writeV_wb .., Lane.writeV_status .., fun r hr => ?_⟩
    exact Lane.readV_writeV_ne (x := x) (r := v) fun hd => by simp [hk, hu, hd, hm, -BitVec.getLsbD_eq_getElem] at hr

end

/-- Settles O58: the effect writes one register, and the move to the next instruction changes where fibres stand. -/
theorem registerFrame : Obligations.RegisterFrame := by
  intro i o s t h hc hf ht
  rw [exec_regOp h hc hf] at ht
  cases ht
  refine ⟨?_, fun k => o.advance_eff_lmem s _ k, ?_, ?_, ?_, ?_, ?_, ?_, ?_, ?_, ?_, ?_, ?_, ?_, ?_, ?_, ?_, ?_, ?_, ?_,
    fun k r hr => o.advance_eff_uni s _ k hr, fun k => ?_⟩
  case refine_20 =>
    obtain ⟨_, _, hw⟩ := o.advance_eff_wave s i.size k
    exact ⟨by rw [hw], by rw [hw], by rw [hw], by rw [hw], by rw [hw], fun l => o.advance_eff_lane s _ k l⟩
  all_goals
    obtain ⟨_, _, _, ha⟩ := o.advance_eff_rest s i.size
    rw [ha]

end Sys2Proof.Machine
end

section
/-!
The wide MOV (O3), and where fibres stand after a transfer (O13).
-/
namespace Sys2Proof.Machine

/-! ### The wide MOV (R43) -/

/-- No register that an active lane reads or names is pending, each lane having registers of its own. -/
theorem inflightBy_none {x : Ctx} {act : Lanes} {os : Nat → List Opd}
    (h : ∀ l, l < 32 → act.getLsbD l = true → ∀ o ∈ os l, o.pending x.crew (x.wave.lane l) = false) : inflightBy x act os = none := by
  refine laneFault_none fun l hl ha => ?_
  have : (os l).find? (fun o => o.pending x.crew (x.wave.lane l)) = none :=
    List.find?_eq_none.mpr fun o ho => by simp [h l hl ha o ho]
  simp [this]

/-- Once its checks find nothing and a fibre is active, the wide MOV does what its kind says. -/
theorem exec_movWide {f : Ext} {s : State} (hi : s.Issuing) (hr : s.HasRole rolesAll)
    (hw : s.InWindow [if f.arg.w2f 20 2 = 2 then Opd.v (f.arg.w2f 10 10) else .u (f.arg.w2f 10 10),
      if f.arg.w2f 20 2 = 1 then .v (f.arg.w2f 0 10) else .u (f.arg.w2f 0 10)])
    (hl : s.Landed f.arg [if f.arg.w2f 20 2 = 1 then .v (f.arg.w2f 0 10) else .u (f.arg.w2f 0 10)])
    (hs : if f.arg.w2f 20 2 = 2 then ((s.ctx.wave.lane (lowestLane (s.ctx.act f.arg.m))).readV (f.arg.w2f 10 10)).pend = false
      else (s.ctx.crew.uni (f.arg.w2f 10 10)).pend = false) :
    exec (.movWide f) s = .next (((semMovWide f.arg).eff s).advance 3) := by
  obtain ⟨c, hcur⟩ := hi.cur
  refine exec_simple rfl hcur (State.static_none hr (by simpa using hw)) (inflightBy_none fun l hl32 ha o ho => ?_)
  have hdst := hl l hl32 ha
  simp only [List.mem_singleton, forall_eq] at hdst
  split at ho
  · simp only [List.drop_succ_cons, List.drop_zero, List.mem_singleton, beq_iff_eq] at ho
    exact ho ▸ hdst
  · next hlow =>
    simp only [List.mem_cons, List.not_mem_nil, or_false, beq_iff_eq] at ho
    obtain rfl | rfl := ho
    · split at hs
      · next hk =>
        have : l = lowestLane (s.ctx.act f.arg.m) := by simpa [hk] using hlow
        simpa [hk, this, Opd.pending] using hs
      · next hk => simpa [hk, Opd.pending] using hs
    · exact hdst

/-- Settles O3, one kind after the other. -/
theorem wideMoveResult : Obligations.WideMoveResult := by
  intro f s g src dst low hi hr hw hl hs ha
  rw [exec_movWide hi hr hw hl hs]
  refine ⟨fun hk => ?_, fun hk => ?_, fun hk => ?_⟩ <;> simp [semMovWide, Sem.simple, ha, hk, g, src, dst, low]

/-! ### After a transfer (R48, R18) -/

/-- What a transfer leaves of the clause. -/
theorem State.transfer_cur {s : State} {c : Cursor} (h : s.cur = some c) (m : Lanes) (f : Nat → Lane → Lane) :
    (s.transfer m f).cur = some { c with lanes := c.lanes &&& ~~~m } := by
  simp [State.transfer, h]

/-- A transfer stands its fibres elsewhere. -/
theorem State.transfer_waves {s : State} {c : Cursor} (h : s.cur = some c) (m : Lanes) (f : Nat → Lane → Lane) :
    (s.transfer m f).waves = change c.wave (fun w => w.mapLanes m (fun l ln => { f l ln with pos := 0, xfer := some c.addr })) s.waves := by
  simp only [State.transfer, h]
  rfl

@[simp] theorem State.endClause_cur (s : State) (c : Cursor) : (s.endClause c).cur = none := by
  unfold State.endClause
  split <;> rfl

/-- The last instruction of a clause ends it. -/
theorem State.advance_last_cur {s : State} {c : Cursor} {n : Nat} (hc : s.cur = some c) (hn : c.count ≤ c.idx + 1) :
    (s.advance n).cur = none := by
  by_cases hl : c.lanes = 0#32
  · simp [State.advance, hc, hl]
  · simp [State.advance_last hc hl hn]

/-- It leaves the fibres still in the clause at the next header. -/
theorem State.advance_last_lane {s : State} {c : Cursor} {w : Wave} {n l : Nat} (hc : s.cur = some c) (hn : c.count ≤ c.idx + 1)
    (hw : look c.wave s.waves = some w) (hl : l < w.lanes.length) (hm : c.lanes.getLsbD l = true) :
    ((s.advance n).wave c.wave).lane l = { w.lane l with pc := c.addr + BitVec.ofNat 32 n, pos := 0, xfer := none } := by
  have h0 : c.lanes ≠ 0#32 := fun h => by simp [h] at hm
  rw [State.advance_last hc h0 hn, State.endClause_lane, State.wave_modWave _ hw, Wave.lane_mapLanes hl hm]

/-- No other lane moves. -/
theorem State.advance_last_lane_out {s : State} {c : Cursor} {w : Wave} {n l : Nat} (hc : s.cur = some c) (hn : c.count ≤ c.idx + 1)
    (hw : look c.wave s.waves = some w) (hm : c.lanes.getLsbD l = false) : ((s.advance n).wave c.wave).lane l = w.lane l := by
  by_cases h0 : c.lanes = 0#32
  · have : s.advance n = s.endClause c := by simp [State.advance, hc, h0]
    rw [this, State.endClause_lane]
    simp [State.wave, hw]
  · rw [State.advance_last hc h0 hn, State.endClause_lane, State.wave_modWave _ hw, Wave.lane_mapLanes_out hm]

/-- Settles O13: the transfer stands its fibres, then the end of the clause stands those that did not take it. -/
theorem clauseLeft : Obligations.ClauseLeft := by
  intro s c w m f n hc hn hw hlen hsub
  generalize hg : (fun (l : Nat) (ln : Lane) => { f l ln with pos := 0, xfer := some c.addr }) = g
  have hc' := State.transfer_cur hc m f
  have hw' : look c.wave (s.transfer m f).waves = some (w.mapLanes m g) := by
    rw [State.transfer_waves hc, hg, look_change_self, hw]
    rfl
  have hlen' : (w.mapLanes m g).lanes.length = 32 := by simpa [Wave.mapLanes] using hlen
  refine ⟨State.advance_last_cur hc' hn, fun l hl => ⟨fun hm => ?_, fun hm hcl => ?_, fun hcl => ?_⟩⟩
  · rw [State.advance_last_lane_out hc' hn hw' (by simp [hm]), Wave.lane_mapLanes (hlen ▸ hl) hm, ← hg]
  · rw [State.advance_last_lane hc' hn hw' (hlen' ▸ hl) (by simp [hm, hcl, hl, -BitVec.getLsbD_eq_getElem]), Wave.lane_mapLanes_out hm]
  · have hm : m.getLsbD l = false := Bool.eq_false_iff.mpr fun h => by simp [hsub l h] at hcl
    rw [State.advance_last_lane_out hc' hn hw' (by simp [hcl]), Wave.lane_mapLanes_out hm]

end Sys2Proof.Machine
end

section
/-!
Landings, fences and atomics at their home (O40): what a landing of each kind writes, when an access performs, and the word of Table 5.10.
-/
namespace Sys2Proof.Machine

/-! ### LANDING (R53) -/

section
variable {s : State} {k : Nat} {f : Flight}

/-- A load whose fibre and core have nothing before it, and whose page is there, has its word (R112, R110, R108). -/
theorem State.performLoad_reads {l phys : Nat} {a : VAddr} {tag : Tag} {v : Word} (hf : f.fault = none)
    (hp : f.payload = .load l phys a tag)
    (hb : s.blocked k f.wave (laneBit l) [((s.wave f.wave).lane l).fibre] a 4 = false)
    (hc : s.behindCore k f.op (s.wave f.wave).crew a = false) (hv : s.taskWord? (s.wave f.wave).crew a = some v) :
    s.performLoad k f = { s with flights := change k (fun x => { x with payload := .regs [.lane l phys v tag] }) s.flights } := by
  simp [State.performLoad, hf, hp, hb, hc, hv]

theorem State.landRay_hit {l phys : Nat} {cut : Dword} {ray : List Word} {h : Hit}
    (hq : s.rayQuery (s.wave f.wave).crew cut ray = .ok (some h)) :
    s.landRay k f l phys cut ray = s.landDests k f (rayDests l phys h.t h.prim) := by
  simp only [State.landRay, hq]

theorem State.landRay_miss {l phys : Nat} {cut : Dword} {ray : List Word} (hq : s.rayQuery (s.wave f.wave).crew cut ray = .ok none) :
    s.landRay k f l phys cut ray = s.landDests k f (rayDests l phys f32InfW 0xFFFF_FFFF#32) := by
  simp only [State.landRay, hq]

/-- A descriptor that is bad is the ray's error, and a deferred fault (R169). -/
theorem State.landRay_bad {l phys off : Nat} {cut addr : Dword} {ray : List Word}
    (hq : s.rayQuery (s.wave f.wave).crew cut ray = .error (.bad addr off)) :
    s.landRay k f l phys cut ray = (s.landDests k f (rayDests l phys rayErrorT rayErrorPrim)).defer
      { gang := (s.crew (s.wave f.wave).crew).gang, crew := (s.wave f.wave).crew, cls := .descriptor, addr := addr,
        info := BitVec.ofNat 64 off, till := tillFlag f.wave f.flag } := by
  simp only [State.landRay, hq]

/-- A page that is missing holds the ray. -/
theorem State.landRay_held {l phys : Nat} {cut : Dword} {ray : List Word} {a : VAddr}
    (hq : s.rayQuery (s.wave f.wave).crew cut ray = .error (.miss a)) :
    s.landRay k f l phys cut ray = s.holdFlight k f (s.wave f.wave).crew a := by
  simp only [State.landRay, hq]

theorem State.landNear_found {d n i dist : Nat} {q : Hyper} {base : VAddr}
    (hq : s.nearest (s.wave f.wave).crew q base 0 n (0xFFFF_FFFF, 8193) = .ok (i, dist)) :
    s.landNear k f d q base n = s.landDests k f (nearDests d i dist) := by
  simp only [State.landNear, hq]

/-- A page that is missing holds the query. -/
theorem State.landNear_held {d n : Nat} {q : Hyper} {base a : VAddr}
    (hq : s.nearest (s.wave f.wave).crew q base 0 n (0xFFFF_FFFF, 8193) = .error a) :
    s.landNear k f d q base n = s.holdFlight k f (s.wave f.wave).crew a := by
  simp only [State.landNear, hq]

variable (hk : look k s.flights = some f) (hf : f.fault = none) (ha : s.awake (s.wave f.wave).crew = true)
include hk hf ha

theorem State.landFlight_regs {ds : List Dest} (hp : f.payload = .regs ds) : s.landFlight k = s.landDests k f ds := by
  simp [State.landFlight, hk, hf, ha, hp]

theorem State.landFlight_hdist {d : Nat} {v : Word} (hp : f.payload = .hdist d v) : s.landFlight k = s.landDests k f [.uni d v .n32] := by
  simp [State.landFlight, hk, hf, ha, hp]

theorem State.landFlight_tile {n : Nat} {tag : Tag} {els : List Word} (hp : f.payload = .tile n tag els) :
    s.landFlight k = (s.modWave f.wave (fun w => w.setTile n (fun t => { t with tag := tag, elems := els, pend := false }))).endFlight k f := by
  simp [State.landFlight, hk, hf, ha, hp]

theorem State.landFlight_answer {c off : Nat} {x y : Word} (hp : f.payload = .answer c off x y) :
    s.landFlight k = { s.putLmem c off 4 x.toNat with flights := change k (fun w => { w with payload := .rest c off y }) s.flights } := by
  simp [State.landFlight, hk, hf, ha, hp]

theorem State.landFlight_rest {c off : Nat} {y : Word} (hp : f.payload = .rest c off y) :
    s.landFlight k = (s.putLmem c (off + 4) 4 y.toNat).endFlight k f := by
  simp [State.landFlight, hk, hf, ha, hp]

/-- A load that has its word lands at once. -/
theorem State.landFlight_load {l phys : Nat} {a : VAddr} {tag : Tag} {v : Word} (hp : f.payload = .load l phys a tag)
    (hb : s.blocked k f.wave (laneBit l) [((s.wave f.wave).lane l).fibre] a 4 = false)
    (hc : s.behindCore k f.op (s.wave f.wave).crew a = false) (hv : s.taskWord? (s.wave f.wave).crew a = some v) :
    s.landFlight k = ({ s with flights := change k (fun x => { x with payload := .regs [.lane l phys v tag] }) s.flights } : State).landDests
      k f [.lane l phys v tag] := by
  simp [State.landFlight, hk, hf, ha, hp, State.performLoad_reads hf hp hb hc hv]

theorem State.landFlight_ray {l phys : Nat} {cut : Dword} {ray : List Word} (hp : f.payload = .rayq l phys cut ray)
    (hq : s.quiet f.wave k = true) : s.landFlight k = s.landRay k f l phys cut ray := by
  simp [State.landFlight, hk, hf, ha, hp, hq]

theorem State.landFlight_near {d n : Nat} {q : Hyper} {base : VAddr} (hp : f.payload = .hnear d q base n) (hq : s.quiet f.wave k = true)
    (ht : s.recallTurn f = true) :
    s.landFlight k =
      (s.engineServed (.recall (clusterOfCore (s.coreOfWave f.wave))) (s.partOf (s.wave f.wave).crew)).landNear k f d q base n := by
  simp [State.landFlight, hk, hf, ha, hp, hq, ht]

/-- A query waits for the turn of its partition (R210). -/
theorem State.landFlight_near_waits {d n : Nat} {q : Hyper} {base : VAddr} (hp : f.payload = .hnear d q base n)
    (ht : s.recallTurn f = false) : s.landFlight k = s := by
  simp [State.landFlight, hk, hf, ha, hp, ht]

end

/-! ### FENCE_COMPLETE (R119) -/

/-- A fence all of whose accesses have performed is complete. -/
theorem State.fenceComplete_done {s : State} {wave slot : Nat} {f : Fence} (h : ((s.wave wave).fences[slot]?).getD Fence.idle = f)
    (hb : f.busy = true) (hc : ∀ k ∈ f.cover, look k s.accesses = none ∧ look k s.flights = none) :
    s.fenceComplete wave slot = s.modWave wave (fun w => { w with fences := w.fences.set slot { f with busy := false, cover := [] } }) := by
  simp only [State.fenceComplete, h]
  refine if_pos ?_
  simp only [hb, Bool.true_and, Bool.not_eq_true', List.any_eq_false]
  exact fun k hm => by simp [hc k hm]

/-! ### Memory after a word is put at its home -/

/-- The states differ in what their memories hold alone. -/
structure State.MemoryOnly (s t : State) : Prop where
  rest : ∃ m cs, t = { s with mem := m, crews := cs }
  crew : ∀ k, (t.crew k).gang = (s.crew k).gang

theorem State.MemoryOnly.refl (s : State) : s.MemoryOnly s := ⟨⟨_, _, rfl⟩, fun _ => rfl⟩

theorem State.MemoryOnly.trans {s t u : State} (h : s.MemoryOnly t) (k : t.MemoryOnly u) : s.MemoryOnly u := by
  obtain ⟨⟨_, _, rfl⟩, hc⟩ := h
  obtain ⟨⟨_, _, rfl⟩, kc⟩ := k
  exact ⟨⟨_, _, rfl⟩, fun j => (kc j).trans (hc j)⟩

theorem State.writeHome_memoryOnly (s : State) (h : Home) (b : Byte) : s.MemoryOnly (s.writeHome h b) := by
  cases h with
  | phys a => exact ⟨⟨_, _, rfl⟩, fun _ => rfl⟩
  | loc c o =>
    refine ⟨⟨_, _, rfl⟩, fun k => ?_⟩
    obtain h | ⟨_, h⟩ := s.crew_modCrew_cases c k (fun cr => { cr with lmem := cellWrite o b cr.lmem })
    · exact (congrArg Crew.gang h :)
    · exact (congrArg Crew.gang h :)

theorem State.putNat_memoryOnly (s : State) (hs : List Home) (v : Nat) : s.MemoryOnly (s.putNat hs v) := by
  induction hs generalizing s v with
  | nil => exact .refl s
  | cons h hs ih => exact (s.writeHome_memoryOnly h _).trans (ih _ _)

theorem State.putHomeWord_memoryOnly (s : State) (h : Home) (v : Word) : s.MemoryOnly (s.putHomeWord h v) :=
  s.putNat_memoryOnly _ _

theorem State.putHomeDword_memoryOnly (s : State) (h : Home) (v : Dword) : s.MemoryOnly (s.putHomeDword h v) :=
  (s.putNat_memoryOnly _ _).trans (State.putNat_memoryOnly _ _ _)

/-- What counts as a barrier object does not depend on what memory holds (log 19). -/
theorem State.MemoryOnly.barrierAtom {s t : State} (h : s.MemoryOnly t) (x : Home) : t.barrierAtom x = s.barrierAtom x := by
  obtain ⟨⟨m, cs, rfl⟩, hc⟩ := h
  simp only [State.barrierAtom, State.barInUse, hc]
  rfl

/-- A crew of that name is there, where the home is in its local memory. -/
def State.Has (s : State) (h : Home) : Prop := ∀ c o, h = .loc c o → (look c s.crews).isSome = true

theorem State.Has.plus {s : State} {h : Home} (hh : s.Has h) (n : Nat) : s.Has (h.plus n) := by
  cases h with
  | phys a => exact fun _ _ e => nomatch e
  | loc c o => exact fun _ _ e => by cases e; exact hh c o rfl

theorem State.Has.writeHome {s : State} {x : Home} (hx : s.Has x) (h : Home) (b : Byte) : (s.writeHome h b).Has x := by
  intro c o e
  have hc := hx c o e
  cases h with
  | phys a => exact hc
  | loc d p =>
    by_cases hd : c = d
    · subst hd
      simpa [State.writeHome, State.modCrew] using hc
    · simpa [State.writeHome, State.modCrew, look_change_ne hd] using hc

theorem State.Has.putNat {s : State} {x : Home} (hx : s.Has x) (hs : List Home) (v : Nat) : (s.putNat hs v).Has x := by
  induction hs generalizing s v with
  | nil => exact hx
  | cons h hs ih => exact ih (hx.writeHome h _) _

theorem State.readHome_writeHome {s : State} {x : Home} (b : Byte) (h : s.memoriesWf = true) (hx : s.Has x) :
    (s.writeHome x b).readHome x = b := by
  refine State.readHome_writeHome_self h ?_
  cases x with
  | phys a => trivial
  | loc c o => exact hx c o rfl

/-- Bytes put elsewhere leave a home alone. -/
theorem State.readHome_putNat {s : State} {x : Home} {hs : List Home} (v : Nat) (h : s.memoriesWf = true) (hx : x ∉ hs) :
    (s.putNat hs v).readHome x = s.readHome x := by
  induction hs generalizing s v with
  | nil => rfl
  | cons y hs ih =>
    obtain ⟨hy, hx⟩ := not_or.mp (mt List.mem_cons.mpr hx)
    exact (ih _ (State.memWf_writeHome h) hx).trans (State.readHome_writeHome_ne h hy)

theorem State.natAt_putNat_other {s : State} {xs hs : List Home} (v : Nat) (h : s.memoriesWf = true) (hd : ∀ x ∈ xs, x ∉ hs) :
    (s.putNat hs v).natAt xs = s.natAt xs := by
  induction xs with
  | nil => rfl
  | cons x xs ih =>
    obtain ⟨hx, hd⟩ := List.forall_mem_cons.mp hd
    simp only [State.natAt, State.readHome_putNat v h hx, ih hd]

/-- A number put at homes that are there reads back, as far as it fits. -/
theorem State.natAt_putNat {s : State} {hs : List Home} (v : Nat) (h : s.memoriesWf = true) (hn : hs.Nodup) (hx : ∀ x ∈ hs, s.Has x) :
    (s.putNat hs v).natAt hs = v % 256 ^ hs.length := by
  induction hs generalizing s v with
  | nil => simp [State.natAt, Nat.mod_one]
  | cons x hs ih =>
    obtain ⟨hx0, hn⟩ := List.nodup_cons.mp hn
    have hw := State.memWf_writeHome (x := x) (b := BitVec.ofNat 8 v) h
    have hhas : ∀ y ∈ hs, (s.writeHome x (BitVec.ofNat 8 v)).Has y := fun y hy => (hx y (List.mem_cons_of_mem _ hy)).writeHome x _
    simp only [State.putNat, State.natAt, State.readHome_putNat _ hw hx0, State.readHome_writeHome _ h (hx x (List.mem_cons_self ..)),
      ih (v / 256) hw hn hhas, BitVec.toNat_ofNat, List.length_cons, Nat.pow_succ']
    exact (Nat.mod_mul).symm

/-- The four bytes of a word. -/
def Home.word (h : Home) : List Home := [h, h.plus 1, h.plus 2, h.plus 3]

theorem Home.nodup_word (h : Home) : h.word.Nodup := by
  cases h <;> simp [Home.word, Home.plus]

/-- The two words of a double word do not overlap. -/
theorem Home.word_disjoint (h : Home) : ∀ x ∈ h.word, x ∉ (h.plus 4).word := by
  cases h <;> simp [Home.word, Home.plus] <;> omega

theorem State.Has.word {s : State} {h : Home} (hh : s.Has h) : ∀ x ∈ h.word, s.Has x := by
  simp only [Home.word, List.mem_cons, List.not_mem_nil, or_false, forall_eq_or_imp, forall_eq]
  exact ⟨hh, hh.plus 1, hh.plus 2, hh.plus 3⟩

/-- A word put at a home reads back. -/
theorem State.homeWord_putHomeWord {s : State} {h : Home} (v : Word) (hw : s.memoriesWf = true) (hh : s.Has h) :
    (s.putHomeWord h v).homeWord h = v := by
  have := State.natAt_putNat v.toNat hw h.nodup_word hh.word
  simp only [Home.word] at this
  simp only [State.homeWord, State.putHomeWord, this]
  apply BitVec.eq_of_toNat_eq
  have := v.isLt
  simp
  omega

/-- A double word put at a home reads back. -/
theorem State.homeDword_putHomeDword {s : State} {h : Home} (v : Dword) (hw : s.memoriesWf = true) (hh : s.Has h) :
    (s.putHomeDword h v).homeDword h = v := by
  have hw' : (s.putHomeWord h (v.extractLsb' 0 32)).memoriesWf = true := State.memWf_putNat hw
  have hh' : (s.putHomeWord h (v.extractLsb' 0 32)).Has (h.plus 4) := (hh.plus 4).putNat _ _
  have hlow : ((s.putHomeWord h (v.extractLsb' 0 32)).putHomeWord (h.plus 4) (v.extractLsb' 32 32)).homeWord h = v.extractLsb' 0 32 :=
    (congrArg (BitVec.ofNat 32) (State.natAt_putNat_other _ hw' h.word_disjoint)).trans (State.homeWord_putHomeWord _ hw hh)
  simp only [State.homeDword, State.putHomeDword, State.homeWord_putHomeWord _ hw' hh', hlow, dword_halves]

/-! ### The word an atomic leaves (Table 5.10) -/

/-- A signed element is the number its bits stand for in two's complement. -/
theorem intElem_signed {n : Nat} (x : BitVec n) : intElem true n x.toNat = x.toInt := by
  cases n with
  | zero => simp [intElem, BitVec.of_length_zero]
  | succ n =>
    by_cases h : 2 ^ n ≤ x.toNat
    · have : ¬ 2 * x.toNat < 2 ^ (n + 1) := by omega
      simp [intElem, BitVec.toInt, h, this]
    · have : 2 * x.toNat < 2 ^ (n + 1) := by omega
      simp [intElem, BitVec.toInt, h, this]

theorem pickMin_toNat {n : Nat} (sgn : Bool) (old x : BitVec n) :
    pickMin sgn n old.toNat x.toNat = (if sgn then (if old.sle x then old else x) else if old.ule x then old else x).toNat := by
  cases sgn with
  | true => simp only [pickMin, intElem_signed, BitVec.sle, decide_eq_true_eq, if_true]; split <;> rfl
  | false => simp [pickMin, intElem, BitVec.ule]; split <;> rfl

theorem pickMax_toNat {n : Nat} (sgn : Bool) (old x : BitVec n) :
    pickMax sgn n old.toNat x.toNat = (if sgn then (if x.sle old then old else x) else if x.ule old then old else x).toNat := by
  cases sgn with
  | true => simp only [pickMax, intElem_signed, BitVec.sle, decide_eq_true_eq, if_true]; split <;> rfl
  | false => simp [pickMax, intElem, BitVec.ule]; split <;> rfl

/-- The model's word of an atomic is that of Table 5.10. -/
theorem atomApply_toNat {n : Nat} (op : Nat) (tag : Tag) (old x : BitVec n) :
    BitVec.ofNat n (atomApply op n tag old.toNat x.toNat) = tableWord op tag old x := by
  match op with
  | 0 => simp [atomApply, tableWord, ← BitVec.toNat_add]
  | 1 => rfl
  | 2 => simp [atomApply, tableWord, pickMin_toNat]
  | 3 => simp [atomApply, tableWord, pickMax_toNat]
  | 4 => simp [atomApply, tableWord, ← BitVec.toNat_and]
  | 5 => simp [atomApply, tableWord, ← BitVec.toNat_or]
  | 6 => simp [atomApply, tableWord, ← BitVec.toNat_xor]
  | 7 => simp [atomApply, tableWord]
  | 8 =>
    simp only [atomApply, tableWord, Nat.min_def, BitVec.ule, decide_eq_true_eq]
    split <;> simp
  | 9 => simp only [atomApply, tableWord]; split <;> rfl
  | 10 => rfl
  | n + 11 =>
    simp only [atomApply, tableWord, BitVec.ule, decide_eq_true_eq]
    split
    · rfl
    · apply BitVec.eq_of_toNat_eq; simp

/-- A word operand is passed as a double word. -/
theorem toNat_wordOperand (x : Word) : (x.setWidth 64).toNat = x.toNat := BitVec.toNat_setWidth_of_le (by decide)

theorem AccessOp.apply_atom {op : Nat} {tag : Tag} (old x : Word) :
    BitVec.ofNat 32 ((AccessOp.atom op false (x.setWidth 64) tag).apply old.toNat) = tableWord op tag old x := by
  rw [← atomApply_toNat, ← toNat_wordOperand x]
  rfl

theorem AccessOp.apply_atom_wide {op : Nat} {tag : Tag} (old x : Dword) :
    BitVec.ofNat 64 ((AccessOp.atom op true x tag).apply old.toNat) = tableWord op tag old x := by
  rw [← atomApply_toNat]
  rfl

theorem AccessOp.apply_cas {tag : Tag} (old x cmp : Word) :
    BitVec.ofNat 32 ((AccessOp.cas false (x.setWidth 64) (cmp.setWidth 64) tag).apply old.toNat) = if old = cmp then x else old := by
  simp only [AccessOp.apply, toNat_wordOperand, beq_iff_eq, BitVec.toNat_inj]
  split <;> simp

theorem AccessOp.apply_cas_wide {tag : Tag} (old x cmp : Dword) :
    BitVec.ofNat 64 ((AccessOp.cas true x cmp tag).apply old.toNat) = if old = cmp then x else old := by
  simp only [AccessOp.apply, beq_iff_eq, BitVec.toNat_inj]
  split <;> simp

/-! ### What an atomic does at its home (R107, R245) -/

/-- An access to a word answers the old one and leaves its new one; on a barrier object the completion test follows. -/
theorem State.performAt_word (s : State) (h : Home) {o : AccessOp} (ho : o.wide = false) :
    let t := s.putHomeWord h (BitVec.ofNat 32 (o.apply (s.homeWord h).toNat))
    s.performAt h o = ((s.homeWord h).toNat, if s.barrierAtom h = true then t.testPhase h.object else t) := by
  simp only [State.performAt, ho, Bool.false_eq_true, if_false, (s.putHomeWord_memoryOnly h _).barrierAtom h]

theorem State.performAt_dword (s : State) (h : Home) {o : AccessOp} (ho : o.wide = true) :
    let t := s.putHomeDword h (BitVec.ofNat 64 (o.apply (s.homeDword h).toNat))
    s.performAt h o = ((s.homeDword h).toNat, if s.barrierAtom h = true then t.testPhase h.object else t) := by
  simp only [State.performAt, ho, if_true, (s.putHomeDword_memoryOnly h _).barrierAtom h]

section
variable {s : State} {h : Home} {o : AccessOp} (hw : s.memoriesWf = true) (hh : s.Has h) (hb : s.barrierAtom h = false)
include hw hh hb

/-- Outside barrier objects an access to a word answers the old word, and leaves the new one. -/
theorem State.performAt_word_data (ho : o.wide = false) :
    (s.performAt h o).1 = (s.homeWord h).toNat ∧
      (s.performAt h o).2.homeWord h = BitVec.ofNat 32 (o.apply (s.homeWord h).toNat) := by
  simp [s.performAt_word h ho, hb, State.homeWord_putHomeWord _ hw hh]

theorem State.performAt_dword_data (ho : o.wide = true) :
    (s.performAt h o).1 = (s.homeDword h).toNat ∧
      (s.performAt h o).2.homeDword h = BitVec.ofNat 64 (o.apply (s.homeDword h).toNat) := by
  simp [s.performAt_dword h ho, hb, State.homeDword_putHomeDword _ hw hh]

end

/-! ### ATOMIC_PERFORM (R237) -/

/-- An entry that a name leads to is in the table. -/
theorem mem_of_look {α : Type} {k : Nat} {a : α} {t : List (Nat × α)} (h : look k t = some a) : (k, a) ∈ t := by
  induction t with
  | nil => cases h
  | cons e t ih =>
    obtain ⟨j, b⟩ := e
    by_cases hj : j = k
    · obtain rfl : b = a := by simpa [look, hj] using h
      exact hj ▸ List.mem_cons_self ..
    · exact List.mem_cons_of_mem _ (ih (by simpa [look, hj] using h))

section
variable {s : State} {k : Nat} {a : Access}

theorem State.performAccess_waits (hk : look k s.accesses = some a) (hr : s.accessReady k a = false) : s.performAccess k = s := by
  simp [State.performAccess, hk, hr]

theorem State.performAccess_ready (hk : look k s.accesses = some a) (hr : s.accessReady k a = true) :
    s.performAccess k = (s.hostServed (s.overHost a) a.crew).performDue k a := by
  simp [State.performAccess, hk, hr]

/-- Only an atomic goes over the host link. -/
theorem State.overHost_of_not_inTurn (h : a.what.inTurn = false) : s.overHost a = false := by
  simp [State.overHost, h]

/-- An atomic of a lower lane that is under way to the same line comes first (R237). -/
theorem State.accessReady_behind {j : Nat} {b : Access} (hj : look j s.accesses = some b) (hlt : j < k) (hc : a.crew = b.crew)
    (ht : b.what.inTurn = true) (hl : s.sameLine b.crew b.addr a.crew a.addr = true) (hs : s.sent j b = true) :
    s.accessReady k a = false := by
  have : s.behindCore k a.op a.crew a.addr = true := by
    simp only [State.behindCore, Bool.or_eq_true]
    exact .inl (List.any_eq_true.mpr ⟨(j, b), mem_of_look hj, by simp [hlt, ht, hs, hc, hc ▸ hl]⟩)
  simp [State.accessReady, State.accessMay, this]

/-- Only a store or a reduction is buffered. -/
theorem State.not_inTurn_of_buffersAt {x : Nat × Nat} (h : s.buffersAt a = some x) : a.what.inTurn = false := by
  unfold State.buffersAt at h
  cases hw : a.what with
  | store | red => rfl
  | _ => simp [hw] at h

theorem State.performDue_buffers {i o : Nat} (hb : s.buffersAt a = some (i, o)) :
    s.performDue k a = (s.buffer a.crew (a.what.entries i o) []).answerAccess k a 0 := by
  simp [State.performDue, hb]

theorem State.performDue_here {h : Home} (ht : ∀ i sl ls pc st, a.what ≠ .trap i sl ls pc st) (hb : s.buffersAt a = none)
    (hh : s.home? (s.spaceOfCrew a.crew).1 (s.spaceOfCrew a.crew).2 a.addr = some h)
    (hr : reaches a.what a.scope a.addr (s.targetOf (s.spaceOfCrew a.crew).1 (s.spaceOfCrew a.crew).2 a.addr) = true) :
    s.performDue k a = s.performHere k a (s.spaceOfCrew a.crew).1 (s.spaceOfCrew a.crew).2 h := by
  simp only [State.performDue, hb, hh]
  cases hw : a.what with
  | trap i sl ls pc st => exact absurd hw (ht i sl ls pc st)
  | _ => rw [hw] at hr; simp [hr]

/-- Serving the host link changes its turns alone. -/
theorem State.hostServed_turns (used : Bool) (crew : Nat) : ∃ ts, s.hostServed used crew = { s with turns := ts } := by
  unfold State.hostServed
  split
  · exact ⟨_, rfl⟩
  · exact ⟨s.turns, rfl⟩

/-- An access that is ready, not buffered and in reach performs at its home. -/
theorem State.performAccess_here {h : Home} (hk : look k s.accesses = some a) (hready : s.accessReady k a = true)
    (ht : ∀ i sl ls pc st, a.what ≠ .trap i sl ls pc st) (hb : s.buffersAt a = none)
    (hh : s.home? (s.spaceOfCrew a.crew).1 (s.spaceOfCrew a.crew).2 a.addr = some h)
    (hr : reaches a.what a.scope a.addr (s.targetOf (s.spaceOfCrew a.crew).1 (s.spaceOfCrew a.crew).2 a.addr) = true) :
    s.performAccess k = (s.hostServed (s.overHost a) a.crew).performHere k a (s.spaceOfCrew a.crew).1 (s.spaceOfCrew a.crew).2 h := by
  rw [State.performAccess_ready hk hready]
  obtain ⟨ts, he⟩ := State.hostServed_turns (s := s) (s.overHost a) a.crew
  rw [he]
  exact State.performDue_here (s := { s with turns := ts }) ht hb hh hr

/-- The host link serves nothing where the access is no atomic. -/
theorem State.performAccess_here_plain {h : Home} (hk : look k s.accesses = some a) (hready : s.accessReady k a = true)
    (ht : ∀ i sl ls pc st, a.what ≠ .trap i sl ls pc st) (hn : a.what.inTurn = false) (hb : s.buffersAt a = none)
    (hh : s.home? (s.spaceOfCrew a.crew).1 (s.spaceOfCrew a.crew).2 a.addr = some h)
    (hr : reaches a.what a.scope a.addr (s.targetOf (s.spaceOfCrew a.crew).1 (s.spaceOfCrew a.crew).2 a.addr) = true) :
    s.performAccess k = s.performHere k a (s.spaceOfCrew a.crew).1 (s.spaceOfCrew a.crew).2 h := by
  rw [State.performAccess_here hk hready ht hb hh hr, State.overHost_of_not_inTurn hn]
  rfl

variable {h : Home} {p t : Nat}

/-- An atomic leaves its word, marks the page, and answers the old word. -/
theorem State.performHere_inTurn (hn : a.what.inTurn = true) :
    s.performHere k a p t h = ((s.performAt h a.what).2.markDirty p t a.addr).answerAccess k a (s.performAt h a.what).1 := by
  unfold State.performHere
  cases hw : a.what with
  | atom | cas => rfl
  | _ => simp [hw, AccessOp.inTurn] at hn

theorem State.performHere_store {x : Word} (hw : a.what = .store x) :
    s.performHere k a p t h = ((s.storeWord h x).markDirty p t a.addr).answerAccess k a 0 := by
  simp only [State.performHere, hw]

theorem State.performHere_bar {op : BarOp} (hw : a.what = .bar op) :
    s.performHere k a p t h = ({ s with accesses := drop k s.accesses } : State).barOp h op := by
  simp only [State.performHere, hw]

/-- The access is over, and its old value is on its way to landing, as one word or two. -/
theorem State.answerAccess_ret {phys : Nat} (old : Nat) (hr : a.ret = some phys) :
    s.answerAccess k a old = ({ s with accesses := drop k s.accesses } : State).addFlight
      { op := a.op, wave := a.wave, flag := a.flag, txns := a.txns, lines := [], fault := none,
        payload := .regs (atomDests a.lane phys a.what.wide a.what.retTag old) } := by
  simp only [State.answerAccess, hr]

end

/-- Settles O40, one kind of landing, then one case of an access, after the other. -/
theorem landingEvents : Obligations.LandingEvents := by
  refine ⟨fun k f s hk hf ha => ⟨fun ds hp => ?_, fun d v hp => ?_, fun n tag els hp => ?_, fun c off x y hp => ?_, fun c off y hp => ?_,
      fun l phys a tag v hp hb hc hv => ?_, fun l phys cut ray hp hq => ⟨fun h hr => ?_, fun hr => ?_, fun addr off hr => ?_, fun a hr => ?_⟩,
      fun d q base n hp hq => ⟨fun ht => ?_, fun i dist ht hn => ?_, fun a ht hn => ?_⟩⟩,
    fun wave slot s hb hc => ?_,
    fun k a s hk => ⟨fun hr => ?_, fun hh => ?_, fun hh => ?_⟩,
    fun j k a b s hk hj hlt _ hc ht hl hs => ?_,
    fun k i o a s hk hr hb => ?_,
    fun k a h s hk hready hb hh hr => ⟨fun op w x tag hw => ?_, fun w x cmp tag hw => ?_, fun x hw => ?_, fun op hw => ?_⟩,
    fun h x cmp op tag s hw hh hb => ?_, fun h x cmp op tag s hw hh hb => ?_, fun h x op tag s hb => ?_,
    fun k old phys a s hr => ⟨?_, ?_⟩, fun op w x tag => ?_⟩
  -- LANDING, by what the flight carries
  · exact congrArg Host.Outcome.next (State.landFlight_regs hk hf ha hp)
  · exact congrArg Host.Outcome.next (State.landFlight_hdist hk hf ha hp)
  · exact congrArg Host.Outcome.next (State.landFlight_tile hk hf ha hp)
  · exact congrArg Host.Outcome.next (State.landFlight_answer hk hf ha hp)
  · exact congrArg Host.Outcome.next (State.landFlight_rest hk hf ha hp)
  · exact congrArg Host.Outcome.next (State.landFlight_load hk hf ha hp hb hc hv)
  · exact congrArg Host.Outcome.next ((State.landFlight_ray hk hf ha hp hq).trans (State.landRay_hit hr))
  · exact congrArg Host.Outcome.next ((State.landFlight_ray hk hf ha hp hq).trans (State.landRay_miss hr))
  · exact congrArg Host.Outcome.next ((State.landFlight_ray hk hf ha hp hq).trans (State.landRay_bad hr))
  · exact congrArg Host.Outcome.next ((State.landFlight_ray hk hf ha hp hq).trans (State.landRay_held hr))
  · exact congrArg Host.Outcome.next (State.landFlight_near_waits hk hf ha hp ht)
  · exact congrArg Host.Outcome.next ((State.landFlight_near hk hf ha hp hq ht).trans (State.landNear_found hn))
  · exact congrArg Host.Outcome.next ((State.landFlight_near hk hf ha hp hq ht).trans (State.landNear_held hn))
  -- FENCE_COMPLETE
  · exact congrArg Host.Outcome.next (State.fenceComplete_done rfl hb hc)
  -- ATOMIC_PERFORM: when an access performs
  · exact congrArg Host.Outcome.next (State.performAccess_waits hk hr)
  · simp [State.accessReady, hh]
  · simp [State.accessReady, State.hostTurn, hh]
  · exact congrArg Host.Outcome.next (State.performAccess_waits hk (State.accessReady_behind hj hlt hc ht hl hs))
  -- where it performs
  · have hn := State.overHost_of_not_inTurn (s := s) (State.not_inTurn_of_buffersAt hb)
    refine congrArg Host.Outcome.next ((State.performAccess_ready hk hr).trans ?_)
    rw [hn]
    exact State.performDue_buffers hb
  · exact congrArg Host.Outcome.next ((State.performAccess_here hk hready (by simp [hw]) hb hh hr).trans
      (State.performHere_inTurn (by rw [hw]; rfl)))
  · exact congrArg Host.Outcome.next ((State.performAccess_here hk hready (by simp [hw]) hb hh hr).trans
      (State.performHere_inTurn (by rw [hw]; rfl)))
  · exact congrArg Host.Outcome.next ((State.performAccess_here_plain hk hready (by simp [hw]) (by rw [hw]; rfl) hb hh hr).trans
      (State.performHere_store hw))
  · exact congrArg Host.Outcome.next ((State.performAccess_here_plain hk hready (by simp [hw]) (by rw [hw]; rfl) hb hh hr).trans
      (State.performHere_bar hw))
  -- what an atomic leaves there, and what it returns
  · intro old a c
    obtain ⟨ha, ha'⟩ := State.performAt_word_data (o := .atom op false (x.setWidth 64) tag) hw hh hb rfl
    obtain ⟨hc, hc'⟩ := State.performAt_word_data (o := .cas false (x.setWidth 64) (cmp.setWidth 64) tag) hw hh hb rfl
    exact ⟨ha, ha'.trans (AccessOp.apply_atom ..), hc, hc'.trans (AccessOp.apply_cas ..)⟩
  · intro old a c
    obtain ⟨ha, ha'⟩ := State.performAt_dword_data (o := .atom op true x tag) hw hh hb rfl
    obtain ⟨hc, hc'⟩ := State.performAt_dword_data (o := .cas true x cmp tag) hw hh hb rfl
    exact ⟨ha, ha'.trans (AccessOp.apply_atom_wide ..), hc, hc'.trans (AccessOp.apply_cas_wide ..)⟩
  · rw [s.performAt_word h rfl, AccessOp.apply_atom, if_pos hb]
  · rw [State.answerAccess_ret old hr]
    rfl
  · rw [State.answerAccess_ret old hr]
    rfl
  · simp [AccessOp.retTag]

end Sys2Proof.Machine
end

section
/-!
REDUCE and SCAN (O6): the lowest active lane stands for the tag that all active lanes carry.
-/
namespace Sys2Proof.Machine

/-! ### The meaning of each form (R303, R308) -/

/-- The meaning of a form of REDUCE or SCAN. -/
theorem Instr.sem_of_treeOf {i : Instr} {g : Arg} {scan : Bool} (h : treeOf i = some (g, scan)) :
    i.sem = some (redSem g (if scan then 13 else 12) scan) := by
  cases i <;> dsimp only [treeOf] at h <;> cases h <;> rfl

/-- Its length is that of its form. -/
theorem Instr.size_of_treeOf {i : Instr} {g : Arg} {scan : Bool} (h : treeOf i = some (g, scan)) : i.size = g.size := by
  cases i <;> dsimp only [treeOf] at h <;> cases h <;> rfl

/-! ### The common tag -/

/-- What every active lane meets, the lowest active lane meets. -/
theorem State.OnLanes.lowest {s : State} {act : Lanes} {P : Lane → Prop} (h : s.OnLanes act P) (ha : act ≠ 0#32) :
    P (s.ctx.wave.lane (lowestLane act)) :=
  have ⟨hl, hm⟩ := lowestLane_spec ha
  h _ hl hm

/-- One allowed tag in every active lane: no FORMAT fault. -/
theorem redFormat_none {s : State} {act : Lanes} {g : Arg} {t : Tag} (ht : s.OnLanes act (fun ln => (ln.readV g.a).tag = t))
    (hok : redTagOk (g.b % 16) t = true) (ha : act ≠ 0#32) : redFormat s.ctx act g = none := by
  have hlow : ((s.ctx.wave.lane (lowestLane act)).readV g.a).tag = t := ht.lowest ha
  refine formatFault_none fun l hl hm => ?_
  have hlane : ((s.ctx.wave.lane l).readV g.a).tag = t := ht l hl hm
  simp [hlow, hlane, hok]

/-- Settles O6: the checks find nothing, and the tag that the effect takes from the lowest active lane is that of all of them. -/
theorem treeResult : Obligations.TreeResult := by
  intro i g scan t s h hc hok ht ha
  obtain ⟨hi, hr, hw, hl⟩ := hc
  obtain ⟨c, hcur⟩ := hi.cur
  have hlow : ((s.ctx.wave.lane (lowestLane (s.ctx.act g.m))).readV g.a).tag = t := ht.lowest ha
  rw [Instr.size_of_treeOf h, ← hlow]
  exact exec_simple (Instr.sem_of_treeOf h) hcur (State.static_none hr hw) (State.check_none hl (redFormat_none ht hok ha))

end Sys2Proof.Machine
end

section
/-!
FAULT_SERVICED and FAULT_DECLARED_FATAL (O42): what a fault held is let go, or ends with a deferred TRANSLATE.
-/
namespace Sys2Proof.Machine

/-! ### FAULT_SERVICED (R108) -/

/-- A fault is over, and nothing waits on it any more. -/
def State.letGo (s : State) (f : Nat) : State :=
  { s with
    tfaults := drop f s.tfaults,
    accesses := s.accesses.map (fun e => if e.2.fault == some f then (e.1, { e.2 with fault := none }) else e),
    flights := s.flights.map (fun e => if e.2.fault == some f then (e.1, { e.2 with fault := none }) else e),
    copies := s.copies.map (fun e => match e.2.susp with
      | some (_, g) => if g == f then (e.1, { e.2 with susp := none }) else e
      | none => e),
    views := s.views.map (fun e => if e.2.fault == some f then (e.1, { e.2 with fault := none }) else e) }

/-- No entry names a fault once every entry that names it has been changed to name none. -/
theorem fault_ne_of_mem_map {α : Type} {fault : α → Option Nat} {g : α → α} (hg : ∀ a, fault (g a) = none) (f : Nat)
    (t : List (Nat × α)) : ∀ e ∈ t.map (fun e => if fault e.2 == some f then (e.1, g e.2) else e), fault e.2 ≠ some f :=
  List.forall_mem_map.mpr fun e _ => by
    split
    · simp [hg]
    · next h => simpa using h

theorem State.letGo_accesses (s : State) (f : Nat) : ∀ e ∈ (s.letGo f).accesses, e.2.fault ≠ some f :=
  fault_ne_of_mem_map (fault := Access.fault) (g := fun a => { a with fault := none }) (fun _ => rfl) f s.accesses

theorem State.letGo_flights (s : State) (f : Nat) : ∀ e ∈ (s.letGo f).flights, e.2.fault ≠ some f :=
  fault_ne_of_mem_map (fault := Flight.fault) (g := fun x => { x with fault := none }) (fun _ => rfl) f s.flights

theorem State.letGo_views (s : State) (f : Nat) : ∀ e ∈ (s.letGo f).views, e.2.fault ≠ some f :=
  fault_ne_of_mem_map (fault := View.fault) (g := fun v => { v with fault := none }) (fun _ => rfl) f s.views

theorem State.letGo_copies (s : State) (f : Nat) : ∀ e ∈ (s.letGo f).copies, ∀ n, e.2.susp ≠ some (n, f) :=
  List.forall_mem_map.mpr fun e _ n => by
    split
    · next hs =>
      split
      · simp
      · next h => simpa [hs] using fun _ => h
    · next hs => simp [hs]

/-- The pages are added to their tenant, the fault lets go what it held, and that goes on. -/
theorem State.faultServiced_open {s : State} {f : Nat} {t : TFault} (pages : List PageSpec) (hf : look f s.tfaults = some t)
    (ht : t.fatal = false) :
    let new := addedPages (((s.tenant? t.part t.tenant).map (·.pages)).getD []) pages
    s.faultServiced f pages =
      (((((s.snapPages t.part t.tenant new).modPart t.part (fun p => { p with tenants := p.tenants.map (fun n =>
        if n.id == t.tenant then { n with pages := n.pages ++ new } else n) })).letGo f).resumeHeld
          (names (fun a => a.fault == some f) s.accesses) (names (fun x => x.fault == some f) s.flights)).postAgain) := by
  simp only [State.faultServiced, hf, ht, Bool.false_eq_true, if_false]
  rfl

/-- Pages that R108 allows, none meeting one before it, are all added (log 53). -/
theorem addedPages_all {old pages : List Page} (hok : pages.all Page.ok = true)
    (hp : (old ++ pages).Pairwise (fun p q => Page.meets q p = false)) : addedPages old pages = pages := by
  induction pages generalizing old with
  | nil => rfl
  | cons p ps ih =>
    simp only [List.all_cons, Bool.and_eq_true] at hok
    have hmeets : old.any (Page.meets p) = false :=
      List.any_eq_false.mpr fun q hq => by
        simpa using (List.pairwise_append.mp hp).2.2 q hq p (List.mem_cons_self ..)
    have hrest : addedPages (old ++ [p]) ps = ps := ih hok.2 (by simpa using hp)
    simp [addedPages, hok.1, hmeets, hrest]

/-! ### FAULT_DECLARED_FATAL (R108) -/

/-- A fault holds nothing in flight: no access, no flight, no copy, no view. -/
theorem State.faultHolds_eq_false {s : State} {f : Nat} : s.faultHolds f = false ↔
    s.accesses.filter (fun e => e.2.fault == some f) = [] ∧ s.flights.filter (fun e => e.2.fault == some f) = [] ∧
    s.copies.filter (fun e => match e.2.susp with | some (_, g) => g == f | none => false) = [] ∧
    names (fun (v : View) => v.fault == some f) s.views = [] := by
  have hsusp (e : Nat × Copy) : (match e.2.susp with | some (_, g) => g == f | none => false) = e.2.susp.any (fun x => x.2 == f) := by
    cases e.2.susp <;> rfl
  simp only [State.faultHolds, names, hsusp, Bool.or_eq_false_iff, List.any_eq_false, List.filter_eq_nil_iff, List.map_eq_nil_iff,
    and_assoc]

/-- An access that a fatal fault held answers 0; its TRANSLATE waits where `Access.till` says. -/
theorem State.failAccess_till (s : State) (k : Nat) {a : Access} {till : List Until} (h : a.till = till) :
    s.failAccess k a = (s.answerAccess k a 0).deferTranslate a.crew a.addr till := by
  rw [State.failAccess, h]

theorem Access.till_credit {a : Access} {n : Nat} (h : a.what = .bar (.credit n)) : a.till = [.object a.addr] := by
  simp only [Access.till, h]

/-- The fault of another access than a credit waits on the access's flag, or for FWAIT where it returns nothing. -/
theorem Access.till_other {a : Access} (h : ∀ n, a.what ≠ .bar (.credit n)) :
    a.till = if a.ret.isSome then tillFlag a.wave a.flag else [.fwait] := by
  unfold Access.till
  split
  · next hw => exact absurd hw (h _)
  · next hr _ => simp [hr]
  · next hr _ => simp [hr]

/-- Settles O42, one event after the other, then what each thing held becomes. -/
theorem translationEvents : Obligations.TranslationEvents := by
  refine ⟨fun f t pages s hf ht => ?_, fun f t s hf ht => ?_, fun k a s => ⟨fun n hw => ?_, fun phys fl hw hr hl => ?_, fun hw hr => ?_⟩,
    fun k fl x a s hl => ⟨fun l phys b tag hp => ?_, fun l phys cut ray hp => ?_, fun d q base n hp => ?_⟩⟩
  · intro old acc lds
    exact ⟨_, congrArg Host.Outcome.next (State.faultServiced_open pages hf ht), rfl, rfl, rfl, State.letGo_accesses _ f,
      State.letGo_flights _ f, State.letGo_views _ f, State.letGo_copies _ f, rfl, addedPages_all⟩
  · intro acc fls cps vws gone fatal kept base hkept hgone a b c d
    have hbase : base = { s with
        tfaults := if !s.faultHolds f then change f (fun t => { t with fatal := true }) s.tfaults else drop f s.tfaults } := by
      cases hh : s.faultHolds f with
      | false => exact hkept (State.faultHolds_eq_false.mp hh)
      | true => exact hgone fun h => by simp [State.faultHolds_eq_false.mpr h] at hh
    refine congrArg Host.Outcome.next ?_
    simp only [State.faultFatal, hf, ht, Bool.false_eq_true, if_false, ← hbase]
    rfl
  · exact s.failAccess_till k (Access.till_credit hw)
  · exact s.failAccess_till k (by simp [Access.till_other hw, hr, hl, tillFlag])
  · exact s.failAccess_till k (by simp [Access.till_other hw, hr])
  · simp only [State.failFlight, hp, hl, tillFlag]
  · simp only [State.failFlight, hp, hl, tillFlag]; rfl
  · simp only [State.failFlight, hp, hl, tillFlag]; rfl

end Sys2Proof.Machine
end

section
/-!
COPY_PACKET, COPY_HOLD_RELEASE and COPYS_SIGNAL (O41): what a packet leaves by what stopped it, where a signal goes, and what it does to
its counter.
-/
namespace Sys2Proof.Machine

/-! ### COPY_PACKET (R102, R94, R97, R108) -/

/-- A copy after elements of it have landed, or have gone out of a peer port. -/
def Copy.moved (c : Copy) (first done : Nat) : Copy := if c.toPeer then c.goneOut first done else c.landed first done

/-- Only what is left, what is on its way and the claims of a copy change. -/
theorem Copy.moved_rest (c : Copy) (first done : Nat) :
    ∃ left sent claims, c.moved first done = { c with left := left, sent := sent, claims := claims } := by
  unfold Copy.moved Copy.goneOut
  split
  · split
    · exact ⟨c.left, c.sent, c.claims, rfl⟩
    · exact ⟨_, _, c.claims, rfl⟩
  · exact ⟨_, c.sent, _, rfl⟩

theorem Copy.moved_signal (c : Copy) (first done : Nat) : (c.moved first done).signal = c.signal := by
  obtain ⟨_, _, _, h⟩ := c.moved_rest first done
  rw [h]

theorem Copy.moved_susp (c : Copy) (first done : Nat) : (c.moved first done).susp = c.susp := by
  obtain ⟨_, _, _, h⟩ := c.moved_rest first done
  rw [h]

theorem Copy.moved_desc (c : Copy) (first done : Nat) : (c.moved first done).desc = c.desc := by
  obtain ⟨_, _, _, h⟩ := c.moved_rest first done
  rw [h]

/-- The state once a packet's elements have moved: the copy stands after them, and what landed is credited (R102). -/
def State.packetMoved (u : State) (k : Nat) (c : Copy) (first done : Nat) : State :=
  let v : State := { u with copies := change k (fun _ => c.moved first done) u.copies }
  match c.desc.cred with
  | some bar => if c.toPeer || done == 0 then v else v.credit c.crew c.wave bar (done * c.desc.unit)
  | none => v

/-- What becomes of a copy by what stopped its packet, from the state after its elements moved. -/
def State.packetOver (w : State) (k : Nat) (d : Copy) (elem : Nat) : Option ElemStop → State
  | none => if d.left.isEmpty && !d.signal && d.susp.isNone then w.finishCopy k d 0 else w
  | some .held => w
  | some (.miss a) => if d.susp.isSome then w else w.suspendCopy k d elem a
  | some .late => w.failCopy k d .descriptor d.desc.addr 80#64
  | some (.fatal a) => w.failCopy k d .translate (w.toTagged a) 0#64

section
variable {k first n : Nat} {c : Copy} {s : State} (hk : look k s.copies = some c)
include hk

/-- A packet that may go moves its elements up to the one that stops it. -/
theorem State.copyPacket_moves {done : Nat} {stop : Option ElemStop} {u : State} (hsusp : ∀ e f, c.susp = some (e, f) → first + n ≤ e)
    (hawake : s.awake c.crew = true) (hn : 0 < n) (hbytes : n * c.desc.unit ≤ 64) (hleft : allLeft c.left first n = true)
    (hgoes : s.elemGoes k c first = true) (hturn : s.copyTurn c (s.packetHost c first n) = true)
    (hm : (s.copyServed c (s.packetHost c first n)).moveElems k c first n 0 = (done, stop, u)) :
    s.copyPacket k first n = (u.packetMoved k c first done).packetOver k (c.moved first done) (first + done) stop := by
  have hlate : (match c.susp with | some (e, _) => decide (e < first + n) | none => false) = false := by
    split
    · next e f h => simpa using hsusp e f h
    · rfl
  have hgo : ¬ ((match c.susp with | some (e, _) => decide (e < first + n) | none => false) || !s.awake c.crew || n == 0 ||
      decide (64 < n * c.desc.unit) || !allLeft c.left first n || !s.elemGoes k c first ||
      !s.copyTurn c (s.packetHost c first n)) = true := by
    simp [hlate, hawake, hleft, hgoes, hturn, Nat.ne_of_gt hn, hbytes]
  have hmoved : State.packetMoved u k c first done = (
      let v : State := { u with copies := change k (fun _ => c.moved first done) u.copies }
      if (c.moved first done).toPeer then v else v.creditLanded (c.moved first done) done) := by
    obtain ⟨left, sent, claims, h⟩ := c.moved_rest first done
    simp only [State.packetMoved, State.creditLanded, h, Copy.toPeer]
    cases c.desc.cred <;> cases c.desc.tgt == 2 <;> simp
  rw [hmoved]
  simp only [State.copyPacket, hk]
  refine (if_neg hgo).trans ?_
  simp only [hm]
  cases stop with
  | none => rfl
  | some e => cases e <;> rfl

/-- Out of turn, or before an element it must wait for, a packet moves nothing (R210). -/
theorem State.copyPacket_waits (h : s.copyTurn c (s.packetHost c first n) = false ∨ s.elemGoes k c first = false) :
    s.copyPacket k first n = s := by
  simp only [State.copyPacket, hk]
  refine if_pos ?_
  obtain h | h := h <;> simp [h]

end

/-! ### COPYS_SIGNAL (R104, R196) -/

/-- Serving a copy changes the turns of its engine and its links alone. -/
theorem State.copyServed_turns (s : State) (c : Copy) (host : Bool) : ∃ ts, s.copyServed c host = { s with turns := ts } := by
  obtain ⟨ts, h⟩ := State.hostServed_turns (s := s.engineServed (.copies (s.copyCluster c)) (s.partOf c.crew)) host c.crew
  unfold State.copyServed
  dsimp only
  split <;> exact ⟨_, by rw [h]; rfl⟩

@[simp] theorem State.copyServed_copyUnreached (s : State) (c : Copy) (host : Bool) (d : Copy) (a : VAddr) :
    (s.copyServed c host).copyUnreached d a = s.copyUnreached d a := by
  obtain ⟨ts, h⟩ := s.copyServed_turns c host
  rw [h]
  rfl

@[simp] theorem State.copyServed_home? (s : State) (c : Copy) (host : Bool) (part tenant : Nat) (a : VAddr) :
    (s.copyServed c host).home? part tenant a = s.home? part tenant a := by
  obtain ⟨ts, h⟩ := s.copyServed_turns c host
  rw [h]
  rfl

@[simp] theorem State.copyServed_toTagged (s : State) (c : Copy) (host : Bool) (a : VAddr) :
    (s.copyServed c host).toTagged a = s.toTagged a := by
  obtain ⟨ts, h⟩ := s.copyServed_turns c host
  rw [h]
  rfl

@[simp] theorem State.copyServed_peerOut (s : State) (c : Copy) (host : Bool) : (s.copyServed c host).peerOut = s.peerOut := by
  obtain ⟨ts, h⟩ := s.copyServed_turns c host
  rw [h]

@[simp] theorem State.copyServed_copies (s : State) (c : Copy) (host : Bool) : (s.copyServed c host).copies = s.copies := by
  obtain ⟨ts, h⟩ := s.copyServed_turns c host
  rw [h]

section
variable {k : Nat} {c : Copy} {s : State} (hk : look k s.copies = some c)
include hk

theorem State.copysSignal_waits (ht : s.copyTurn c (s.inHost c.crew c.desc.ctr) = false) : s.copysSignal k = s := by
  simp [State.copysSignal, hk, ht]

variable (hd : c.signalDue = true) (ha : s.awake c.crew = true) (ht : s.copyTurn c (s.inHost c.crew c.desc.ctr) = true)
include hd ha ht

/-- A signal that cannot reach its counter ends the copy. -/
theorem State.copysSignal_unreached (hu : s.copyUnreached c c.desc.ctr = true) :
    s.copysSignal k = (s.copyServed c (s.inHost c.crew c.desc.ctr)).failCopy k c .translate (s.toTagged c.desc.ctr) 0#64 := by
  simp [State.copysSignal, hk, hd, ha, ht, hu]

variable (hu : s.copyUnreached c c.desc.ctr = false)
include hu

/-- A signal to a peer goes out of the port, and waits for the answer (R203). -/
theorem State.copysSignal_peer {a : Nat} (hc : c.desc.ctr = .peer a) :
    s.copysSignal k = { s.copyServed c (s.inHost c.crew c.desc.ctr) with
      peerOut := s.peerOut ++ [.signal c.desc.port k a c.desc.dec], copies := change k (fun x => { x with asked := true }) s.copies } := by
  rw [hc] at ht hu
  simp [State.copysSignal, hk, hd, ha, ht, hu, hc]

/-- A signal whose counter has a home here counts it down and ends the copy. -/
theorem State.copysSignal_home {h : Home} (hc : ∀ a, c.desc.ctr ≠ .peer a)
    (hh : s.home? (s.spaceOfCrew c.crew).1 (s.spaceOfCrew c.crew).2 c.desc.ctr = some h) :
    s.copysSignal k = (((s.copyServed c (s.inHost c.crew c.desc.ctr)).counterSignal (s.spaceOfCrew c.crew).1 (s.spaceOfCrew c.crew).2 h
      c.desc.dec).markDirty (s.spaceOfCrew c.crew).1 (s.spaceOfCrew c.crew).2 c.desc.ctr).finishCopy k c 0 := by
  simp [State.copysSignal, hk, hd, ha, ht, hu, hh]

/-- A signal whose counter's page is absent suspends the copy (R108). -/
theorem State.copysSignal_absent (hc : ∀ a, c.desc.ctr ≠ .peer a)
    (hh : s.home? (s.spaceOfCrew c.crew).1 (s.spaceOfCrew c.crew).2 c.desc.ctr = none) :
    s.copysSignal k = (s.copyServed c (s.inHost c.crew c.desc.ctr)).suspendCopy k c c.desc.total c.desc.ctr := by
  simp [State.copysSignal, hk, hd, ha, ht, hu, hh]

end

/-! ### The counter (R104, R196) -/

section
variable {s : State} {part tenant : Nat} {h : Home} {dec : Word}

/-- A signal that does not take its counter from above 0 to 0 or below fires no slot. -/
theorem State.counterSignal_passes (hn : ¬ (0 < (s.homeDword h).toInt ∧ (s.homeDword h - dec.setWidth 64).toInt ≤ 0)) :
    s.counterSignal part tenant h dec = s.putHomeDword h (s.homeDword h - dec.setWidth 64) := by
  simp only [State.counterSignal]
  exact if_neg (by simpa using hn)

/-- One that does fires the slots bound there, each of which adds its RELOAD. -/
theorem State.counterSignal_fires (h0 : 0 < (s.homeDword h).toInt) (hn : (s.homeDword h - dec.setWidth 64).toInt ≤ 0) :
    s.counterSignal part tenant h dec = (s.boundSlots part tenant h).foldl (fun t n => t.fireSlot part n 0 true)
      (s.putHomeDword h ((s.boundSlots part tenant h).foldl (fun v n => v + ((s.part part).slot n).reload)
        (s.homeDword h - dec.setWidth 64))) := by
  simp only [State.counterSignal]
  exact if_pos (by rw [Bool.and_eq_true, decide_eq_true_eq, decide_eq_true_eq]; exact ⟨h0, hn⟩)

/-- Where nothing fires, the counter alone changes. -/
theorem State.counterSignal_quiet (hq : ¬ (0 < (s.homeDword h).toInt ∧ (s.homeDword h - dec.setWidth 64).toInt ≤ 0) ∨
    s.boundSlots part tenant h = []) : s.counterSignal part tenant h dec = s.putHomeDword h (s.homeDword h - dec.setWidth 64) := by
  by_cases hp : 0 < (s.homeDword h).toInt ∧ (s.homeDword h - dec.setWidth 64).toInt ≤ 0
  · rw [State.counterSignal_fires hp.1 hp.2, hq.resolve_left (not_not_intro hp)]
    rfl
  · exact State.counterSignal_passes hp

theorem State.MemoryOnly.parts {s t : State} (hm : s.MemoryOnly t) : t.parts = s.parts := by
  obtain ⟨⟨m, cs, rfl⟩, _⟩ := hm
  rfl

end

/-! ### Turns (R210) -/

/-- It is a copy's turn where it is its turn at each link that it takes, and at the engine of its cluster. -/
theorem State.copyTurn_iff {s : State} {c : Copy} {host : Bool} : s.copyTurn c host = true ↔
    s.linkTurn c = true ∧ (host = true → s.hostTurn c.crew = true) ∧
    s.engineServes (.copies (s.copyCluster c)) (fun part => s.copies.any (fun e =>
      s.copyCluster e.2 == s.copyCluster c && s.partOf e.2.crew == part && s.copyWork e.1 e.2)) = some (s.partOf c.crew) := by
  cases host <;> simp [State.copyTurn, and_assoc]

/-- A copy that can go on while it is not its partition's turn at the host link goes on elsewhere. -/
theorem State.copyMay_elsewhere {s : State} {k : Nat} {c : Copy} (hm : s.copyMay k c = true) (ht : s.hostTurn c.crew = false) :
    (∃ r ∈ c.left, ∃ i < r.len, s.elemGoes k c (r.base + i) = true ∧ s.elemHost c (r.base + i) = false) ∨
      (c.signalDue = true ∧ s.inHost c.crew c.desc.ctr = false) := by
  simpa [State.copyMay, ht] using (Bool.and_eq_true_iff.mp hm).2

/-- Settles O41: a packet by what stopped it, a signal by where its counter stands, then the counter and the turns. -/
theorem copyEvents : Obligations.CopyEvents := by
  refine ⟨fun k first n done c stop u s hk hsusp hawake hn hbytes hleft hgoes hturn hm => ?_, fun k status c s => ⟨rfl, rfl⟩,
    fun k c s hk => ?_, fun k c a s hk hsig hleft hsent hasked hsusp hawake => ?_, fun part tenant h dec s hw hh => ⟨fun hq => ?_, fun h0 hn => ?_⟩,
    fun k first n c s hk h => ?_, fun c host s ht => ?_, fun k c s hm ht => State.copyMay_elsewhere hm ht⟩
  -- COPY_PACKET
  · intro d v w
    have hx : exec (.copyPacket k first n) s = .next (w.packetOver k d (first + done) stop) :=
      congrArg Host.Outcome.next (State.copyPacket_moves hk hsusp hawake hn hbytes hleft hgoes hturn hm)
    have hsignal : d.signal = c.signal := c.moved_signal first done
    have hsuspended : d.susp = c.susp := c.moved_susp first done
    have hdesc : d.desc = c.desc := c.moved_desc first done
    rw [hx]
    refine ⟨fun hs h => ?_, fun hs h hsig hsu => ?_, fun hs => ?_, fun a hs hsu => ?_, fun hs => ?_, fun a hs => ?_⟩ <;> rw [hs]
    · have hmore : (d.left.isEmpty && !d.signal && d.susp.isNone) = false := by
        obtain h | h | h := h <;> simp [hsignal, hsuspended, h]
      exact congrArg Host.Outcome.next (if_neg (by simp [hmore]))
    · have hlast : (d.left.isEmpty && !d.signal && d.susp.isNone) = true := by simp [h, hsignal, hsuspended, hsig, hsu]
      exact congrArg Host.Outcome.next (if_pos hlast)
    · rfl
    · exact congrArg Host.Outcome.next (if_neg (by simp [hsuspended, hsu]))
    · simp only [State.packetOver, hdesc]
    · rfl
  -- COPY_HOLD_RELEASE
  · intro free
    refine congrArg Host.Outcome.next ?_
    simp only [State.copyRelease, hk]
    rfl
  -- COPYS_SIGNAL
  · have hd : c.signalDue = true := by simp [Copy.signalDue, hsig, hleft, hsent, hasked, hsusp]
    intro host v
    exact ⟨fun ht => congrArg Host.Outcome.next (State.copysSignal_waits hk ht), fun ht =>
      ⟨fun hu => congrArg Host.Outcome.next (State.copysSignal_unreached hk hd hawake ht hu),
        fun h hu hc hh => congrArg Host.Outcome.next (State.copysSignal_home hk hd hawake ht hu hc hh),
        fun hu hc hh => congrArg Host.Outcome.next (State.copysSignal_absent hk hd hawake ht hu hc hh),
        fun hu hc => congrArg Host.Outcome.next (State.copysSignal_peer hk hd hawake ht hu hc)⟩⟩
  -- its counter
  · rw [State.counterSignal_quiet hq]
    exact ⟨State.homeDword_putHomeDword _ hw hh, (s.putHomeDword_memoryOnly h _).parts⟩
  · exact State.counterSignal_fires h0 hn
  -- turns
  · exact congrArg Host.Outcome.next (State.copyPacket_waits hk h)
  · obtain ⟨hlink, hhost, hengine⟩ := State.copyTurn_iff.mp ht
    refine ⟨fun h => ?_, fun h => ?_, _, hengine⟩
    · simpa [State.hostTurn] using hhost h
    · simpa [State.linkTurn, h] using hlink

end Sys2Proof.Machine
end

section
/-!
COPY, COPYB, COPYG and COPYS at issue (O17), and what every instruction that parks, holds or cannot read its words yet does.
-/
namespace Sys2Proof.Machine

/-! ### Instructions that do not go on (R17, R52) -/

section
variable {i : Instr} {m : Sem} {s : State} {c : Cursor} (hi : i.sem = some m) (hc : s.cur = some c) (hf : m.fault s = none)
include hi hc hf

theorem exec_park {ls : Lanes} {r : ParkReason} (hw : m.wait s = .park ls r) :
    exec i s = .next ((m.eff ((s.askFor r).parkLanes ls r)).advance m.size) := by
  rw [exec_of_sem s hi, runSem_of_cur hc, Sem.step_park hf hw]

theorem exec_hold {t : State} (hw : m.wait s = .hold t) : exec i s = .next (t.takeEntries (m.entries s)).holdClause := by
  rw [exec_of_sem s hi, runSem_of_cur hc]
  simp only [Sem.step, hf, hw]

/-- An instruction whose wait is that for the words it must read (log 12). -/
theorem State.wordsBehind_of_wait {w : Wait} (hw : w ≠ .go → m.wait s = w) : s.WordsBehind i w := by
  rw [State.WordsBehind, exec_of_sem s hi, runSem_of_cur hc]
  refine ⟨fun v hv => ?_, fun ls a hv => ?_⟩ <;> subst hv <;> simp only [Sem.step, hf, hw (by simp)]
  exact ⟨fun h => by simp [State.meetMiss, State.pageFatal, h], fun h => by simp [State.meetMiss, State.pageFatal, h]⟩

end

/-- A clause that holds where it stands. -/
theorem State.holdClause_eq {s : State} {c : Cursor} (hc : s.cur = some c) : s.holdClause = s.held := by
  have : s.ctx.cur = c := by simp [State.ctx, State.ctxOf, hc]
  simp only [State.holdClause, State.held, hc, this]

/-! ### Fibres that park leave nothing active (R17, R44) -/

/-- The number whose bits below n are the results of a test. -/
theorem testBit_foldl_two_pow (p : Nat → Bool) (n : Nat) :
    let v := (List.range n).foldl (fun a l => if p l then a + 2 ^ l else a) 0
    v < 2 ^ n ∧ ∀ l, v.testBit l = (decide (l < n) && p l) := by
  induction n with
  | zero => simp
  | succ n ih =>
    obtain ⟨hlt, hbit⟩ := ih
    simp only [List.range_succ, List.foldl_append, List.foldl_cons, List.foldl_nil]
    generalize (List.range n).foldl (fun a l => if p l then a + 2 ^ l else a) 0 = v at hlt hbit
    cases hp : p n with
    | false =>
      refine ⟨by simp; omega, fun l => ?_⟩
      obtain h | rfl | h := Nat.lt_trichotomy l n
      · simp [hbit, h, Nat.lt_succ_of_lt h]
      · simp [hbit, hp]
      · simp [hbit, Nat.not_lt_of_gt h, show ¬ l < n + 1 by omega]
    | true =>
      refine ⟨by simp [Nat.pow_succ]; omega, fun l => ?_⟩
      have hsum : v + 2 ^ n = 2 ^ n * 1 + v := by omega
      simp only [if_true, hsum, Nat.testBit_two_pow_mul_add 1 hlt]
      obtain h | rfl | h := Nat.lt_trichotomy l n
      · simp [hbit, h, Nat.lt_succ_of_lt h]
      · simp [hp]
      · have htop : Nat.testBit 1 (l - n) = false := Nat.testBit_lt_two_pow (Nat.one_lt_two_pow (by omega))
        simp [Nat.not_lt_of_gt h, show ¬ l < n + 1 by omega, htop]

/-- A set made from a test holds the lanes that pass it. -/
theorem getLsbD_laneSet (p : Nat → Bool) {l : Nat} (hl : l < 32) : (laneSet p).getLsbD l = p l := by
  rw [laneSet, BitVec.getLsbD_ofNat, (testBit_foldl_two_pow p 32).2]
  simp [hl]

/-- No lane outside the active ones is active. -/
theorem activeLanes_rest (m : Mods) {w v : Wave} (cohort : Lanes) (hp : ∀ l, (v.lane l).preds = (w.lane l).preds) :
    activeLanes m v (cohort &&& ~~~activeLanes m w cohort) = 0#32 := by
  cases hg : m.gen with
  | false => simp [activeLanes, hg]
  | true =>
    simp only [activeLanes, hg, if_true, hp]
    refine laneSet_none fun l hl => ?_
    rw [BitVec.getLsbD_and, BitVec.getLsbD_not, getLsbD_laneSet _ hl]
    cases cohort.getLsbD l <;> simp [hl]

/-- Fibres that stand keep their predicates. -/
theorem State.standLanes_preds {s : State} {c : Cursor} (hc : s.cur = some c) (m : Lanes) (r : Option ParkReason) (k l : Nat) :
    (((s.standLanes m r).wave k).lane l).preds = ((s.wave k).lane l).preds := by
  simp only [State.standLanes, hc]
  obtain h | ⟨_, h⟩ := s.wave_modWave_cases c.wave k (fun w => w.mapLanes m (fun _ x =>
    { x with park := r, pos := c.idx + 1, pc := c.pc, woken := false, yielded := c.yielded }))
  · exact congrArg (fun w : Wave => (w.lane l).preds) h
  · refine (congrArg (fun w : Wave => (w.lane l).preds) h).trans ?_
    obtain h | ⟨_, h⟩ := (s.wave k).lane_mapLanes_cases m (fun _ x =>
      { x with park := r, pos := c.idx + 1, pc := c.pc, woken := false, yielded := c.yielded }) l
    · rw [h]
    · rw [h]

/-- Once the active fibres have parked, no fibre of the cohort is active. -/
theorem State.act_parkLanes {s : State} (hi : s.Issuing) (m : Mods) (r : ParkReason) :
    (s.parkLanes (s.ctx.act m) r).ctx.act m = 0#32 := by
  obtain ⟨c, hc⟩ := hi.cur
  have hact : s.ctx.act m = activeLanes m (s.wave c.wave) c.lanes := by simp [Ctx.act, State.ctx, State.ctxOf, hc]
  have hrest : (s.parkLanes (s.ctx.act m) r).ctx.act m =
      activeLanes m ((s.parkLanes (s.ctx.act m) r).wave c.wave) (c.lanes &&& ~~~s.ctx.act m) := by
    generalize s.ctx.act m = a
    simp only [Ctx.act, State.ctx, State.ctxOf, State.parkLanes, State.standLanes, hc]
    rfl
  rw [hrest, hact]
  exact activeLanes_rest m c.lanes (State.standLanes_preds hc _ _ c.wave)

/-! ### What enters a write buffer -/

/-- Looking up a crew after one of the table has changed. -/
theorem State.look_modCrew (s : State) (k j : Nat) (f : Crew → Crew) :
    look j (s.modCrew k f).crews = (look j s.crews).map (if j = k then f else id) := by
  by_cases h : j = k
  · subst h
    simp [State.modCrew]
  · simp [State.modCrew, look_change_ne h, h]

/-- A write buffer takes entries and charges (R127): nothing else of a crew changes. -/
theorem State.buffer_look (s : State) (k : Nat) (es : List WEntry) (cs : List Charge) (j : Nat) :
    ∃ f : Crew → Crew, look j (s.buffer k es cs).crews = (look j s.crews).map f ∧
      ∀ c, ∃ wb ch, f c = { c with wbuf := wb, charges := ch } := by
  unfold State.buffer
  split
  · exact ⟨id, by simp, fun c => ⟨_, _, rfl⟩⟩
  · refine ⟨_, s.look_modCrew k j _, fun c => ?_⟩
    split
    · exact ⟨_, _, rfl⟩
    · exact ⟨_, _, rfl⟩

/-- Nothing but the crews changes. -/
theorem State.buffer_crews (s : State) (k : Nat) (es : List WEntry) (cs : List Charge) :
    ∃ crews, s.buffer k es cs = { s with crews := crews } := by
  unfold State.buffer
  split
  · exact ⟨s.crews, rfl⟩
  · exact ⟨_, rfl⟩

/-! ### The checks and waits of a copy (R258) -/

theorem Instr.sem_of_copyOf {i : Instr} {g : Arg} {sub : Nat} (h : copyOf i = some (g, sub)) : i.sem = some (copySem g sub) := by
  cases i <;> dsimp only [copyOf] at h <;> cases h <;> rfl

theorem Instr.size_of_copyOf {i : Instr} {g : Arg} {sub : Nat} (h : copyOf i = some (g, sub)) : g.size = 3 := by
  cases i <;> dsimp only [copyOf] at h <;> cases h <;> rfl

section
variable {g : Arg} {sub : Nat} {s : State}

/-- A sound descriptor at a sound address raises no fault. -/
theorem copySem_fault (hr : s.HasRole rolesGC) (hl : s.Landed g [.u g.a, .u (g.a + 1), .u g.d])
    (hspace : spaceOf (copyAddr s.ctx g) = 1 ∨ spaceOf (copyAddr s.ctx g) = 2) (halign : (copyAddr s.ctx g).extractLsb' 0 4 = 0#4)
    (hplace : (copyPlace s s.ctx g sub).isSome = true) (hdesc : copyFault s s.ctx g sub = none) : (copySem g sub).fault s = none := by
  refine firstFault_eq_none ?_
  simp only [List.mem_cons, List.not_mem_nil, or_false, forall_eq_or_imp, forall_eq]
  refine ⟨hr.none, firstFault_eq_none ?_⟩
  simp only [List.mem_cons, List.not_mem_nil, or_false, forall_eq_or_imp, forall_eq]
  refine ⟨hl.none, onceFault_none ?_, onceFault_none (by simp [halign]), onceFault_none ?_, onceFault_none (by simp [hdesc])⟩
  · obtain h | h := hspace <;> simp [h]
  · exact Option.isNone_eq_false_iff.mpr hplace

/-- Until its descriptor can be read, a copy waits for nothing else. -/
theorem copyWait_unread (h : copyReady s s.ctx g sub ≠ .go) : copyWait g sub s = copyReady s s.ctx g sub := by
  unfold copyWait
  dsimp only
  split
  · next hg _ => exact absurd hg h
  · rfl

/-- Charges that fit. -/
theorem overflowWait_go {x : Ctx} {act : Lanes} {cs : List Charge} (h : (s.crew x.crewId).overflows cs = none) :
    overflowWait s x act cs = .go := by
  simp [overflowWait, h]

variable {d : CopyDesc} (ha : s.Active g) (hd : copyDesc s s.ctx g sub = some d) (hready : copyReady s s.ctx g sub = .go)
include ha hd hready

/-- A copy parks for its transaction (R109). -/
theorem copyWait_parks (ht : s.txnsFree s.ctx.crew.core 1 = false) : copyWait g sub s = .park (s.ctx.act g.m) (.txns 1) := by
  simp [copyWait, hready, ha, hd, ht]

variable (ht : s.txnsFree s.ctx.crew.core 1 = true)
  (ho : s.ctx.crew.overflows (s.copyCharges s.ctx.crewId d s.nextUid) = none)
include ht ho

/-- With room for its charges (R127), it waits for its flag alone (R51). -/
theorem copyWait_fits : copyWait g sub s = if s.ctx.flagFull g.m.fsel then .hold s else .go := by
  have hfits := overflowWait_go (x := s.ctx) (act := s.ctx.act g.m) ho
  simp [copyWait, hready, ha, hd, ht, hfits]

end

/-! ### What is issued (R98, R94) -/

/-- The state in which a copy of a descriptor has been counted: its fibres' accesses have performed where they could, its gang is no
longer replayable where its bytes show outside DET regions (R132), its flag is up. -/
def copyCounted (g : Arg) (sub : Nat) (d : CopyDesc) (s : State) : State :=
  let x := s.ctx
  let u := s.catchUpLanes x.cur.wave (x.act g.m)
  let v := if sub != 3 && u.allDet x.crewId d && !d.creditsShelf then u else u.notReplayable x.gangId
  (v.countOp x.cur.wave (x.cur.flagOf g.m.fsel)).2

/-- The state in which it enters its engine: its charges are made and its status register is pending. -/
def copyEnters (g : Arg) (sub : Nat) (d : CopyDesc) (s : State) : State :=
  let x := s.ctx
  let w := copyCounted g sub d s
  (w.buffer x.crewId [] (w.copyCharges x.crewId d w.nextUid)).setUni x.crewId g.d { x.crew.uni g.d with pend := true }

section
variable {g : Arg} {sub : Nat} {d : CopyDesc} {s : State}

/-- A copy that is issued enters its engine with all its elements to come. -/
theorem copyIssue_enters (ha : s.Active g) (hd : copyDesc s s.ctx g sub = some d) : ∃ c : Copy,
    copyIssue g sub s = { copyEnters g sub d s with
      copies := (copyEnters g sub d s).copies ++ [((copyEnters g sub d s).nextUid, c)], nextUid := (copyEnters g sub d s).nextUid + 1 } ∧
    c.desc = d ∧ c.wave = s.ctx.cur.wave ∧ c.d = g.d ∧ c.left = [{ base := 0, len := d.total }] ∧ c.signal = (sub == 3) := by
  simp only [copyIssue, beq_iff_eq, ha, if_false, hd]
  exact ⟨_, rfl, rfl, rfl, rfl, rfl, rfl⟩

/-- A gang that is no longer replayable: nothing but the gangs changes. -/
theorem State.ite_notReplayable_gangs (u : State) (b : Bool) (gang : Nat) :
    ∃ gs, (if b then u else u.notReplayable gang) = { u with gangs := gs } := by
  cases b
  · exact ⟨_, rfl⟩
  · exact ⟨u.gangs, rfl⟩

/-- Counting an operation raises its flag, if it has one. -/
theorem State.countOp_waves (s : State) (wave : Nat) (flag : Option Nat) : (s.countOp wave flag).2 = { s with
    waves := match flag with
      | some f => (s.modWave wave (fun w => w.flagUp f)).waves
      | none => s.waves,
    nextUid := s.nextUid + 1 } := by
  cases flag <;> rfl

/-- Counting a copy changes its gang, the wave of its flag and the next name. -/
theorem copyCounted_rest (g : Arg) (sub : Nat) (d : CopyDesc) (s : State) :
    let u := s.catchUpLanes s.ctx.cur.wave (s.ctx.act g.m)
    ∃ gs, copyCounted g sub d s = { u with
      gangs := gs, nextUid := u.nextUid + 1,
      waves := match s.ctx.cur.flagOf g.m.fsel with
        | some f => (u.modWave s.ctx.cur.wave (fun w => w.flagUp f)).waves
        | none => u.waves } := by
  intro u
  obtain ⟨gs, h⟩ := u.ite_notReplayable_gangs (sub != 3 && u.allDet s.ctx.crewId d && !d.creditsShelf) s.ctx.gangId
  exact ⟨gs, (congrArg (fun v : State => (v.countOp _ _).2) h).trans (State.countOp_waves _ _ _)⟩

/-- What enters the engine finds the copies and the waves as the count left them. -/
theorem copyEnters_copies_waves (g : Arg) (sub : Nat) (d : CopyDesc) (s : State) :
    (copyEnters g sub d s).copies = (copyCounted g sub d s).copies ∧ (copyEnters g sub d s).waves = (copyCounted g sub d s).waves := by
  obtain ⟨cs, h⟩ := (copyCounted g sub d s).buffer_crews s.ctx.crewId []
    ((copyCounted g sub d s).copyCharges s.ctx.crewId d (copyCounted g sub d s).nextUid)
  simp only [copyEnters, State.setUni, h, State.modCrew_copies, State.modCrew_waves, and_self]

/-- Its status register is pending, in a crew that is there and has such a register. -/
theorem copyEnters_uni {c : Crew} (hc : look s.ctx.crewId (s.catchUpLanes s.ctx.cur.wave (s.ctx.act g.m)).crews = some c)
    (hn : g.d < c.unis.length) :
    ((copyEnters g sub d s).crew s.ctx.crewId).uni g.d = { s.ctx.crew.uni g.d with pend := true } := by
  obtain ⟨gs, hcounted⟩ := copyCounted_rest g sub d s
  obtain ⟨f, hf, hsame⟩ := (copyCounted g sub d s).buffer_look s.ctx.crewId []
    ((copyCounted g sub d s).copyCharges s.ctx.crewId d (copyCounted g sub d s).nextUid) s.ctx.crewId
  have hlook : look s.ctx.crewId (copyCounted g sub d s).crews = some c := by rw [hcounted]; exact hc
  obtain ⟨wb, ch, hfc⟩ := hsame c
  rw [hlook] at hf
  refine (congrArg (Crew.uni · g.d) (State.crew_modCrew (fun c => c.setUni g.d _) hf)).trans (Crew.uni_setUni ?_)
  rw [hfc]
  exact hn

end

/-- Settles O17: the clause is given back, parks or holds, and what enters the engine once it does none of them. -/
theorem copyIssues : Obligations.CopyIssues := by
  refine ⟨fun c v hc => State.giveBack_eq hc, fun i g sub s h hi hr hl ha hspace halign hplace hdesc => ?_,
    fun i g sub d s h hi hr hl ha hspace halign hplace hdesc hready hd => ?_⟩
  · obtain ⟨c, hc⟩ := hi.cur
    exact State.wordsBehind_of_wait (Instr.sem_of_copyOf h) hc (copySem_fault hr hl hspace halign hplace hdesc) copyWait_unread
  · obtain ⟨c, hc⟩ := hi.cur
    have hsem := Instr.sem_of_copyOf h
    have hsize : (copySem g sub).size = 3 := Instr.size_of_copyOf h
    have hfault := copySem_fault hr hl hspace halign hplace hdesc
    refine ⟨fun ht => ?_, fun ht ho => ⟨fun hflag => ?_, fun hflag => ?_⟩, ?_⟩
    · rw [exec_park hsem hc hfault (copyWait_parks ha hd hready ht), State.askFor_other s (by simp), hsize]
      have hidle : (copySem g sub).eff (s.parkLanes (s.ctx.act g.m) (.txns 1)) = s.parkLanes (s.ctx.act g.m) (.txns 1) := by
        simp [copySem, copyIssue, State.act_parkLanes hi]
      rw [hidle]
    · rw [exec_go hsem hc hfault ((copyWait_fits ha hd hready ht ho).trans (by simp [hflag])), hsize]
      rfl
    · rw [exec_hold hsem hc hfault ((copyWait_fits ha hd hready ht ho).trans (if_pos (by simpa using hflag)))]
      exact congrArg Host.Outcome.next (State.holdClause_eq hc)
    · intro u
      obtain ⟨k, he, hkdesc, hwave, hreg, hleft, hsig⟩ := copyIssue_enters ha hd
      obtain ⟨gs, hcounted⟩ := copyCounted_rest g sub d s
      obtain ⟨hcopies, hwaves⟩ := copyEnters_copies_waves g sub d s
      rw [hcounted] at hcopies hwaves
      refine ⟨⟨(copyEnters g sub d s).nextUid, k, ?_, hkdesc, hwave, hreg, hleft, hsig⟩,
        (congrArg State.waves he).trans hwaves, fun c hlook hlen => ?_⟩
      · rw [he, hcopies]
      · rw [he]
        exact copyEnters_uni hlook hlen

end Sys2Proof.Machine
end

section
/-!
The frame of STL and STS (O59): with nothing queued a store of one lane takes effect at once, in the write buffer or on the four bytes of
its word, and every lane after it finds what the first one found.
-/
namespace Sys2Proof.Machine

/-! ### Homes and the objects they lie in -/

/-- The home is that of a whole word: its address is a multiple of 4. -/
def Home.Aligned : Home → Prop
  | .phys a => a % 4 = 0
  | .loc _ o => o % 4 = 0

/-- The bytes of an aligned word lie in one object. -/
theorem Home.object_of_mem_word {h x : Home} (ha : h.Aligned) (hx : x ∈ h.word) : x.object = h.object := by
  simp only [Home.word, List.mem_cons, List.not_mem_nil, or_false] at hx
  cases h <;> simp only [Home.Aligned] at ha <;> obtain rfl | rfl | rfl | rfl := hx <;> simp [Home.object, Home.plus] <;> omega

theorem Home.aligned_object (h : Home) : h.object.Aligned := by
  cases h <;> simp only [Home.object, Home.Aligned] <;> omega

theorem Home.aligned_object_plus (h : Home) {n : Nat} (hn : n % 4 = 0) : (h.object.plus n).Aligned := by
  cases h <;> simp only [Home.object, Home.plus, Home.Aligned] <;> omega

/-- The words of an object are in it. -/
theorem Home.object_object_plus (h : Home) {n : Nat} (hn : n < 16) : (h.object.plus n).object = h.object := by
  cases h <;> simp [Home.object, Home.plus] <;> omega

@[simp] theorem Home.object_object (h : Home) : h.object.object = h.object := by
  cases h <;> simp [Home.object]

/-! ### A page that becomes dirty translates as before (R213) -/

/-- Changing one partition: every other is left alone, and so is a number that no partition has. -/
theorem State.part_modPart_cases (s : State) (k j : Nat) (f : Partition → Partition) :
    (s.modPart k f).part j = s.part j ∨ j = k ∧ (s.modPart k f).part j = f (s.part j) := by
  simp only [State.part, State.modPart, List.getElem?_modify]
  by_cases hj : k = j
  · cases hp : s.parts[j]? with
    | none => simp
    | some p => exact .inr ⟨hj.symm, by simp [hj]⟩
  · exact .inl (by simp [hj])

/-- A page that becomes dirty where it holds an address. -/
def Page.dirtied (a : VAddr) (g : Page) : Page := if Page.holds g a then { g with dirty := true } else g

theorem Page.dirtied_eq (a : VAddr) (g : Page) : ∃ d, g.dirtied a = { g with dirty := d } := by
  unfold Page.dirtied
  split
  · exact ⟨_, rfl⟩
  · exact ⟨g.dirty, rfl⟩

/-- A page holds what it held. -/
theorem Page.holds_dirtied (a : VAddr) (g : Page) (b : VAddr) : Page.holds (g.dirtied a) b = Page.holds g b := by
  obtain ⟨d, h⟩ := g.dirtied_eq a
  rw [h]
  cases b <;> rfl

/-- A tenant's pages that hold an address become dirty. -/
def Tenant.dirtied (tenant : Nat) (a : VAddr) (t : Tenant) : Tenant :=
  if t.id == tenant then { t with pages := t.pages.map (Page.dirtied a) } else t

theorem Tenant.dirtied_id (tenant : Nat) (a : VAddr) (t : Tenant) : (t.dirtied tenant a).id = t.id := by
  unfold Tenant.dirtied
  split <;> rfl

theorem Tenant.dirtied_pages (tenant : Nat) (a : VAddr) (t : Tenant) :
    (t.dirtied tenant a).pages = t.pages ∨ (t.dirtied tenant a).pages = t.pages.map (Page.dirtied a) := by
  unfold Tenant.dirtied
  split
  · exact .inr rfl
  · exact .inl rfl

/-- A tenant is found as it was, or with pages that have become dirty. -/
theorem State.tenant?_markDirty (s : State) (part tenant : Nat) (a : VAddr) (p q : Nat) :
    (s.markDirty part tenant a).tenant? p q = s.tenant? p q ∨
      (s.markDirty part tenant a).tenant? p q = (s.tenant? p q).map (Tenant.dirtied tenant a) := by
  obtain h | ⟨_, h⟩ := s.part_modPart_cases part p (fun p => { p with tenants := p.tenants.map (Tenant.dirtied tenant a) })
  · exact .inl (congrArg (fun x : Partition => x.tenants.find? (fun t : Tenant => t.id == q)) h)
  · refine .inr ((congrArg (fun x : Partition => x.tenants.find? (fun t : Tenant => t.id == q)) h).trans ?_)
    have hid : (fun t : Tenant => t.id == q) ∘ Tenant.dirtied tenant a = fun t => t.id == q :=
      funext fun t => by simp only [Function.comp, t.dirtied_id]
    rw [List.find?_map, hid]
    rfl

/-- Marking a page changes its DIRTY bit alone. -/
theorem State.page?_markDirty (s : State) (part tenant : Nat) (a : VAddr) (p q : Nat) (b : VAddr) :
    ∃ f : Page → Page, (s.markDirty part tenant a).page? p q b = (s.page? p q b).map f ∧ ∀ g, ∃ d, f g = { g with dirty := d } := by
  have hsame : ∃ f : Page → Page, s.page? p q b = (s.page? p q b).map f ∧ ∀ g, ∃ d, f g = { g with dirty := d } :=
    ⟨id, by simp, fun g => ⟨g.dirty, rfl⟩⟩
  obtain h | h := s.tenant?_markDirty part tenant a p q <;> simp only [State.page?, h] at hsame ⊢
  · exact hsame
  · cases ht : s.tenant? p q with
    | none => exact ⟨id, rfl, fun g => ⟨g.dirty, rfl⟩⟩
    | some n =>
      simp only [ht, Option.map_some, Option.bind_some] at hsame ⊢
      obtain h | h := n.dirtied_pages tenant a <;> rw [h]
      · exact hsame
      · have hholds : (fun g => Page.holds g b) ∘ Page.dirtied a = fun g => Page.holds g b := funext fun g => g.holds_dirtied a b
        exact ⟨Page.dirtied a, by rw [List.find?_map, hholds], Page.dirtied_eq a⟩

theorem State.home?_markDirty (s : State) (part tenant : Nat) (a : VAddr) (p q : Nat) (b : VAddr) :
    (s.markDirty part tenant a).home? p q b = s.home? p q b := by
  obtain ⟨f, hf, hd⟩ := s.page?_markDirty part tenant a p q b
  have hsame : ∀ g, (f g).phys = g.phys ∧ (f g).base = g.base ∧ (f g).target = g.target := fun g => by
    obtain ⟨d, h⟩ := hd g
    rw [h]
    exact ⟨rfl, rfl, rfl⟩
  cases b <;> simp only [State.home?, hf] <;> cases s.page? p q _ <;> simp [hsame]

/-! ### What a store leaves alone -/

/-- One state is the other but for bytes of memory, write buffers, replayability, dirty bits, names, and objects that are data again. -/
structure State.StoreKeeps (s t : State) : Prop where
  rest : ∃ m cs gs ps bs n, t = { s with mem := m, crews := cs, gangs := gs, parts := ps, barObjs := bs, nextUid := n }
  gangOf : ∀ k, (t.crew k).gang = (s.crew k).gang
  unis : ∀ k, (t.crew k).unis = (s.crew k).unis
  launchOf : ∀ k, (t.gang k).launch = (s.gang k).launch
  home : ∀ p q a, t.home? p q a = s.home? p q a
  owed : ∀ h, s.barOwed h = false → t.barOwed h = false
  wf : s.memoriesWf = true → t.memoriesWf = true

namespace State.StoreKeeps
variable {s t u : State}

theorem refl (s : State) : s.StoreKeeps s :=
  ⟨⟨_, _, _, _, _, _, rfl⟩, fun _ => rfl, fun _ => rfl, fun _ => rfl, fun _ _ _ => rfl, fun _ => id, id⟩

theorem trans (h : s.StoreKeeps t) (k : t.StoreKeeps u) : s.StoreKeeps u where
  rest := by
    obtain ⟨_, _, _, _, _, _, rfl⟩ := h.rest
    obtain ⟨_, _, _, _, _, _, rfl⟩ := k.rest
    exact ⟨_, _, _, _, _, _, rfl⟩
  gangOf j := (k.gangOf j).trans (h.gangOf j)
  unis j := (k.unis j).trans (h.unis j)
  launchOf j := (k.launchOf j).trans (h.launchOf j)
  home p q a := (k.home p q a).trans (h.home p q a)
  owed g := k.owed g ∘ h.owed g
  wf := k.wf ∘ h.wf

theorem waves (h : s.StoreKeeps t) : t.waves = s.waves := by
  obtain ⟨_, _, _, _, _, _, rfl⟩ := h.rest
  rfl

theorem accesses (h : s.StoreKeeps t) : t.accesses = s.accesses := by
  obtain ⟨_, _, _, _, _, _, rfl⟩ := h.rest
  rfl

theorem flights (h : s.StoreKeeps t) : t.flights = s.flights := by
  obtain ⟨_, _, _, _, _, _, rfl⟩ := h.rest
  rfl

theorem launch (h : s.StoreKeeps t) (k : Nat) : t.launch k = s.launch k := by
  obtain ⟨_, _, _, _, _, _, rfl⟩ := h.rest
  rfl

theorem spaceOfCrew (h : s.StoreKeeps t) (k : Nat) : t.spaceOfCrew k = s.spaceOfCrew k := by
  simp only [State.spaceOfCrew, h.gangOf, h.launchOf, h.launch]

/-- What is parked on an object, or credits it, is as before. -/
theorem barInUse (h : s.StoreKeeps t) (x : Home) : t.barInUse x = s.barInUse x := by
  have hhome := h.home
  have hgang := h.gangOf
  have hlaunch := h.launchOf
  obtain ⟨_, _, _, _, _, _, rfl⟩ := h.rest
  simp only [State.barInUse, hhome, hgang, hlaunch]
  rfl

/-- An object on which nothing is live stays so. -/
theorem barLive (h : s.StoreKeeps t) {x : Home} (hx : s.barLive x = false) : t.barLive x = false := by
  obtain ⟨huse, howed⟩ := Bool.or_eq_false_iff.mp hx
  exact Bool.or_eq_false_iff.mpr ⟨(h.barInUse x).trans huse, h.owed x howed⟩

theorem nothingQueued (h : s.StoreKeeps t) (hq : s.NothingQueued) : t.NothingQueued :=
  ⟨h.accesses.trans hq.1, h.flights.trans hq.2⟩

end State.StoreKeeps

/-- Where memory reads as before, so do its words. -/
theorem State.homeWord_of_readHome {s t : State} {h : Home} (hr : ∀ x ∈ h.word, t.readHome x = s.readHome x) : t.homeWord h = s.homeWord h := by
  simp only [Home.word, List.mem_cons, List.not_mem_nil, or_false, forall_eq_or_imp, forall_eq] at hr
  obtain ⟨h0, h1, h2, h3⟩ := hr
  simp only [State.homeWord, State.natAt, h0, h1, h2, h3]

/-- An object of whose words none has changed, and that has not become a barrier object, is owed what it was owed. -/
theorem State.barOwed_of_readHome {s t : State} {h : Home} (ho : s.barOwed h = false) (hb : t.isBarrier h = true → s.isBarrier h = true)
    (hr : ∀ x : Home, x.object = h.object → t.readHome x = s.readHome x) : t.barOwed h = false := by
  have hword : t.homeWord h.object = s.homeWord h.object :=
    State.homeWord_of_readHome fun x hx => hr x ((Home.object_of_mem_word h.aligned_object hx).trans h.object_object)
  have hpend : t.barPending h.object = s.barPending h.object := congrArg (fun w : Word => w >>> 16) hword
  have hbytes : t.barBytes h.object = s.barBytes h.object :=
    State.homeWord_of_readHome fun x hx => hr x
      ((Home.object_of_mem_word (h.aligned_object_plus rfl) hx).trans (h.object_object_plus (by decide)))
  cases hm : t.isBarrier h with
  | false => simp [State.barOwed, hm]
  | true => simpa [State.barOwed, hm, hb hm, hpend, hbytes] using ho

/-- A crew whose buffer takes entries keeps everything else. -/
theorem State.buffer_crew (s : State) (k : Nat) (es : List WEntry) (cs : List Charge) (j : Nat) :
    ∃ wb ch, (s.buffer k es cs).crew j = { s.crew j with wbuf := wb, charges := ch } := by
  obtain ⟨f, hf, hsame⟩ := s.buffer_look k es cs j
  simp only [State.crew, hf]
  cases look j s.crews with
  | none => exact ⟨_, _, rfl⟩
  | some c => exact hsame c

/-- What a write buffer takes is not in memory yet. -/
theorem State.buffer_readHome (s : State) (k : Nat) (es : List WEntry) (cs : List Charge) (x : Home) :
    (s.buffer k es cs).readHome x = s.readHome x := by
  cases x with
  | phys a =>
    obtain ⟨crews, h⟩ := s.buffer_crews k es cs
    rw [h]
    rfl
  | loc c o =>
    obtain ⟨wb, ch, h⟩ := s.buffer_crew k es cs c
    simp only [State.readHome, h]

theorem State.buffer_keeps (s : State) (k : Nat) (es : List WEntry) (cs : List Charge) : s.StoreKeeps (s.buffer k es cs) := by
  obtain ⟨crews, hcrews⟩ := s.buffer_crews k es cs
  have hcrew := s.buffer_crew k es cs
  have hread := s.buffer_readHome k es cs
  refine ⟨?_, fun j => ?_, fun j => ?_, fun j => ?_, fun p q a => ?_, fun h ho => ?_, fun hw => ?_⟩
  · exact ⟨_, _, _, _, _, _, hcrews⟩
  · obtain ⟨wb, ch, h⟩ := hcrew j
    rw [h]
  · obtain ⟨wb, ch, h⟩ := hcrew j
    rw [h]
  · rw [hcrews]
    rfl
  · rw [hcrews]
    rfl
  · refine State.barOwed_of_readHome ho ?_ fun x _ => hread x
    rw [hcrews]
    exact id
  · unfold State.buffer
    split
    · exact hw
    · exact State.memWf_modCrew hw fun _ h => h

theorem State.notReplayable_keeps (s : State) (k : Nat) : s.StoreKeeps (s.notReplayable k) where
  rest := ⟨_, _, _, _, _, _, rfl⟩
  gangOf _ := rfl
  unis _ := rfl
  launchOf j := by
    by_cases hj : j = k
    · subst hj
      simp only [State.gang, State.notReplayable, State.modGang, look_change_self]
      cases look j s.gangs <;> rfl
    · simp only [State.gang, State.notReplayable, State.modGang, look_change_ne hj]
  home _ _ _ := rfl
  owed _ := id
  wf := id

theorem State.markDirty_keeps (s : State) (p t : Nat) (a : VAddr) : s.StoreKeeps (s.markDirty p t a) where
  rest := ⟨_, _, _, _, _, _, rfl⟩
  gangOf _ := rfl
  unis _ := rfl
  launchOf _ := rfl
  home := s.home?_markDirty p t a
  owed _ := id
  wf := id

/-! ### One word stored (R105, R319) -/

/-- Bytes put at homes are in no register. -/
theorem State.putNat_unis (s : State) (hs : List Home) (v k : Nat) : ((s.putNat hs v).crew k).unis = (s.crew k).unis := by
  induction hs generalizing s v with
  | nil => rfl
  | cons h hs ih =>
    refine (ih _ _).trans ?_
    cases h with
    | phys a => rfl
    | loc c o =>
      obtain h | ⟨_, h⟩ := s.crew_modCrew_cases c k (fun cr => { cr with lmem := cellWrite o (BitVec.ofNat 8 v) cr.lmem }) <;>
        exact (congrArg Crew.unis h :)

section
variable {s : State} {h : Home} (v : Word) (hb : s.barLive h.object = false)
include hb

/-- A word stored where no barrier object is live: its bytes, and the object is data from then on. -/
theorem State.storeWord_data : s.storeWord h v = (s.putHomeWord h v).unmarkBarrier h := by
  obtain ⟨huse, howed⟩ := Bool.or_eq_false_iff.mp hb
  have huse' : (s.putHomeWord h v).barInUse h.object = false := by
    obtain ⟨⟨m, cs, he⟩, hc⟩ := s.putHomeWord_memoryOnly h v
    rw [he] at hc ⊢
    simp only [State.barInUse, hc]
    exact huse
  have howed' : s.barOwed h = false := by
    simpa [State.barOwed, State.isBarrier] using howed
  simp [State.storeWord, State.plainOver, huse', howed']

variable (hw : s.memoriesWf = true)
include hw

theorem State.storeWord_readHome {x : Home} (hx : x ∉ h.word) : (s.storeWord h v).readHome x = s.readHome x := by
  rw [State.storeWord_data v hb]
  exact State.readHome_putNat _ hw hx

theorem State.storeWord_keeps (ha : h.Aligned) : s.StoreKeeps (s.storeWord h v) := by
  have hread := fun x => State.storeWord_readHome (x := x) v hb hw
  rw [State.storeWord_data v hb] at hread ⊢
  obtain ⟨⟨m, cs, he⟩, hgang⟩ := s.putHomeWord_memoryOnly h v
  refine ⟨⟨m, cs, _, _, _, _, by rw [he]; rfl⟩, hgang, s.putNat_unis _ _, fun j => ?_, fun p q a => ?_, fun g hg => ?_, fun _ =>
    State.memWf_putNat hw⟩
  · rw [he]
    rfl
  · rw [he]
    rfl
  · by_cases ho : g.object = h.object
    · simp [State.barOwed, State.isBarrier, State.unmarkBarrier, ho]
    · refine State.barOwed_of_readHome hg (fun hm => ?_) fun x hx => hread x fun hmem =>
        ho (hx.symm.trans (Home.object_of_mem_word ha hmem))
      rw [he] at hm
      simp only [State.isBarrier, State.unmarkBarrier, List.contains_iff_mem, List.mem_filter] at hm ⊢
      exact hm.1

end

/-! ### One lane's store (R127, R319) -/

section
variable {s : State} {crew : Nat} {a : VAddr} {h : Home}

/-- A store of one lane, with nothing queued before it, takes effect at once. -/
theorem State.storeLane_now {op wave : Nat} {m : Lanes} {fs : List Nat} {v : Word} {t : State} (hq : s.NothingQueued)
    (hp : s.putStore crew a v = some t) : s.storeLane op crew wave m fs a v = t := by
  obtain ⟨hacc, hfl⟩ := hq
  have hcatch : s.catchUp wave m fs a 4 = s := by
    simp [State.catchUp, State.blocked, State.requestsToLine, hacc, hfl, names, inOrder, State.performAll]
  simp [State.storeLane, hcatch, State.blocked, State.behindLane, State.behindCore, hacc, hfl, hp]

variable (v : Word) (hh : s.home? (s.spaceOfCrew crew).1 (s.spaceOfCrew crew).2 a = some h) (ha : h.Aligned)
  (hb : s.barLive h.object = false) (hw : s.memoriesWf = true)
include hh ha hb hw

/-- Whether it goes to the buffer or to its home, a word that is stored leaves every byte outside it alone. -/
theorem State.putStore_keeps : ∃ t, s.putStore crew a v = some t ∧ s.StoreKeeps t ∧ ∀ x ∉ h.word, t.readHome x = s.readHome x := by
  unfold State.putStore
  split
  · exact ⟨_, rfl, s.buffer_keeps _ _ _, fun x _ => s.buffer_readHome _ _ _ x⟩
  · exact ⟨(s.storeWord h v).markDirty (s.spaceOfCrew crew).1 (s.spaceOfCrew crew).2 a, by simp only [hh, Option.map_some],
      (State.storeWord_keeps v hb hw ha).trans (State.markDirty_keeps _ _ _ _), fun x hx => State.storeWord_readHome v hb hw hx⟩

theorem storeOne_keeps {x : Ctx} (hx : x.crewId = crew) (hq : s.NothingQueued) (op lane : Nat) :
    s.StoreKeeps (storeOne s x op lane a v) ∧ ∀ y ∉ h.word, (storeOne s x op lane a v).readHome y = s.readHome y := by
  subst hx
  have hsafe : s.StoreKeeps (s.storeUnsafe x a) ∧ ∀ y, (s.storeUnsafe x a).readHome y = s.readHome y := by
    unfold State.storeUnsafe
    split
    · exact ⟨.refl s, fun _ => rfl⟩
    · exact ⟨.refl s, fun _ => rfl⟩
    · exact ⟨s.notReplayable_keeps _, fun _ => rfl⟩
  obtain ⟨hkeeps, hread⟩ := hsafe
  obtain ⟨t, ht, htkeeps, htread⟩ := State.putStore_keeps (s := s.storeUnsafe x a) (crew := x.crewId) v
    (by rw [hkeeps.home, hkeeps.spaceOfCrew]; exact hh) ha (hkeeps.barLive hb) (hkeeps.wf hw)
  have he : storeOne s x op lane a v = t := State.storeLane_now (hkeeps.nothingQueued hq) ht
  rw [he]
  exact ⟨hkeeps.trans htkeeps, fun y hy => (htread y hy).trans (hread y)⟩

end

/-! ### STL and STS (R318, R319) -/

/-- A word whose home is there, aligned, and on no live barrier object. -/
def State.StoresAt (s : State) (crew : Nat) (a : VAddr) : Prop :=
  ∃ h, s.home? (s.spaceOfCrew crew).1 (s.spaceOfCrew crew).2 a = some h ∧ h.Aligned ∧ s.barLive h.object = false

theorem State.StoreKeeps.storesAt {s t : State} {crew : Nat} {a : VAddr} (k : s.StoreKeeps t) (h : s.StoresAt crew a) : t.StoresAt crew a := by
  obtain ⟨x, hx, ha, hb⟩ := h
  exact ⟨x, by rw [k.home, k.spaceOfCrew]; exact hx, ha, k.barLive hb⟩

/-- The lanes' stores, one after the other: every byte outside their words stays. -/
theorem storeAll_keeps {s : State} {x : Ctx} (op : Nat) (val : Nat → Word) {ls : List (Nat × VAddr)} (hq : s.NothingQueued)
    (hw : s.memoriesWf = true) (hls : ∀ e ∈ ls, s.StoresAt x.crewId e.2) :
    let t := ls.foldl (fun u e => storeOne u x op e.1 e.2 (val e.1)) s
    s.StoreKeeps t ∧ ∀ y, (∀ e ∈ ls, ∀ h, s.home? (s.spaceOfCrew x.crewId).1 (s.spaceOfCrew x.crewId).2 e.2 = some h → y ∉ h.word) →
      t.readHome y = s.readHome y := by
  induction ls generalizing s with
  | nil => exact ⟨.refl s, fun _ _ => rfl⟩
  | cons e ls ih =>
    obtain ⟨⟨h, hh, ha, hb⟩, hls⟩ := List.forall_mem_cons.mp hls
    obtain ⟨hk, hread⟩ := storeOne_keeps (val e.1) hh ha hb hw (x := x) rfl hq op e.1
    obtain ⟨hk', hread'⟩ := ih (hk.nothingQueued hq) (hk.wf hw) fun e he => hk.storesAt (hls e he)
    refine ⟨hk.trans hk', fun y hy => ?_⟩
    obtain ⟨hy0, hy⟩ := List.forall_mem_cons.mp hy
    exact (hread' y (by simpa only [hk.home, hk.spaceOfCrew] using hy)).trans (hread y (hy0 h hh))

theorem Instr.sem_of_storeOf {i : Instr} {g : Arg} {shelf : Bool} (h : storeOf i = some (g, shelf)) : i.sem = some (storeSem g shelf) := by
  cases i <;> dsimp only [storeOf] at h <;> cases h <;> rfl

section
variable {g : Arg} {shelf : Bool} {s : State}

/-- The addresses of active fibres, their tags and their windows raise no fault. -/
theorem storeSem_fault (hc : s.Clear g rolesAll (g.srcA.opds ++ [.v g.d]))
    (ht : s.OnLanes (s.ctx.act g.m) (fun ln => tagOf (g.b / 16) = .raw ∨ (ln.readV g.d).tag = tagOf (g.b / 16)))
    (hr : s.Reachable g shelf) : (storeSem g shelf).fault s = none := by
  obtain ⟨_, hrole, hwin, hland⟩ := hc
  have hformat : formatFault s.ctx (s.ctx.act g.m)
      (fun ln => if tagOf (g.b / 16) == .raw then none else oneTag (tagOf (g.b / 16)) (ln.readV g.d).tag) = none :=
    formatFault_none fun l hl hm => by
      obtain h | h := ht l hl hm <;> simp [h, oneTag]
  refine firstFault_eq_none ?_
  simp only [List.mem_cons, List.not_mem_nil, or_false, forall_eq_or_imp, forall_eq]
  refine ⟨State.static_none hrole hwin, firstFault_eq_none fun o ho => ?_⟩
  obtain ho | ho := List.mem_append.mp ho
  · simp only [List.mem_cons, List.not_mem_nil, or_false] at ho
    obtain rfl | rfl := ho
    · exact hland.none
    · exact hformat
  · exact hr.none ho

/-- No row it stores to is pinned, no line is absent, and its charges fit: it waits for nothing. -/
theorem storeSem_wait (hshelf : shelf = true → s.LinesReady (lsLines (lsLanes s s.ctx g shelf)) ∧
      s.ctx.crew.overflows (storeCharges s s.ctx (lsLanes s s.ctx g shelf)) = none)
    (hlocal : shelf = false → s.anyPinned (lsRows (lsLanes s s.ctx g shelf)) = false) : (storeSem g shelf).wait s = .go := by
  cases shelf with
  | false => simp [storeSem, hlocal rfl]
  | true =>
    obtain ⟨hlines, hfits⟩ := hshelf rfl
    have hgo := overflowWait_go (x := s.ctx) (act := s.ctx.act g.m) hfits
    simp [storeSem, hlines.go, hgo]

end

/-! ### The words stored (R88, R91) -/

/-- A home in local memory is that of a local address. -/
theorem State.eq_loc_of_home? {s : State} {p q c o : Nat} {a : VAddr} (h : s.home? p q a = some (.loc c o)) : a = .loc c o := by
  cases a with
  | loc => cases h; rfl
  | peer => cases h
  | shelf | glob =>
    obtain ⟨_, _, h⟩ := Option.bind_eq_some_iff.mp h
    split at h <;> cases h

/-- A local address gives the offset in its low 20 bits. -/
theorem State.localAddr_loc {s : State} {crew n : Nat} {w : Word} {a : VAddr} (h : s.localAddr crew w n = some a) :
    ∃ k, a = .loc k (w.extractLsb' 0 20).toNat := by
  unfold State.localAddr at h
  dsimp only at h
  split at h
  · cases h
  split at h
  · split at h
    · split at h
      · split at h <;> cases h
        exact ⟨_, rfl⟩
      · cases h
    · cases h
  · split at h
    · cases h
    · split at h <;> cases h
      exact ⟨_, rfl⟩

/-- The offset in a word's low 20 bits is a multiple of 4 where its two lowest bits are zero. -/
theorem low_bits_aligned {w : Word} (h : w.extractLsb' 0 2 = 0#2) : (w.extractLsb' 0 20).toNat % 4 = 0 := by
  have hlow := congrArg BitVec.toNat h
  simp at hlow ⊢
  omega

/-- The bytes of memory outside a word. -/
theorem Home.phys_not_mem_word {h : Home} {pa : Nat} (hb : ∀ b, h = .phys b → pa < b ∨ b + 4 ≤ pa) : Home.phys pa ∉ h.word := by
  cases h with
  | loc c o => simp [Home.word, Home.plus]
  | phys b =>
    have := hb b rfl
    simp [Home.word, Home.plus]
    omega

theorem Home.loc_not_mem_word {h : Home} {k o : Nat} (hb : ∀ b, h = .loc k b → o < b ∨ b + 4 ≤ o) : Home.loc k o ∉ h.word := by
  cases h with
  | phys b => simp [Home.word, Home.plus]
  | loc c b =>
    have := hb b
    simp [Home.word, Home.plus] at this ⊢
    omega

section
variable {g : Arg} {shelf : Bool} {s : State}

/-- The lanes that store are the active ones, each at the place its address gives. -/
theorem mem_lsLanes {x : Ctx} {e : Nat × VAddr} : e ∈ lsLanes s x g shelf ↔
    (e.1 < 32 ∧ (x.act g.m).getLsbD e.1 = true) ∧ lsPlace s x shelf (lsAddr g x.crew (x.wave.lane e.1)) = some e.2 := by
  obtain ⟨l, a⟩ := e
  simp only [lsLanes, List.mem_filterMap, Option.map_eq_some_iff, Prod.mk.injEq, mem_laneList]
  constructor
  · rintro ⟨l, hl, a, ha, rfl, rfl⟩
    exact ⟨hl, ha⟩
  · exact fun ⟨hl, ha⟩ => ⟨l, hl, a, ha, rfl, rfl⟩

/-- An active lane's word, at an aligned local address or at an aligned physical one. -/
theorem storesAt_of_lsLanes (hr : s.Reachable g shelf) {e : Nat × VAddr} (he : e ∈ lsLanes s s.ctx g shelf) (hp : s.PlainHome e.2) :
    s.StoresAt s.ctx.crewId e.2 := by
  obtain ⟨h, hh, hb, hphys, _⟩ := hp
  obtain ⟨⟨hl, hm⟩, hplace⟩ := mem_lsLanes.mp he
  refine ⟨h, hh, ?_, hb⟩
  cases h with
  | phys b => exact hphys b rfl
  | loc c o =>
    have hloc := State.eq_loc_of_home? hh
    rw [hloc] at hplace
    cases shelf with
    | true =>
      simp [lsPlace, shelfAddr] at hplace
    | false =>
      obtain ⟨k, hk⟩ := State.localAddr_loc hplace
      cases hk
      exact low_bits_aligned (hr e.1 hl hm).1

end

theorem State.fresh_keeps (s : State) : s.StoreKeeps s.fresh.2 :=
  ⟨⟨_, _, _, _, _, _, rfl⟩, fun _ => rfl, fun _ => rfl, fun _ => rfl, fun _ _ _ => rfl, fun _ => id, id⟩

/-- The effect of a store, its charges first: every byte outside the words stored stays. -/
theorem storeSem_eff_keeps {g : Arg} {shelf : Bool} {s : State} (ha : s.Active g) (hq : s.NothingQueued) (hw : s.memoriesWf = true)
    (hls : ∀ e ∈ lsLanes s s.ctx g shelf, s.StoresAt s.ctx.crewId e.2) :
    s.StoreKeeps ((storeSem g shelf).eff s) ∧ ∀ y, (∀ e ∈ lsLanes s s.ctx g shelf, ∀ h,
      s.home? s.ctx.launch.part s.ctx.launch.tenant e.2 = some h → y ∉ h.word) →
        ((storeSem g shelf).eff s).readHome y = s.readHome y := by
  have heff : (storeSem g shelf).eff s =
      let b := (s.buffer s.ctx.crewId [] (storeCharges s s.ctx (lsLanes s s.ctx g shelf))).fresh
      (lsLanes s s.ctx g shelf).foldl (fun u e => storeOne u s.ctx b.1 e.1 e.2 ((s.ctx.wave.lane e.1).readV g.d).val) b.2 := by
    simp only [storeSem, beq_iff_eq, ha, if_false]
  rw [heff]
  have hread : ∀ y, (s.buffer s.ctx.crewId [] (storeCharges s s.ctx (lsLanes s s.ctx g shelf))).fresh.2.readHome y = s.readHome y :=
    s.buffer_readHome _ _ _
  have hkeeps := (s.buffer_keeps s.ctx.crewId [] (storeCharges s s.ctx (lsLanes s s.ctx g shelf))).trans (State.fresh_keeps _)
  obtain ⟨hk, hr⟩ := storeAll_keeps (x := s.ctx) (s.buffer s.ctx.crewId [] (storeCharges s s.ctx (lsLanes s s.ctx g shelf))).fresh.1
    (fun l => ((s.ctx.wave.lane l).readV g.d).val) (hkeeps.nothingQueued hq) (hkeeps.wf hw) fun e he => hkeeps.storesAt (hls e he)
  refine ⟨hkeeps.trans hk, fun y hy => (hr y ?_).trans (hread y)⟩
  simp only [hkeeps.home, hkeeps.spaceOfCrew]
  exact hy

/-- Settles O59: neither the effect nor the move to the next instruction changes what is no word stored. -/
theorem storeFrame : Obligations.StoreFrame := by
  intro i g shelf s h hc ht hr ha hshelf hlocal hq hw hplain
  obtain ⟨c, hcur⟩ := hc.1.cur
  obtain ⟨hk, hread⟩ := storeSem_eff_keeps ha hq hw fun e he => storesAt_of_lsLanes hr he (hplain e he)
  refine ⟨_, exec_go (Instr.sem_of_storeOf h) hcur (storeSem_fault hc ht hr) (storeSem_wait hshelf hlocal), fun pa hpa => ?_,
    fun k o ho => ?_, fun k n => ?_, fun w => ?_⟩
  · rw [State.advance_mem]
    refine hread (.phys pa) fun e he x hx => Home.phys_not_mem_word fun b hb => ?_
    obtain ⟨⟨hl, hm⟩, hplace⟩ := mem_lsLanes.mp he
    exact hpa e.1 e.2 b hl hm hplace (hb ▸ hx)
  · simp only [State.crew, State.advance_crews]
    refine hread (.loc k o) fun e he x hx => Home.loc_not_mem_word fun b hb => ?_
    obtain ⟨⟨hl, hm⟩, hplace⟩ := mem_lsLanes.mp he
    exact ho e.1 b hl hm (hplace.trans (congrArg some (State.eq_loc_of_home? (hb ▸ hx))))
  · simp only [State.crew, State.advance_crews]
    exact congrArg (fun us => (us[n]?).getD Reg.zero) (hk.unis k)
  · obtain ⟨⟨_, _, hrest⟩, hlane⟩ := State.advance_stays ((storeSem g shelf).eff s) (storeSem g shelf).size w
    have hwave : ((storeSem g shelf).eff s).wave w = s.wave w := by simp only [State.wave, hk.waves]
    rw [hwave] at hrest hlane
    refine ⟨by rw [hrest], fun l => ?_⟩
    obtain ⟨_, _, _, hl⟩ := hlane l
    exact ⟨by rw [hl], fun n => by rw [hl]; rfl⟩

end Sys2Proof.Machine
end

section
/-!
FENCE and FWAIT (O38): what the checks let pass, where each waits, and the fence that is taken.
-/
namespace Sys2Proof.Machine

/-- An instruction of a clause that stops its gang where it must wait. -/
theorem exec_stop {i : Instr} {m : Sem} {s : State} {c : Cursor} {p : Precise} (hi : i.sem = some m) (hc : s.cur = some c)
    (hf : m.fault s = none) (hw : m.wait s = .stop p) : exec i s = .next (s.takeFault s.ctx.cur p 0#32) := by
  rw [exec_of_sem s hi, runSem_of_cur hc]
  simp only [Sem.step, hf, hw]
  rfl

/-- A meaning neither of whose checks finds a fault. -/
theorem Sem.fault_none {m : Sem} {s : State} (hs : m.static s = none) (hk : m.check s = none) : m.fault s = none := by
  rw [Sem.fault, hs, hk]
  rfl

/-! ### FENCE (R119, R263) -/

section
variable {g : Arg} {s : State}

/-- The registers landed, and the base of a range, if there is one, a shelf or global address: FENCE meets no fault. -/
theorem semFence_fault (hr : s.Ready g rolesAll ([.u g.d] ++ (if fenceRange g then [.u g.a, .u (g.a + 1), .u g.b] else [])))
    (hbase : fenceRange g = true → fenceBad (s.ctx.crew.pair g.a) = false) : (semFence g).fault s = none := by
  obtain ⟨-, hrole, hland, -⟩ := hr
  have hscope : (fenceRange g && fenceBad (s.ctx.crew.pair g.a)) = false := by
    cases hrange : fenceRange g with
    | false => rfl
    | true => exact hbase hrange
  exact Sem.fault_none hrole.none (State.check_none hland (onceFault_none hscope))

/-- FENCE holds its clause while its wave's eight places are all busy. -/
theorem semFence_wait (ha : s.Active g) :
    (semFence g).wait s = if s.ctx.wave.fences.all (·.busy) then .hold s else .go := by
  simp [semFence, ha]

/-- The fence stands in the lowest free place, with the place's next generation and the accesses it releases. -/
theorem semFence_eff (ha : s.Active g) :
    let k := ((List.range 8).find? (fun i => !((s.ctx.wave.fences[i]?).getD Fence.idle).busy)).getD 0
    let gen := (((s.ctx.wave.fences[k]?).getD Fence.idle).gen + 1) % 2 ^ 29
    let cover := if g.m.rel then fenceCover s s.ctx (s.ctx.act g.m) g else []
    (semFence g).eff s = (s.modWave s.ctx.cur.wave (fun w => { w with
        fences := w.fences.set k { gen := gen, busy := !cover.isEmpty, acq := g.m.acq, cover := cover } })).setUni s.ctx.crewId g.d
      (Reg.done (BitVec.ofNat 32 (gen * 8 + k)) .n32) :=
  if_neg (by simpa using ha)

end

/-! ### FWAIT (R119, R267) -/

section
variable {g : Arg} {s : State}

/-- A token landed and tagged N32: FWAIT meets no fault at the check step. -/
theorem semFwait_fault (hr : s.Ready g rolesAll [.u g.a]) (htag : (s.ctx.crew.uni g.a).tag = .n32) : (semFwait g).fault s = none := by
  obtain ⟨-, hrole, hland, -⟩ := hr
  exact Sem.fault_none hrole.none (State.check_none hland (formatFault_none fun _ _ _ => by simp [oneTag, htag]))

/-- The fence of a token is open while its place is busy with the token's generation. -/
theorem fenceOpen_eq (x : Ctx) (g : Arg) :
    let t := (x.crew.uni g.a).val.toNat
    let f := (x.wave.fences[t % 8]?).getD Fence.idle
    fenceOpen x g = if f.busy = true ∧ f.gen = t / 8 then some (t % 8, t / 8) else none := by
  simp [fenceOpen]

/-- FWAIT parks at an open fence. -/
theorem semFwait_wait_open {k gen : Nat} (ha : s.Active g) (ho : fenceOpen s.ctx g = some (k, gen)) :
    (semFwait g).wait s = .park (s.ctx.act g.m) (.fence k gen) := by
  simp [semFwait, ha, ho]

/-- Once the fence has completed, the deferred fault that no flag delivers stops the gang at FWAIT (R108). -/
theorem semFwait_wait_deferred {d : Deferred} (ha : s.Active g) (ho : fenceOpen s.ctx g = none)
    (hd : s.deferredAt s.ctx.crewId .fwait = some d) : (semFwait g).wait s = .stop (d.precise (s.ctx.act g.m)) := by
  simp [semFwait, ha, ho, hd]

/-- Without one, FWAIT goes on. -/
theorem semFwait_wait_over (ha : s.Active g) (ho : fenceOpen s.ctx g = none) (hd : s.deferredAt s.ctx.crewId .fwait = none) :
    (semFwait g).wait s = .go := by
  simp [semFwait, ha, ho, hd]

end

/-- Settles O38: FENCE by whether a place is free, FWAIT by whether the fence is open and a deferred fault is kept for it. -/
theorem fenceResult : Obligations.FenceResult := by
  refine ⟨fun f s => ?_, fun f s => ?_⟩
  · intro g k gen cover hr hbase
    have ⟨hissue, _, _, ha⟩ := hr
    obtain ⟨c, hc⟩ := hissue.cur
    have hfault := semFence_fault hr hbase
    have hwait := semFence_wait ha
    refine ⟨fun hfree => ?_, fun hbusy => ?_⟩
    · rw [exec_go rfl hc hfault (by simpa [hfree] using hwait), semFence_eff ha]
      rfl
    · rw [exec_hold rfl hc hfault (by simpa [hbusy] using hwait)]
      exact congrArg Host.Outcome.next (State.holdClause_eq hc)
  · intro g t x hr htag
    have ⟨hissue, _, _, ha⟩ := hr
    obtain ⟨c, hc⟩ := hissue.cur
    have hfault := semFwait_fault hr htag
    have hopen := fenceOpen_eq s.ctx g
    refine ⟨fun hbusy hgen => ?_, fun hover => ?_⟩
    · rw [exec_park rfl hc hfault (semFwait_wait_open ha (hopen.trans (if_pos ⟨hbusy, hgen⟩)))]
      rfl
    · have hclosed := hopen.trans (if_neg hover)
      exact ⟨fun hnone => exec_go rfl hc hfault (semFwait_wait_over ha hclosed hnone),
        fun d hsome => exec_stop rfl hc hfault (semFwait_wait_deferred ha hclosed hsome)⟩

end Sys2Proof.Machine
end

section
/-!
Launches at work (O44): acceptance from a slot, retirement and stop, the merge at a barrier, the final merge, and a region that conflicts.
-/
namespace Sys2Proof.Machine

/-! ### Acceptance, retirement, stop (R200, R145) -/

/-- A firing that is accepted leaves its slot. -/
theorem State.acceptSlot_accepted {s u : State} {part slot tenant : Nat} {f : Firing} {fs : List Firing} {ident : Word}
    (ht : s.takesMessages part slot = true) (he : (s.part part).ebb = none) (hr : (s.part part).resident = some tenant)
    (hf : ((s.part part).slot slot).waiting = f :: fs)
    (ha : s.acceptance { part := part, tenant := tenant, level := 1, da := f.desc, place := farAt f.desc launchBytes 16, tag := f.tag,
                         firing := f.num, parent := none, pref := [] } = .accepted ident u) :
    s.acceptSlot part slot = u.popFiring part slot := by
  simp only [State.acceptSlot, hf, hr, ht, he, ha]
  rfl

/-- A launch that is done signals its completion once the page of the signal is there, and is gone. -/
theorem State.launchRetirement_done {s : State} {k : Nat} (hd : s.launchDone k = true)
    (hm : s.signalMiss (s.launch k).part (s.launch k).tenant (s.launch k).desc.done = none) :
    let l := s.launch k
    s.launchRetirement k = ({ s with
      launches := drop k s.launches, gangs := s.gangs.filter (fun e => e.2.launch != k),
      nodes := s.nodes.filter (fun e => e.2.launch != k) } : State).signal l.part l.tenant l.desc.done l.status l.firing
        (if l.parent.isSome then l.ident else l.tag) := by
  simp only [State.launchRetirement, hd, hm]
  rfl

/-- A launch that runs is stopped with STATUS 2. -/
theorem State.launchStop_running {s : State} {k : Nat} (h : (s.launch k).phase = .running) : s.launchStop k = s.stopLaunch k 2 := by
  simp [State.launchStop, h]

/-! ### The merge at a barrier (R128) -/

/-- A launch whose regions are bound to a barrier in slack water merges them once no page is missing: the regions of every launch that
binds some, then the phase, the gangs that stop, and what the barrier held. -/
theorem State.detMerge_slack {s u : State} {k pa : Nat} {gangs : List Nat}
    (hslack : ∃ b, (k, b) ∈ s.detBarsOf (.phys pa) ∧ b.slack = true)
    (hpages : ∀ e ∈ s.detBarsOf (.phys pa), s.mergeWants e.1 (s.barRegions e.1 e.2) = none)
    (hm : s.mergeLaunches (s.detBarsOf (.phys pa)) = (gangs, u)) :
    s.detMerge k pa = (gangs.foldl State.faultGang (u.completePhase (.phys pa))).runHeld (.phys pa)
      ((s.detBarsOf (.phys pa)).flatMap (fun e => e.2.held)) := by
  obtain ⟨b, hb, hs⟩ := hslack
  have hany : (s.detBarsOf (.phys pa)).any (fun e => e.1 == k && e.2.slack) = true :=
    List.any_eq_true.mpr ⟨(k, b), hb, by simp [hs]⟩
  have hfind : (s.detBarsOf (.phys pa)).find? (fun e => (s.mergeWants e.1 (s.barRegions e.1 e.2)).isSome) = none :=
    List.find?_eq_none.mpr fun e he => by simp [hpages e he]
  simp only [State.detMerge, hany, hfind, hm]
  rfl

/-- What one launch leaves of a barrier whose regions it has merged: out of slack water, nobody arrived, nothing held. -/
theorem State.mergeLaunch_eq {s u : State} {k : Nat} {b : DetBar} {bad : Bool}
    (hm : s.mergeAll k (State.mergers k) (s.barRegions k b) = (bad, u)) :
    s.mergeLaunch k b = (if bad then dedup (b.arrived.map (fun c => (s.crew c).gang)) else [],
      u.modDetBar k b.pa (fun b => { b with slack := false, arrived := [], held := [] })) := by
  simp only [State.mergeLaunch, hm]

/-! ### The final merge (R131) -/

/-- The state in which what a launch's ended tasks still hold of some regions is sealed. -/
def State.sealEnded (s : State) (k : Nat) (is : List Nat) : State :=
  { s with crews := s.crews.map (fun e =>
      if (s.gang e.2.gang).launch == k && e.2.ended then (e.1, e.2.seal (s.owedCharges e.1) is) else e) }

/-- Once every gang of a launch has ended and nothing of it is on its way to a buffer, what its ended tasks still hold is sealed and
merged, where no page is missing; a conflict gives the launch STATUS 1, if it had none. -/
theorem State.finalMerge_ready {s u : State} {k : Nat} {bad : Bool} (hphase : (s.launch k).phase ≠ .retired) (hpart : s.onPart k = true)
    (hslack : (s.launch k).detBars.any (·.slack) = false) (hcopies : s.copiesOf k = false) (hbuf : s.buffering k = false)
    (hover : (s.gangs.filter (fun e => e.2.launch == k && e.2.node.isNone)).all (fun e => e.2.over) = true)
    (hleft : (s.crews.filter (fun e => (s.gang e.2.gang).launch == k && e.2.ended)).all
      (fun e => e.2.wbuf.isEmpty && e.2.sealed.isEmpty) = false) :
    let rs := (s.launch k).pick (fun _ r => r.det)
    let t := s.sealEnded k (rs.map (·.1))
    t.mergeWants k rs = none → t.mergeAll k (State.mergers k) rs = (bad, u) →
    s.finalMerge k = if bad then u.modLaunch k (fun l => { l with status := if l.status = 0 then 1 else l.status }) else u := by
  intro rs t hpages hm
  simp only [State.sealEnded, t, rs] at hpages hm
  simp only [State.finalMerge, hphase, hpart, hslack, hcopies, hbuf, hover, hleft, hpages, hm, beq_iff_eq, Bool.not_true, Bool.or_false,
    if_false]

/-! ### A region that conflicts (R129) -/

/-- Forgetting the entries of some tasks for a region changes nothing but the crews. -/
theorem State.forgetTasks_eq (i : Nat) (tasks : List Nat) (s : State) :
    ∃ crews, tasks.foldl (fun s k => s.forgetTask i k) s = { s with crews := crews } := by
  induction tasks generalizing s with
  | nil => exact ⟨s.crews, rfl⟩
  | cons k ks ih => exact ih (s.forgetTask i k)

/-- What a task holds once the entries of one of them for a region are forgotten. -/
theorem State.sealed_forgetTask (s : State) (i k j : Nat) : ((s.forgetTask i k).crew j).sealed =
    if j = k then (s.crew j).sealed.filter (fun e => e.region != i) else (s.crew j).sealed := by
  simp only [State.crew, State.forgetTask, State.look_modCrew]
  cases look j s.crews <;> split <;> rfl

/-- Forgetting the entries of some tasks for a region leaves them those for other regions, and every other task its own. -/
theorem State.mem_sealed_forgetTasks (i j : Nat) (e : WEntry) (tasks : List Nat) (s : State) :
    e ∈ ((tasks.foldl (fun s k => s.forgetTask i k) s).crew j).sealed ↔ e ∈ (s.crew j).sealed ∧ (j ∈ tasks → e.region ≠ i) := by
  induction tasks generalizing s with
  | nil => simp
  | cons k ks ih =>
    rw [List.foldl_cons, ih, State.sealed_forgetTask]
    by_cases h : j = k
    · subst h
      simp +contextual
    · simp [h]

/-- A region that conflicts is not merged: its record is posted, and its entries are forgotten. -/
theorem State.mergeRegion_conflict {s : State} {i low x y : Nat} {tasks : List Nat} (k : Nat) (r : Region)
    (h : s.conflict i tasks = some (low, x, y)) : s.mergeRegion k i r tasks =
      (true, tasks.foldl (fun s k => s.forgetTask i k) (s.postLaunch k (s.mergeRec k i r low x y))) := by
  simp only [State.mergeRegion, h]

/-- Settles O44, one event after the other, then the merge of one launch and a region that conflicts. -/
theorem launchEvents : Obligations.LaunchEvents := by
  refine ⟨fun part slot tenant f fs ident u s ht he hr hf ha => congrArg Host.Outcome.next (State.acceptSlot_accepted ht he hr hf ha),
    fun k s hd hm => congrArg Host.Outcome.next (State.launchRetirement_done hd hm),
    fun k s h => congrArg Host.Outcome.next (State.launchStop_running h),
    fun k pa gangs u s hslack hpages hm => congrArg Host.Outcome.next (State.detMerge_slack hslack hpages hm),
    fun k b bad u s hm => State.mergeLaunch_eq hm,
    fun k u s => ?_, fun k i low x y r tasks s h => ?_⟩
  · intro l mine rs t hphase hpart hslack hcopies hbuf hover hleft hpages
    have hready {bad : Bool} := State.finalMerge_ready (u := u) (bad := bad) hphase hpart hslack hcopies hbuf hover hleft hpages
    exact ⟨fun hm => congrArg Host.Outcome.next (hready hm), fun hm => congrArg Host.Outcome.next (hready hm)⟩
  · intro rec_ t u
    obtain ⟨crews, hcrews⟩ := State.forgetTasks_eq i tasks t
    have hu : u = tasks.foldl (fun s k => s.forgetTask i k) t := congrArg Prod.snd (State.mergeRegion_conflict k r h)
    refine ⟨rfl, rfl, rfl, rfl, rfl, congrArg Prod.fst (State.mergeRegion_conflict k r h), ?_, ?_, fun j hj e he => ?_⟩
    · rw [hu, hcrews]
    · rw [hu, hcrews]
    · rw [hu] at he
      exact ((State.mem_sealed_forgetTasks i j e tasks t).mp he).2 hj

end Sys2Proof.Machine
end

section
/-!
The accumulator (O20 to O23): commands join the queue and the open batch, batches close and retire, rows are read, written and cleared.
-/
namespace Sys2Proof.Machine

/-! ### Waits one after the other, and fibres that park -/

/-- One wait comes before another. -/
def Wait.andThen (w v : Wait) : Wait :=
  match w with
  | .go => v
  | w => w

@[simp] theorem Wait.go_andThen (v : Wait) : Wait.go.andThen v = v := rfl

theorem Wait.andThen_of_ne_go {w : Wait} (h : w ≠ .go) (v : Wait) : w.andThen v = w := by
  cases w with
  | go => exact absurd rfl h
  | _ => rfl

/-- The active fibres park at an instruction that does nothing without an active fibre. -/
theorem exec_parkActive {i : Instr} {m : Sem} {g : Arg} {s : State} {r : ParkReason} (hi : i.sem = some m) (hissue : s.Issuing)
    (hf : m.fault s = none) (hw : m.wait s = .park (s.ctx.act g.m) r) (hr : ∀ a fs, r ≠ .missWord a fs ∧ r ≠ .object a)
    (hidle : ∀ t : State, t.ctx.act g.m = 0#32 → m.eff t = t) :
    exec i s = .next ((s.parkLanes (s.ctx.act g.m) r).advance m.size) := by
  obtain ⟨c, hc⟩ := hissue.cur
  rw [exec_park hi hc hf hw, s.askFor_other hr, hidle _ (State.act_parkLanes hissue g.m r)]

/-- Registers of no lane are in every window. -/
theorem State.inWindow_uniform (s : State) (n : Nat) : s.InWindow [.u n] :=
  fun _ _ _ _ ho => List.mem_singleton.mp ho ▸ rfl

/-! ### Multiply commands at issue (R134, R137, R138, R285) -/

theorem Instr.sem_of_multiplyOf {i : Instr} {g : Arg} {q : Bool} (h : multiplyOf i = some (g, q)) : i.sem = some (mmaSem g q) := by
  cases i <;> dsimp only [multiplyOf] at h <;> cases h <;> rfl

theorem Instr.size_of_multiplyOf {i : Instr} {g : Arg} {q : Bool} (h : multiplyOf i = some (g, q)) : g.size = 3 := by
  cases i <;> dsimp only [multiplyOf] at h <;> cases h <;> rfl

/-- The registers that a multiply command reads. -/
def mmaOpds (g : Arg) (q : Bool) : List Opd := [.u g.a, .u g.b, .u g.c] ++ (if q then [.u g.d, .u (g.d + 1)] else [])

/-- What the command waits for at its first operand. -/
def mmaWaitA (g : Arg) (s : State) : Wait :=
  operandWait s s.ctx (s.ctx.act g.m) (s.ctx.crew.uni g.a).val (MmaArg.of g).ta (MmaArg.of g).da (MmaArg.of g).m (MmaArg.of g).k

/-- What it waits for at its second. -/
def mmaWaitB (g : Arg) (s : State) : Wait :=
  operandWait s s.ctx (s.ctx.act g.m) (s.ctx.crew.uni g.b).val (MmaArg.of g).tb (MmaArg.of g).db (MmaArg.of g).n (MmaArg.of g).k

/-- What MMAQ waits for at its two scales. -/
def mmaWaitScales (g : Arg) (q : Bool) (s : State) : Wait :=
  if q then (scaleWait s s.ctx (s.ctx.act g.m) g false (MmaArg.of g).m (MmaArg.of g).k).andThen
    (scaleWait s s.ctx (s.ctx.act g.m) g true (MmaArg.of g).n (MmaArg.of g).k) else .go

section
variable {g : Arg} {q : Bool} {s : State}

/-- The operands first, then the scales, then the queue. -/
theorem mmaSem_wait (ha : s.Active g) : (mmaSem g q).wait s =
    (mmaWaitA g s).andThen ((mmaWaitB g s).andThen ((mmaWaitScales g q s).andThen
      (if (s.quotaAt s.ctx.launch.part (clusterOfCore s.ctx.crew.core)).queue.len ≤ s.queued s.ctx.pairNo s.ctx.launch.part then
        .hold s else .go))) := by
  simp only [mmaSem, mmaWaitA, mmaWaitB, mmaWaitScales, beq_iff_eq, ha, if_false]
  generalize operandWait s s.ctx (s.ctx.act g.m) (s.ctx.crew.uni g.a).val _ _ _ _ = wa
  generalize operandWait s s.ctx (s.ctx.act g.m) (s.ctx.crew.uni g.b).val _ _ _ _ = wb
  generalize scaleWait s s.ctx (s.ctx.act g.m) g false _ _ = wsa
  generalize scaleWait s s.ctx (s.ctx.act g.m) g true _ _ = wsb
  cases wa with
  | go =>
    cases wb with
    | go =>
      cases q with
      | false => rfl
      | true =>
        cases wsa with
        | go => cases wsb <;> rfl
        | _ => rfl
    | _ => rfl
  | _ => rfl

theorem mmaSem_wait_first (ha : s.Active g) (hA : mmaWaitA g s ≠ .go) : (mmaSem g q).wait s = mmaWaitA g s :=
  (mmaSem_wait ha).trans (Wait.andThen_of_ne_go hA _)

section
variable (ha : s.Active g) (hA : mmaWaitA g s = .go)
include ha hA

theorem mmaSem_wait_second (hB : mmaWaitB g s ≠ .go) : (mmaSem g q).wait s = mmaWaitB g s := by
  rw [mmaSem_wait ha, hA, Wait.go_andThen, Wait.andThen_of_ne_go hB]

variable (hB : mmaWaitB g s = .go)
include hB

/-- Once both operands are there, the scales. -/
theorem mmaSem_wait_scales (hS : mmaWaitScales g q s ≠ .go) : (mmaSem g q).wait s = mmaWaitScales g q s := by
  rw [mmaSem_wait ha, hA, hB, Wait.go_andThen, Wait.go_andThen, Wait.andThen_of_ne_go hS]

/-- Once everything it reads is there, the queue alone. -/
theorem mmaSem_wait_queue (hS : mmaWaitScales g q s = .go) : (mmaSem g q).wait s =
    if (s.quotaAt s.ctx.launch.part (clusterOfCore s.ctx.crew.core)).queue.len ≤ s.queued s.ctx.pairNo s.ctx.launch.part then
      .hold s else .go := by
  rw [mmaSem_wait ha, hA, hB, hS]
  rfl

end

/-- Operands in windows of the pair, rows in the share, sound scales: a multiply command meets no fault. -/
theorem mmaSem_fault {oa ob : Nat × Nat} (hr : s.HasArray rolesGM true) (hl : s.Landed g (mmaOpds g q))
    (hfa : s.footprint s.ctx (s.ctx.crew.uni g.a).val (MmaArg.of g).ta (MmaArg.of g).da (MmaArg.of g).m (MmaArg.of g).k = some oa)
    (hfb : s.footprint s.ctx (s.ctx.crew.uni g.b).val (MmaArg.of g).tb (MmaArg.of g).db (MmaArg.of g).n (MmaArg.of g).k = some ob)
    (hrows : (s.ctx.crew.uni g.c).val.toNat + (MmaArg.of g).n / 16 * (MmaArg.of g).m ≤ accShare s s.ctx)
    (hscales : q = true → ∀ p ∈
      scaleFaults s s.ctx (s.ctx.act g.m) g false (MmaArg.of g).ta (MmaArg.of g).da (MmaArg.of g).m (MmaArg.of g).k ++
      scaleFaults s s.ctx (s.ctx.act g.m) g true (MmaArg.of g).tb (MmaArg.of g).db (MmaArg.of g).n (MmaArg.of g).k, p = none) :
    (mmaSem g q).fault s = none := by
  refine Sem.fault_none hr.none (firstFault_eq_none (List.forall_mem_append.mpr ⟨?_, ?_⟩))
  · simp only [List.mem_cons, List.not_mem_nil, or_false, forall_eq_or_imp, forall_eq]
    exact ⟨hl.none, onceFault_none (by simp [hfa]), onceFault_none (by simp [hfb]), onceFault_none (by simpa using hrows)⟩
  · cases q with
    | false => exact fun _ h => nomatch h
    | true => exact hscales rfl

/-- A list without repeats has the same members. -/
theorem mem_dedup {α : Type} [BEq α] [LawfulBEq α] {a : α} {t : List α} : a ∈ dedup t ↔ a ∈ t := by
  induction t with
  | nil => rfl
  | cons b t ih =>
    by_cases h : a = b
    · simp [dedup, h]
    · simp [dedup, h, ih]

/-- The rows that a command reads, its operands' and its local scales'. -/
def mmaPins (g : Arg) (ca oa cb ob : Nat) (sa sb : Option Scale) : List (Nat × Nat) :=
  let y := MmaArg.of g
  dedup (rowsTouched ca oa (128 * operandRows y.ta y.da y.m y.k) ++ rowsTouched cb ob (128 * operandRows y.tb y.db y.n y.k) ++
    scaleRows sa y.m y.k ++ scaleRows sb y.n y.k)

theorem mem_mmaPins {ca oa cb ob : Nat} {r : Nat × Nat} (sa sb : Option Scale)
    (h : r ∈ rowsTouched ca oa (128 * operandRows (MmaArg.of g).ta (MmaArg.of g).da (MmaArg.of g).m (MmaArg.of g).k) ++
      rowsTouched cb ob (128 * operandRows (MmaArg.of g).tb (MmaArg.of g).db (MmaArg.of g).n (MmaArg.of g).k)) :
    r ∈ mmaPins g ca oa cb ob sa sb :=
  mem_dedup.mpr (List.mem_append_left _ (List.mem_append_left _ h))

/-- The command of operands at two places of local memory, its scales read in a state. -/
def mmaCommand (g : Arg) (q : Bool) (ca oa cb ob : Nat) (x : Ctx) (u : State) : MatCmd :=
  let y := MmaArg.of g
  { gang := x.gangId, crew := x.crewId, wave := x.cur.wave, part := x.launch.part, pair := x.pairNo, batch := x.share.opened,
    opA := { crew := ca, off := oa, tag := y.ta, outer := y.da, rows := y.m, scale := mmaqScale u x (x.act g.m) g q false y.m y.k },
    opB := { crew := cb, off := ob, tag := y.tb, outer := y.db, rows := y.n, scale := mmaqScale u x (x.act g.m) g q true y.n y.k },
    k := y.k, zero := y.zero, row := (x.crew.uni g.c).val.toNat }

/-- Its operands being in windows of the pair still once its fibres' accesses have performed, the command joins the open batch and the
queue. -/
theorem mmaSem_eff {ca oa cb ob : Nat} {u : State} (ha : s.Active g) (hu : s.catchUpLanes s.ctx.cur.wave (s.ctx.act g.m) = u)
    (hfa : u.footprint s.ctx (s.ctx.crew.uni g.a).val (MmaArg.of g).ta (MmaArg.of g).da (MmaArg.of g).m (MmaArg.of g).k = some (ca, oa))
    (hfb : u.footprint s.ctx (s.ctx.crew.uni g.b).val (MmaArg.of g).tb (MmaArg.of g).db (MmaArg.of g).n (MmaArg.of g).k = some (cb, ob)) :
    let c := mmaCommand g q ca oa cb ob s.ctx u
    (mmaSem g q).eff s = { u.modGangPair s.ctx.gangId s.ctx.pairNo (fun p =>
        p.join (mmaPins g ca oa cb ob c.opA.scale c.opB.scale) { base := c.row, len := (MmaArg.of g).n / 16 * (MmaArg.of g).m }) with
      cmds := u.cmds ++ [(u.nextUid, c)], nextUid := u.nextUid + 1 } := by
  simp only [mmaSem, beq_iff_eq, ha, if_false, hu, hfa, hfb]
  rfl

end

/-- Settles O20: the waits one after the other, then the queue. -/
theorem multiplyIssues : Obligations.MultiplyIssues := by
  intro i g q ca oa cb ob s h hissue hr hl ha y act hfa hfb hrows hscales u sa sb room
  obtain ⟨c, hc⟩ := hissue.cur
  have hsem := Instr.sem_of_multiplyOf h
  have hsize : (mmaSem g q).size = 3 := Instr.size_of_multiplyOf h
  have hfault := mmaSem_fault hr hl hfa hfb hrows hscales
  have hbehind {w : Wait} (hw : w ≠ .go → (mmaSem g q).wait s = w) : s.WordsBehind i w :=
    State.wordsBehind_of_wait hsem hc hfault hw
  refine ⟨hbehind (mmaSem_wait_first ha), fun hA => hbehind (mmaSem_wait_second ha hA),
    fun hq hA hB => ⟨hbehind fun hS => ?_, fun hSA => hbehind fun hS => ?_⟩, fun hA hB hS => ?_⟩
  · have hscale : mmaWaitScales g q s = _ := (if_pos hq).trans (Wait.andThen_of_ne_go hS _)
    exact (mmaSem_wait_scales ha hA hB (hscale ▸ hS)).trans hscale
  · have hscale : mmaWaitScales g q s = _ := (if_pos hq).trans (congrArg (Wait.andThen · _) hSA)
    exact (mmaSem_wait_scales ha hA hB (hscale ▸ hS)).trans hscale
  · have hscales : mmaWaitScales g q s = .go := by
      cases q with
      | false => rfl
      | true => exact (congrArg (Wait.andThen · _) (hS rfl).1).trans (hS rfl).2
    have hwait := mmaSem_wait_queue ha hA hB hscales
    refine ⟨fun hfull => ?_, fun hroom hua hub => ?_⟩
    · rw [exec_hold hsem hc hfault (hwait.trans (if_pos hfull))]
      exact congrArg Host.Outcome.next (State.holdClause_eq hc)
    · have hgo := exec_go hsem hc hfault (hwait.trans (if_neg (Nat.not_le_of_lt hroom)))
      rw [hsize, mmaSem_eff ha rfl hua hub] at hgo
      exact ⟨_, _, hgo, rfl, fun r hmem => mem_mmaPins sa sb hmem, rfl⟩

/-! ### Batches (R140, R284, R292) -/

section
variable {g : Arg} {s : State}

theorem semMwait_fault (hr : s.HasArray rolesGMV false) (hl : s.Landed g [.u g.a]) : (semMwait g).fault s = none :=
  Sem.fault_none hr.none hl.none

/-- A batch that has retired is not waited for. -/
theorem semMwait_wait_retired (h : s.ctx.share.retired (s.ctx.crew.uni g.a).val = true) : (semMwait g).wait s = .go := by
  simp [semMwait, h]

theorem semMwait_wait_open (h : s.ctx.share.retired (s.ctx.crew.uni g.a).val = false) (ha : s.Active g) :
    (semMwait g).wait s = .park (s.ctx.act g.m) (.batch (s.ctx.crew.uni g.a).val) := by
  simp [semMwait, h, ha]

end

/-- Settles O21: MCOMMIT by its effect, MWAIT by whether the batch has retired. -/
theorem batchResult : Obligations.BatchResult := by
  refine ⟨fun f s hissue hr hl ha => ?_, fun f s hissue hr hl => ⟨fun h => ?_, fun h ha => ?_⟩⟩
  · obtain ⟨c, hc⟩ := hissue.cur
    simpa [ha, Ext.arg_size] using exec_simple (i := .mcommit f) rfl hc hr.none hl.none
  · obtain ⟨c, hc⟩ := hissue.cur
    exact exec_go rfl hc (semMwait_fault hr hl) (semMwait_wait_retired h)
  · exact exec_parkActive (m := semMwait f.arg) rfl hissue (semMwait_fault hr hl) (semMwait_wait_open h ha) (by simp) fun _ _ => rfl

/-! ### Reading rows (R141, R289) -/

/-- A tile that carries no error (R153). -/
theorem tileError_none {s : State} {act : Lanes} {n : Nat} (h : s.deferredAt s.ctx.crewId (.tile s.ctx.cur.wave n) = none) :
    tileError s s.ctx act n = none := by
  simp [tileError, h]

/-- An instruction parks for a tile that is pending. -/
theorem tileWait_pend {x : Ctx} {act : Lanes} {n : Nat} (ha : act ≠ 0#32) (hp : (x.wave.tile n).pend = true) (w : Wait) :
    tileWait x act n w = .park act (.tile n) := by
  rw [Wave.tile] at hp
  simp [tileWait, ha, hp]

theorem tileWait_landed {x : Ctx} {act : Lanes} {n : Nat} (ha : act ≠ 0#32) (hp : (x.wave.tile n).pend = false) (w : Wait) :
    tileWait x act n w = w := by
  rw [Wave.tile] at hp
  simp [tileWait, ha, hp]

/-- The registers that MRD names. -/
def mrdOpds (g : Arg) : List Opd :=
  [Opd.u g.a] ++ (if mrdAmx g then [.u g.b] else []) ++ (if mrdTile g then [] else [.v g.d])

section
variable {g : Arg} {s : State}

/-- Rows of the share that no command writes, a tile without an error, a sound address for AMX: MRD meets no fault. -/
theorem semMrd_fault (hr : s.HasArray [0, 3] false) (hw : s.InWindow (mrdOpds g)) (hl : s.Landed g (mrdOpds g))
    (hamx : mrdAmx g = true → (amxAddr g s.ctx).extractLsb' 0 2 = 0#2 ∧ (shelfAddr (amxAddr g s.ctx) 4).isSome = true)
    (hrows : s.RowsFree (mrdRows g s.ctx (s.ctx.act g.m)))
    (htile : mrdTile g = true → g.d < s.ctx.crew.ntile ∧ s.deferredAt s.ctx.crewId (.tile s.ctx.cur.wave g.d) = none) :
    (semMrd g).fault s = none := by
  refine Sem.fault_none (firstFault_eq_none ?_) (firstFault_eq_none ?_) <;>
    simp only [List.mem_cons, List.not_mem_nil, or_false, forall_eq_or_imp, forall_eq]
  · exact ⟨hr.none, hw.none⟩
  · obtain ⟨hbusy, hbeyond⟩ := hrows.none (cls := .bounds) (i := 0#64) (a := 0#64) (act := s.ctx.act g.m)
    refine ⟨hl.none, hbusy, onceFault_none ?_, hbeyond, onceFault_none ?_, onceFault_none ?_, ?_⟩
    · cases h : mrdTile g with
      | false => rfl
      | true => simpa using (htile h).1
    · cases h : mrdAmx g with
      | false => rfl
      | true => simp [(hamx h).1]
    · cases h : mrdAmx g with
      | false => rfl
      | true => exact Option.isNone_eq_false_iff.mpr (hamx h).2
    · split
      · next h => exact tileError_none (htile h).2
      · rfl

/-- Nothing that charges nothing overflows (R127). -/
theorem overflowWait_nil {x : Ctx} {act : Lanes} : overflowWait s x act [] = .go := by
  unfold overflowWait
  split <;> rfl

/-- With room for the fold's charge, MRD waits for its flag alone, once its tile has landed. -/
theorem semMrd_wait (ha : s.Active g) (hamx : mrdAmx g = true → s.ctx.crew.overflows (amxCharges g s s.ctx) = none)
    (hready : mrdTile g = true → (s.ctx.wave.tile g.d).pend = false) :
    (semMrd g).wait s = if s.ctx.flagFull g.m.fsel then .hold s else .go := by
  have hfits : overflowWait s s.ctx (s.ctx.act g.m) (amxCharges g s s.ctx) = .go := by
    cases h : mrdAmx g with
    | false =>
      simp only [amxCharges, h]
      exact overflowWait_nil
    | true => exact overflowWait_go (hamx h)
  cases h : mrdTile g with
  | false => simp [semMrd, h, ha, hfits]
  | true => simp [semMrd, h, ha, hfits, tileWait_landed ha (hready h)]

theorem semMrd_wait_pend (ha : s.Active g) (ht : mrdTile g = true) (hp : (s.ctx.wave.tile g.d).pend = true) :
    (semMrd g).wait s = .park (s.ctx.act g.m) (.tile g.d) := by
  simp [semMrd, ht, ha, tileWait_pend ha hp]

/-- Without AMX nothing is sent. -/
theorem amxSend_off (x : Ctx) (act : Lanes) (h : mrdAmx g = false) (u : State) : amxSend g x act u = u := by
  simp [amxSend, h]

end

/-- Settles O22: the tile, the flag, then what is on its way to landing. -/
theorem accumulatorReadIssues : Obligations.AccumulatorReadIssues := by
  intro f s g opds hissue hr hw hl ha hamx hrows htile c ready
  obtain ⟨cur, hc⟩ := hissue.cur
  have hfault := semMrd_fault hr hw hl (fun h => ⟨(hamx h).1, (hamx h).2.1⟩) hrows htile
  have hwait := semMrd_wait ha (fun h => (hamx h).2.2)
  refine ⟨fun hn => ?_, fun h hflag => ?_, fun h hflag => ⟨fun ht => ?_, fun ht => ?_, fun hoff => amxSend_off _ _ hoff⟩⟩
  · obtain ⟨ht, hp⟩ := Classical.not_imp.mp hn
    exact exec_parkActive (m := semMrd g) rfl hissue hfault (semMrd_wait_pend ha ht (by simpa using hp)) (by simp) fun t hidle => by
      simp [semMrd, hidle]
  · rw [exec_hold rfl hc hfault ((hwait h).trans (if_pos (by simpa using hflag)))]
    exact congrArg Host.Outcome.next (State.holdClause_eq hc)
  · rw [exec_go rfl hc hfault ((hwait h).trans (by simp [hflag]))]
    simp only [semMrd, beq_iff_eq, ha, if_false, ht, Bool.false_eq_true]
    rfl
  · rw [exec_go rfl hc hfault ((hwait h).trans (by simp [hflag]))]
    simp only [semMrd, beq_iff_eq, ha, if_false, if_true, ht]
    rfl

/-! ### Writing and clearing rows (R141, R293) -/

section
variable {g : Arg} {s : State}

/-- Rows of the share that no command writes, F32 in the registers, or in the tile where its tag is known: MWR meets no fault. -/
theorem semMwr_fault (hr : s.HasArray [0, 3] false) (hw : s.InWindow ([Opd.u g.a] ++ (if mwrTile g then [] else [.v g.b])))
    (hl : s.Landed g ([Opd.u g.a] ++ (if mwrTile g then [] else [.v g.b]))) (hrows : s.RowsFree (mwrRows g s.ctx (s.ctx.act g.m)))
    (htile : mwrTile g = true → s.TileWaits g.b ∧ (s.tagKnown s.ctx g.b = true → (s.ctx.wave.tile g.b).tag = .f32))
    (hregs : mwrTile g = false → s.OnLanes (s.ctx.act g.m) (fun ln => (ln.readV g.b).tag = .f32)) : (semMwr g).fault s = none := by
  refine Sem.fault_none (firstFault_eq_none ?_) (firstFault_eq_none ?_) <;>
    simp only [List.mem_cons, List.not_mem_nil, or_false, forall_eq_or_imp, forall_eq]
  · exact ⟨hr.none, hw.none⟩
  · obtain ⟨hbusy, hbeyond⟩ := hrows.none (cls := .bounds) (i := 0#64) (a := 0#64) (act := s.ctx.act g.m)
    refine ⟨hl.none, hbusy, ?_, onceFault_none ?_, hbeyond, ?_⟩
    · split
      · next h =>
        split
        · rfl
        · next hknown =>
          obtain ⟨hknown, -⟩ : s.tagKnown s.ctx g.b = true ∧ g.b < s.ctx.crew.ntile := by simpa using hknown
          have htag := (htile h).2 hknown
          exact formatFault_none fun _ _ _ => by simp [oneTag, htag]
      · next h => exact formatFault_none fun l h32 hm => by simp [oneTag, hregs (by simpa using h) l h32 hm]
    · cases h : mwrTile g with
      | false => rfl
      | true => simpa using (htile h).1.1
    · split
      · next h => exact tileError_none (htile h).1.2
      · rfl

/-- MWR waits for nothing but a tile that is pending. -/
theorem semMwr_wait_ready (ha : s.Active g) (ht : mwrTile g = true → (s.ctx.wave.tile g.b).pend = false) : (semMwr g).wait s = .go := by
  cases h : mwrTile g with
  | false => simp [semMwr, h]
  | true => simp [semMwr, h, tileWait_landed ha (ht h)]

theorem semMwr_wait_pend (ha : s.Active g) (ht : mwrTile g = true) (hp : (s.ctx.wave.tile g.b).pend = true) :
    (semMwr g).wait s = .park (s.ctx.act g.m) (.tile g.b) := by
  simp [semMwr, ht, tileWait_pend ha hp]

end

/-- Settles O23: MWR from registers or a landed tile, MWR at a pending tile, MZERO. -/
theorem accumulatorWriteResult : Obligations.AccumulatorWriteResult := by
  refine ⟨fun f s => ?_, fun f s => ?_, fun f s => ?_⟩
  · intro g opds base hissue hr hw hl ha hrows htile hregs
    obtain ⟨c, hc⟩ := hissue.cur
    have hfault : (semMwr g).fault s = none := semMwr_fault hr hw hl hrows
      (fun h => have ⟨⟨hn, _, herror⟩, htag⟩ := htile h; ⟨⟨hn, herror⟩, fun _ => htag⟩) hregs
    rw [exec_go rfl hc hfault (semMwr_wait_ready ha fun h => (htile h).1.2.1)]
    simp only [semMwr, beq_iff_eq, ha, if_false]
    rfl
  · intro g hissue hr hl ha hrows ht hwaits hp htag
    have hfault : (semMwr g).fault s = none := semMwr_fault hr (by simpa [ht] using s.inWindow_uniform g.a) (by simpa [ht] using hl) hrows
      (fun _ => ⟨hwaits, htag⟩) (fun h => by simp [ht] at h)
    exact exec_parkActive (m := semMwr g) rfl hissue hfault (semMwr_wait_pend ha ht hp) (by simp) fun t hidle => by simp [semMwr, hidle]
  · intro g r hissue hr hl ha hrows
    obtain ⟨c, hc⟩ := hissue.cur
    obtain ⟨hbusy, hbeyond⟩ := hrows.none (cls := .bounds) (i := 0#64) (a := 0#64) (act := s.ctx.act g.m)
    have hcheck : firstFault [inflightFault s.ctx (s.ctx.act g.m) [Opd.u g.a], rowsInflight s.ctx (s.ctx.act g.m) [r],
        onceFault .bounds (s.ctx.act g.m) (rowsBeyond s s.ctx [r]) 0#64 0#64] = none := by
      rw [hl.none, hbusy, hbeyond]
      rfl
    rw [exec_simple (i := .mzero f) rfl hc hr.none hcheck]
    exact congrArg (fun t : State => Host.Outcome.next (t.advance 3)) (if_neg (by simpa using ha))

end Sys2Proof.Machine
end

section
/-!
SMV at issue (O24): the descriptor it must read, the transaction, and the product that goes to the stack's multiplier.
-/
namespace Sys2Proof.Machine

section
variable {g : Arg} {s : State}

/-- A landed register that names an aligned descriptor in bounds, and, where the descriptor can be read, nothing wrong with it: SMV meets
no fault. -/
theorem semSmv_fault (hr : s.HasRole rolesGM) (hl : s.Landed g [.u g.a]) (hcore : s.ctx.crew.core % 2 = 0)
    (halign : (s.ctx.crew.uni g.a).val.extractLsb' 0 4 = 0#4) (hplace : (smvPlace s s.ctx g).isSome = true)
    (hdesc : ∀ ws, smvWords s s.ctx g = some ws →
      smvBad s s.ctx.crewId ws = none ∧ (smvX s s.ctx ws).isSome = true ∧ (smvY s s.ctx ws).isSome = true) :
    (semSmv g).fault s = none := by
  have hstatic : (semSmv g).static s = none := by simpa [semSmv, hcore] using hr.none
  refine Sem.fault_none hstatic (firstFault_eq_none ?_)
  simp only [List.mem_cons, List.not_mem_nil, or_false, forall_eq_or_imp, forall_eq]
  refine ⟨hl.none, onceFault_none (by simp [halign]), onceFault_none (Option.isNone_eq_false_iff.mpr hplace), onceFault_none ?_, ?_⟩
  · cases hws : smvWords s s.ctx g with
    | none => rfl
    | some ws => simp [(hdesc ws hws).1]
  · cases hws : smvWords s s.ctx g with
    | none => exact ⟨rfl, rfl⟩
    | some ws =>
      obtain ⟨-, hx, hy⟩ := hdesc ws hws
      exact ⟨onceFault_none (Option.isNone_eq_false_iff.mpr hx), onceFault_none (Option.isNone_eq_false_iff.mpr hy)⟩

/-- The descriptor first, then the transaction (R109). -/
theorem semSmv_wait : (semSmv g).wait s = (smvReady s s.ctx g).andThen
    (if s.ctx.act g.m != 0#32 && !s.txnsFree s.ctx.crew.core 1 then .park (s.ctx.act g.m) (.txns 1) else .go) := by
  simp only [semSmv]
  cases smvReady s s.ctx g <;> rfl

/-- The product of a sound descriptor has its x and y in local memory, and all its rows to come. -/
theorem smvOf_some {ws : List Word} {p : Smv} {x : Ctx} (h : smvOf s x ws = some p) :
    (smvX s x ws).isSome = true ∧ (smvY s x ws).isSome = true ∧ p.left = [{ base := 0, len := smvRows ws }] := by
  unfold smvOf at h
  split at h
  · next hx hy _ =>
    cases h
    exact ⟨by simp [hx], by simp [hy], rfl⟩
  · cases h

/-- Once its fibres' accesses have performed, the product stands last among the products; memory is as those left it. -/
theorem semSmv_eff {ws : List Word} {p : Smv} {u : State} (ha : s.Active g) (hws : smvWords s s.ctx g = some ws)
    (hp : smvOf s s.ctx ws = some p) (hu : s.catchUpLanes s.ctx.cur.wave (s.ctx.act g.m) = u) :
    ((semSmv g).eff s).smvs = u.smvs ++ [(u.nextUid, p)] ∧ ((semSmv g).eff s).mem = u.mem := by
  simp only [semSmv, beq_iff_eq, ha, if_false, hws, Option.bind_some, hp, hu]
  cases p.bar <;> exact ⟨rfl, rfl⟩

end

/-- Settles O24: the descriptor, the transaction, the product. -/
theorem productIssues : Obligations.ProductIssues := by
  refine ⟨fun f s => ?_, fun f p ws s => ?_⟩
  · intro g ⟨hissue, hr, hl, ha⟩ hcore halign hplace hnone
    obtain ⟨c, hc⟩ := hissue.cur
    have hfault := semSmv_fault hr hl hcore halign hplace fun ws h => by simp [hnone] at h
    exact State.wordsBehind_of_wait rfl hc hfault fun hw => semSmv_wait.trans (Wait.andThen_of_ne_go hw _)
  · intro g ⟨hissue, hr, hl, ha⟩ hcore halign hplace hready hws hbad hp
    obtain ⟨c, hc⟩ := hissue.cur
    obtain ⟨hx, hy, hleft⟩ := smvOf_some hp
    have hfault := semSmv_fault hr hl hcore halign hplace fun ws' h => by
      cases hws.symm.trans h
      exact ⟨hbad, hx, hy⟩
    have hwait := semSmv_wait (g := g) (s := s)
    rw [hready, Wait.go_andThen] at hwait
    refine ⟨hleft, fun ht => ?_, fun ht => ?_⟩
    · exact exec_parkActive (m := semSmv g) rfl hissue hfault (hwait.trans (if_pos (by simp [ha, ht]))) (by simp) fun t hidle => by
        simp [semSmv, hidle]
    · exact ⟨_, exec_go (m := semSmv g) rfl hc hfault (hwait.trans (if_neg (by simp [ht]))), semSmv_eff ha hws hp rfl⟩

end Sys2Proof.Machine
end

section
/-!
The events of shared units (O46): the round of the partitions, the retirement of a multiply command, the packets of a product, and the
traversal and landing of a view.
-/
namespace Sys2Proof.Machine

/-! ### The round of the partitions (R134, R210) -/

/-- The partitions in the order of their turns, the one served last at the end. -/
def roundAfter (last : Nat) : List Nat := (List.range 8).map (fun i => (last + 1 + i) % 8)

/-- How many partitions have their turn before one. -/
def turnAfter (last j : Nat) : Nat := (j + 7 * last + 7) % 8

/-- Each partition stands in the round at its turn. -/
theorem eq_of_turnAfter {last j : Nat} (hj : j < 8) : j = (last + 1 + turnAfter last j) % 8 := by
  unfold turnAfter
  omega

/-- The first of the round that meets a test has its turn before every other one that does. -/
theorem roundAfter_find?_some {last part : Nat} {p : Nat → Bool} (h : (roundAfter last).find? p = some part) :
    part < 8 ∧ p part = true ∧ ∀ j < 8, p j = true → turnAfter last part ≤ turnAfter last j := by
  obtain ⟨hp, i, hi, hpart, hbefore⟩ := List.find?_eq_some_iff_getElem.mp h
  have hi : i < 8 := by simpa [roundAfter] using hi
  have hpart : (last + 1 + i) % 8 = part := by simpa [roundAfter] using hpart
  refine ⟨by omega, hp, fun j hj hpj => ?_⟩
  have hturn : turnAfter last part = i := by unfold turnAfter; omega
  rw [hturn]
  refine Nat.le_of_not_lt fun hlt => ?_
  have hnot := hbefore (turnAfter last j) hlt
  simp only [roundAfter, List.getElem_map, List.getElem_range, ← eq_of_turnAfter hj, hpj] at hnot
  exact absurd hnot (by decide)

/-- Where no partition meets it, none is found. -/
theorem roundAfter_find?_none {last : Nat} {p : Nat → Bool} (h : (roundAfter last).find? p = none) : ∀ j < 8, p j = false := by
  intro j hj
  have hmem : j ∈ roundAfter last :=
    List.mem_map.mpr ⟨turnAfter last j, List.mem_range.mpr (Nat.mod_lt _ (by decide)), (eq_of_turnAfter hj).symm⟩
  simpa using List.find?_eq_none.mp h j hmem

/-- A shared engine serves the first in turn of those with work ready there. -/
theorem State.engineServes_some {s : State} {e : Engine} {ready : Nat → Bool} {part : Nat} (h : s.engineServes e ready = some part) :
    let last := ((s.turns.find? (fun x => x.1 == e)).map (·.2)).getD 7
    part < 8 ∧ ready part = true ∧ ∀ j < 8, ready j = true → turnAfter last part ≤ turnAfter last j :=
  roundAfter_find?_some h

theorem State.engineServes_none {s : State} {e : Engine} {ready : Nat → Bool} (h : s.engineServes e ready = none) :
    ∀ j < 8, ready j = false :=
  roundAfter_find?_none h

/-- The partition served is the last one that its engine has served. -/
theorem State.engineServed_turn (s : State) (e : Engine) (part : Nat) :
    (s.engineServed e part).turns.find? (fun x => x.1 == e) = some (e, part) := by
  have hgone : (s.turns.filter (fun x => x.1 != e)).find? (fun x => x.1 == e) = none :=
    List.find?_eq_none.mpr fun x hx => by simpa using (List.mem_filter.mp hx).2
  simp [State.engineServed, List.find?_append, hgone]

/-- The turns of every other engine stay. -/
theorem State.engineServed_turn_ne (s : State) {e d : Engine} (part : Nat) (h : d ≠ e) :
    (s.engineServed e part).turns.find? (fun x => x.1 == d) = s.turns.find? (fun x => x.1 == d) := by
  have hkeep : (s.turns.filter (fun x => x.1 != e)).find? (fun x => x.1 == d) = s.turns.find? (fun x => x.1 == d) := by
    rw [List.find?_filter]
    refine congrArg (List.find? · s.turns) (funext fun x => ?_)
    by_cases hx : x.1 = d <;> simp [hx, h]
  simp [State.engineServed, List.find?_append, hkeep, h.symm]

/-! ### MATRIX_COMMAND_RETIRE (R134) -/

/-- A pair serves the first in turn of those with a command there. -/
theorem State.pairServes_some {s : State} {pair part : Nat} (h : s.pairServes pair = some part) :
    let last := (look pair s.pairTurn).getD 7
    part < 8 ∧ (s.firstCommand pair part).isSome = true ∧
      ∀ j < 8, (s.firstCommand pair j).isSome = true → turnAfter last part ≤ turnAfter last j :=
  roundAfter_find?_some (p := fun j => (s.firstCommand pair j).isSome) h

/-- What is not its turn finishes nothing. -/
theorem State.retireCommand_waits {s : State} {pair part : Nat} (h : s.pairServes pair ≠ some part) : s.retireCommand pair part = s := by
  simp [State.retireCommand, h]

/-- The oldest command of the partition in turn finishes. -/
theorem State.retireCommand_first {s : State} {pair part k : Nat} {c : MatCmd} (h : s.pairServes pair = some part)
    (hc : s.firstCommand pair part = some (k, c)) :
    let t : State := { s with cmds := drop k s.cmds, pairTurn := drop pair s.pairTurn ++ [(pair, part)] }
    s.retireCommand pair part = t.modGangPair c.gang pair (fun p =>
      ({ p with
        acc := t.matRun c p.acc,
        batches := p.batches.map (fun b => if b.num == c.batch then { b with left := b.left - 1 } else b) } : GangPair).settle) := by
  simp only [State.retireCommand, h, BEq.rfl, if_true, hc]

/-! ### SMV_PACKET (R146, R147) -/

section
variable {s : State} {k first n : Nat} {p : Smv} (hk : look k s.smvs = some p)
include hk

/-- Out of turn a packet does nothing (R210). -/
theorem State.smvLand_waits (ht : s.smvTurn p = false) : s.smvLand k first n = s := by
  simp [State.smvLand, hk, ht]

omit hk
variable (h0 : 0 < n) (hn : n ≤ 16) (hleft : allLeft p.left first n = true) (hq : s.quiet p.wave k = true) (ht : s.smvTurn p = true)
include h0 hn hleft hq ht

/-- Nothing keeps such a packet back. -/
theorem State.smvLand_goes : (n == 0 || decide (16 < n) || !allLeft p.left first n || !s.quiet p.wave k || !s.smvTurn p) = false := by
  simp [Nat.ne_of_gt h0, Nat.not_lt_of_le hn, hleft, hq, ht]

include hk

/-- A packet whose rows are all there lands them and credits the barrier; the last one ends the product. -/
theorem State.smvLand_lands (hm : ∀ r ∈ (List.range n).map (· + first),
      (s.engineServed (.multiplier p.stack) (s.partOf p.crew)).smvMiss p r = none) :
    let u := s.engineServed (.multiplier p.stack) (s.partOf p.crew)
    let t := ((List.range n).map (· + first)).foldl (fun t r => t.putLmem p.ycrew (p.yoff + 4 * r) 4 (u.smvElem p r).toNat) u
    let left := takeRange first n p.left
    s.smvLand k first n = State.credit
      { t with smvs := if left = [] then drop k t.smvs else change k (fun q => { q with left := left }) t.smvs }
        p.crew p.wave p.bar (4 * n) := by
  simp only [State.smvLand, hk, State.smvLand_goes h0 hn hleft hq ht, Bool.false_eq_true, if_false,
    List.findSome?_eq_none_iff.mpr hm, List.foldl_map, List.isEmpty_iff]
  split <;> rfl

/-- A row that is not stack-local ends the product, with a deferred TRANSLATE at the barrier. -/
theorem State.smvLand_ends {a : VAddr} (hm : ((List.range n).map (· + first)).findSome?
      ((s.engineServed (.multiplier p.stack) (s.partOf p.crew)).smvMiss p) = some a) :
    let u := s.engineServed (.multiplier p.stack) (s.partOf p.crew)
    s.smvLand k first n = ({ u with smvs := drop k u.smvs } : State).deferTranslate p.crew a (u.tillBar p.crew (some p.bar)) := by
  simp only [State.smvLand, hk, State.smvLand_goes h0 hn hleft hq ht, Bool.false_eq_true, if_false, hm]

end

/-! ### VIEW_TRAVERSAL and VIEW_LANDING (R151, R153, R159) -/

section
variable {s : State} {k : Nat} {v : View} (hk : look k s.views = some v)
include hk

section
variable (he : v.error = none) (hf : v.fault = none) (hd : v.traced = false) (ha : s.awake v.crew = true)
include he hf hd ha

/-- Out of turn at the splat sorter a view traverses nothing (R210). -/
theorem State.traverseView_waits (ht : s.viewTurn v = false) : s.traverseView k = s := by
  simp [State.traverseView, hk, he, hf, hd, ha, ht]

variable (hq : s.quiet v.wave k = true) (ht : s.viewTurn v = true)
include hq ht

/-- The image is complete but for the pixels whose records are sent. -/
theorem State.traverseView_traces {miss : Word} {bad : Bool} {ps : List Pixel} (hr : (s.viewServed v).traceView v = .ok (miss, bad, ps)) :
    s.traverseView k = ((s.viewServed v).modView k (fun v => { v with
      traced := true, miss := miss, badmat := bad, pixels := ps })).sendPixels k v ps := by
  simp [State.traverseView, hk, he, hf, hd, ha, hq, ht, hr]

theorem State.traverseView_unsound {a : Dword} {o : Nat} (hr : (s.viewServed v).traceView v = .error (.bad a o)) :
    s.traverseView k = (s.viewServed v).modView k (fun v => { v with
      traced := true, error := some (.descriptor, a, BitVec.ofNat 64 o) }) := by
  simp [State.traverseView, hk, he, hf, hd, ha, hq, ht, hr]

theorem State.traverseView_absent {a : VAddr} (hr : (s.viewServed v).traceView v = .error (.miss a)) :
    let r := (s.viewServed v).openFault v.crew v.wave a ((s.viewServed v).toTagged a)
    s.traverseView k = r.2.modView k (fun v => { v with fault := some r.1 }) := by
  simp [State.traverseView, hk, he, hf, hd, ha, hq, ht, hr]

end

variable (ha : s.awake v.crew = true)
include ha

theorem State.landView_error {cls : FaultClass} {addr info : Dword} (he : v.error = some (cls, addr, info)) :
    s.landView k = (({ s with views := drop k s.views } : State).landTile v.wave v.tile (viewMode v.w2)
      (List.replicate 256 (modeError (viewMode v.w2))) 3).defer
        { gang := (s.crew v.crew).gang, crew := v.crew, cls := cls, addr := addr, info := info, till := [.tile v.wave v.tile] } := by
  simp only [State.landView, hk, ha, he]
  rfl

theorem State.landView_done (he : v.error = none) (ht : v.traced = true) (hd : s.viewDone v = true) :
    s.landView k = ({ s with views := drop k s.views } : State).landTile v.wave v.tile (viewMode v.w2) (viewImage v)
      (if v.badmat then 4 else 0) := by
  simp only [State.landView, hk, ha, he, ht, hd]
  rfl

end

/-- Settles O46: the round of the partitions, then each event by what it finds. -/
theorem unitEvents : Obligations.UnitEvents := by
  refine ⟨fun pair part s => ⟨State.pairServes_some, fun h => congrArg Host.Outcome.next (State.retireCommand_waits h)⟩,
    fun pair part k c s h hc => congrArg Host.Outcome.next (State.retireCommand_first h hc),
    fun k first n p s hk h0 hn hleft hq => ⟨fun ht => congrArg Host.Outcome.next (State.smvLand_waits hk ht),
      fun ht hm => congrArg Host.Outcome.next (State.smvLand_lands hk h0 hn hleft hq ht hm),
      fun a ht hm => congrArg Host.Outcome.next (State.smvLand_ends hk h0 hn hleft hq ht hm)⟩,
    fun e ready part s => ⟨State.engineServes_some, State.engineServes_none, congrArg (Option.map (·.2)) (s.engineServed_turn e part),
      fun d hd => s.engineServed_turn_ne part hd⟩,
    fun k v s hk he hf hd ha hq => ⟨fun ht => congrArg Host.Outcome.next (State.traverseView_waits hk he hf hd ha ht),
      fun miss bad ps ht hr => congrArg Host.Outcome.next (State.traverseView_traces hk he hf hd ha hq ht hr),
      fun a o ht hr => congrArg Host.Outcome.next (State.traverseView_unsound hk he hf hd ha hq ht hr),
      fun a ht hr => congrArg Host.Outcome.next (State.traverseView_absent hk he hf hd ha hq ht hr)⟩,
    fun k v cls addr info s hk he ha => congrArg Host.Outcome.next (State.landView_error hk ha he),
    fun k v s hk he ht ha hd => congrArg Host.Outcome.next (State.landView_done hk ha he ht hd)⟩

end Sys2Proof.Machine
end

section
/-!
VIEW, VSTAT, VPIX and RAYQ at issue (O25 to O27): what their checks let pass, where each waits, and what it leaves.
-/
namespace Sys2Proof.Machine

/-! ### A page that is asked for moves no fibre (R108) -/

/-- The same fibres stand at the same places, with the same clause being issued. -/
structure State.SameFibres (s t : State) : Prop where
  cur : t.cur = s.cur
  waves : t.waves = s.waves

theorem State.SameFibres.refl (s : State) : s.SameFibres s := ⟨rfl, rfl⟩

theorem State.SameFibres.trans {s t u : State} (h : s.SameFibres t) (k : t.SameFibres u) : s.SameFibres u :=
  ⟨k.cur.trans h.cur, k.waves.trans h.waves⟩

/-- The active lanes are those of the clause in its wave. -/
theorem State.SameFibres.act {s t : State} (h : s.SameFibres t) (m : Mods) : t.ctx.act m = s.ctx.act m := by
  simp only [Ctx.act, State.ctx, State.ctxOf, State.wave, h.cur, h.waves]

theorem State.MemoryOnly.sameFibres {s t : State} (h : s.MemoryOnly t) : s.SameFibres t := by
  obtain ⟨⟨_, _, rfl⟩, _⟩ := h
  exact ⟨rfl, rfl⟩

theorem State.writeNat?_sameFibres {s t : State} {part tenant n v : Nat} {a : VAddr} (h : s.writeNat? part tenant a n v = some t) :
    s.SameFibres t := by
  obtain ⟨hs, -, rfl⟩ := Option.map_eq_some_iff.mp h
  have hput := (s.putNat_memoryOnly hs v).sameFibres
  dsimp only
  split
  · exact ⟨hput.cur, hput.waves⟩
  · exact hput

/-- Where bytes are written, or else left. -/
theorem State.writeNat?_getD_sameFibres (s : State) (part tenant : Nat) (a : VAddr) (n v : Nat) :
    s.SameFibres ((s.writeNat? part tenant a n v).getD s) := by
  cases h : s.writeNat? part tenant a n v with
  | none => exact .refl s
  | some t => exact State.writeNat?_sameFibres h

theorem State.takeSeq_sameFibres (s : State) (pa : Nat) : s.SameFibres (s.takeSeq pa).2 := by
  unfold State.takeSeq
  split <;> exact ⟨rfl, rfl⟩

theorem State.dropRecord_sameFibres (s : State) (part tenant : Nat) (hdr : VAddr) : s.SameFibres (s.dropRecord part tenant hdr) := by
  unfold State.dropRecord
  split
  · exact s.writeNat?_getD_sameFibres _ _ _ _ _
  · exact .refl s

theorem State.writeRecord_sameFibres (s : State) (q : Dword) (tenant : Nat) (r : FaultRec) :
    s.SameFibres (s.writeRecord q tenant r) := by
  unfold State.writeRecord
  split
  · next pa _ =>
    have hseq := s.takeSeq_sameFibres pa
    generalize s.takeSeq pa = e at hseq ⊢
    obtain ⟨seq, t⟩ := e
    refine hseq.trans ?_
    dsimp only
    split
    · split
      · split
        · next hw =>
          obtain ⟨_, -, hw⟩ := Option.bind_eq_some_iff.mp hw
          exact (State.writeNat?_sameFibres hw).trans (State.writeNat?_getD_sameFibres _ _ _ _ _ _)
        · exact t.dropRecord_sameFibres _ _ _
      · exact t.dropRecord_sameFibres _ _ _
    · exact .refl t
  · exact .refl s

theorem State.putRecord_sameFibres (s : State) (q : Dword) (tenant : Nat) (r : FaultRec) :
    s.SameFibres (s.putRecord q tenant r).2 := by
  unfold State.putRecord
  dsimp only
  split
  · exact ⟨rfl, rfl⟩
  · split
    · exact s.writeRecord_sameFibres q tenant r
    · split <;> exact ⟨rfl, rfl⟩

theorem State.postTo_sameFibres (s : State) (q : Dword) (tenant : Nat) (r : FaultRec) : s.SameFibres (s.postTo q tenant r) := by
  unfold State.postTo
  have hput := s.putRecord_sameFibres q tenant r
  generalize s.putRecord q tenant r = e at hput ⊢
  obtain ⟨_ | a, t⟩ := e
  · exact hput
  · dsimp only
    split
    · exact hput
    · exact hput.trans (t.putRecord_sameFibres _ _ _)

theorem State.openFault_sameFibres (s : State) (crew wave : Nat) (a : VAddr) (addr : Dword) :
    s.SameFibres (s.openFault crew wave a addr).2 :=
  ⟨(State.postTo_sameFibres ..).cur, (State.postTo_sameFibres ..).waves⟩

/-- Asking for the page of a word moves no fibre. -/
theorem State.askWord_sameFibres (s : State) (a : VAddr) : s.SameFibres (s.askWord a) := by
  unfold State.askWord
  dsimp only
  split
  · exact .refl s
  · exact s.openFault_sameFibres _ _ _ _

theorem State.askFor_sameFibres (s : State) (r : ParkReason) : s.SameFibres (s.askFor r) := by
  cases r with
  | missWord a fs =>
    simp only [State.askFor]
    split
    · exact .refl s
    · exact s.askWord_sameFibres a
  | object a =>
    simp only [State.askFor]
    split
    · exact .refl s
    · exact s.askWord_sameFibres a
  | _ => exact .refl s

/-- The active fibres park, for whatever it be, at an instruction that does nothing without an active fibre. -/
theorem exec_parkAsking {i : Instr} {m : Sem} {g : Arg} {s : State} {r : ParkReason} (hi : i.sem = some m) (hissue : s.Issuing)
    (hf : m.fault s = none) (hw : m.wait s = .park (s.ctx.act g.m) r) (hidle : ∀ t : State, t.ctx.act g.m = 0#32 → m.eff t = t) :
    exec i s = .next (((s.askFor r).parkLanes (s.ctx.act g.m) r).advance m.size) := by
  obtain ⟨c, hc⟩ := hissue.cur
  have hsame := s.askFor_sameFibres r
  have hnone := State.act_parkLanes (s := s.askFor r) (by rw [State.Issuing, hsame.cur]; exact hissue) g.m r
  rw [hsame.act] at hnone
  rw [exec_park hi hc hf hw, hidle _ hnone]

/-! ### VIEW (R149, R150, R166) -/

/-- Descriptor addresses that are all sound (R150). -/
theorem farFaults_eq_none {act : Lanes} {ts : List (Dword × Nat)} (h : ∀ t ∈ ts, farOk t.1 t.2) : ∀ o ∈ farFaults act ts, o = none := by
  have hnone {cls : FaultClass} {bad : Dword × Nat → Bool} (hbad : ∀ t ∈ ts, bad t = false) :
      onceFault cls act ((ts.find? bad).map (·.1)).isSome 0#64 (((ts.find? bad).map (·.1)).getD 0#64) = none :=
    onceFault_none (by simpa using hbad)
  simp only [farFaults, List.mem_cons, List.not_mem_nil, or_false, forall_eq_or_imp, forall_eq]
  refine ⟨hnone fun t ht => ?_, hnone fun t ht => ?_, hnone fun t ht => ?_⟩ <;> obtain ⟨hspace, halign, hplace⟩ := h t ht
  · simpa using hspace
  · simp [halign]
  · exact Option.isNone_eq_false_iff.mpr hplace

/-- A fibre that waits for MISS waits for nothing of its own, but for the accesses of all those that wait with it (R150). -/
theorem State.stillParked_missWord {s : State} {wave : Nat} {x : Lane} {a : VAddr} {fs : List Nat}
    (h : ∃ e ∈ s.accesses, e.2.of fs = true) : s.stillParked wave x (.missWord a fs) = true := by
  obtain ⟨e, he, hof⟩ := h
  obtain ⟨k, hk, hfs⟩ := List.any_eq_true.mp hof
  have hbusy : (fs.any fun f => !s.quietFibre f) = true :=
    List.any_eq_true.mpr ⟨k, by simpa using hfs, by
      simp only [State.quietFibre, Bool.not_not]
      exact List.any_eq_true.mpr ⟨e, he, List.any_eq_true.mpr ⟨k, hk, by simp⟩⟩⟩
  simp [State.stillParked, hbusy]

section
variable {g : Arg} {s : State}

/-- The slots of the crew's next level: those it may have, and those in use (R166). -/
def viewSlots (s : State) (x : Ctx) : Nat := s.viewQuota x.launch.part (clusterOfCore x.crew.core) (x.crew.vlevel + 1)

def viewSlotsUsed (s : State) (x : Ctx) : Nat := s.viewsHeld x.launch.part (clusterOfCore x.crew.core) (x.crew.vlevel + 1)

theorem viewRefused_none {x : Ctx} (hlevel : x.crew.vlevel ≠ 6) (hslots : viewSlots s x ≠ 0) : viewRefused s x = none := by
  rw [viewSlots] at hslots
  simp [viewRefused, hlevel, hslots]

/-- The deepest level comes before the lack of slots. -/
theorem viewRefused_some {x : Ctx} (h : x.crew.vlevel = 6 ∨ viewSlots s x = 0) :
    viewRefused s x = some (if x.crew.vlevel = 6 then 1 else 2) := by
  rw [viewSlots] at h
  by_cases hlevel : x.crew.vlevel = 6
  · simp [viewRefused, hlevel]
  · simp [viewRefused, hlevel, h.resolve_left hlevel]

/-- Landed registers that name sound descriptors, and a tile of the crew without an error: VIEW meets no fault. -/
theorem semView_fault (hr : s.HasRole rolesGV) (hl : s.Landed g [.u g.a, .u (g.a + 1), .u g.b, .u (g.b + 1)])
    (htile : s.TileWaits (g.d % 16)) (hcam : farOk (viewCam s.ctx g) 80) (hcut : farOk (viewCut s.ctx g) 96) :
    (semView g).fault s = none := by
  refine Sem.fault_none hr.none (firstFault_eq_none (List.forall_mem_append.mpr ⟨List.forall_mem_append.mpr ⟨?_, ?_⟩, ?_⟩))
  · simp only [List.mem_cons, List.not_mem_nil, or_false, forall_eq_or_imp, forall_eq]
    exact ⟨hl.none, onceFault_none (by simpa using htile.1)⟩
  · exact farFaults_eq_none (by simpa using ⟨hcam, hcut⟩)
  · simpa using tileError_none htile.2

/-- Without an active fibre VIEW does nothing. -/
theorem semView_idle (h : s.ctx.act g.m = 0#32) : (semView g).eff s = s := by
  simp only [semView, h, BEq.rfl, if_true]

section
variable (ha : s.Active g)
include ha

theorem semView_wait_pend (hp : (s.ctx.wave.tile (g.d % 16)).pend = true) :
    (semView g).wait s = .park (s.ctx.act g.m) (.tile (g.d % 16)) :=
  tileWait_pend ha hp _

/-- A view that may begin waits for a slot alone. -/
theorem semView_wait_slot (hp : (s.ctx.wave.tile (g.d % 16)).pend = false) (hn : viewRefused s s.ctx = none) :
    (semView g).wait s =
      if viewSlots s s.ctx ≤ viewSlotsUsed s s.ctx then .park (s.ctx.act g.m) (.viewSlot (s.ctx.crew.vlevel + 1)) else .go := by
  refine (tileWait_landed ha hp _).trans ?_
  simp only [hn]
  rfl

/-- A view that is refused waits for MISS alone. -/
theorem semView_wait_miss {status : Nat} (hp : (s.ctx.wave.tile (g.d % 16)).pend = false) (hn : viewRefused s s.ctx = some status) :
    (semView g).wait s = if missUnread s s.ctx (s.ctx.act g.m) g then
      .park (s.ctx.act g.m) (.missWord (missPlace s.ctx g) (s.ctx.wave.fibres (s.ctx.act g.m))) else .go := by
  refine (tileWait_landed ha hp _).trans ?_
  simp only [hn]

variable {u : State} (hu : s.catchUpLanes s.ctx.cur.wave (s.ctx.act g.m) = u)
include hu

/-- A refused view lands at once, with what MISS holds. -/
theorem semView_lands {status : Nat} {m : Word} (hn : viewRefused u s.ctx = some status)
    (hm : if missRead g then u.taskWord? s.ctx.crewId (missPlace s.ctx g) = some m else m = 0#32) :
    (semView g).eff s = u.landTile s.ctx.cur.wave (g.d % 16) (viewMode g.w2)
      (List.replicate 256 (modeMiss (viewMode g.w2) m)) status := by
  have hword : (if missRead g then u.taskWord? s.ctx.crewId (missPlace s.ctx g) else some 0#32) = some m := by
    split at hm
    · next h => rw [if_pos h, hm]
    · next h => rw [if_neg h, hm]
  simp only [semView, beq_iff_eq, ha, if_false, hu, hn, hword]

/-- A view that begins stands last among the views, untraced, and its tile is pending. -/
theorem semView_begins (hn : viewRefused u s.ctx = none) : ∃ k v,
    ((semView g).eff s).views = u.views ++ [(k, v)] ∧ v.tile = g.d % 16 ∧ v.wave = s.ctx.cur.wave ∧ v.cam = viewCam s.ctx g ∧
    v.cut = viewCut s.ctx g ∧ v.level = s.ctx.crew.vlevel + 1 ∧ v.part = s.ctx.launch.part ∧ v.traced = false ∧
    ((semView g).eff s).mem = u.mem ∧
    ((semView g).eff s).waves = (u.modWave s.ctx.cur.wave (fun w =>
      w.setTile (g.d % 16) (fun q => { q with tag := modeTag (viewMode g.w2), pend := true }))).waves := by
  simp only [semView, beq_iff_eq, ha, if_false, hu, hn]
  exact ⟨_, _, rfl, rfl, rfl, rfl, rfl, rfl, rfl, rfl, rfl, rfl⟩

end

end

/-- Settles O25: the tile, then, where the view may begin, the slot, and where it is refused, MISS. -/
theorem viewIssues : Obligations.ViewIssues := by
  refine ⟨fun wave x y a fs s => ⟨rfl, State.stillParked_missWord⟩, fun f s => ?_⟩
  intro g n act u quota used ⟨hissue, hr, hl, ha⟩ hn herror hcam hcut
  obtain ⟨c, hc⟩ := hissue.cur
  have hfault := semView_fault hr hl ⟨hn, herror⟩ hcam hcut
  have hgo := exec_go (i := .view f) (m := semView g) rfl hc hfault
  refine ⟨fun hp => ?_, fun hp hlevel hquota hused => ?_, fun r hreason hp hrefused hmiss => ?_,
    fun m hp hrefused hmiss hsame hm => ?_, fun hp hlevel hused hbegins => ?_⟩
  · exact exec_parkActive (m := semView g) rfl hissue hfault (semView_wait_pend ha hp) (by simp) fun _ => semView_idle
  · have hwait := (semView_wait_slot ha hp (viewRefused_none hlevel hquota)).trans (if_pos hused)
    exact exec_parkActive (m := semView g) rfl hissue hfault hwait (by simp) fun _ => semView_idle
  · have hwait := (semView_wait_miss ha hp (viewRefused_some hrefused)).trans (if_pos hmiss)
    subst hreason
    exact exec_parkAsking (m := semView g) rfl hissue hfault hwait fun _ => semView_idle
  · have hstatus := viewRefused_some hrefused
    have hwait := (semView_wait_miss ha hp hstatus).trans (if_neg (ne_true_of_eq_false hmiss))
    rw [hgo hwait, semView_lands ha rfl (hsame.trans hstatus) hm]
    rfl
  · have hquota : quota ≠ 0 := Nat.ne_of_gt (Nat.zero_lt_of_lt hused)
    have hwait := (semView_wait_slot ha hp (viewRefused_none hlevel hquota)).trans (if_neg (Nat.not_le_of_lt hused))
    obtain ⟨k, v, hview⟩ := semView_begins ha rfl hbegins
    exact ⟨_, k, v, hgo hwait, hview⟩

end Sys2Proof.Machine
end

section
/-!
VSTAT and VPIX (O26), and RAYQ at issue (O27).
-/
namespace Sys2Proof.Machine

section
variable {g : Arg} {s : State}

/-! ### VSTAT and VPIX (R163, R165, R326, R327) -/

/-- A tile of the crew and a landed register: VSTAT completes. -/
theorem exec_vstat {f : Ext} (hr : s.Ready f.arg rolesGV [.u f.arg.d]) (hn : f.arg.w2f 0 4 < s.ctx.crew.ntile) :
    exec (.vstat f) s = .next (((semVstat f.arg).eff s).advance 3) := by
  obtain ⟨hissue, hrole, hland, -⟩ := hr
  obtain ⟨c, hc⟩ := hissue.cur
  exact exec_simple rfl hc hrole.none (State.check_none hland (onceFault_none (by simpa using hn)))

/-- Landed registers in the window, and colours of four bytes: VPIX completes. -/
theorem exec_vpix {f : Ext} (hc : s.Clear f.arg rolesGV [.v f.arg.a, .v f.arg.b, .v f.arg.c])
    (ht : s.OnLanes (s.ctx.act f.arg.m) (fun ln => (ln.readV f.arg.c).tag = .n8x4 ∨ (ln.readV f.arg.c).tag = .raw)) :
    exec (.vpix f) s = .next (((semVpix f.arg).eff s).advance 3) := by
  obtain ⟨hissue, hrole, hwindow, hland⟩ := hc
  obtain ⟨c, hcur⟩ := hissue.cur
  exact exec_simple rfl hcur (State.static_none hrole hwindow)
    (State.check_none hland (formatFault_none fun l hl hm => if_pos (by simpa using ht l hl hm)))

/-- Settles O26: what each of the two does once its checks find nothing. -/
theorem viewAnswerResult : Obligations.ViewAnswerResult := by
  refine ⟨fun f s => ?_, fun f s => ?_⟩
  · intro g tile t hr hn
    rw [exec_vstat hr hn]
    obtain ⟨-, -, -, ha⟩ := hr
    exact congrArg (fun t : State => Host.Outcome.next (t.advance 3)) (if_neg (by simpa using ha))
  · intro g hc ha ht u
    rw [exec_vpix hc ht]
    exact congrArg (fun t : State => Host.Outcome.next (t.advance 3)) (if_neg (by simpa using ha))

/-! ### RAYQ (R169, R301, R109, R51) -/

/-- The registers that RAYQ names in every lane: its two destinations and its ray. -/
def rayNames (g : Arg) : List Opd := [Opd.v g.d, .v (g.d + 1)] ++ rayOpds g

/-- Landed registers in the window, a ray of F32 and a sound descriptor: RAYQ meets no fault. -/
theorem semRayq_fault (hr : s.HasRole rolesGV) (hw : s.InWindow (rayNames g))
    (hl : s.Landed g (rayNames g ++ [.u g.b, .u (g.b + 1)]))
    (ht : s.OnLanes (s.ctx.act g.m) (fun ln => ∀ i < 8, (ln.readV (g.a + i)).tag = .f32)) (hcut : farOk (viewCut s.ctx g) 96) :
    (semRayq g).fault s = none := by
  refine Sem.fault_none (State.static_none hr hw) (firstFault_eq_none (List.forall_mem_append.mpr ⟨?_, ?_⟩))
  · simp only [List.mem_cons, List.not_mem_nil, or_false, forall_eq_or_imp, forall_eq]
    exact ⟨hl.none, formatFault_none fun l h32 hm => notF32_none (by simpa using ht l h32 hm)⟩
  · exact farFaults_eq_none (by simpa using hcut)

section
variable (ha : s.Active g)
include ha

/-- RAYQ parks for a transaction for each of its fibres. -/
theorem semRayq_wait_parks (h : s.txnsFree s.ctx.crew.core (laneList (s.ctx.act g.m)).length = false) :
    (semRayq g).wait s = .park (s.ctx.act g.m) (.txns (laneList (s.ctx.act g.m)).length) := by
  simp [semRayq, ha, h]

/-- With its transactions, it waits for its flag alone. -/
theorem semRayq_wait_flag (h : s.txnsFree s.ctx.crew.core (laneList (s.ctx.act g.m)).length = true) :
    (semRayq g).wait s = if s.ctx.flagFull g.m.fsel then .hold s else .go := by
  simp [semRayq, ha, h]

end

end

/-- Settles O27: the transactions, the flag, then the rays that are sent. -/
theorem rayIssues : Obligations.RayIssues := by
  intro f s g act vs hissue hr hw hl ha ht hcut cnt n
  obtain ⟨c, hc⟩ := hissue.cur
  have hfault : (semRayq g).fault s = none := semRayq_fault hr hw hl ht hcut
  refine ⟨fun hfree => ?_, fun hfree hflag => ?_, fun hfree hflag => ?_⟩
  · exact exec_parkActive (m := semRayq g) rfl hissue hfault (semRayq_wait_parks ha hfree) (by simp) fun t hidle => by
      simp only [semRayq, hidle, BEq.rfl, if_true]
  · rw [exec_hold rfl hc hfault ((semRayq_wait_flag ha hfree).trans (if_pos (by simpa using hflag)))]
    exact congrArg Host.Outcome.next (State.holdClause_eq hc)
  · rw [exec_go rfl hc hfault ((semRayq_wait_flag ha hfree).trans (by simp [hflag]))]
    simp only [semRayq, beq_iff_eq, ha, if_false, List.map_map]
    rfl

end Sys2Proof.Machine
end

section
/-!
BXUNION, SAHCOST and NODEPACK (O30): what their checks let pass, the rows that a node is packed into, and the words stored there.
-/
namespace Sys2Proof.Machine

/-! ### Boxes (R251, R306) -/

/-- Registers put in the order of R334 are those of the two groups. -/
theorem mem_groupOrder {α : Type} {r : α} {a b : List α} (h : r ∈ groupOrder a b) : r ∈ a ∨ r ∈ b := by
  simp only [groupOrder, List.mem_append] at h
  obtain ((h | h) | h) | h := h
  · exact .inl (List.mem_of_mem_take h)
  · exact .inr (List.mem_of_mem_take h)
  · exact .inl (List.mem_of_mem_drop h)
  · exact .inr (List.mem_of_mem_drop h)

/-- A box whose six registers hold F32. -/
theorem Lane.box_tag {ln : Lane} {n : Nat} (h : ∀ i < 6, (ln.readV (n + i)).tag = .f32) : ∀ r ∈ ln.box n, r.tag = .f32 := by
  simpa [Lane.box] using h

/-- Two boxes of F32 in landed registers of the window: BXUNION completes. -/
theorem exec_bxunion {f : Ext} {s : State} (hc : s.Clear f.arg rolesGV (boxOpds f.arg.a ++ boxOpds f.arg.b ++ boxOpds f.arg.d))
    (ht : s.OnLanes (s.ctx.act f.arg.m) (fun ln =>
      ∀ i < 6, (ln.readV (f.arg.a + i)).tag = .f32 ∧ (ln.readV (f.arg.b + i)).tag = .f32)) :
    exec (.bxunion f) s = .next (((semBxunion f.arg).eff s).advance 3) := by
  obtain ⟨hissue, hrole, hwindow, hland⟩ := hc
  obtain ⟨c, hcur⟩ := hissue.cur
  refine exec_simple rfl hcur (State.static_none hrole hwindow) (State.check_none hland (formatFault_none fun l hl hm => notF32_none ?_))
  intro r hr
  obtain h | h := mem_groupOrder hr
  · exact Lane.box_tag (fun i hi => (ht l hl hm i hi).1) r h
  · exact Lane.box_tag (fun i hi => (ht l hl hm i hi).2) r h

/-- A box and a weight of F32: SAHCOST completes. -/
theorem exec_sahcost {f : Ext} {s : State} (hc : s.Clear f.arg rolesGV (boxOpds f.arg.a ++ [.v f.arg.b, .v f.arg.d]))
    (ht : s.OnLanes (s.ctx.act f.arg.m) (fun ln =>
      (∀ i < 6, (ln.readV (f.arg.a + i)).tag = .f32) ∧ (ln.readV f.arg.b).tag = .f32)) :
    exec (.sahcost f) s = .next (((semSahcost f.arg).eff s).advance 3) := by
  obtain ⟨hissue, hrole, hwindow, hland⟩ := hc
  obtain ⟨c, hcur⟩ := hissue.cur
  refine exec_simple rfl hcur (State.static_none hrole hwindow) (State.check_none hland (formatFault_none fun l hl hm => notF32_none ?_))
  intro r hr
  obtain ⟨hbox, hweight⟩ := ht l hl hm
  obtain h | h := mem_groupOrder hr
  · exact Lane.box_tag hbox r h
  · rw [List.mem_singleton.mp h]
    exact hweight

/-! ### Words stored in local memory where nothing else is under way (R105, R319) -/

/-- Nothing is queued that a store must follow, and no barrier object is there that it could fall on. -/
structure State.Undisturbed (s : State) : Prop where
  queue : s.NothingQueued
  data : s.barObjs = []
  unused : ∀ h, s.barInUse h = false

theorem State.MemoryOnly.undisturbed {s t : State} (h : s.MemoryOnly t) (hs : s.Undisturbed) : t.Undisturbed := by
  obtain ⟨hqueue, hdata, hunused⟩ := hs
  obtain ⟨⟨m, cs, rfl⟩, hgang⟩ := h
  refine ⟨hqueue, hdata, fun x => ?_⟩
  simp only [State.barInUse, hgang]
  exact hunused x

theorem State.Undisturbed.markDirty {s : State} (hs : s.Undisturbed) (part tenant : Nat) (a : VAddr) :
    (s.markDirty part tenant a).Undisturbed where
  queue := hs.queue
  data := hs.data
  unused x := ((State.markDirty_keeps s part tenant a).barInUse x).trans (hs.unused x)

/-- Nothing becomes data again where no barrier object is. -/
theorem State.unmarkBarrier_none {s : State} (hs : s.barObjs = []) (h : Home) : s.unmarkBarrier h = s := by
  have hkeep : s.barObjs.filter (fun b => b != h.object) = s.barObjs := by rw [hs]; rfl
  simp only [State.unmarkBarrier, hkeep]

/-- A plain store where no barrier object is puts its word there and does nothing else. -/
theorem State.Undisturbed.storeWord {s : State} (hs : s.Undisturbed) (h : Home) (v : Word) : s.storeWord h v = s.putHomeWord h v := by
  have hlive : s.barLive h.object = false := by
    simp [State.barLive, hs.unused, State.barOwed, State.isBarrier, hs.data]
  obtain ⟨-, hdata, -⟩ := (s.putHomeWord_memoryOnly h v).undisturbed hs
  rw [State.storeWord_data v hlive, State.unmarkBarrier_none hdata]

/-- No DET region holds local memory. -/
theorem detFind_loc (c o i : Nat) (rs : List Region) : detFind (.loc c o) i rs = none := by
  induction rs generalizing i with
  | nil => rfl
  | cons r rs ih =>
    have hoff : r.off? (.loc c o) = none := by
      unfold Region.off?
      split <;> simp_all
    simp [detFind, hoff, ih]

/-- What a store to local memory leaves in the crews is what its word leaves there, and nothing is under way after it. -/
theorem State.Undisturbed.storeLane {s : State} (hs : s.Undisturbed) (op crew wave : Nat) (m : Lanes) (fs : List Nat) (c o : Nat) (v : Word) :
    let t := s.storeLane op crew wave m fs (.loc c o) v
    t.Undisturbed ∧ t.crews = (s.putHomeWord (.loc c o) v).crews := by
  have hput : s.putStore crew (.loc c o) v =
      some ((s.putHomeWord (.loc c o) v).markDirty (s.spaceOfCrew crew).1 (s.spaceOfCrew crew).2 (.loc c o)) := by
    simp [State.putStore, State.detAt, detFind_loc, State.home?, hs.storeWord]
  rw [State.storeLane_now hs.queue hput]
  exact ⟨((s.putHomeWord_memoryOnly _ v).undisturbed hs).markDirty _ _ _, rfl⟩

/-- What a word put in local memory leaves in the crews depends on the crews alone. -/
theorem State.putHomeWord_crews {s t : State} (h : s.crews = t.crews) (c o : Nat) (v : Word) :
    (s.putHomeWord (.loc c o) v).crews = (t.putHomeWord (.loc c o) v).crews := by
  simp only [State.putHomeWord, State.putNat, State.writeHome, Home.plus, State.modCrew, h]

/-- Words that lanes store one after the other in local memory. -/
theorem storeRun_crews {s t : State} (hs : s.Undisturbed) (h : s.crews = t.crews) (x : Ctx) (op : Nat) (m : Lanes) (c o : Nat) (ws : List Word) :
    (storeRun s x op m (.loc c o) ws).Undisturbed ∧ (storeRun s x op m (.loc c o) ws).crews = (t.putWords (.loc c o) ws).crews := by
  induction ws generalizing s t o with
  | nil => exact ⟨hs, h⟩
  | cons w ws ih =>
    obtain ⟨hstore, hcrews⟩ := hs.storeLane op x.crewId x.cur.wave m (x.wave.fibres m) c o w
    exact ih hstore (hcrews.trans (State.putHomeWord_crews h c o w)) (o + 4)

/-- The same, for a run of words after another. -/
theorem storeRuns_crews {α : Type} {s t : State} (hs : s.Undisturbed) (h : s.crews = t.crews) (x : Ctx) (op c : Nat) (m : α → Lanes)
    (o : α → Nat) (ws : α → List Word) (es : List α) :
    (es.foldl (fun u e => storeRun u x op (m e) (.loc c (o e)) (ws e)) s).crews =
      (es.foldl (fun u e => u.putWords (.loc c (o e)) (ws e)) t).crews := by
  induction es generalizing s t with
  | nil => exact h
  | cons e es ih =>
    obtain ⟨hrun, hcrews⟩ := storeRun_crews hs h x op (m e) c (o e) (ws e)
    exact ih hrun hcrews

/-! ### NODEPACK (R154, R295, R97) -/

/-- The registers that NODEPACK reads in every lane, and those it reads once. -/
def packNames (g : Arg) : List Opd := [Opd.v g.a] ++ (List.range 7).map (fun i => Opd.v (g.b + i))

def packUnis (g : Arg) : List Opd := (List.range 4).map (fun i => Opd.u (g.c + i))

/-- Where every element of a list gives something, nothing of the list is left out. -/
theorem filterMap_eq_map_of_some {α β : Type} {f : α → Option β} {k : α → β} {es : List α} (h : ∀ e ∈ es, f e = some (k e)) :
    es.filterMap f = es.map k := by
  induction es with
  | nil => rfl
  | cons e es ih =>
    obtain ⟨he, hes⟩ := List.forall_mem_cons.mp h
    rw [List.filterMap_cons_some he, ih hes, List.map_cons]

/-- The places that the groups of four name, each aligned to 128 bytes and in bounds. -/
def packPlaces (s : State) (x : Ctx) (g : Arg) (act : Lanes) : List (Nat × VAddr) :=
  (packGroups act).filterMap (fun e => (s.localAddr x.crewId (packAddr x g e.2) 128).map (fun a => (e.1, a)))

section
variable {g : Arg} {s : State} {c : Nat} {o : Nat → Nat}
  (hplace : ∀ e ∈ packGroups (s.ctx.act g.m), (packAddr s.ctx g e.2).extractLsb' 0 7 = 0#7 ∧
    s.localAddr s.ctx.crewId (packAddr s.ctx g e.2) 128 = some (.loc c (o e.1)))
include hplace

/-- Every group's node has its place in the local memory of one crew. -/
theorem packPlaces_eq :
    packPlaces s s.ctx g (s.ctx.act g.m) = (packGroups (s.ctx.act g.m)).map (fun e => (e.1, VAddr.loc c (o e.1))) :=
  filterMap_eq_map_of_some fun e he => by rw [(hplace e he).2, Option.map_some]

/-- Landed registers in the window, boxes of F32 and sound places: NODEPACK meets no fault. -/
theorem semNodepack_fault (hr : s.HasRole rolesGV) (hw : s.InWindow (packNames g)) (hl : s.Landed g (packNames g ++ packUnis g))
    (ht : s.OnLanes (s.ctx.act g.m) (fun ln => ∀ i < 6, (ln.readV (g.b + i)).tag = .f32)) : (semNodepack g).fault s = none := by
  have hfirst (l : Nat) (h32 : l < 32)
      (hm : (laneSet (fun l => (packGroups (s.ctx.act g.m)).any (fun e => e.2 == l))).getLsbD l = true) :
      (packAddr s.ctx g l).extractLsb' 0 7 = 0#7 ∧ (s.localAddr s.ctx.crewId (packAddr s.ctx g l) 128).isNone = false := by
    rw [getLsbD_laneSet _ h32] at hm
    obtain ⟨e, he, hel⟩ := List.any_eq_true.mp hm
    obtain rfl : e.2 = l := by simpa using hel
    obtain ⟨halign, hbounds⟩ := hplace e he
    exact ⟨halign, by rw [hbounds]; rfl⟩
  refine Sem.fault_none (State.static_none hr hw) (firstFault_eq_none ?_)
  simp only [List.mem_cons, List.not_mem_nil, or_false, forall_eq_or_imp, forall_eq]
  refine ⟨hl.none, formatFault_none fun l h32 hm => notF32_none (Lane.box_tag (ht l h32 hm)),
    laneFault_none fun l h32 hm => if_neg ?_, laneFault_none fun l h32 hm => if_neg ?_⟩
  · simpa [packAddr] using (hfirst l h32 hm).1
  · exact ne_true_of_eq_false (hfirst l h32 hm).2

section
variable (ha : s.Active g)
include ha

/-- NODEPACK waits for the rows of its nodes alone. -/
theorem semNodepack_wait : (semNodepack g).wait s =
    let rows := (packGroups (s.ctx.act g.m)).map (fun e => (c, o e.1 / 128))
    if s.anyPinned rows then .park (s.ctx.act g.m) (.pinned rows) else .go := by
  have hplaces := packPlaces_eq hplace
  rw [packPlaces] at hplaces
  simp only [semNodepack, beq_iff_eq, ha, if_false, hplaces, List.filterMap_map, Function.comp_def, List.filterMap_eq_map']

/-- Each group's node is stored, one group after the other. -/
theorem semNodepack_eff : (semNodepack g).eff s =
    (packGroups (s.ctx.act g.m)).foldl (fun t e =>
      storeRun t s.ctx s.nextUid (packLanes (s.ctx.act g.m) e.1) (.loc c (o e.1)) (packNode s.ctx (s.ctx.act g.m) g e.1))
      { s with nextUid := s.nextUid + 1 } := by
  have hplaces := packPlaces_eq hplace
  rw [packPlaces] at hplaces
  simp only [semNodepack, beq_iff_eq, ha, if_false, hplaces, List.foldl_map]
  rfl

end

end

/-- Settles O30: the two boxes by their effects, NODEPACK by whether a row is pinned, then the words that it stores. -/
theorem geometryResult : Obligations.GeometryResult := by
  refine ⟨⟨fun f s => ?_, fun f s => ?_⟩, fun f c o s => ?_⟩
  · intro g hc ht
    rw [exec_bxunion hc ht]
    rfl  -- the two boxes, zipped, give the six values one after the other
  · intro g hc ht
    rw [exec_sahcost hc ht]
    rfl  -- the values of a box are read one after the other
  · intro g act n rows vs hissue hr hw hl ha ht hplace
    obtain ⟨cur, hc⟩ := hissue.cur
    have hfault : (semNodepack g).fault s = none := semNodepack_fault hplace hr hw hl ht
    have hwait := semNodepack_wait hplace ha
    have hstores (hp : s.anyPinned rows = false) :=
      exec_go (i := .nodepack f) (m := semNodepack g) rfl hc hfault (hwait.trans (if_neg (ne_true_of_eq_false hp)))
    rw [semNodepack_eff hplace ha] at hstores
    refine ⟨fun hp => ?_, hstores, fun hp hq hdata hunused => ⟨_, hstores hp, ?_⟩⟩
    · exact exec_parkActive (m := semNodepack g) rfl hissue hfault (hwait.trans (if_pos hp)) (by simp) fun t hidle => by
        simp only [semNodepack, hidle, BEq.rfl, if_true]
    · have hn : n.Undisturbed := ⟨hq, hdata, hunused⟩
      exact storeRuns_crews (α := Nat × Nat) hn rfl s.ctx s.nextUid c (packLanes act ·.1) (o ·.1) (packNode s.ctx act g ·.1)
        (packGroups act)

end Sys2Proof.Machine
end

section
/-!
The hypervector instructions that change a register of their wave (O31), and those that send a query, HDIST, HNEAR and WQRY (O33), with
the distance that lands (O51).
-/
namespace Sys2Proof.Machine

/-! ### One register of the wave changed (R174) -/

/-- Landed registers and hypervector numbers within the crew's: an instruction of this kind meets no fault. -/
theorem exec_hypSem {i : Instr} {g : Arg} {sub : Nat} {os : List Opd} {hs bs : List Nat} {f : Ctx → Wave → Wave} {s : State}
    (hi : i.sem = some (hypSem g sub os hs bs f)) (hr : s.Ready g rolesGV os) (hn : s.HyperIn hs bs) :
    exec i s = .next ((s.modWave s.ctx.cur.wave (f s.ctx)).advance g.size) := by
  obtain ⟨hissue, hrole, hland, hactive⟩ := hr
  obtain ⟨c, hc⟩ := hissue.cur
  rw [exec_simple hi hc hrole.none (State.check_none hland hn.none)]
  exact congrArg (fun t : State => Host.Outcome.next (t.advance g.size)) (if_neg (by simpa using hactive))

/-- Each of the six is of this kind, under a SUB of its own. -/
theorem Instr.sem_of_hyperOf {i : Instr} {g : Arg} {os : List Opd} {hs bs : List Nat} {f : Ctx → Wave → Wave}
    (h : hyperOf i = some (g, os, hs, bs, f)) : g.size = 3 ∧ ∃ sub, i.sem = some (hypSem g sub os hs bs f) := by
  cases i <;> dsimp only [hyperOf] at h <;> cases h <;> exact ⟨rfl, _, rfl⟩

/-- Settles O31: each of the six forms changes the register of its wave, whichever it is. -/
theorem hyperResult : Obligations.HyperResult := by
  intro i g os hs bs f s h hr hn
  obtain ⟨hsize, sub, hsem⟩ := Instr.sem_of_hyperOf h
  rw [exec_hypSem hsem hr hn, hsize]

/-! ### Queries of one transaction (R109, R51) -/

/-- A query parks for its transaction, holds at a full flag, and is sent otherwise. -/
theorem State.queries_of_wait {i : Instr} {m : Sem} {g : Arg} {s : State} {sent : Prop} (hi : i.sem = some m) (hsize : m.size = 3)
    (hissue : s.Issuing) (ha : s.Active g) (hf : m.fault s = none) (hentries : m.entries s = 0)
    (hwait : m.wait s = queryWait s.ctx s (s.ctx.act g.m) g.m.fsel) (hidle : ∀ t : State, t.ctx.act g.m = 0#32 → m.eff t = t)
    (hsent : exec i s = .next ((m.eff s).advance 3) → sent) : s.Queries g i sent := by
  obtain ⟨c, hc⟩ := hissue.cur
  have hquery : m.wait s = if s.txnsFree s.ctx.crew.core 1 = false then .park (s.ctx.act g.m) (.txns 1)
      else if s.ctx.flagFull g.m.fsel then .hold s else .go := by
    rw [hwait]
    simp [queryWait, ha]
  refine ⟨fun hfree => ?_, fun hfree hflag => ?_, fun ⟨hfree, hflag⟩ => hsent ?_⟩
  · rw [exec_parkActive hi hissue hf (hquery.trans (if_pos hfree)) (by simp) hidle, hsize]
  · have hhold : m.wait s = .hold s := by simpa [hfree, show s.ctx.flagFull g.m.fsel = true by simpa using hflag] using hquery
    rw [exec_hold hi hc hf hhold, hentries, State.takeEntries_zero, State.holdClause_eq hc]
  · have hgo : m.wait s = .go := by simpa [hfree, hflag] using hquery
    rw [exec_go hi hc hf hgo, hsize]

/-! ### HDIST (R178) -/

section
variable {g : Arg} {s : State}

theorem semHdist_fault (hr : s.Ready g rolesGV [.u g.d]) (hn : s.HyperIn [g.a, g.b] []) : (semHdist g).fault s = none := by
  obtain ⟨-, hrole, hland, -⟩ := hr
  exact Sem.fault_none hrole.none (State.check_none hland hn.none)

theorem semHdist_idle (h : s.ctx.act g.m = 0#32) : (semHdist g).eff s = s := by
  simp only [semHdist, h, BEq.rfl, if_true]

/-- HDIST reads its two registers at issue. -/
theorem semHdist_eff (ha : s.Active g) : (semHdist g).eff s =
    sendQuery s s.ctx g [g.d] (.hdist g.d (BitVec.ofNat 32 (hamming (s.ctx.wave.hyp g.a) (s.ctx.wave.hyp g.b)))) :=
  if_neg (by simpa using ha)

end

/-- HDIST parks, holds, or sends the distance. -/
theorem hdist_queries {f : Ext} {s : State} (hr : s.Ready f.arg rolesGV [.u f.arg.d]) (hn : s.HyperIn [f.arg.a, f.arg.b] []) :
    s.Queries f.arg (.hdist f) (exec (.hdist f) s = .next ((sendQuery s s.ctx f.arg [f.arg.d]
      (.hdist f.arg.d (BitVec.ofNat 32 (hamming (s.ctx.wave.hyp f.arg.a) (s.ctx.wave.hyp f.arg.b))))).advance 3)) := by
  have hfault := semHdist_fault hr hn
  obtain ⟨hissue, -, -, ha⟩ := hr
  exact State.queries_of_wait (m := semHdist f.arg) rfl rfl hissue ha hfault rfl rfl (fun _ => semHdist_idle)
    (semHdist_eff ha ▸ id)

/-! ### HNEAR (R179) -/

section
variable {g : Arg} {s : State}

/-- A landed register that names an aligned descriptor in bounds, and nothing wrong with what can be read of it: HNEAR meets no fault. -/
theorem semHnear_fault (hr : s.Ready g rolesGV [.u g.b, .u g.d, .u (g.d + 1)]) (hn : s.HyperIn [g.a] [])
    (halign : (s.ctx.crew.uni g.b).val.extractLsb' 0 4 = 0#4)
    (hplace : (s.localAddr s.ctx.crewId (s.ctx.crew.uni g.b).val 16).isSome = true)
    (hbad : (nearWords s s.ctx g).bind nearBad = none) : (semHnear g).fault s = none := by
  obtain ⟨-, hrole, hland, -⟩ := hr
  refine Sem.fault_none hrole.none (firstFault_eq_none ?_)
  simp only [List.mem_cons, List.not_mem_nil, or_false, forall_eq_or_imp, forall_eq]
  refine ⟨hland.none, hn.none, onceFault_none ?_, onceFault_none ?_, onceFault_none ?_⟩
  · simp [halign]
  · exact Option.isNone_eq_false_iff.mpr hplace
  · rw [hbad]
    rfl

theorem semHnear_wait : (semHnear g).wait s =
    (nearReady s s.ctx g).andThen (queryWait s.ctx s (s.ctx.act g.m) g.m.fsel) := by
  dsimp only [semHnear]
  cases nearReady s s.ctx g <;> rfl

theorem semHnear_idle (h : s.ctx.act g.m = 0#32) : (semHnear g).eff s = s := by
  simp only [semHnear, h, BEq.rfl, if_true]

/-- HNEAR reads its descriptor and its register at issue, what its fibres did before being done. -/
theorem semHnear_eff {ws : List Word} {base : VAddr} (ha : s.Active g) (hws : nearWords s s.ctx g = some ws)
    (hbase : taggedFar (dwordAt ws 0) 0 = some base) : (semHnear g).eff s =
      sendQuery (s.catchUpLanes s.ctx.cur.wave (s.ctx.act g.m)) s.ctx g [g.d, g.d + 1]
        (.hnear g.d (s.ctx.wave.hyp g.a) base (wordAt ws 8).toNat) := by
  simp only [semHnear, beq_iff_eq, ha, if_false, hws, hbase]

end

/-! ### WQRY (R191, R331) -/

section
variable {g : Arg} {s : State}

theorem semWqry_fault {a : VAddr} (hr : s.Ready g rolesAll [.u g.a]) (halign : (s.ctx.crew.uni g.a).val.extractLsb' 0 3 = 0#3)
    (hplace : wqryPlace s s.ctx g = some a) : (semWqry g).fault s = none := by
  obtain ⟨-, hrole, hland, -⟩ := hr
  refine Sem.fault_none hrole.none (firstFault_eq_none ?_)
  simp only [List.mem_cons, List.not_mem_nil, or_false, forall_eq_or_imp, forall_eq]
  exact ⟨hland.none, onceFault_none (by simp [halign]), onceFault_none (by simp [hplace])⟩

theorem semWqry_idle (h : s.ctx.act g.m = 0#32) : (semWqry g).eff s = s := by
  simp only [semWqry, h, BEq.rfl, if_true]

variable {yc off : Nat} (ha : s.Active g) (hplace : wqryPlace s s.ctx g = some (.loc yc off))
include ha hplace

/-- A node crew, or a crew of a launch without items, is answered with the end token. -/
theorem semWqry_eff_end (h : s.ctx.gang.node ≠ none ∨ s.ctx.launch.desc.wqx = 0) :
    let c := s.countOp s.ctx.cur.wave (s.ctx.cur.flagOf g.m.fsel)
    (semWqry g).eff s = c.2.addFlight
      { op := c.1, wave := s.ctx.cur.wave, flag := s.ctx.cur.flagOf g.m.fsel, txns := 1, lines := [],
        payload := .answer yc off endToken endToken, fault := none } := by
  have hend : (s.ctx.gang.node.isSome || s.ctx.launch.desc.wqx == 0) = true := by
    simpa [Option.isSome_iff_ne_none] using h
  simp only [semWqry, beq_iff_eq, ha, if_false, hplace, hend, if_true]

/-- The request of another crew waits for an item. -/
theorem semWqry_eff_asks (hnode : s.ctx.gang.node = none) (hitems : s.ctx.launch.desc.wqx ≠ 0) :
    let c := s.countOp s.ctx.cur.wave (s.ctx.cur.flagOf g.m.fsel)
    (semWqry g).eff s = { c.2 with
      wreqs := c.2.wreqs ++ [(c.2.nextUid,
        { op := c.1, wave := s.ctx.cur.wave, crew := s.ctx.crewId, flag := s.ctx.cur.flagOf g.m.fsel, ycrew := yc, off := off })],
      nextUid := c.2.nextUid + 1 } := by
  have hend : (s.ctx.gang.node.isSome || s.ctx.launch.desc.wqx == 0) = false := by simp [hnode, hitems]
  simp only [semWqry, beq_iff_eq, ha, if_false, hplace, hend, Bool.false_eq_true]

end

/-- Settles O33: each form's checks and wait, then what it sends. -/
theorem queryIssues : Obligations.QueryIssues := by
  refine ⟨fun f s => ?_, fun f s => ?_, fun f ws base s => ?_, fun f yc off s => ?_⟩
  · intro g hr hn halign hplace hnone
    have hfault := semHnear_fault hr hn halign hplace (by rw [hnone]; rfl)
    obtain ⟨hissue, -, -, -⟩ := hr
    obtain ⟨c, hc⟩ := hissue.cur
    exact State.wordsBehind_of_wait (m := semHnear g) rfl hc hfault fun hw => semHnear_wait.trans (Wait.andThen_of_ne_go hw _)
  · exact hdist_queries
  · intro g hr hn halign hplace hready hws hgood hbase
    have hfault := semHnear_fault hr hn halign hplace (by rw [hws]; exact hgood)
    obtain ⟨hissue, -, -, ha⟩ := hr
    have hwait : (semHnear g).wait s = queryWait s.ctx s (s.ctx.act g.m) g.m.fsel := by rw [semHnear_wait, hready, Wait.go_andThen]
    exact State.queries_of_wait (m := semHnear g) rfl rfl hissue ha hfault rfl hwait (fun _ => semHnear_idle)
      (semHnear_eff ha hws hbase ▸ id)
  · intro g c hr halign hplace
    have hfault := semWqry_fault hr halign hplace
    obtain ⟨hissue, -, -, ha⟩ := hr
    refine State.queries_of_wait (m := semWqry g) rfl rfl hissue ha hfault rfl rfl (fun _ => semWqry_idle) fun hsent =>
      ⟨fun hend => ?_, fun hnode hitems => ⟨_, hsent, ?_⟩⟩
    · rw [hsent, semWqry_eff_end ha hplace hend]
      rfl
    · rw [semWqry_eff_asks ha hplace hnode hitems]
      have hcount := s.countOp_waves s.ctx.cur.wave (s.ctx.cur.flagOf g.m.fsel)
      exact ⟨rfl, (congrArg State.mem hcount :), congrArg (· ++ _) (congrArg State.wreqs hcount :)⟩

/-! ### The distance that lands (R178) -/

/-- No more than all the bits differ. -/
theorem hamming_le (a b : Hyper) : hamming a b ≤ 8192 := by
  have hle := List.length_filter_le (fun j => a.getLsbD j != b.getLsbD j) (List.range 8192)
  rwa [List.length_range] at hle

/-- A query counted on a flag makes its register pending, raises the flag and sends its payload. -/
theorem sendQuery_one (s : State) (x : Ctx) (g : Arg) (d : Nat) (p : Payload) {k : Nat} (hk : x.cur.flagOf g.m.fsel = some k) :
    sendQuery s x g [d] p = { s with
      waves := (s.modWave x.cur.wave (fun w => w.flagUp k)).waves,
      crews := (s.setUni x.crewId d { x.crew.uni d with pend := true }).crews,
      flights := s.flights ++ [(s.nextUid + 1,
        { op := s.nextUid, wave := x.cur.wave, flag := some k, txns := 1, lines := [], payload := p, fault := none })],
      nextUid := s.nextUid + 2 } := by
  simp only [sendQuery, hk]
  rfl

/-- Settles O51: what HDIST sends once its transaction is there and its flag is not full, and what becomes of it when it lands. -/
theorem distanceRule : Obligations.DistanceRule := by
  intro f k c s g hr hn hmay hflag hcrew hlen hinner hlanes
  obtain ⟨-, -, hsends⟩ := hdist_queries hr hn
  obtain ⟨hissue, -, -, -⟩ := hr
  obtain ⟨cur, hc⟩ := hissue.cur
  obtain rfl : s.ctx.cur = cur := by simp [State.ctx, State.ctxOf, hc]
  have hsent := hsends hmay
  rw [sendQuery_one s s.ctx g g.d _ hflag, State.advance_inner (by exact hc) hlanes hinner] at hsent
  refine ⟨_, hamming (s.ctx.wave.hyp g.a) (s.ctx.wave.hyp g.b), hsent, rfl, hamming_le _ _, ?_, rfl,
    _, rfl, rfl, rfl, rfl, rfl, fun v hv hawake => ?_⟩
  · refine (congrArg (fun c : Crew => (c.uni g.d).pend) (State.crew_modCrew (fun c => c.setUni g.d _) hcrew)).trans ?_
    rw [Crew.uni_setUni hlen]
  · exact congrArg Host.Outcome.next (State.landFlight_hdist hv rfl hawake rfl)

end Sys2Proof.Machine
end

section
/-!
What the performing of earlier accesses leaves alone: which gang a crew is of, which launch a gang, which regions a launch has. So what was
in a DET region still is (R115, R126).
-/
namespace Sys2Proof.Machine

/-! ### What a table shows of its entries -/

section
variable {α β : Type} {q : α → β}

/-- Every name of a table with a part of its entry. -/
def shown (q : α → β) (t : List (Nat × α)) : List (Nat × β) := t.map (fun e => (e.1, q e.2))

theorem shown_change {f : α → α} (hf : ∀ a, q (f a) = q a) (k : Nat) (t : List (Nat × α)) : shown q (change k f t) = shown q t := by
  induction t with
  | nil => rfl
  | cons e t ih =>
    simp only [shown] at ih
    simp only [change]
    split <;> simp [shown, hf, ih]

theorem shown_map {f : Nat × α → Nat × α} (hf : ∀ e, (f e).1 = e.1 ∧ q (f e).2 = q e.2) (t : List (Nat × α)) :
    shown q (t.map f) = shown q t := by
  simp [shown, Function.comp_def, hf]

theorem look_shown (k : Nat) (t : List (Nat × α)) : look k (shown q t) = (look k t).map q := by
  induction t with
  | nil => rfl
  | cons e t ih =>
    simp only [shown] at ih
    simp only [shown, List.map_cons, look, ih]
    split <;> rfl

end

/-- The gang of every crew, the launch of every gang, the regions of every launch. -/
def State.regionTables (s : State) : List (Nat × Nat) × List (Nat × Nat) × List (Nat × List Region) :=
  (shown Crew.gang s.crews, shown Gang.launch s.gangs, shown Launch.regions s.launches)

/-- They say where a DET region holds an address. -/
theorem State.detAt_of_regionTables {s t : State} (h : t.regionTables = s.regionTables) (k : Nat) (a : VAddr) : t.detAt k a = s.detAt k a := by
  simp only [State.regionTables, Prod.mk.injEq] at h
  obtain ⟨hcrews, hgangs, hlaunches⟩ := h
  have hcrew (j : Nat) : (t.crew j).gang = (s.crew j).gang := by
    simp only [State.crew, ← Option.getD_map Crew.gang, ← look_shown, hcrews]
  have hgang (j : Nat) : (t.gang j).launch = (s.gang j).launch := by
    simp only [State.gang, ← Option.getD_map Gang.launch, ← look_shown, hgangs]
  have hlaunch (j : Nat) : (t.launch j).regions = (s.launch j).regions := by
    simp only [State.launch, ← Option.getD_map Launch.regions, ← look_shown, hlaunches]
  simp only [State.detAt, hcrew, hgang, hlaunch]

namespace State
variable (s : State)

/-! ### Tables and memory -/


@[simp] theorem regionTables_modCrew (k : Nat) {f : Crew → Crew} (hf : ∀ c, (f c).gang = c.gang) :
    (s.modCrew k f).regionTables = s.regionTables := by
  simp only [regionTables, modCrew, shown_change hf]

@[simp] theorem regionTables_modGang (k : Nat) {f : Gang → Gang} (hf : ∀ g, (f g).launch = g.launch) :
    (s.modGang k f).regionTables = s.regionTables := by
  simp only [regionTables, modGang, shown_change hf]

@[simp] theorem regionTables_modLaunch (k : Nat) {f : Launch → Launch} (hf : ∀ l, (f l).regions = l.regions) :
    (s.modLaunch k f).regionTables = s.regionTables := by
  simp only [regionTables, modLaunch, shown_change hf]

/-- One operation after another, each of which leaves them. -/
@[simp] theorem regionTables_foldl {α : Type} {f : State → α → State} (hf : ∀ t x, (f t x).regionTables = t.regionTables) (xs : List α) :
    (xs.foldl f s).regionTables = s.regionTables := by
  induction xs generalizing s with
  | nil => rfl
  | cons x xs ih => exact (ih _).trans (hf s x)

@[simp] theorem regionTables_writeHome (h : Home) (b : Byte) : (s.writeHome h b).regionTables = s.regionTables := by
  cases h with
  | phys a => rfl
  | loc c o => exact s.regionTables_modCrew c fun _ => rfl

@[simp] theorem regionTables_putNat (hs : List Home) (v : Nat) : (s.putNat hs v).regionTables = s.regionTables := by
  induction hs generalizing s v with
  | nil => rfl
  | cons h hs ih => exact (ih _ _).trans (s.regionTables_writeHome h _)

@[simp] theorem regionTables_putHomeWord (h : Home) (v : Word) : (s.putHomeWord h v).regionTables = s.regionTables :=
  s.regionTables_putNat _ _

@[simp] theorem regionTables_putHomeDword (h : Home) (v : Dword) : (s.putHomeDword h v).regionTables = s.regionTables := by
  simp [putHomeDword]

@[simp] theorem regionTables_markDirty (p q : Nat) (a : VAddr) : (s.markDirty p q a).regionTables = s.regionTables := rfl

theorem regionTables_writeNat? {s t : State} {p q n v : Nat} {a : VAddr} (h : s.writeNat? p q a n v = some t) :
    t.regionTables = s.regionTables := by
  obtain ⟨hs, -, rfl⟩ := Option.map_eq_some_iff.mp h
  dsimp only
  split <;> simp

@[simp] theorem regionTables_writeNat?_getD (p q : Nat) (a : VAddr) (n v : Nat) :
    ((s.writeNat? p q a n v).getD s).regionTables = s.regionTables := by
  cases h : s.writeNat? p q a n v with
  | none => rfl
  | some t => exact regionTables_writeNat? h

@[simp] theorem regionTables_buffer (k : Nat) (es : List WEntry) (cs : List Charge) : (s.buffer k es cs).regionTables = s.regionTables := by
  unfold buffer
  split <;> simp

/-! ### Records posted (R206) -/

@[simp] theorem regionTables_takeSeq (pa : Nat) : (s.takeSeq pa).2.regionTables = s.regionTables := by
  unfold takeSeq
  split <;> rfl

@[simp] theorem regionTables_dropRecord (p q : Nat) (hdr : VAddr) : (s.dropRecord p q hdr).regionTables = s.regionTables := by
  unfold dropRecord
  split <;> simp

@[simp] theorem regionTables_writeRecord (q : Dword) (tenant : Nat) (r : FaultRec) :
    (s.writeRecord q tenant r).regionTables = s.regionTables := by
  unfold writeRecord
  split
  · next pa _ =>
    have hseq := s.regionTables_takeSeq pa
    generalize s.takeSeq pa = e at hseq ⊢
    obtain ⟨seq, t⟩ := e
    rw [← hseq]
    dsimp only
    split
    · split
      · split
        · next hw =>
          obtain ⟨_, -, hw⟩ := Option.bind_eq_some_iff.mp hw
          simp [regionTables_writeNat? hw]
        · simp
      · simp
    · rfl
  · rfl

@[simp] theorem regionTables_putRecord (q : Dword) (tenant : Nat) (r : FaultRec) :
    (s.putRecord q tenant r).2.regionTables = s.regionTables := by
  unfold putRecord
  dsimp only
  split
  · rfl
  · split
    · simp
    · split <;> rfl

@[simp] theorem regionTables_postTo (q : Dword) (tenant : Nat) (r : FaultRec) : (s.postTo q tenant r).regionTables = s.regionTables := by
  unfold postTo
  have hput := s.regionTables_putRecord q tenant r
  generalize s.putRecord q tenant r = e at hput ⊢
  obtain ⟨_ | a, t⟩ := e
  · exact hput
  · dsimp only
    split <;> simp [← hput]

@[simp] theorem regionTables_postHost (r : FaultRec) : (s.postHost r).regionTables = s.regionTables := s.regionTables_postTo _ _ _

@[simp] theorem regionTables_postLaunch (k : Nat) (r : FaultRec) : (s.postLaunch k r).regionTables = s.regionTables := by
  unfold postLaunch
  dsimp only
  split <;> simp

/-! ### Gangs that stop (R207) -/

@[simp] theorem regionTables_stopGang (g : Nat) : (s.stopGang g).regionTables = s.regionTables := by
  simp only [stopGang, regionTables, modGang, Prod.mk.injEq, and_true]
  refine ⟨shown_map (fun e => ?_) _, shown_change (fun x => ?_) _ _⟩
  · split <;> exact ⟨rfl, rfl⟩
  · rfl

@[simp] theorem regionTables_stopNodes (k : Nat) : (s.stopNodes k).regionTables = s.regionTables := rfl

@[simp] theorem regionTables_stopGangs (ancestor : Word) (fuel : Nat) (gs : List Nat) :
    (s.stopGangs ancestor fuel gs).regionTables = s.regionTables := by
  induction fuel generalizing s gs with
  | zero => rfl
  | succ fuel ih =>
    simp only [stopGangs]
    split <;> simp [ih]

@[simp] theorem regionTables_stopLaunch (k status : Nat) : (s.stopLaunch k status).regionTables = s.regionTables := by
  simp [stopLaunch]

@[simp] theorem regionTables_faultGang (g : Nat) : (s.faultGang g).regionTables = s.regionTables := by
  unfold faultGang
  dsimp only
  split <;> simp

@[simp] theorem regionTables_defer (d : Deferred) : (s.defer d).regionTables = s.regionTables := by
  unfold defer
  split
  · rfl
  · exact (regionTables_faultGang _ _).trans (regionTables_postLaunch _ _ _)
  · rfl

/-! ### Barrier objects (R106, R128, R240 to R245) -/

@[simp] theorem regionTables_wakeAt (h : Home) (q : Bool) : (s.wakeAt h q).regionTables = s.regionTables := rfl

@[simp] theorem regionTables_modDetBar (k pa : Nat) (f : DetBar → DetBar) : (s.modDetBar k pa f).regionTables = s.regionTables :=
  s.regionTables_modLaunch k fun _ => rfl

@[simp] theorem regionTables_enterSlack (k : Nat) (b : DetBar) : (s.enterSlack k b).regionTables = s.regionTables := by
  refine (regionTables_modDetBar _ _ _ _).trans ?_
  simp only [regionTables, Prod.mk.injEq, and_true]
  refine shown_map (fun e => ?_) _
  split <;> exact ⟨rfl, rfl⟩

@[simp] theorem regionTables_testPhase (h : Home) : (s.testPhase h).regionTables = s.regionTables := by
  unfold testPhase
  split
  · split <;> simp [completePhase]
  · rfl

@[simp] theorem regionTables_markBarrier (h : Home) : (s.markBarrier h).regionTables = s.regionTables := by
  unfold markBarrier
  split <;> rfl

@[simp] theorem regionTables_barOp (h : Home) (op : BarOp) : (s.barOp h op).regionTables = s.regionTables := by
  unfold barOp
  dsimp only
  split
  · cases op <;> simp [barInit, barArrive, barExpect, barCredit]
  · split
    · simp
    · cases op <;> simp [barInit, barArrive, barExpect, barCredit]

@[simp] theorem regionTables_scramble (h : Home) : (s.scramble h).regionTables = s.regionTables := by
  simp only [scramble, regionTables_putHomeWord]
  rfl

@[simp] theorem regionTables_unmarkBarrier (h : Home) : (s.unmarkBarrier h).regionTables = s.regionTables := rfl

@[simp] theorem regionTables_storeWord (h : Home) (v : Word) : (s.storeWord h v).regionTables = s.regionTables := by
  unfold storeWord plainOver
  split
  · simp
  · split <;> simp

@[simp] theorem regionTables_performAt (h : Home) (o : AccessOp) : (s.performAt h o).2.regionTables = s.regionTables := by
  unfold performAt
  dsimp only
  split <;> dsimp only <;> split <;> simp

/-! ### Accesses and loads that perform (R107, R108, R112) -/

@[simp] theorem regionTables_openFault (crew wave : Nat) (a : VAddr) (addr : Dword) :
    (s.openFault crew wave a addr).2.regionTables = s.regionTables :=
  regionTables_postHost _ _

@[simp] theorem regionTables_faultFor (crew wave : Nat) (a : VAddr) : (s.faultFor crew wave a).2.regionTables = s.regionTables := by
  unfold faultFor
  dsimp only
  split
  · rfl
  · simp

@[simp] theorem regionTables_answerAccess (k : Nat) (a : Access) (old : Nat) : (s.answerAccess k a old).regionTables = s.regionTables := by
  unfold answerAccess lowerFlag
  dsimp only
  split
  · rfl
  · split
    · split <;> rfl
    · rfl

@[simp] theorem regionTables_trapRecord (crew wave : Nat) (info : Dword) (slot : Nat) (lanes pc : Word) (stop : Option Bool) :
    (s.trapRecord crew wave info slot lanes pc stop).regionTables = s.regionTables :=
  regionTables_postLaunch _ _ _

@[simp] theorem regionTables_performHere (k : Nat) (a : Access) (p q : Nat) (h : Home) :
    (s.performHere k a p q h).regionTables = s.regionTables := by
  have hdropped : ({ s with accesses := drop k s.accesses } : State).regionTables = s.regionTables := rfl
  unfold performHere
  split <;> simp [hdropped]

@[simp] theorem regionTables_performDue (k : Nat) (a : Access) : (s.performDue k a).regionTables = s.regionTables := by
  have hdropped : ({ s with accesses := drop k s.accesses } : State).regionTables = s.regionTables := rfl
  unfold performDue
  dsimp only
  split
  · simp
  · simp [hdropped]
  · exact s.regionTables_faultFor _ _ _
  · split <;> simp [failAccess, deferTranslate]

@[simp] theorem regionTables_performAccess (k : Nat) : (s.performAccess k).regionTables = s.regionTables := by
  unfold performAccess
  split
  · rfl
  · split
    · rfl
    · unfold hostServed
      split
      · exact regionTables_performDue _ _ _
      · exact regionTables_performDue _ _ _

@[simp] theorem regionTables_performLoad (k : Nat) (f : Flight) : (s.performLoad k f).regionTables = s.regionTables := by
  unfold performLoad
  split
  · dsimp only
    split
    · rfl
    · split
      · rfl
      · exact s.regionTables_faultFor _ _ _
  · rfl

@[simp] theorem regionTables_performAll (ks : List Nat) : (s.performAll ks).regionTables = s.regionTables := by
  induction ks generalizing s with
  | nil => rfl
  | cons k ks ih =>
    refine (ih _).trans ?_
    unfold performOne
    split <;> simp

@[simp] theorem regionTables_catchUp (wave : Nat) (m : Lanes) (fs : List Nat) (a : VAddr) (n : Nat) :
    (s.catchUp wave m fs a n).regionTables = s.regionTables := by
  unfold catchUp
  split <;> simp

@[simp] theorem regionTables_bulkCaught (wave : Nat) (act : Lanes) (runs : List (VAddr × Nat)) :
    (s.bulkCaught wave act runs).regionTables = s.regionTables := by
  simp [bulkCaught, catchUpLanes]

end State

/-- What was in a DET region before a bulk access still is. -/
theorem State.detAt_bulkCaught (s : State) (wave : Nat) (act : Lanes) (runs : List (VAddr × Nat)) (k : Nat) (a : VAddr) :
    (s.bulkCaught wave act runs).detAt k a = s.detAt k a :=
  State.detAt_of_regionTables (s.regionTables_bulkCaught wave act runs) k a

end Sys2Proof.Machine
end

section
/-!
HLD and HST (O32): what their checks let pass, where they park, hold and stop, and the sixteen lines that HST stores.
-/
namespace Sys2Proof.Machine

/-! ### The place of the hypervector (R177) -/

section
variable {g : Arg} {s : State} {a : VAddr}

/-- A landed register, hypervector numbers within the crew's, and a sound place: the checks of HLD and HST find nothing. -/
theorem hypChecks_none {hs : List Nat} (hl : s.Landed g [.u g.a]) (hn : s.HyperIn hs []) (hat : s.HyperAt g a) :
    firstFault (inflightFault s.ctx (s.ctx.act g.m) [.u g.a] :: hypBounds s.ctx (s.ctx.act g.m) hs [] ::
      hypAddrFaults s s.ctx (s.ctx.act g.m) g) = none := by
  obtain ⟨halign, hplace⟩ := hat
  refine firstFault_eq_none ?_
  simp only [hypAddrFaults, List.mem_cons, List.not_mem_nil, or_false, forall_eq_or_imp, forall_eq]
  exact ⟨hl.none, hn.none, onceFault_none (by simp [halign]), onceFault_none (by simp [hplace])⟩

section
variable (hplace : hypPlace s s.ctx g = some a)
include hplace

theorem hypPlace_shelf (h : hypShelf g = true) : ∃ d o, a = .shelf d o := by
  simp only [hypPlace, h, if_true, shelfAddr] at hplace
  split at hplace <;> cases hplace
  exact ⟨_, _, rfl⟩

theorem hypPlace_local (h : hypShelf g = false) : ∃ c o, a = .loc c o := by
  simp only [hypPlace, h, Bool.false_eq_true, if_false] at hplace
  obtain ⟨c, hc⟩ := State.localAddr_loc hplace
  exact ⟨c, _, hc⟩

/-- A transaction is taken for every line (R109). -/
theorem hypTxns_eq (ha : s.Active g) : hypTxns s g = (linesTouched a 1024).length := by
  simp only [hypTxns, beq_iff_eq, ha, if_false, hplace]

/-! ### Where both wait (R95, R109, R52, R110, R112) -/

variable (act : Lanes)

theorem hypPark_absent (h : hypShelf g = true) (habsent : s.SomeAbsent (linesTouched a 1024)) :
    hypPark s s.ctx act a = .park act (.absent (linesTouched a 1024)) := by
  obtain ⟨d, o, rfl⟩ := hypPlace_shelf hplace h
  have hany := List.any_eq_true.mpr habsent
  simp only [hypPark, shelfWait, hany, if_true, ite_self]

theorem hypPark_txns (h : hypShelf g = true) (hpresent : ¬ s.SomeAbsent (linesTouched a 1024)) (hnone : s.ctx.cur.txns = 0)
    (hfull : s.txnsFree s.ctx.crew.core (linesTouched a 1024).length = false) :
    hypPark s s.ctx act a = .park act (.txns (linesTouched a 1024).length) := by
  obtain ⟨d, o, rfl⟩ := hypPlace_shelf hplace h
  have hany := mt List.any_eq_true.mp hpresent
  simp [hypPark, shelfWait, hany, hnone, hfull]

/-- With no line absent, and its transactions held or free, it does not park. -/
theorem hypPark_held (hheld : s.LinesHeld g (linesTouched a 1024)) : hypPark s s.ctx act a = .go := by
  cases h : hypShelf g with
  | false =>
    obtain ⟨c, o, rfl⟩ := hypPlace_local hplace h
    rfl
  | true =>
    obtain ⟨d, o, rfl⟩ := hypPlace_shelf hplace h
    obtain ⟨hpresent, htxns⟩ := hheld h
    have hany := mt List.any_eq_true.mp hpresent
    obtain hheld | hfree := htxns
    · simp [hypPark, hany, hheld]
    · simp [hypPark, shelfWait, hany, hfree]

end

/-- It parks before it holds. -/
theorem hypWait_eq (s : State) (x : Ctx) (act : Lanes) (a : VAddr) :
    hypWait s x act a = (hypPark s x act a).andThen (s.bulkWait x.cur.wave act [(a, 1024)]) := by
  unfold hypWait
  cases hypPark s x act a <;> rfl

theorem hypWait_of_park {act ls : Lanes} {r : ParkReason} (h : hypPark s s.ctx act a = .park ls r) : hypWait s s.ctx act a = .park ls r := by
  rw [hypWait_eq, h]
  rfl

/-- With its lines it holds behind what must perform first, and goes on otherwise. -/
theorem hypWait_held (hplace : hypPlace s s.ctx g = some a) (hheld : s.LinesHeld g (linesTouched a 1024)) (act : Lanes) :
    let t := s.bulkCaught s.ctx.cur.wave act [(a, 1024)]
    hypWait s s.ctx act a = if t.waitsAt s.ctx.cur.wave act a 1024 then .hold t else .go := by
  rw [hypWait_eq, hypPark_held hplace act hheld]
  simp [State.bulkWait]

end

/-! ### Parking and holding in an instruction -/

section
variable {i : Instr} {m : Sem} {g : Arg} {s : State} {a : VAddr} (hi : i.sem = some m) (hissue : s.Issuing) (hf : m.fault s = none)
include hi hissue hf

section
variable (hwait : hypWait s s.ctx (s.ctx.act g.m) a ≠ .go → m.wait s = hypWait s s.ctx (s.ctx.act g.m) a)
  (hplace : hypPlace s s.ctx g = some a)
include hwait hplace

/-- An instruction that waits as `hypWait` says, where that says to wait, parks for its lines. -/
theorem State.lineParks_of_wait (hsize : m.size = 3) (hidle : ∀ t : State, t.ctx.act g.m = 0#32 → m.eff t = t)
    (hshelf : hypShelf g = true) : s.LineParks (s.ctx.act g.m) (linesTouched a 1024) i := by
  have hparks {r : ParkReason} (hp : hypPark s s.ctx (s.ctx.act g.m) a = .park (s.ctx.act g.m) r)
      (hr : ∀ a fs, r ≠ .missWord a fs ∧ r ≠ .object a) : exec i s = .next ((s.parkLanes (s.ctx.act g.m) r).advance 3) := by
    have hpark := hypWait_of_park hp
    rw [exec_parkActive hi hissue hf ((hwait (by simp [hpark])).trans hpark) hr hidle, hsize]
  exact ⟨fun habsent => hparks (hypPark_absent hplace _ hshelf habsent) (by simp),
    fun hpresent hnone hfull => hparks (hypPark_txns hplace _ hshelf hpresent hnone hfull) (by simp)⟩

/-- With its lines it holds, and its transactions with it, behind what must perform first. -/
theorem exec_hypBehind {n : Nat} (hentries : m.entries s = n) (hheld : s.LinesHeld g (linesTouched a 1024)) :
    let t := s.bulkCaught s.ctx.cur.wave (s.ctx.act g.m) [(a, 1024)]
    t.waitsAt s.ctx.cur.wave (s.ctx.act g.m) a 1024 = true → exec i s = .next (t.takeEntries n).holdClause := by
  intro t hbehind
  obtain ⟨c, hc⟩ := hissue.cur
  have hhold := (hypWait_held hplace hheld (s.ctx.act g.m)).trans (if_pos hbehind)
  rw [exec_hold hi hc hf ((hwait (by simp [hhold])).trans hhold), hentries]

end

/-- An instruction that waits at a missing page. -/
theorem State.pageHolds_of_wait {act : Lanes} {p : VAddr} {n : Nat} (hwait : m.wait s = s.bulkMiss act p) (hentries : m.entries s = n) :
    s.PageHolds i act p n := by
  obtain ⟨c, hc⟩ := hissue.cur
  refine ⟨fun hfatal => ?_, fun hfatal => ?_⟩
  · rw [exec_hold hi hc hf (hwait.trans (if_neg (ne_true_of_eq_false hfatal))), hentries]
  · have hmiss : m.wait s = .miss act p := hwait.trans (if_pos hfatal)
    rw [exec_of_sem s hi, runSem_of_cur hc]
    simp only [Sem.step, hf, hmiss]
    exact congrArg Host.Outcome.next (if_pos hfatal)

end

/-! ### HLD -/

section
variable {g : Arg} {s : State} {a : VAddr}

theorem semHld_fault (hr : s.Ready g rolesGV [.u g.a]) (hn : s.HyperIn [g.d] []) (hat : s.HyperAt g a) : (semHld g).fault s = none := by
  obtain ⟨-, hrole, hland, -⟩ := hr
  exact Sem.fault_none hrole.none (hypChecks_none hland hn hat)

theorem semHld_idle (h : s.ctx.act g.m = 0#32) : (semHld g).eff s = s := by
  simp only [semHld, h, BEq.rfl, if_true]

variable (ha : s.Active g) (hplace : hypPlace s s.ctx g = some a)
include ha hplace

/-- HLD waits for its lines and what is before it, then at a byte whose page is missing. -/
theorem semHld_wait : (semHld g).wait s = (hypWait s s.ctx (s.ctx.act g.m) a).andThen
    (((s.bulkCaught s.ctx.cur.wave (s.ctx.act g.m) [(a, 1024)]).taskMiss s.ctx.crewId a 1024).elim .go
      (s.bulkMiss (s.ctx.act g.m))) := by
  simp only [semHld, beq_iff_eq, ha, if_false, hplace]
  cases hypWait s s.ctx (s.ctx.act g.m) a <;> rfl

/-- HLD reads its 1024 bytes once what is before it is done. -/
theorem semHld_eff {n : Nat}
    (hn : (s.bulkCaught s.ctx.cur.wave (s.ctx.act g.m) [(a, 1024)]).taskNat? s.ctx.crewId a 1024 = some n) :
    (semHld g).eff s = (s.bulkCaught s.ctx.cur.wave (s.ctx.act g.m) [(a, 1024)]).modWave s.ctx.cur.wave
      (fun w => w.setHyp g.d (BitVec.ofNat 8192 n)) := by
  simp only [semHld, beq_iff_eq, ha, if_false, hplace, hn, Option.getD_some]

end

/-! ### HST -/

/-- The rows of local memory that HST writes. -/
def hstRows : VAddr → List (Nat × Nat)
  | .loc c o => rowsTouched c o 1024
  | _ => []

/-- Steps that agree on every element of a list lead to the same end. -/
theorem foldl_eq_of_mem {α β : Type} {f h : β → α → β} {xs : List α} (he : ∀ b, ∀ x ∈ xs, f b x = h b x) (b : β) :
    xs.foldl f b = xs.foldl h b := by
  induction xs generalizing b with
  | nil => rfl
  | cons x xs ih =>
    rw [List.foldl_cons, List.foldl_cons, he b x (List.mem_cons_self ..)]
    exact ih (fun b y hy => he b y (List.mem_cons_of_mem _ hy)) _

/-- One line stored: in the task's buffer where a DET region holds it, at its home elsewhere. -/
def hstStore (x : Ctx) (a : VAddr) (v : Hyper) (det : Nat → Option (Nat × Nat)) (u : State) (i : Nat) : State :=
  match det i with
  | some r => u.buffer x.crewId (plainEntries r.1 r.2 none 64 (wordsNat (hypLine v i))) []
  | none =>
    let w := u.storeUnsafe x (a.plus (64 * i))
    match w.home? x.launch.part x.launch.tenant (a.plus (64 * i)) with
    | some h => (w.storeWords h (hypLine v i)).markDirty x.launch.part x.launch.tenant (a.plus (64 * i))
    | none => w

section
variable {g : Arg} {s : State} {a : VAddr}

theorem semHst_fault (hr : s.Ready g rolesGV [.u g.a]) (hn : s.HyperIn [g.b] []) (hat : s.HyperAt g a) : (semHst g).fault s = none := by
  obtain ⟨-, hrole, hland, -⟩ := hr
  exact Sem.fault_none hrole.none (hypChecks_none hland hn hat)

theorem semHst_idle (h : s.ctx.act g.m = 0#32) : (semHst g).eff s = s := by
  simp only [semHst, h, BEq.rfl, if_true]

section
variable (ha : s.Active g) (hplace : hypPlace s s.ctx g = some a)
include ha hplace

theorem semHst_wait_pinned (h : s.anyPinned (hstRows a) = true) :
    (semHst g).wait s = .park (s.ctx.act g.m) (.pinned (hstRows a)) := by
  simp only [semHst, beq_iff_eq, ha, if_false, hplace]
  exact if_pos h

/-- With no row pinned HST waits for its lines and what is before it, then at a byte whose page is missing, then for its charges. -/
theorem semHst_wait (h : s.anyPinned (hstRows a) = false) : (semHst g).wait s = (hypWait s s.ctx (s.ctx.act g.m) a).andThen
    ((hstMiss s s.ctx a).elim (overflowWait s s.ctx (s.ctx.act g.m) (hstCharges s s.ctx a)) (s.bulkMiss (s.ctx.act g.m))) := by
  simp only [semHst, beq_iff_eq, ha, if_false, hplace]
  refine (if_neg (ne_true_of_eq_false h)).trans ?_
  cases hypWait s s.ctx (s.ctx.act g.m) a with
  | go => cases hstMiss s s.ctx a <;> rfl
  | _ => rfl

/-- HST charges its lines, then stores one after the other. -/
theorem semHst_eff {det : Nat → Option (Nat × Nat)}
    (hdet : ∀ i < 16, (s.bulkCaught s.ctx.cur.wave (s.ctx.act g.m) [(a, 1024)]).detAt s.ctx.crewId (a.plus (64 * i)) = det i) :
    let t := s.bulkCaught s.ctx.cur.wave (s.ctx.act g.m) [(a, 1024)]
    (semHst g).eff s = (List.range 16).foldl (hstStore s.ctx a (s.ctx.wave.hyp g.b) det)
      (t.buffer s.ctx.crewId [] (hstCharges t s.ctx a)) := by
  intro t
  simp only [semHst, beq_iff_eq, ha, if_false, hplace, hstLines, List.foldl_map]
  refine foldl_eq_of_mem (fun u i hi => ?_) _
  have hline : (t.buffer s.ctx.crewId [] (hstCharges t s.ctx a)).detAt s.ctx.crewId (a.plus (64 * i)) = det i :=
    (State.detAt_of_regionTables (t.regionTables_buffer _ _ _) _ _).trans (hdet i (List.mem_range.mp hi))
  rw [hline, hstStore]
  cases det i <;> rfl

end

/-- Where no line is in a DET region HST charges nothing. -/
theorem hstCharges_nil {x : Ctx} (h : ∀ i < 16, s.detAt x.crewId (a.plus (64 * i)) = none) : hstCharges s x a = [] := by
  have hnone : (hstLines s x a).filterMap (fun e => e.2.2) = [] := by
    rw [List.filterMap_eq_nil_iff]
    intro e he
    obtain ⟨i, hi, rfl⟩ := List.mem_map.mp he
    exact h i (List.mem_range.mp hi)
  simp only [hstCharges, hnone]
  rfl

/-- Every byte of local memory is there. -/
theorem State.firstMiss_loc (s : State) (p q c o n : Nat) : s.firstMiss p q (.loc c o) n = none := by
  induction n generalizing o with
  | zero => rfl
  | succ n ih => exact ih (o + 1)

theorem hstMiss_loc (s : State) (x : Ctx) (c o : Nat) : hstMiss s x (.loc c o) = none := by
  rw [hstMiss, List.findSome?_eq_none_iff]
  intro e he
  obtain ⟨i, -, rfl⟩ := List.mem_map.mp he
  dsimp only
  split
  · rfl
  · exact s.firstMiss_loc _ _ c (o + 64 * i) 64

theorem overflowWait_stop {act : Lanes} {cs : List Charge} {need : Nat} (hne : cs ≠ []) (h : s.ctx.crew.overflows cs = some need) :
    overflowWait s s.ctx act cs = .stop { cls := .overflow, info := BitVec.ofNat 64 need, addr := 0#64, lanes := act } := by
  have hcrew : (s.crew s.ctx.crewId).overflows cs = some need := h
  simp [overflowWait, hcrew, hne]

end

/-- With no row pinned, nothing to wait for and room for its charges, HST stores its sixteen lines. -/
theorem exec_hst_stores {f : Ext} {s : State} {a : VAddr} {det : Nat → Option (Nat × Nat)} (hr : s.Ready f.arg rolesGV [.u f.arg.a])
    (hn : s.HyperIn [f.arg.b] []) (hat : s.HyperAt f.arg a) (hrows : s.anyPinned (hstRows a) = false)
    (hwait : hypWait s s.ctx (s.ctx.act f.arg.m) a = .go) (hmiss : hstMiss s s.ctx a = none)
    (hroom : hstCharges s s.ctx a = [] ∨ s.ctx.crew.overflows (hstCharges s s.ctx a) = none)
    (hdet : ∀ i < 16, (s.bulkCaught s.ctx.cur.wave (s.ctx.act f.arg.m) [(a, 1024)]).detAt s.ctx.crewId (a.plus (64 * i)) = det i) :
    let t := s.bulkCaught s.ctx.cur.wave (s.ctx.act f.arg.m) [(a, 1024)]
    exec (.hst f) s = .next (((List.range 16).foldl (hstStore s.ctx a (s.ctx.wave.hyp f.arg.b) det)
      (t.buffer s.ctx.crewId [] (hstCharges t s.ctx a))).advance 3) := by
  have hfault := semHst_fault hr hn hat
  obtain ⟨hissue, -, -, ha⟩ := hr
  obtain ⟨-, hplace⟩ := hat
  obtain ⟨c, hc⟩ := hissue.cur
  have hfits : overflowWait s s.ctx (s.ctx.act f.arg.m) (hstCharges s s.ctx a) = .go := by
    obtain hnone | hfits := hroom
    · rw [hnone, overflowWait_nil]
    · exact overflowWait_go hfits
  have hgo : (semHst f.arg).wait s = .go := by
    rw [semHst_wait ha hplace hrows, hwait, hmiss]
    exact hfits
  rw [exec_go (i := .hst f) rfl hc hfault hgo, semHst_eff ha hplace hdet]
  rfl

/-! ### Lines stored where replayability and dirty bits differ (R105, R132, R213) -/

/-- One state is the other but for what a store marks beside its bytes: which gangs are replayable, which pages are dirty. -/
structure State.Marked (s t : State) : Prop where
  rest : ∃ gs ps, t = { s with gangs := gs, parts := ps }
  launchOf : ∀ k, (t.gang k).launch = (s.gang k).launch
  home : ∀ p q a, t.home? p q a = s.home? p q a

namespace State.Marked
variable {s t u v : State}

theorem refl (s : State) : s.Marked s := ⟨⟨_, _, rfl⟩, fun _ => rfl, fun _ _ _ => rfl⟩

theorem trans (h : s.Marked t) (k : t.Marked u) : s.Marked u where
  rest := by
    obtain ⟨_, _, rfl⟩ := h.rest
    obtain ⟨_, _, rfl⟩ := k.rest
    exact ⟨_, _, rfl⟩
  launchOf j := (k.launchOf j).trans (h.launchOf j)
  home p q a := (k.home p q a).trans (h.home p q a)

theorem crews (h : s.Marked t) : t.crews = s.crews := by
  obtain ⟨_, _, rfl⟩ := h.rest
  rfl

theorem mem (h : s.Marked t) : t.mem = s.mem := by
  obtain ⟨_, _, rfl⟩ := h.rest
  rfl

theorem storeUnsafe (s : State) (x : Ctx) (a : VAddr) : s.Marked (s.storeUnsafe x a) := by
  unfold State.storeUnsafe
  split
  · exact .refl s
  · exact .refl s
  · exact ⟨⟨_, _, rfl⟩, (s.notReplayable_keeps _).launchOf, fun _ _ _ => rfl⟩

theorem markDirty (s : State) (p q : Nat) (a : VAddr) : s.Marked (s.markDirty p q a) :=
  ⟨⟨_, _, rfl⟩, fun _ => rfl, s.home?_markDirty p q a⟩

theorem writeHome (h : s.Marked t) (x : Home) (b : Byte) : (s.writeHome x b).Marked (t.writeHome x b) := by
  obtain ⟨⟨gs, ps, rfl⟩, hlaunch, hhome⟩ := h
  cases x <;> exact ⟨⟨gs, ps, rfl⟩, hlaunch, hhome⟩

theorem putNat (h : s.Marked t) (hs : List Home) (n : Nat) : (s.putNat hs n).Marked (t.putNat hs n) := by
  induction hs generalizing s t n with
  | nil => exact h
  | cons x hs ih => exact ih (h.writeHome x _) _

theorem putHomeWord (h : s.Marked t) (x : Home) (w : Word) : (s.putHomeWord x w).Marked (t.putHomeWord x w) := h.putNat _ _

theorem putWords (h : s.Marked t) (x : Home) (ws : List Word) : (s.putWords x ws).Marked (t.putWords x ws) := by
  induction ws generalizing s t x with
  | nil => exact h
  | cons w ws ih => exact ih (h.putHomeWord x w) _

theorem barInUse (h : s.Marked t) (x : Home) : t.barInUse x = s.barInUse x := by
  obtain ⟨⟨gs, ps, rfl⟩, hlaunch, hhome⟩ := h
  simp only [State.barInUse, hlaunch, hhome]
  rfl

theorem barOwed (h : s.Marked t) (x : Home) : t.barOwed x = s.barOwed x := by
  obtain ⟨_, _, rfl⟩ := h.rest
  rfl

theorem unmarkBarrier (h : s.Marked t) (x : Home) : (s.unmarkBarrier x).Marked (t.unmarkBarrier x) := by
  obtain ⟨⟨gs, ps, rfl⟩, hlaunch, hhome⟩ := h
  exact ⟨⟨gs, ps, rfl⟩, hlaunch, hhome⟩

theorem scramble (h : s.Marked t) (x : Home) : (s.scramble x).Marked (t.scramble x) := by
  have hnext : ({ s with freeCtr := s.freeCtr + 4 } : State).Marked { t with freeCtr := s.freeCtr + 4 } := by
    obtain ⟨⟨gs, ps, rfl⟩, hlaunch, hhome⟩ := h
    exact ⟨⟨gs, ps, rfl⟩, hlaunch, hhome⟩
  have hctr : t.freeCtr = s.freeCtr := by
    obtain ⟨_, _, rfl⟩ := h.rest
    rfl
  simp only [State.scramble, hctr]
  exact (((hnext.putHomeWord _ _).putHomeWord _ _).putHomeWord _ _).putHomeWord _ _

theorem plainOver (h : s.Marked t) (owed : Bool) (x : Home) : (s.plainOver owed x).Marked (t.plainOver owed x) := by
  simp only [State.plainOver, h.barInUse]
  split
  · exact h.scramble _
  · split
    · exact (h.scramble _).unmarkBarrier x
    · exact h.unmarkBarrier x

/-- Words stored leave the same bytes, and do the same to barrier objects. -/
theorem storeWords (h : s.Marked t) (x : Home) (ws : List Word) : (s.storeWords x ws).Marked (t.storeWords x ws) := by
  have hput := h.putWords x ws
  simp only [State.storeWords, State.plainAll, h.barOwed]
  generalize s.putWords x ws = u at hput ⊢
  generalize t.putWords x ws = v at hput ⊢
  generalize dedup (List.map Home.object _) = os
  induction os generalizing u v with
  | nil => exact hput
  | cons o os ih => exact ih _ _ (hput.plainOver _ o)

end State.Marked

/-! ### Plain bytes change no page -/

theorem State.putHomeWord_parts (s : State) (h : Home) (v : Word) : (s.putHomeWord h v).parts = s.parts := by
  obtain ⟨⟨_, _, he⟩, -⟩ := s.putHomeWord_memoryOnly h v
  rw [he]

theorem State.putWords_parts (s : State) (h : Home) (ws : List Word) : (s.putWords h ws).parts = s.parts := by
  induction ws generalizing s h with
  | nil => rfl
  | cons w ws ih => exact (ih _ _).trans (s.putHomeWord_parts h w)

theorem State.plainOver_parts (s : State) (owed : Bool) (h : Home) : (s.plainOver owed h).parts = s.parts := by
  have hscramble (o : Home) : (s.scramble o).parts = s.parts := by simp only [State.scramble, State.putHomeWord_parts]
  unfold State.plainOver
  split
  · exact hscramble _
  · split
    · exact hscramble _
    · rfl

theorem State.storeWords_parts (s : State) (h : Home) (ws : List Word) : (s.storeWords h ws).parts = s.parts := by
  rw [← s.putWords_parts h ws, State.storeWords, State.plainAll]
  generalize s.putWords h ws = t
  generalize dedup (List.map Home.object _) = os
  induction os generalizing t with
  | nil => rfl
  | cons o os ih => exact (ih _).trans (t.plainOver_parts _ o)

theorem State.home?_storeWords (s : State) (h : Home) (ws : List Word) (p q : Nat) (a : VAddr) :
    (s.storeWords h ws).home? p q a = s.home? p q a := by
  have hpage (b : VAddr) : (s.storeWords h ws).page? p q b = s.page? p q b := by
    simp only [State.page?, State.tenant?, State.part, State.storeWords_parts]
  cases a <;> simp only [State.home?, hpage]

/-- Outside DET regions each line is stored at its home, whatever the lines before it marked. -/
theorem hstStores_marked {x : Ctx} {a : VAddr} {v : Hyper} {hs : Nat → Home} {is : List Nat} {s t : State} (h : s.Marked t)
    (hhome : ∀ i ∈ is, s.home? x.launch.part x.launch.tenant (a.plus (64 * i)) = some (hs i)) :
    (is.foldl (fun u i => u.storeWords (hs i) (hypLine v i)) s).Marked (is.foldl (hstStore x a v (fun _ => none)) t) := by
  induction is generalizing s t with
  | nil => exact h
  | cons i is ih =>
    obtain ⟨hi, his⟩ := List.forall_mem_cons.mp hhome
    have hsafe := h.trans (.storeUnsafe t x (a.plus (64 * i)))
    have hstep : hstStore x a v (fun _ => none) t i =
        ((t.storeUnsafe x (a.plus (64 * i))).storeWords (hs i) (hypLine v i)).markDirty x.launch.part x.launch.tenant (a.plus (64 * i)) := by
      simp only [hstStore, hsafe.home, hi]
    rw [List.foldl_cons, List.foldl_cons, hstep]
    refine ih ((hsafe.storeWords _ _).trans (.markDirty _ _ _ _)) fun j hj => ?_
    rw [State.home?_storeWords]
    exact his j hj

/-! ### A buffer that takes nothing -/

theorem change_of_id {α : Type} {f : α → α} (hf : ∀ a, f a = a) (k : Nat) (t : List (Nat × α)) : change k f t = t := by
  induction t with
  | nil => rfl
  | cons e t ih => simp [change, hf, ih]

theorem State.buffer_nil (s : State) (k : Nat) : s.buffer k [] [] = s := by
  unfold State.buffer
  split
  · rfl
  · simp only [State.modCrew, List.append_nil, change_of_id (fun _ => rfl)]

/-- Settles O32: HLD and HST by where each parks, holds and stops, then the bytes read and the lines stored. -/
theorem hyperMemoryResult : Obligations.HyperMemoryResult := by
  refine ⟨fun f a s => ?_, fun f a det s => ?_, fun f c o s => ?_, fun f a hs s => ?_⟩
  · intro g act t lines hr hn hat
    have hfault := semHld_fault hr hn hat
    obtain ⟨hissue, -, -, ha⟩ := hr
    obtain ⟨c, hc⟩ := hissue.cur
    obtain ⟨-, hplace⟩ := hat
    have hwait := semHld_wait ha hplace
    have hfirst (h : hypWait s s.ctx act a ≠ .go) : (semHld g).wait s = hypWait s s.ctx act a := hwait.trans (Wait.andThen_of_ne_go h _)
    have hentries : (semHld g).entries s = lines.length := hypTxns_eq hplace ha
    have hgo (hlines : s.LinesHeld g lines) (hnone : t.waitsAt s.ctx.cur.wave act a 1024 = false) : hypWait s s.ctx act a = .go :=
      (hypWait_held hplace hlines act).trans (if_neg (ne_true_of_eq_false hnone))
    refine ⟨fun hshelf => ?_, fun hlines hbehind => ?_, fun m hlines hnone hmiss => ?_, fun n hlines hnone hmiss hread => ?_⟩
    · exact State.lineParks_of_wait (m := semHld g) rfl hissue hfault hfirst hplace rfl (fun _ => semHld_idle) hshelf
    · exact exec_hypBehind (m := semHld g) rfl hissue hfault hfirst hplace hentries hlines hbehind
    · exact State.pageHolds_of_wait (m := semHld g) rfl hissue hfault
        (by rw [hwait, hgo hlines hnone, Wait.go_andThen, hmiss]; rfl) hentries
    · rw [exec_go (m := semHld g) rfl hc hfault (by rw [hwait, hgo hlines hnone, Wait.go_andThen, hmiss]; rfl), semHld_eff ha hplace hread]
      rfl
  · intro g act t lines rows charges hr hn hat
    have hfault := semHst_fault hr hn hat
    have hstores := exec_hst_stores (det := det) hr hn hat
    obtain ⟨hissue, -, -, ha⟩ := hr
    obtain ⟨c, hc⟩ := hissue.cur
    obtain ⟨-, hplace⟩ := hat
    have hwait (hrows : s.anyPinned rows = false) := semHst_wait ha hplace hrows
    have hfirst (hrows : s.anyPinned rows = false) (h : hypWait s s.ctx act a ≠ .go) : (semHst g).wait s = hypWait s s.ctx act a :=
      (hwait hrows).trans (Wait.andThen_of_ne_go h _)
    have hentries : (semHst g).entries s = lines.length := hypTxns_eq hplace ha
    have hgo (hlines : s.LinesHeld g lines) (hnone : t.waitsAt s.ctx.cur.wave act a 1024 = false) : hypWait s s.ctx act a = .go :=
      (hypWait_held hplace hlines act).trans (if_neg (ne_true_of_eq_false hnone))
    refine ⟨fun hrows => ?_, fun hrows hshelf => ?_, fun hrows hlines hbehind => ?_, fun hrows hlines hnone => ?_⟩
    · exact exec_parkActive (m := semHst g) rfl hissue hfault (semHst_wait_pinned ha hplace hrows) (by simp) fun _ => semHst_idle
    · exact State.lineParks_of_wait (m := semHst g) rfl hissue hfault (hfirst hrows) hplace rfl (fun _ => semHst_idle) hshelf
    · exact exec_hypBehind (m := semHst g) rfl hissue hfault (hfirst hrows) hplace hentries hlines hbehind
    · have hgo := hgo hlines hnone
      refine ⟨fun m hmiss => ?_, fun need hmiss hne hfull => ?_, fun hmiss hroom hdet => ?_⟩
      · exact State.pageHolds_of_wait (m := semHst g) rfl hissue hfault (by rw [hwait hrows, hgo, Wait.go_andThen, hmiss]; rfl) hentries
      · exact exec_stop (m := semHst g) rfl hc hfault
          (by rw [hwait hrows, hgo, Wait.go_andThen, hmiss]; exact overflowWait_stop hne hfull)
      · exact hstores hrows hgo hmiss hroom hdet
  · intro g t hr hn hat hwait hrows hlocal
    have hdet (u : State) : ∀ i < 16, u.detAt s.ctx.crewId (VAddr.plus (.loc c o) (64 * i)) = none := fun _ _ => detFind_loc _ _ _ _
    refine ⟨_, exec_hst_stores hr hn hat hrows hwait (hstMiss_loc s s.ctx c o) (.inl (hstCharges_nil (hdet s))) (hdet _), ?_⟩
    rw [hstCharges_nil (hdet _)]
    exact (hstStores_marked (.refl _) fun _ _ => rfl).crews
  · intro g t hr hn hat hshelf hwait hmiss hdet hhome
    have hrows : s.anyPinned (hstRows a) = false := by
      obtain ⟨-, hplace⟩ := hat
      obtain ⟨d, o, rfl⟩ := hypPlace_shelf hplace hshelf
      rfl
    have hkeeps := s.detAt_bulkCaught s.ctx.cur.wave (s.ctx.act g.m) [(a, 1024)]
    have hdet' : ∀ i < 16, t.detAt s.ctx.crewId (a.plus (64 * i)) = none := fun i hi => (hkeeps _ _).trans (hdet i hi)
    refine ⟨_, exec_hst_stores hr hn hat hrows hwait hmiss (.inl (hstCharges_nil hdet)) hdet', ?_⟩
    rw [hstCharges_nil hdet', State.buffer_nil]
    exact (hstStores_marked (.refl _) fun i hi => hhome i (List.mem_range.mp hi)).mem

end Sys2Proof.Machine
end

section
/-!
REMIT (O34): what serving one fibre does, what serving several adds up to, and how many a queue lets pass.
-/
namespace Sys2Proof.Machine

/-! ### Sets of lanes -/

theorem getLsbD_laneBit (l : Nat) {i : Nat} (hi : i < 32) : (laneBit l).getLsbD i = decide (l = i) := by
  simp only [laneBit, BitVec.getLsbD_shiftLeft, BitVec.getLsbD_one]
  grind

/-- Lanes added one after the other are those of the list. -/
theorem foldl_laneBit (ls : List Nat) (m : Lanes) :
    ls.foldl (fun m l => m ||| laneBit l) m = m ||| laneSet (fun l => ls.contains l) := by
  induction ls generalizing m with
  | nil => simp [laneSet_none]
  | cons l ls ih =>
    rw [List.foldl_cons, ih]
    refine BitVec.eq_of_getLsbD_eq fun i hi => ?_
    simp only [BitVec.getLsbD_or, getLsbD_laneSet _ hi, getLsbD_laneBit l hi, List.contains_cons, Bool.or_assoc]
    rw [show (i == l) = decide (l = i) from decide_eq_decide.mpr eq_comm]

theorem nodup_laneList (m : Lanes) : (laneList m).Nodup := List.Pairwise.filter _ List.nodup_range

theorem laneList_ne_nil {m : Lanes} (h : m ≠ 0#32) : laneList m ≠ [] :=
  List.ne_nil_of_mem (mem_laneList.mpr (lowestLane_spec h))

/-! ### Replayability ends once (R132) -/

theorem change_of_idempotent {α : Type} {f : α → α} (hf : ∀ a, f (f a) = f a) (k : Nat) (t : List (Nat × α)) :
    change k f (change k f t) = change k f t := by
  induction t with
  | nil => rfl
  | cons e t ih =>
    by_cases h : e.1 = k <;> simp [change, h, hf, ih]

theorem State.notReplayable_gangs_of_gangs {s t : State} {k : Nat} (h : s.gangs = (t.notReplayable k).gangs) :
    (s.notReplayable k).gangs = (t.notReplayable k).gangs := by
  simp only [State.notReplayable, State.modGang] at h ⊢
  rw [h]
  exact change_of_idempotent (fun _ => by rfl) k t.gangs

/-! ### A node takes records (R183, R189) -/

namespace Node
variable (n : Node) (r : Record)

@[simp] theorem take_launch : (n.take r).launch = n.launch := by unfold Node.take; split <;> rfl
@[simp] theorem take_rw : (n.take r).rw = n.rw := by unfold Node.take; split <;> rfl

theorem take_queued (h : n.epoch = none) : n.take r = { n with queue := n.queue ++ [r] } := by
  simp [Node.take, h, Node.push]

theorem take_held (h : n.epoch ≠ none) : n.take r = { n with heldRecs := n.heldRecs ++ [r] } := by
  simp [Node.take, Option.isSome_iff_ne_none, h]

/-- Records go to the queue, or all to the hold of their phase. -/
theorem foldl_take (rs : List Record) : rs.foldl Node.take n =
    if n.epoch = none then { n with queue := n.queue ++ rs } else { n with heldRecs := n.heldRecs ++ rs } := by
  induction rs generalizing n with
  | nil => simp
  | cons r rs ih =>
    rw [List.foldl_cons, ih]
    by_cases h : n.epoch = none
    · rw [take_queued n r h]
      simp [h]
    · rw [take_held n r h]
      simp [h]

theorem full_eq_false {n : Node} (h : n.queue.length < n.qcap) : n.full = false := by
  simpa [Node.full] using h

theorem full_eq_true {n : Node} (h : n.qcap ≤ n.queue.length) : n.full = true := by
  simpa [Node.full] using h

end Node

/-! ### One fibre served (R183, R304) -/

/-- The record of one lane is sent, and the lane is served. -/
def State.emitLane (s : State) (x : Ctx) (g : Arg) (nk l : Nat) : State :=
  let ln := (s.wave x.cur.wave).lane l
  let t := ((s.toNode nk (fun n => n.take (emitRecord x g n l ln))).notReplayable x.gangId).modWave x.cur.wave
    (fun w => w.mapLanes (laneBit l) (fun _ y => { y with emitSeq := y.emitSeq + 1 }))
  { t with cur := t.cur.map (fun c => { c with served := c.served ||| laneBit l }) }

/-- Lanes served one after the other, whatever the queue holds. -/
def State.emitEach (s : State) (x : Ctx) (g : Arg) (nk : Nat) (ls : List Nat) : State :=
  ls.foldl (fun u l => u.emitLane x g nk l) s

namespace State
variable (s : State) (x : Ctx) (g : Arg) (nk : Nat)

theorem emitLane_wave (l k : Nat) : (s.emitLane x g nk l).wave k =
    (s.modWave x.cur.wave (fun w => w.mapLanes (laneBit l) (fun _ y => { y with emitSeq := y.emitSeq + 1 }))).wave k := rfl

/-- A fibre that is served counts its REMITs, and no fibre changes otherwise. -/
theorem emitLane_lane (l k i : Nat) : ∃ e, ((s.emitLane x g nk l).wave k).lane i = { (s.wave k).lane i with emitSeq := e } := by
  rw [emitLane_wave]
  obtain h | ⟨-, h⟩ := State.wave_modWave_cases s x.cur.wave k _ <;> rw [h]
  · exact ⟨_, rfl⟩
  · obtain h | ⟨-, h⟩ := Wave.lane_mapLanes_cases (s.wave k) (laneBit l) _ i <;> rw [h]
    · exact ⟨_, rfl⟩
    · exact ⟨_, rfl⟩

theorem emitLane_lane_ne {l i : Nat} (hne : l ≠ i) (hi : i < 32) (k : Nat) :
    ((s.emitLane x g nk l).wave k).lane i = (s.wave k).lane i := by
  have hout : (laneBit l).getLsbD i = false := by simp [getLsbD_laneBit l hi, hne]
  rw [emitLane_wave]
  obtain h | ⟨-, h⟩ := State.wave_modWave_cases s x.cur.wave k _ <;> rw [h]
  exact Wave.lane_mapLanes_out hout

theorem emitLane_nodes (l : Nat) : (s.emitLane x g nk l).nodes =
    (s.toNode nk (fun n => n.take (emitRecord x g n l ((s.wave x.cur.wave).lane l)))).nodes := rfl

/-- The node takes the record while its launch runs (R182). -/
theorem emitLane_node_running {n : Node} (l : Nat) (hn : look nk s.nodes = some n) (hrun : (s.launch n.launch).phase = .running) :
    look nk (s.emitLane x g nk l).nodes = some (n.take (emitRecord x g n l ((s.wave x.cur.wave).lane l))) := by
  simp [emitLane_nodes, State.toNode, State.modNode, hn, hrun]

/-- Once its launch has stopped the record is discarded (log 86). -/
theorem emitLane_node_stopped {n : Node} (l : Nat) (hn : look nk s.nodes = some n) (hstop : (s.launch n.launch).phase ≠ .running) :
    look nk (s.emitLane x g nk l).nodes = some n := by
  simp [emitLane_nodes, State.toNode, State.modNode, hn, hstop]

theorem emitLane_node_ne {k : Nat} (l : Nat) (h : k ≠ nk) : look k (s.emitLane x g nk l).nodes = look k s.nodes :=
  look_change_ne h _ _

/-! ### Fibres served one after the other -/

theorem emitEach_cons (l : Nat) (ls : List Nat) : s.emitEach x g nk (l :: ls) = (s.emitLane x g nk l).emitEach x g nk ls := rfl

theorem emitEach_mem (ls : List Nat) : (s.emitEach x g nk ls).mem = s.mem := by
  induction ls generalizing s with
  | nil => rfl
  | cons l ls ih => exact ih (s.emitLane x g nk l)

theorem emitEach_crews (ls : List Nat) : (s.emitEach x g nk ls).crews = s.crews := by
  induction ls generalizing s with
  | nil => rfl
  | cons l ls ih => exact ih (s.emitLane x g nk l)

/-- No register changes. -/
theorem emitEach_readV (ls : List Nat) (k l i : Nat) :
    (((s.emitEach x g nk ls).wave k).lane l).readV i = ((s.wave k).lane l).readV i := by
  induction ls generalizing s with
  | nil => rfl
  | cons j ls ih =>
    rw [emitEach_cons, ih]
    obtain ⟨e, h⟩ := s.emitLane_lane x g nk j k l
    rw [h]
    rfl

theorem emitEach_node_ne {k : Nat} (ls : List Nat) (h : k ≠ nk) : look k (s.emitEach x g nk ls).nodes = look k s.nodes := by
  induction ls generalizing s with
  | nil => rfl
  | cons l ls ih => rw [emitEach_cons, ih, emitLane_node_ne s x g nk l h]

theorem emitEach_gangs_of_gangs {t : State} (ls : List Nat) (h : s.gangs = (t.notReplayable x.gangId).gangs) :
    (s.emitEach x g nk ls).gangs = (t.notReplayable x.gangId).gangs := by
  induction ls generalizing s with
  | nil => exact h
  | cons l ls ih => exact ih (s.emitLane x g nk l) (State.notReplayable_gangs_of_gangs h)

/-- The first fibre that is served ends replayability, and the others leave it so. -/
theorem emitEach_gangs {ls : List Nat} (hls : ls ≠ []) : (s.emitEach x g nk ls).gangs = (s.notReplayable x.gangId).gangs := by
  cases ls with
  | nil => exact absurd rfl hls
  | cons l ls => exact (s.emitLane x g nk l).emitEach_gangs_of_gangs x g nk ls rfl

theorem emitEach_cur {c : Cursor} (hc : s.cur = some c) (ls : List Nat) : (s.emitEach x g nk ls).cur =
    some { c with served := c.served ||| laneSet (fun l => ls.contains l) } := by
  rw [← foldl_laneBit]
  induction ls generalizing s c with
  | nil => exact hc
  | cons l ls ih => exact ih (s.emitLane x g nk l) (c := { c with served := c.served ||| laneBit l }) (congrArg (Option.map _) hc)

/-- What the lanes of a list send, as their registers stand. -/
def emitRecords (n : Node) (ls : List Nat) : List Record :=
  ls.map (fun l => emitRecord x g n l ((s.wave x.cur.wave).lane l))

theorem emitRecords_take (n : Node) (r : Record) (ls : List Nat) : s.emitRecords x g (n.take r) ls = s.emitRecords x g n ls := by
  simp [emitRecords, emitRecord]

theorem emitRecords_emitLane (n : Node) {l : Nat} {ls : List Nat} (hl : l ∉ ls) (hlt : ∀ i ∈ ls, i < 32) :
    (s.emitLane x g nk l).emitRecords x g n ls = s.emitRecords x g n ls :=
  List.map_congr_left fun i hi => by rw [s.emitLane_lane_ne x g nk (ne_of_mem_of_not_mem hi hl).symm (hlt i hi)]

/-- Distinct lanes each send the record of their registers. -/
theorem emitEach_node_running {n : Node} {ls : List Nat} (hn : look nk s.nodes = some n) (hrun : (s.launch n.launch).phase = .running)
    (hnd : ls.Nodup) (hlt : ∀ i ∈ ls, i < 32) :
    look nk (s.emitEach x g nk ls).nodes = some ((s.emitRecords x g n ls).foldl Node.take n) := by
  induction ls generalizing s n with
  | nil => exact hn
  | cons l ls ih =>
    obtain ⟨hl, hnd⟩ := List.nodup_cons.mp hnd
    obtain ⟨-, hlt⟩ := List.forall_mem_cons.mp hlt
    have hnode := s.emitLane_node_running x g nk l hn hrun
    rw [emitEach_cons, ih _ hnode (by rw [Node.take_launch]; exact hrun) hnd hlt, emitRecords_take, emitRecords_emitLane s x g nk n hl hlt]
    rfl

theorem emitEach_node_stopped {n : Node} (ls : List Nat) (hn : look nk s.nodes = some n) (hstop : (s.launch n.launch).phase ≠ .running) :
    look nk (s.emitEach x g nk ls).nodes = some n := by
  induction ls generalizing s with
  | nil => exact hn
  | cons l ls ih => exact ih (s.emitLane x g nk l) (s.emitLane_node_stopped x g nk l hn hstop) hstop

/-! ### As many as the queue lets pass (R183) -/

theorem emitLanes_cons {n : Node} (l : Nat) (ls : List Nat) (hn : look nk s.nodes = some n) (hroom : n.full = false) :
    s.emitLanes x g nk (l :: ls) = (s.emitLane x g nk l).emitLanes x g nk ls := by
  simp only [State.emitLanes, hn, hroom, Bool.false_eq_true, if_false]
  rfl

theorem emitLanes_full {n : Node} {ls : List Nat} (hls : ls ≠ []) (hn : look nk s.nodes = some n) (hfull : n.full = true) :
    s.emitLanes x g nk ls = (false, s) := by
  cases ls with
  | nil => exact absurd rfl hls
  | cons l ls => simp only [State.emitLanes, hn, hfull, if_true]

/-- Lanes before each of which the queue has room are all served. -/
theorem emitLanes_append {ls : List Nat} (ms : List Nat) (hroom : ∀ k < ls.length, ∃ n,
    look nk (s.emitEach x g nk (ls.take k)).nodes = some n ∧ n.full = false) :
    s.emitLanes x g nk (ls ++ ms) = (s.emitEach x g nk ls).emitLanes x g nk ms := by
  induction ls generalizing s with
  | nil => rfl
  | cons l ls ih =>
    obtain ⟨n, hn, hfree⟩ := hroom 0 (Nat.zero_lt_succ _)
    rw [List.cons_append, emitLanes_cons s x g nk l _ hn hfree, emitEach_cons]
    exact ih _ fun k hk => hroom (k + 1) (Nat.succ_lt_succ hk)

theorem emitLanes_eq {ls : List Nat} (hroom : ∀ k < ls.length, ∃ n,
    look nk (s.emitEach x g nk (ls.take k)).nodes = some n ∧ n.full = false) :
    s.emitLanes x g nk ls = (true, s.emitEach x g nk ls) := by
  have h := s.emitLanes_append x g nk [] hroom
  rwa [List.append_nil] at h

/-- A node whose launch runs has room before each lane where the records that it queues fit in QCAP; held records do not count (log 25). -/
theorem emitEach_room {n : Node} {ls : List Nat} (hn : look nk s.nodes = some n) (hrun : (s.launch n.launch).phase = .running)
    (hnd : ls.Nodup) (hlt : ∀ i ∈ ls, i < 32)
    (hroom : if n.epoch = none then n.queue.length + ls.length ≤ n.qcap else n.queue.length < n.qcap) {k : Nat} (hk : k < ls.length) :
    ∃ m, look nk (s.emitEach x g nk (ls.take k)).nodes = some m ∧ m.full = false := by
  have hnode := s.emitEach_node_running x g nk hn hrun (hnd.sublist (ls.take_sublist k)) fun i hi => hlt i (List.mem_of_mem_take hi)
  refine ⟨_, hnode, Node.full_eq_false ?_⟩
  rw [Node.foldl_take]
  by_cases he : n.epoch = none
  · simp only [he, if_true, emitRecords, List.length_append, List.length_map, List.length_take] at hroom ⊢
    omega
  · simpa only [he, if_false] using hroom

/-- Where the records are more than the room that QCAP leaves, as many as there is room for are appended, and the others wait. -/
theorem emitLanes_fills {n : Node} {ls : List Nat} (hn : look nk s.nodes = some n) (hrun : (s.launch n.launch).phase = .running)
    (hnd : ls.Nodup) (hlt : ∀ i ∈ ls, i < 32) (hepoch : n.epoch = none) (hfree : n.queue.length < n.qcap)
    (hover : n.qcap < n.queue.length + ls.length) :
    let room := n.qcap - n.queue.length
    s.emitLanes x g nk ls = (false, s.emitEach x g nk (ls.take room)) ∧
      look nk (s.emitEach x g nk (ls.take room)).nodes = some { n with queue := n.queue ++ (s.emitRecords x g n ls).take room } := by
  intro room
  have hnd := hnd.sublist (ls.take_sublist room)
  have hlt : ∀ i ∈ ls.take room, i < 32 := fun i hi => hlt i (List.mem_of_mem_take hi)
  have hqueue := s.emitEach_node_running x g nk hn hrun hnd hlt
  rw [Node.foldl_take, if_pos hepoch, emitRecords, List.map_take] at hqueue
  have hserved := s.emitLanes_append x g nk (ls.drop room) fun k hk =>
    s.emitEach_room x g nk hn hrun hnd hlt (by rw [if_pos hepoch, List.length_take]; omega) hk
  have hfull : n.qcap ≤ (n.queue ++ (s.emitRecords x g n ls).take room).length := by
    rw [List.length_append, List.length_take, emitRecords, List.length_map]
    omega
  have hleft : ls.drop room ≠ [] := by
    rw [Ne, List.drop_eq_nil_iff]
    omega
  rw [List.take_append_drop, emitLanes_full _ x g nk hleft hqueue (Node.full_eq_true hfull)] at hserved
  exact ⟨hserved, hqueue⟩

end State

/-! ### The instruction -/

section
variable {g : Arg} {s : State} {nk : Nat} {n : Node} (hserved : s.ctx.cur.served = 0#32) (hnode : emitNode s s.ctx g = some (nk, n))
include hserved hnode

/-- Before it has served any lane, REMIT serves all the active ones. -/
theorem emitAll_eq (ha : s.Active g) : emitAll g s =
    (s.catchUpLanes s.ctx.cur.wave (s.ctx.act g.m)).emitLanes s.ctx g nk (laneList (s.ctx.act g.m)) := by
  simp only [emitAll, beq_iff_eq, ha, if_false, hnode, hserved, BitVec.not_zero, BitVec.and_allOnes]

/-- An open node, and registers that have landed and lie in every window: REMIT meets no fault. -/
theorem semRemit_fault (hc : s.Clear g rolesGV [.v g.a]) (hland : s.Landed g [.u g.b])
    (hrecs : s.Landed g ((List.range n.rw).map (fun i => .v (g.a + i)))) (hlow : g.a + n.rw ≤ 252)
    (hreg : s.OnLanes s.ctx.cur.lanes (fun ln => ln.wb + g.a + n.rw ≤ s.ctx.crew.nreg)) : (semRemit g).fault s = none := by
  obtain ⟨-, hrole, hwindow, -⟩ := hc
  have hbounds : laneFault .bounds s.ctx (if s.ctx.act g.m == 0#32 then 0#32 else s.ctx.cur.lanes) (fun _ ln =>
      if 252 < g.a + n.rw || s.ctx.crew.nreg < ln.wb + g.a + n.rw then some (0#64, 0#64) else none) = none := by
    refine laneFault_none fun l hl hm => ?_
    have hin : s.ctx.cur.lanes.getLsbD l = true := by
      split at hm
      · simp at hm
      · exact hm
    have hfits := hreg l hl hin
    refine if_neg ?_
    simp only [Bool.or_eq_true, decide_eq_true_eq]
    omega
  refine Sem.fault_none (State.static_none hrole hwindow) (firstFault_eq_none ?_)
  simp only [hnode, hserved, BitVec.not_zero, BitVec.and_allOnes, List.cons_append, List.nil_append, List.mem_cons, List.not_mem_nil,
    or_false, forall_eq_or_imp, forall_eq]
  exact ⟨hland.none, onceFault_none rfl, hbounds, hrecs.none⟩

end

section
variable {f : Ext} {s u : State} (hissue : s.Issuing) (hf : (semRemit f.arg).fault s = none)
include hissue hf

theorem exec_remit_goes (h : emitAll f.arg s = (true, u)) : exec (.remit f) s = .next (u.advance 3) := by
  obtain ⟨c, hc⟩ := hissue.cur
  rw [exec_go (i := .remit f) rfl hc hf (by simp [semRemit, h])]
  simp only [semRemit, h]
  rfl

theorem exec_remit_holds (h : emitAll f.arg s = (false, u)) : exec (.remit f) s = .next u.holdClause := by
  obtain ⟨c, hc⟩ := hissue.cur
  exact exec_hold (i := .remit f) rfl hc hf (by simp [semRemit, h])

end

/-- Settles O34: the lanes that REMIT serves are the longest run for which the queue has room, and it holds where that is not all. -/
theorem recordResult : Obligations.RecordResult := by
  intro f nk n s g t hc ha hland hrecs hserved hnode hlow hreg hn lane recs room
  have hfault := semRemit_fault hserved hnode hc hland hrecs hlow hreg
  have hall := emitAll_eq hserved hnode ha
  obtain ⟨hissue, -, -, -⟩ := hc
  have hne := laneList_ne_nil ha
  have hnd := nodup_laneList (s.ctx.act g.m)
  have hlt : ∀ i ∈ laneList (s.ctx.act g.m), i < 32 := fun i hi => (mem_laneList.mp hi).1
  have hlen : recs.length = (laneList (s.ctx.act g.m)).length := List.length_map _
  refine ⟨fun hfull => ?_, fun c hepoch hfree hover hcur hrun => ?_, fun hstop hfree => ?_, fun hroom hrun => ?_⟩
  · exact exec_remit_holds hissue hfault (hall.trans (t.emitLanes_full s.ctx g nk hne hn (Node.full_eq_true hfull)))
  · obtain ⟨hserve, hqueue⟩ := t.emitLanes_fills s.ctx g nk hn hrun hnd hlt hepoch hfree (by rwa [← hlen])
    have hsome : (laneList (s.ctx.act g.m)).take room ≠ [] := by
      rw [Ne, List.take_eq_nil_iff]
      exact not_or.mpr ⟨by omega, hne⟩
    exact ⟨_, exec_remit_holds hissue hfault (hall.trans hserve), hqueue, t.emitEach_gangs s.ctx g nk hsome, t.emitEach_cur s.ctx g nk hcur _⟩
  · have hstay (ls : List Nat) := t.emitEach_node_stopped s.ctx g nk ls hn hstop
    have hserve := t.emitLanes_eq s.ctx g nk fun k _ => ⟨n, hstay ((laneList (s.ctx.act g.m)).take k), Node.full_eq_false hfree⟩
    exact ⟨_, exec_remit_goes hissue hfault (hall.trans hserve), hstay _, t.emitEach_gangs s.ctx g nk hne⟩
  · have hserve := t.emitLanes_eq s.ctx g nk fun k hk => t.emitEach_room s.ctx g nk hn hrun hnd hlt (by rwa [← hlen]) hk
    have hqueue := t.emitEach_node_running s.ctx g nk hn hrun hnd hlt
    rw [Node.foldl_take] at hqueue
    exact ⟨_, exec_remit_goes hissue hfault (hall.trans hserve), hqueue, fun k hk => t.emitEach_node_ne s.ctx g nk _ hk,
      t.emitEach_mem s.ctx g nk _, t.emitEach_crews s.ctx g nk _, t.emitEach_gangs s.ctx g nk hne, t.emitEach_readV s.ctx g nk _⟩

end Sys2Proof.Machine
end

section
/-!
Messages of a partition's queue and traffic of a peer (O43): arrival and processing of ARM, FIRE and other KINDs, then what comes over a port.
-/
namespace Sys2Proof.Machine

/-! ### The queue of a partition (R195) -/

section
variable {s : State} {part : Nat} {is : Flit → Bool} {m : Flit} (ht : s.takesMessages part 0 = true) (his : is m = true)
include ht his

/-- A message that arrives stands behind the others. -/
theorem State.command_arrives : s.command part is (.arrives m) = s.modPart part (fun p => { p with queue := p.queue ++ [m] }) := by
  simp [State.command, ht, his]

/-- The message at the head leaves the queue and is processed. -/
theorem State.command_taken {ms : List Flit} (hq : (s.part part).queue = m :: ms) :
    s.command part is .taken = (s.modPart part (fun p => { p with queue := ms })).message part m := by
  simp [State.command, ht, his, hq]

end

section
variable {s : State} {part : Nat} {m : Flit}

theorem State.message_arm (hk : msgKind m = 1) : s.message part m = s.armSlot part m := by
  simp only [State.message, hk]

theorem State.message_fire (hk : msgKind m = 2) : s.message part m = s.fireMessage part m := by
  simp only [State.message, hk]

/-- A message of another KIND is discarded with cause 2. -/
theorem State.message_reservedKind (h1 : msgKind m ≠ 1) (h2 : msgKind m ≠ 2) :
    s.message part m = s.slotEvent part (msgSlot m) (msgKind m) 2 false := by
  unfold State.message
  split
  case h_1 h => exact absurd h h1
  case h_2 h => exact absurd h h2
  case h_3 => rfl

/-! ### ARM (R196) -/

/-- An ARM without descriptor disarms the slot; firings that wait stay. -/
theorem Slot.bind_disarms (x : Slot) (hd : msgDesc m = 0#64) : x.bind m = { Slot.disarmed with waiting := x.waiting } := by
  simp [Slot.bind, hd]

/-- An ARM with a descriptor replaces the binding and starts the count of firings again; firings that wait stay. -/
theorem Slot.bind_arms (x : Slot) (hd : msgDesc m ≠ 0#64) : x.bind m =
    { armed := true, desc := msgDesc m, tag := msgTag m, fires := msgFires m, ctr := msgCtr m, reload := msgReload m, num := 0,
      waiting := x.waiting } := by
  simp [Slot.bind, hd]

theorem State.armSlot_reserved (hr : msgReserved m = true) : s.armSlot part m = s.slotEvent part (msgSlot m) 1 3 false := by
  simp [State.armSlot, hr]

section
variable (hr : msgReserved m = false)
include hr

theorem State.armSlot_unusable (hc : ctrUsable (msgCtr m) = false) : s.armSlot part m = s.slotEvent part (msgSlot m) 1 4 false := by
  simp [State.armSlot, hr, hc]

/-- An ARM with no reserved byte set and a usable counter binds its slot. -/
theorem State.armSlot_binds (hc : ctrUsable (msgCtr m) = true) :
    s.armSlot part m = s.modSlot part (msgSlot m) (fun x => x.bind m) := by
  simp [State.armSlot, hr, hc]

end

/-! ### FIRE (R196) -/

theorem State.fireSlot_disarmed {slot : Nat} (kind : Nat) (counter : Bool) (ha : ((s.part part).slot slot).armed = false) :
    s.fireSlot part slot kind counter = s.slotEvent part slot kind 1 counter := by
  simp [State.fireSlot, ha]

section
variable {slot : Nat} (kind : Nat) (counter : Bool) (ha : ((s.part part).slot slot).armed = true)
include ha

/-- A seventeenth firing is discarded. -/
theorem State.fireSlot_full (hw : 16 ≤ ((s.part part).slot slot).waiting.length) :
    s.fireSlot part slot kind counter = s.slotEvent part slot kind 0 counter := by
  simp [State.fireSlot, ha, hw]

theorem State.fireSlot_fires (hw : ((s.part part).slot slot).waiting.length < 16) :
    s.fireSlot part slot kind counter = s.modSlot part slot Slot.fire := by
  simp [State.fireSlot, ha, Nat.not_le.mpr hw]

end

theorem State.fireMessage_reserved (hr : msgReserved m = true) : s.fireMessage part m = s.slotEvent part (msgSlot m) 2 3 false := by
  simp [State.fireMessage, hr]

theorem State.fireMessage_valid (hr : msgReserved m = false) : s.fireMessage part m = s.fireSlot part (msgSlot m) 2 false := by
  simp [State.fireMessage, hr]

end

/-! ### What a peer sends (R203) -/

section
variable {s : State} {port part k a : Nat} {dec : Word}

/-- A signal counts down its counter where the page translates, and is answered. -/
theorem State.peerSignal_home {h : Home} {hs : List Home} (hh : s.homes? part (s.part part).owner (.glob a) 8 = some (h :: hs)) :
    s.peerSignal port part k a dec = ((s.counterSignal part (s.part part).owner h dec).markDirty part (s.part part).owner
      (.glob a)).sendPeer (.landed port k 0 0) := by
  simp only [State.peerSignal, hh]

theorem State.peerSignal_absent (hh : s.homes? part (s.part part).owner (.glob a) 8 = none) :
    s.peerSignal port part k a dec = s.sendPeer (.refused port k a) := by
  simp only [State.peerSignal, hh]

/-- Data are stored where their pages translate, which become dirty, and are answered. -/
theorem State.peerData_home {first : Nat} {bs : List Byte} {hs : List Home}
    (hh : s.homes? part (s.part part).owner (.glob a) bs.length = some hs) :
    s.peerData port part k first a bs = (((s.putPlain hs (bs.foldr (fun b n => b.toNat + 256 * n) 0)).markDirty
      part (s.part part).owner (.glob a)).markDirty part (s.part part).owner (.glob (a + (bs.length - 1)))).sendPeer
      (.landed port k first 1) := by
  simp only [State.peerData, hh]

theorem State.peerData_absent {first : Nat} {bs : List Byte} (hh : s.homes? part (s.part part).owner (.glob a) bs.length = none) :
    s.peerData port part k first a bs = s.sendPeer (.refused port k a) := by
  simp only [State.peerData, hh]

end

/-! ### What a peer answers (R203, R102) -/

section
variable {s : State} {port k : Nat} {c : Copy}

/-- A peer answers for the copy that goes out of its port. -/
theorem State.peerCopy_eq (hk : look k s.copies = some c) (hc : c.toPeer = true) (hp : c.desc.port = port) :
    s.peerCopy port k = some c := by
  simp [State.peerCopy, hk, hc, hp]

variable (hc : s.peerCopy port k = some c)
include hc

/-- A refusal ends the copy with TRANSLATE. -/
theorem State.peerRefused_fails (a : Nat) : s.peerRefused port k a = s.failCopy k c .translate (s.toTagged (.peer a)) 0#64 := by
  simp only [State.peerRefused, hc]

/-- The answer to its signal ends the copy with status 0. -/
theorem State.peerLanded_signal (first : Nat) (ha : c.asked = true) : s.peerLanded port k first 0 = s.finishCopy k c 0 := by
  simp [State.peerLanded, hc, ha]

/-- Elements that have left and land at the peer are under way no longer, and are credited. -/
theorem State.peerLanded_elements {first n : Nat} (hn : 0 < n) (hl : allLeft c.sent first n = true) :
    let d : Copy := { c with sent := takeRange first n c.sent }
    s.peerLanded port k first n = ({ s with copies := change k (fun _ => d) s.copies } : State).creditLanded d n := by
  simp [State.peerLanded, hc, hl, Nat.pos_iff_ne_zero.mp hn]

end

/-! ### PEER_COPYS_TRAFFIC (R203) -/

section
variable {s : State} {port : Nat} (hu : s.up = true) (hh : s.halted = false) (hd : s.portsDown.contains port = false)
include hu hh hd

/-- A port that is not down takes what the peer answers. -/
theorem State.peerTraffic_landed (k first n : Nat) : s.peerTraffic (.landed port k first n) = s.peerLanded port k first n := by
  simp only [State.peerTraffic, peerPort, hu, hh, hd]
  rfl

theorem State.peerTraffic_refused (k a : Nat) : s.peerTraffic (.refused port k a) = s.peerRefused port k a := by
  simp only [State.peerTraffic, peerPort, hu, hh, hd]
  rfl

variable {part : Nat} (hp : look port s.portPart = some part)
include hp

/-- What a peer sends reaches the partition that its port is bound to. -/
theorem State.peerTraffic_signal (k a : Nat) (dec : Word) :
    s.peerTraffic (.signal port k a dec) = s.peerSignal port part k a dec := by
  simp only [State.peerTraffic, peerPort, hu, hh, hd, hp]
  rfl

theorem State.peerTraffic_data (k first a : Nat) (bs : List Byte) :
    s.peerTraffic (.data port k first a bs) = s.peerData port part k first a bs := by
  simp only [State.peerTraffic, peerPort, hu, hh, hd, hp]
  rfl

end

/-- Settles O43: arrival, then what becomes of the head of the queue by its KIND, then what a peer sends and what it answers. -/
theorem messageEvents : Obligations.MessageEvents := by
  refine ⟨fun part m s ht => ?_, fun part m ms s ht hq => ?_, fun port part k first a dec bs s hu hh hd => ?_⟩
  -- arrival
  · exact ⟨fun hk => congrArg Host.Outcome.next (State.command_arrives ht (by simp [hk])),
      fun hk => congrArg Host.Outcome.next (State.command_arrives ht (by simp [hk])),
      fun h1 h2 => congrArg Host.Outcome.next (State.command_arrives ht (by simp [h1, h2]))⟩
  -- the head of the queue
  · intro t n x
    refine ⟨fun hk => ?_, fun hk => ?_, fun h1 h2 => ?_⟩
    · have harm : exec (.arm part n .taken) s = .next (t.armSlot part m) :=
        congrArg Host.Outcome.next ((State.command_taken ht (by simp [hk, n]) hq).trans (State.message_arm hk))
      rw [harm]
      refine ⟨fun hr => ?_, fun hr hc => ?_, fun hr hc hdesc => ?_, fun hr hc hdesc => ?_⟩
      · rw [State.armSlot_reserved hr]
      · rw [State.armSlot_unusable hr hc]
      · simp only [State.armSlot_binds hr hc, Slot.bind_disarms _ hdesc, n]
      · simp only [State.armSlot_binds hr hc, Slot.bind_arms _ hdesc, n]
    · have hfire : exec (.fire part n .taken) s = .next (t.fireMessage part m) :=
        congrArg Host.Outcome.next ((State.command_taken ht (by simp [hk, n]) hq).trans (State.message_fire hk))
      rw [hfire]
      refine ⟨fun hr => ?_, fun hr ha => ?_, fun hr ha hw => ?_, fun hr ha hw => ?_⟩
      · rw [State.fireMessage_reserved hr]
      · rw [State.fireMessage_valid hr, State.fireSlot_disarmed 2 false ha]
      · rw [State.fireMessage_valid hr, State.fireSlot_full 2 false ha hw]
      · rw [State.fireMessage_valid hr, State.fireSlot_fires 2 false ha hw]
    · exact congrArg Host.Outcome.next
        ((State.command_taken ht (by simp [h1, h2]) hq).trans (State.message_reservedKind h1 h2))
  -- traffic of a peer
  · intro tenant
    refine ⟨fun h hs hp ht => ?_, fun hp ht => ?_, fun hs hp ht => ?_, fun hp ht => ?_, fun c n hk hc hport => ?_⟩
    · exact congrArg Host.Outcome.next ((State.peerTraffic_signal hu hh hd hp k a dec).trans (State.peerSignal_home ht))
    · exact congrArg Host.Outcome.next ((State.peerTraffic_signal hu hh hd hp k a dec).trans (State.peerSignal_absent ht))
    · exact congrArg Host.Outcome.next ((State.peerTraffic_data hu hh hd hp k first a bs).trans (State.peerData_home ht))
    · exact congrArg Host.Outcome.next ((State.peerTraffic_data hu hh hd hp k first a bs).trans (State.peerData_absent ht))
    · have hcopy := State.peerCopy_eq hk hc hport
      exact ⟨congrArg Host.Outcome.next ((State.peerTraffic_refused hu hh hd k a).trans (State.peerRefused_fails hcopy a)),
        fun ha => congrArg Host.Outcome.next
          ((State.peerTraffic_landed hu hh hd k first 0).trans (State.peerLanded_signal hcopy first ha)),
        fun hn hl => congrArg Host.Outcome.next
          ((State.peerTraffic_landed hu hh hd k first n).trans (State.peerLanded_elements hcopy hn hl))⟩

end Sys2Proof.Machine
end

section
/-!
Instructions that write predicates or registers of each fibre at once, CMPP (O2), PERM and SHFL (O5), WELF and WMERGE (O4), CLZ (O50);
NOP and YIELD (O16).
-/
namespace Sys2Proof.Machine

/-! ### CMPP (R255, R256) -/

theorem Instr.sem_of_cmppOf {i : Instr} {g : Arg} (h : cmppOf i = some g) : i.sem = some (semCmpp g) ∧ i.size = g.size := by
  cases i <;> dsimp only [cmppOf] at h <;> cases h <;> exact ⟨rfl, rfl⟩

/-- Settles O2: the checks find nothing, and the effect sets the predicate. -/
theorem compareResult : Obligations.CompareResult := by
  intro i g s h ⟨hi, hr, hw, hl⟩ ht
  obtain ⟨c, hcur⟩ := hi.cur
  obtain ⟨hsem, hsize⟩ := Instr.sem_of_cmppOf h
  have hopds : [g.srcA, g.srcB].flatMap Src.opds = g.srcA.opds ++ g.srcB.opds := by simp
  rw [hsize]
  exact exec_simple hsem hcur (State.static_none hr (hopds ▸ hw)) (State.check_none (hopds ▸ hl) ht.format)

/-! ### PERM and SHFL (R298, R299, R312) -/

theorem Instr.sem_of_permOf {i : Instr} {g : Arg} (h : permOf i = some g) : i.sem = some (semPerm g) ∧ i.size = g.size := by
  cases i <;> dsimp only [permOf] at h <;> cases h <;> exact ⟨rfl, rfl⟩

theorem Instr.sem_of_shflOf {i : Instr} {g : Arg} (h : shflOf i = some g) : i.sem = some (semShfl g) ∧ i.size = g.size := by
  cases i <;> dsimp only [shflOf] at h <;> cases h <;> exact ⟨rfl, rfl⟩

/-- A register of PERM's table as a fibre reads it. -/
theorem permTable_values (c : Crew) (ln : Lane) (g : Arg) :
    (permTable g).map (fun o => match o with | .v n => (ln.readV n).val | .u n => (c.uni n).val) =
      (permTable g).map (fun o => (readOne c ln o).val) :=
  List.map_congr_left fun o _ => by cases o <;> rfl

/-- Settles O5, PERM and then SHFL, each by its effect. -/
theorem crossLaneResult : Obligations.CrossLaneResult := by
  refine ⟨fun i g s h ⟨hi, hr, hw, hl⟩ => ?_, fun i g s h hi hr hw hl hsrc => ?_⟩ <;> obtain ⟨c, hcur⟩ := hi.cur
  · obtain ⟨hsem, hsize⟩ := Instr.sem_of_permOf h
    rw [hsize, exec_simple hsem hcur (State.static_none hr hw) hl.none]
    refine congrArg (fun lanes => Host.Outcome.next ((s.modWave s.ctx.cur.wave (fun w => w.mapLanes (s.ctx.act g.m) lanes)).advance g.size))
      (funext fun _ => funext fun ln => ?_)
    exact congrArg (fun vs => ln.writeV g.d (Reg.done (permWord vs (g.srcB.read s.ctx.crew ln .raw).val) .raw))
      (permTable_values s.ctx.crew ln g)
  · obtain ⟨hsem, hsize⟩ := Instr.sem_of_shflOf h
    rw [hsize]
    exact exec_simple hsem hcur (State.static_none hr hw) (State.check_none hl (laneFault_none fun l hl32 ha => by simp [hsrc l hl32 ha]))

/-! ### WELF and WMERGE (R329, R330) -/

theorem Instr.sem_of_welfOf {i : Instr} {g : Arg} (h : welfOf i = some g) : i.sem = some (semWelf g) ∧ i.size = g.size := by
  cases i <;> dsimp only [welfOf] at h <;> cases h <;> exact ⟨rfl, rfl⟩

/-- A triple of the tags R329 asks for. -/
theorem tripleTags_none {n mu mm : Tag} (hn : n = .n32) (hmu : mu = .f32) (hmm : mm = .f32) : ∀ o ∈ tripleTags [n, mu, mm], o = none := by
  subst hn hmu hmm
  decide

/-- Settles O4, WELF and then both forms of WMERGE. -/
theorem tripleResult : Obligations.TripleResult := by
  refine ⟨fun i g s h ⟨hi, hr, hw, hl⟩ ht => ?_, fun f s ⟨hi, hr, hw, hl⟩ ht ha => ?_⟩ <;> obtain ⟨c, hcur⟩ := hi.cur
  · obtain ⟨hsem, hsize⟩ := Instr.sem_of_welfOf h
    rw [hsize]
    refine exec_simple hsem hcur (State.static_none hr hw) (State.check_none hl (formatFault_none fun l hl32 hact => ?_))
    obtain ⟨hx, hn, hmu, hmm⟩ := ht l hl32 hact
    exact firstTag_none (List.forall_mem_cons.mpr ⟨by simp [hx, oneTag], tripleTags_none hn hmu hmm⟩)
  · have hx : exec (.wmerge f) s = .next (((semWmerge f.arg).eff s).advance 3) := by
      refine exec_simple rfl hcur (State.static_none hr hw) (State.check_none hl (formatFault_none fun l hl32 hact => ?_))
      obtain ⟨ha0, hb0, ha1, ha2, hb1, hb2⟩ := ht l hl32 hact
      exact firstTag_none fun o ho => (mem_groupOrder ho).elim (tripleTags_none ha0 ha1 ha2 o) (tripleTags_none hb0 hb1 hb2 o)
    rw [hx]
    refine ⟨fun hu => ?_, fun hu => ?_⟩
    · have hu : (f.arg.m.au && f.arg.m.bu) = true := hu
      simp [semWmerge, Sem.simple, hu, ha]
    · have hu : (f.arg.m.au && f.arg.m.bu) = false := hu
      simp [semWmerge, Sem.simple, hu]

/-! ### CLZ (R254) -/

/-- Above the highest one bit every bit is zero, and that bit is one. -/
theorem clzWord_spec (w : Word) : clzWord w ≤ 32 ∧ (∀ i, i < 32 → w.getLsbD i = true → i < 32 - clzWord w) ∧
    (clzWord w < 32 → w.getLsbD (31 - clzWord w) = true) := by
  by_cases h0 : w = 0#32
  · simp [clzWord, h0]
  · have hne : w.toNat ≠ 0 := fun h => h0 (BitVec.eq_of_toNat_eq h)
    have hlog : w.toNat.log2 < 32 := (Nat.log2_lt hne).mpr w.isLt
    have hclz : clzWord w = 31 - w.toNat.log2 := by simp [clzWord, h0]
    refine ⟨by omega, fun i _ hbit => ?_, fun _ => ?_⟩
    · have : i ≤ w.toNat.log2 := (Nat.le_log2 hne).mpr (Nat.ge_two_pow_of_testBit hbit)
      omega
    · have : 31 - clzWord w = w.toNat.log2 := by omega
      rw [this]
      exact Nat.testBit_log2 hne

/-- An instruction of one source takes the uniform form where that source is a uniform register (R42). -/
theorem uniformForm_srcA (f : Ext) : uniformForm f.arg [f.arg.srcA] = f.m.au := by
  cases h : f.m.au <;> simp [uniformForm, Arg.srcA, Ext.arg, h, Src.isV]

/-- Settles O50: CLZ is an instruction of one result register. -/
theorem countRule : Obligations.CountRule := by
  refine ⟨fun f => ⟨rfl, rfl⟩, clzWord_spec, by decide, by decide, by decide, fun f s hc ha => ?_⟩
  have huni := uniformForm_srcA f
  have hopds : RegOp.opds (frame1 f.arg anyTags (fun _ _ a => BitVec.ofNat 32 (clzWord a)) n32Tag) =
      f.arg.srcA.opds ++ [if f.m.au then .u f.arg.d else .v f.arg.d] := by
    simp [RegOp.opds, frame1, huni]
  rw [registerResult (.clz f) _ s rfl (hopds ▸ hc) (fun _ _ _ => rfl)]
  simp only [frame1, huni, if_neg ha]
  rfl

/-! ### NOP and YIELD (R296, R333) -/

theorem Instr.sem_of_yieldOf {i : Instr} {g : Arg} (h : yieldOf i = some g) : i.sem = some (semYield g) ∧ i.size = g.size := by
  cases i <;> dsimp only [yieldOf] at h <;> cases h <;> exact ⟨rfl, rfl⟩

/-- Without fibres in the clause none is active. -/
theorem Ctx.act_of_no_lanes {x : Ctx} (m : Mods) (h : x.cur.lanes = 0#32) : x.act m = 0#32 := by
  unfold Ctx.act activeLanes
  split
  · exact laneSet_none fun l _ => by simp [h]
  · exact h

/-- Settles O16: the effect of YIELD marks the clause, whose end has the wave let the others by. -/
theorem nopAndYield : Obligations.NopAndYield := by
  refine ⟨fun s hi => ?_, fun i g s h hi => ?_⟩ <;> obtain ⟨c, hcur⟩ := hi.cur
  · exact exec_simple (i := .nop) rfl hcur rfl rfl
  · obtain ⟨hsem, hsize⟩ := Instr.sem_of_yieldOf h
    have hctx : s.ctx.cur = c := by simp [State.ctx, State.ctxOf, hcur]
    have hx : exec i s = .next (((semYield g).eff s).advance i.size) := hsize ▸ exec_simple hsem hcur rfl rfl
    have hmarks (ha : s.Active g) : (semYield g).eff s = { s with cur := some { c with yielded := true } } := by
      simp [semYield, Sem.simple, ha, hcur]
    refine ⟨fun ha => ⟨by rw [hx, hmarks ha, hctx], fun hlast => ?_⟩, fun ha => ?_⟩
    · have hlanes : c.lanes ≠ 0#32 := fun h0 => ha (Ctx.act_of_no_lanes g.m (hctx ▸ h0))
      rw [hx, hmarks ha, State.advance_last (c := { c with yielded := true }) rfl hlanes (hctx ▸ hlast)]
      simp only [State.endClause, hctx]
      rfl
    · have h0 : s.ctx.act g.m = 0#32 := not_not.mp ha
      rw [hx]
      simp [semYield, Sem.simple, h0]

end Sys2Proof.Machine
end

section
/-!
Instructions that issue long-latency operations from registers, and those that change where fibres stand: SFU (O7), SPUSH and SPOP (O8),
BRA, BRX, CALL, RET and BRC (O12).
-/
namespace Sys2Proof.Machine

/-! ### Holding at a full flag (R51) -/

/-- An instruction that waits for its flag alone goes on while the flag is free, and its clause holds there while it is full. -/
theorem exec_flag {i : Instr} {m : Sem} {g : Arg} {s : State} (hi : i.sem = some m) (hissue : s.Issuing) (hf : m.fault s = none)
    (hw : m.wait s = if s.ctx.flagFull g.m.fsel then .hold s else .go) (he : m.entries s = 0) :
    (s.FlagFree g.m.fsel → exec i s = .next ((m.eff s).advance m.size)) ∧ (¬ s.FlagFree g.m.fsel → exec i s = .next s.held) := by
  obtain ⟨c, hcur⟩ := hissue.cur
  refine ⟨fun hfree => exec_go hi hcur hf (by rw [hw, if_neg (by simp [hfree])]), fun hfull => ?_⟩
  rw [exec_hold hi hcur hf (by rw [hw, if_pos (by simpa using hfull)]), he, State.takeEntries_zero, State.holdClause_eq hcur]

/-! ### SFU (R310, R311) -/

theorem Instr.sem_of_sfuOf {i : Instr} {g : Arg} (h : sfuOf i = some g) : i.sem = some (semSfu g) ∧ i.size = g.size := by
  cases i <;> dsimp only [sfuOf] at h <;> cases h <;> exact ⟨rfl, rfl⟩

/-- With a fibre active the operation is issued. -/
theorem semSfu_eff {g : Arg} {s : State} (ha : s.Active g) : (semSfu g).eff s = s.issued g id ((laneList (s.ctx.act g.m)).map (fun l =>
    let ln := s.ctx.wave.lane l
    let r := g.srcA.read s.ctx.crew ln .raw
    .lane l (ln.wb + g.d) (sfuWord r.tag g.m.ftz (g.b % 16) r.val) r.tag)) := by
  simp only [semSfu, beq_iff_eq, if_neg ha]
  rfl

/-- Settles O7: the tag of the source is one of the two allowed, and the flag decides. -/
theorem functionIssues : Obligations.FunctionIssues := by
  intro i g s h ⟨hi, hr, hw, hl⟩ ht ha
  obtain ⟨hsem, hsize⟩ := Instr.sem_of_sfuOf h
  have htag : s.OnLanes (s.ctx.act g.m) (fun ln =>
      sameTags (fun t => t == .f32 || t == .f16x2) [(g.srcA.read s.ctx.crew ln .raw).tag] = none) := fun l hl32 hact => by
    obtain h | h := ht l hl32 hact <;> simp [h, sameTags]
  have hf : (semSfu g).fault s = none := Sem.fault_none (State.static_none hr hw) (State.check_none hl htag.format)
  have hwait : (semSfu g).wait s = if s.ctx.flagFull g.m.fsel then .hold s else .go := by simp [semSfu, ha]
  rw [hsize, ← semSfu_eff ha]
  exact exec_flag hsem hi hf hwait rfl

/-! ### The spill stack (R315, R90) -/

theorem Instr.sem_of_spushOf {i : Instr} {g : Arg} (h : spushOf i = some g) : i.sem = some (semSpush g) ∧ i.size = g.size := by
  cases i <;> dsimp only [spushOf] at h <;> cases h <;> exact ⟨rfl, rfl⟩

theorem Instr.sem_of_spopOf {i : Instr} {g : Arg} (h : spopOf i = some g) : i.sem = some (semSpop g) ∧ i.size = g.size := by
  cases i <;> dsimp only [spopOf] at h <;> cases h <;> exact ⟨rfl, rfl⟩

/-- No stack of an active fibre is too full, or too empty. -/
theorem State.OnLanes.spill {s : State} {act : Lanes} {bad : Lane → Bool} (h : s.OnLanes act (fun ln => bad ln = false)) :
    spillFault s.ctx act bad = none :=
  laneFault_none fun l hl ha => by simp [h l hl ha]

/-- With a fibre active the top entries are on their way. -/
theorem semSpop_eff {g : Arg} {s : State} (ha : s.Active g) :
    (semSpop g).eff s = s.issued g (fun ln => { ln with spill := ln.spill.take (ln.spill.length - 1) })
      ((laneList (s.ctx.act g.m)).map (fun l =>
        .lane l ((s.ctx.wave.lane l).wb + g.d) ((s.ctx.wave.lane l).top 0) (tagOf (g.b / 16)))) := by
  simp only [semSpop, beq_iff_eq, if_neg ha]
  rfl

/-- Settles O8, SPUSH by its effect, SPOP by its flag. -/
theorem spillResult : Obligations.SpillResult := by
  refine ⟨fun i g s h ⟨hi, hr, hw, hl⟩ hroom => ?_, fun i g s h ⟨hi, hr, hw, hl⟩ hsome ha => ?_⟩
  · obtain ⟨c, hcur⟩ := hi.cur
    obtain ⟨hsem, hsize⟩ := Instr.sem_of_spushOf h
    have hfits : s.OnLanes (s.ctx.act g.m) (fun ln => decide (s.ctx.crew.spillMax ≤ ln.spill.length) = false) :=
      fun l hl32 hact => by simpa using hroom l hl32 hact
    rw [hsize]
    exact exec_simple hsem hcur (State.static_none hr hw) (State.check_none hl hfits.spill)
  · obtain ⟨hsem, hsize⟩ := Instr.sem_of_spopOf h
    have hfull : s.OnLanes (s.ctx.act g.m) (fun ln => ln.spill.isEmpty = false) :=
      fun l hl32 hact => by simpa using hsome l hl32 hact
    have hf : (semSpop g).fault s = none := Sem.fault_none (State.static_none hr hw) (State.check_none hl hfull.spill)
    have hwait : (semSpop g).wait s = if s.ctx.flagFull g.m.fsel then .hold s else .go := by simp [semSpop, ha]
    rw [hsize, ← semSpop_eff ha]
    exact exec_flag hsem hi hf hwait rfl

/-! ### Transfers (R247, R248, R250, R253, R305) -/

section
variable {s : State} {g : Arg} (hi : s.Issuing) (hr : s.HasRole rolesAll)
include hi hr

theorem exec_bra {i : Instr} {off : Word} (hsem : i.sem = some (semBra g off)) :
    exec i s = .next ((s.transfer (s.ctx.act g.m) (fun _ ln => { ln with pc := s.here + off })).advance g.size) := by
  obtain ⟨c, hcur⟩ := hi.cur
  exact exec_simple hsem hcur hr.none rfl

/-- CALL needs room on the stack and in the register window. -/
theorem exec_call {i : Instr} {off : Word} (hsem : i.sem = some (semCall g off))
    (hok : s.OnLanes (s.ctx.act g.m) (fun ln => ln.wb + g.c < s.ctx.crew.nreg ∧ ln.spill.length + 2 ≤ s.ctx.crew.spillMax)) :
    exec i s = .next ((s.transfer (s.ctx.act g.m) (fun _ ln =>
      { (ln.push (s.here + BitVec.ofNat 32 g.size)).push (BitVec.ofNat 32 ln.wb) with
        wb := ln.wb + g.c, pc := s.here + off })).advance g.size) := by
  obtain ⟨c, hcur⟩ := hi.cur
  have hfits : s.OnLanes (s.ctx.act g.m) (fun ln =>
      (decide (s.ctx.crew.nreg ≤ ln.wb + g.c) || decide (s.ctx.crew.spillMax < ln.spill.length + 2)) = false) :=
    fun l hl32 hact => by simpa using hok l hl32 hact
  exact exec_simple hsem hcur hr.none hfits.spill

/-- RET needs two entries, the upper one a window base. -/
theorem exec_ret {i : Instr} (hsem : i.sem = some (semRet g))
    (hok : s.OnLanes (s.ctx.act g.m) (fun ln =>
      2 ≤ ln.spill.length ∧ (ln.top 0).extractLsb' 0 2 = 0#2 ∧ (ln.top 0).toNat < s.ctx.crew.nreg)) :
    exec i s = .next ((s.transfer (s.ctx.act g.m) (fun _ ln =>
      { ln.pop 2 with wb := (ln.top 0).toNat, pc := ln.top 1 })).advance g.size) := by
  obtain ⟨c, hcur⟩ := hi.cur
  have hfits : s.OnLanes (s.ctx.act g.m) (fun ln => (decide (ln.spill.length < 2) || (ln.top 0).extractLsb' 0 2 != 0#2 ||
      decide (s.ctx.crew.nreg ≤ (ln.top 0).toNat)) = false) := fun l hl32 hact => by
    obtain ⟨h2, hbase, hreg⟩ := hok l hl32 hact
    simp [hbase, Nat.not_lt_of_le h2, hreg]
  exact exec_simple hsem hcur hr.none hfits.spill

end

/-- Settles O12, one instruction after the other. -/
theorem transferResult : Obligations.TransferResult := by
  refine ⟨fun i g pc s h hi hr hw hok => ?_, fun off neg p s hi hr => ?_⟩
  · cases i with
    | bra off => cases h; exact exec_bra hi hr rfl
    | braExt f => cases h; exact exec_bra hi hr rfl
    | brx f =>
      cases h
      obtain ⟨c, hcur⟩ := hi.cur
      have hl : s.Landed f.arg f.arg.srcA.opds := hok
      exact exec_simple (i := .brx f) rfl hcur (State.static_none hr hw) hl.none
    | call off => cases h; exact exec_call hi hr rfl hok
    | callExt f => cases h; exact exec_call hi hr rfl hok
    | ret => cases h; exact exec_ret hi hr rfl hok
    | retExt f => cases h; exact exec_ret hi hr rfl hok
    | _ => cases h
  · obtain ⟨c, hcur⟩ := hi.cur
    exact exec_simple (i := .brc off neg p) rfl hcur hr.none rfl

end Sys2Proof.Machine
end

section
/-!
Tiles and local memory: TLD and TST (O28), TRD and TWR (O29).
-/
namespace Sys2Proof.Machine

/-! ### Moving a tile (R321, R322) -/

section
variable {s : State} {g : Arg} {n c o : Nat}

/-- A tile of the crew without an error, at a sound place: the checks that TLD and TST share find nothing. -/
theorem tileMoveFaults_none (act : Lanes) (hn : s.TileWaits n) (hat : s.TileAt g c o) :
    ∀ p ∈ tileMoveFaults s s.ctx act g n, p = none := by
  obtain ⟨hlt, herror⟩ := hn
  obtain ⟨halign, hplace⟩ := hat
  simp only [tileMoveFaults, List.mem_cons, List.not_mem_nil, or_false, forall_eq_or_imp, forall_eq]
  exact ⟨onceFault_none (by simpa using hlt), onceFault_none (by simp [halign]), onceFault_none (by simp [hplace]), tileError_none herror⟩

/-- What a bulk access waits for, as its two cases. -/
theorem State.bulkWait_hold {wave : Nat} {act : Lanes} {runs : List (VAddr × Nat)}
    (h : ∃ r ∈ runs, (s.bulkCaught wave act runs).waitsAt wave act r.1 r.2 = true) :
    s.bulkWait wave act runs = .hold (s.bulkCaught wave act runs) := by
  simp only [State.bulkWait, List.any_eq_true.mpr h, if_true]

theorem State.bulkWait_go {wave : Nat} {act : Lanes} {runs : List (VAddr × Nat)}
    (h : ¬ ∃ r ∈ runs, (s.bulkCaught wave act runs).waitsAt wave act r.1 r.2 = true) : s.bulkWait wave act runs = .go := by
  simp only [State.bulkWait, mt List.any_eq_true.mp h, if_false, Bool.false_eq_true]

theorem semTld_fault (hr : s.Ready g rolesGV [.u g.a]) (hn : s.TileWaits g.d) (hat : s.TileAt g c o) : (semTld g).fault s = none := by
  obtain ⟨-, hrole, hl, -⟩ := hr
  exact Sem.fault_none hrole.none
    (firstFault_eq_none (List.forall_mem_cons.mpr ⟨hl.none, tileMoveFaults_none _ hn hat⟩))

/-- The tag of the tile stored is the one TST names, where it names one. -/
theorem semTst_fault (hr : s.Ready g rolesGV [.u g.a]) (hn : s.TileWaits g.b) (hat : s.TileAt g c o)
    (ht : tileTag g = .raw ∨ (s.ctx.wave.tile g.b).tag = tileTag g) : (semTst g).fault s = none := by
  obtain ⟨-, hrole, hl, -⟩ := hr
  refine Sem.fault_none hrole.none (firstFault_eq_none
    (List.forall_mem_cons.mpr ⟨hl.none, List.forall_mem_cons.mpr ⟨formatFault_none fun l _ _ => ?_, tileMoveFaults_none _ hn hat⟩⟩))
  obtain hraw | htag := ht
  · simp [hraw]
  · simp [htag, oneTag]

/-- TLD waits for its tile, then for accesses it must follow. -/
theorem semTld_wait (hat : s.TileAt g c o) : (semTld g).wait s =
    tileWait s.ctx (s.ctx.act g.m) g.d (s.bulkWait s.ctx.cur.wave (s.ctx.act g.m) (tileRuns (.loc c o))) := by
  obtain ⟨-, hplace⟩ := hat
  simp only [semTld, tldWait, hplace]

/-- TST waits for its tile, then for the rows it writes, then for accesses it must follow. -/
theorem semTst_wait (hat : s.TileAt g c o) : (semTst g).wait s =
    tileWait s.ctx (s.ctx.act g.m) g.b (if s.anyPinned ((List.range 16).map (fun i => (c, o / 128 + i))) then
      .park (s.ctx.act g.m) (.pinned ((List.range 16).map (fun i => (c, o / 128 + i))))
      else s.bulkWait s.ctx.cur.wave (s.ctx.act g.m) (tileRuns (.loc c o))) := by
  obtain ⟨-, hplace⟩ := hat
  simp only [semTst, hplace]

theorem semTld_idle {t : State} (h : t.ctx.act g.m = 0#32) : (semTld g).eff t = t := by
  simp [semTld, h]

theorem semTst_idle {t : State} (h : t.ctx.act g.m = 0#32) : (semTst g).eff t = t := by
  simp [semTst, h]

end

/-- Element i of a tile read from memory, in rows or in columns. -/
theorem tileWord_eq (t : State) (g : Arg) (c o i : Nat) :
    (let (p, q) := if tileCols g then (i % 16, i / 16) else (i / 16, i % 16)
     t.lmemWord c (o + 128 * p + 4 * q)) =
    if tileCols g then t.lmemWord c (o + 128 * (i % 16) + 4 * (i / 16)) else t.lmemWord c (o + 128 * (i / 16) + 4 * (i % 16)) := by
  cases tileCols g <;> rfl

/-- An instruction that takes no transactions holds its clause. -/
theorem exec_holdFree {i : Instr} {m : Sem} {s t : State} {c : Cursor} (hi : i.sem = some m) (hc : s.cur = some c) (hf : m.fault s = none)
    (he : m.entries s = 0) (hw : m.wait s = .hold t) : exec i s = .next t.holdClause := by
  rw [exec_hold hi hc hf hw, he, State.takeEntries_zero]

/-- Settles O28: TLD, then TST, at a tile that waits, at pinned rows, behind earlier accesses, and when nothing makes them wait. -/
theorem tileMemoryResult : Obligations.TileMemoryResult := by
  refine ⟨fun f c o s hr hn hat => ?_, fun f c o s hr hn hat ht => ?_⟩ <;>
    obtain ⟨hi, -, -, ha⟩ := id hr <;> obtain ⟨cur, hcur⟩ := hi.cur
  · have hsem : (Instr.tld f).sem = some (semTld f.arg) := rfl
    have hf := semTld_fault hr hn hat
    have hw := semTld_wait hat
    refine ⟨fun hp => ?_, fun hp hb => ?_, fun hp hb => ?_⟩
    · exact exec_parkActive (m := semTld f.arg) hsem hi hf (hw.trans (tileWait_pend ha hp _)) (by simp) fun _ => semTld_idle
    · exact exec_holdFree (m := semTld f.arg) hsem hcur hf rfl (hw.trans ((tileWait_landed ha hp _).trans (State.bulkWait_hold hb)))
    · rw [exec_go hsem hcur hf (hw.trans ((tileWait_landed ha hp _).trans (State.bulkWait_go hb)))]
      have hplace : tilePlace s s.ctx f.arg = some (.loc c o) := hat.2
      simp only [semTld, beq_iff_eq, if_neg ha, hplace]
      exact congrArg (fun word => Host.Outcome.next (State.advance (State.modWave _ _ (fun w => w.setTile f.arg.d (fun q => { q with
        tag := tileTag f.arg, elems := (List.range 256).map word }))) 3)) (funext (tileWord_eq _ f.arg c o))
  · have hsem : (Instr.tst f).sem = some (semTst f.arg) := rfl
    have hf := semTst_fault hr hn hat ht
    have hw := semTst_wait hat
    refine ⟨fun hp => ?_, fun hp hpin => ?_, fun hp hpin hb => ?_, fun hp hpin hb => ?_⟩
    · exact exec_parkActive (m := semTst f.arg) hsem hi hf (hw.trans (tileWait_pend ha hp _)) (by simp) fun _ => semTst_idle
    · exact exec_parkActive (m := semTst f.arg) hsem hi hf (hw.trans ((tileWait_landed ha hp _).trans (if_pos hpin))) (by simp) fun _ => semTst_idle
    · exact exec_holdFree (m := semTst f.arg) hsem hcur hf rfl (hw.trans ((tileWait_landed ha hp _).trans
        ((if_neg (Bool.eq_false_iff.mp hpin)).trans (State.bulkWait_hold hb))))
    · rw [exec_go hsem hcur hf (hw.trans ((tileWait_landed ha hp _).trans
        ((if_neg (Bool.eq_false_iff.mp hpin)).trans (State.bulkWait_go hb))))]
      have hplace : tilePlace s s.ctx f.arg = some (.loc c o) := hat.2
      simp only [semTst, beq_iff_eq, if_neg ha, hplace]
      rfl

/-! ### Rows of a tile (R323) -/

section
variable {s : State} {g : Arg} {n : Nat}

/-- Two rows of a tile of the crew without an error. -/
theorem tileRowFaults_none (act : Lanes) (hn : s.TileWaits n) (hrow : tileRow s.ctx g + 2 ≤ 16) :
    ∀ p ∈ tileRowFaults s s.ctx act g n, p = none := by
  obtain ⟨hlt, herror⟩ := hn
  simp only [tileRowFaults, List.mem_cons, List.not_mem_nil, or_false, forall_eq_or_imp, forall_eq]
  exact ⟨onceFault_none (by simp [hlt, hrow]), tileError_none herror⟩

theorem semTrd_fault (hc : s.Clear g rolesGV (rowOpds g ++ [.v g.d])) (hn : s.TileWaits g.a) (hrow : tileRow s.ctx g + 2 ≤ 16) :
    (semTrd g).fault s = none := by
  obtain ⟨-, hr, hw, hl⟩ := hc
  exact Sem.fault_none (State.static_none hr hw) (firstFault_eq_none (List.forall_mem_cons.mpr ⟨hl.none, tileRowFaults_none _ hn hrow⟩))

/-- The active fibres give elements of one tag. -/
theorem semTwr_fault {t : Tag} (hc : s.Clear g rolesGV (rowOpds g ++ [.v g.a])) (ha : s.Active g) (hn : s.TileWaits g.d)
    (hrow : tileRow s.ctx g + 2 ≤ 16) (ht : s.OnLanes (s.ctx.act g.m) (fun ln => (ln.readV g.a).tag = t)) : (semTwr g).fault s = none := by
  obtain ⟨-, hr, hw, hl⟩ := hc
  refine Sem.fault_none (State.static_none hr hw) (firstFault_eq_none
    (List.forall_mem_cons.mpr ⟨hl.none, List.forall_mem_cons.mpr ⟨formatFault_none fun l hl32 hact => ?_, tileRowFaults_none _ hn hrow⟩⟩))
  simp [oneTag, ht l hl32 hact, ht.lowest ha]

theorem mapIdx_snd {α : Type} (t : List α) : t.mapIdx (fun _ x => x) = t :=
  List.ext_getElem (by simp) (by simp)

/-- TRD without an active fibre changes no lane. -/
theorem semTrd_idle {t : State} (h : t.ctx.act g.m = 0#32) : (semTrd g).eff t = t := by
  have hid (f : Nat → Lane → Lane) (w : Wave) : w.mapLanes 0#32 f = w := by simp [Wave.mapLanes, mapIdx_snd]
  simp only [semTrd, h, hid, State.modWave, change_of_id (fun _ => rfl)]

theorem semTwr_idle {t : State} (h : t.ctx.act g.m = 0#32) : (semTwr g).eff t = t := by
  simp [semTwr, h]

end

/-- Settles O29: TRD, then TWR, at a tile that waits and at one that does not. -/
theorem tileRowResult : Obligations.TileRowResult := by
  refine ⟨fun f s hc hn hrow => ?_, fun f t s hc ha hn hrow ht => ?_⟩ <;> obtain ⟨hi, -⟩ := id hc <;> obtain ⟨cur, hcur⟩ := hi.cur
  · have hsem : (Instr.trd f).sem = some (semTrd f.arg) := rfl
    have hf := semTrd_fault hc hn hrow
    refine ⟨fun hp ha => ?_, fun hp => exec_go hsem hcur hf ?_⟩
    · exact exec_parkActive (m := semTrd f.arg) hsem hi hf (tileWait_pend ha hp _) (by simp) fun _ => semTrd_idle
    · by_cases ha : s.Active f.arg
      · exact tileWait_landed ha hp _
      · exact if_pos (by simpa using ha)
  · have hsem : (Instr.twr f).sem = some (semTwr f.arg) := rfl
    have hf := semTwr_fault hc ha hn hrow ht
    refine ⟨fun hp => ?_, fun hp => ?_⟩
    · exact exec_parkActive (m := semTwr f.arg) hsem hi hf (tileWait_pend ha hp _) (by simp) fun _ => semTwr_idle
    · have htag : ((s.ctx.wave.lane (lowestLane (s.ctx.act f.arg.m))).readV f.arg.a).tag = t := ht.lowest ha
      rw [exec_go hsem hcur hf (tileWait_landed ha hp _)]
      simp only [semTwr, beq_iff_eq, if_neg ha, htag]
      rfl

end Sys2Proof.Machine
end

section
/-!
TRAP (O36): the record that follows the fibres' own accesses, and the fault that stops the gang.
-/
namespace Sys2Proof.Machine

/-! ### An access issued under a new name -/

/-- A name past all others in a list finds the entry put there last. -/
theorem look_append_new {α : Type} {k : Nat} {a : α} {t : List (Nat × α)} (h : ∀ e ∈ t, e.1 < k) : look k (t ++ [(k, a)]) = some a := by
  induction t with
  | nil => simp [look]
  | cons e t ih =>
    obtain ⟨he, ht⟩ := List.forall_mem_cons.mp h
    simpa [look, Nat.ne_of_lt he] using ih ht

/-- Without that entry the list is the old one. -/
theorem drop_append_new {α : Type} {k : Nat} {a : α} {t : List (Nat × α)} (h : ∀ e ∈ t, e.1 < k) : drop k (t ++ [(k, a)]) = t := by
  have hkeep : t.filter (fun e => e.1 != k) = t := List.filter_eq_self.mpr fun e he => by simp [Nat.ne_of_lt (h e he)]
  simp [drop, List.filter_append, hkeep]

/-! ### An access of no bytes in local memory -/

/-- No bytes meet others. -/
theorem VAddr.meets_zero (x y : VAddr) (n : Nat) : x.meets n y 0 = false := by
  simp [VAddr.meets]

/-- Local memory lies in no line of physical memory. -/
theorem State.sameLine_loc (s : State) (c d e o : Nat) (x : VAddr) : s.sameLine c x d (.loc e o) = false := by
  have : s.lineOf d (.loc e o) = none := by simp [State.lineOf, State.home?]
  unfold State.sameLine
  split <;> simp [this]

/-- An access in local memory follows none of its core's (R110). -/
theorem State.behindCore_loc (s : State) (k op crew c o : Nat) : s.behindCore k op crew (.loc c o) = false := by
  simp [State.behindCore, State.sameLine_loc]

/-- What a release of system scope need not follow, no access of no bytes follows. -/
theorem State.blocked_of_released {s : State} {k wave : Nat} {m : Lanes} {fs : List Nat} {x : VAddr} (h : s.unreleased k wave m fs 4 = false) :
    s.blocked k wave m fs x 0 = false := by
  have hcovers (y : VAddr) : scopeCovers 4 y = true := by cases y <;> rfl
  simp only [State.unreleased, hcovers, Bool.and_true, Bool.or_eq_false_iff] at h
  simp only [State.blocked, VAddr.meets_zero, Bool.or_false, Bool.and_false, Bool.or_eq_false_iff]
  refine ⟨List.any_eq_false.mpr fun e he hb => ?_, List.any_eq_false.mpr fun e _ hb => ?_⟩
  · obtain ⟨hof, -⟩ := Bool.and_eq_true_iff.mp hb
    exact List.any_eq_false.mp h.1 e he hof
  · obtain ⟨-, hload⟩ := Bool.and_eq_true_iff.mp hb
    split at hload <;> cases hload

/-- The access of a TRAP: the record it posts, of the lanes at a cursor. -/
def trapAccess (op wave crew : Nat) (act : Lanes) (fs : List Nat) (what : AccessOp) : Access :=
  { op := op, wave := wave, crew := crew, lane := lowestLane act, lanes := act, fibres := fs, flag := none, scope := 4, rel := true,
    acq := false, what := what, addr := .loc crew 0, ret := none, txns := 0, fault := none }

/-- With nothing to release, the record of a TRAP is posted at once. -/
theorem State.issueAccess_trap {s : State} {wave crew sl : Nat} {act : Lanes} {fs : List Nat} {info : Dword} {pc : Word} {st : Option Bool}
    (hnew : ∀ e ∈ s.accesses, e.1 < s.nextUid) (hfree : s.unreleased s.nextUid wave act fs 4 = false) :
    s.issueAccess (trapAccess s.nextUid wave crew act fs (.trap info sl act pc st)) =
      ({ s with nextUid := s.nextUid + 1 } : State).trapRecord crew wave info sl act pc st := by
  set a := trapAccess s.nextUid wave crew act fs (.trap info sl act pc st) with ha
  have hlook : look s.nextUid (s.addAccess a).accesses = some a := look_append_new hnew
  have hfree' : (s.addAccess a).unreleased s.nextUid wave act fs 4 = false := by
    simpa [State.unreleased, State.addAccess] using hfree
  have hready : (s.addAccess a).accessReady s.nextUid a = true := by
    have hsent : (s.addAccess a).sent s.nextUid a = true := by
      simp only [State.sent, ha, trapAccess, Access.bytes, Option.isNone_none, Bool.true_and]
      rw [← trapAccess, ← ha, hfree', State.blocked_of_released hfree']
      rfl
    have hslack : (s.addAccess a).atSlack a = false := by simp [State.atSlack, ha, trapAccess]
    have hlane : (s.addAccess a).behindLane s.nextUid a.op a.addr a.bytes = false := by
      simp [State.behindLane, ha, trapAccess, Access.bytes, VAddr.meets_zero]
    have hcore : (s.addAccess a).behindCore s.nextUid a.op a.crew a.addr = false := State.behindCore_loc _ _ _ _ crew 0
    have hneeds : a.needs = [] := rfl
    have hhost : (s.addAccess a).overHost a = false := State.overHost_of_not_inTurn rfl
    simp [State.accessReady, State.accessMay, hsent, hslack, hlane, hcore, hneeds, hhost]
  have hbuf : (s.addAccess a).buffersAt a = none := rfl
  rw [State.issueAccess, State.performAccess_ready hlook hready, State.overHost_of_not_inTurn rfl]
  simp only [State.hostServed, Bool.false_eq_true, if_false, State.performDue, hbuf]
  simp only [ha, trapAccess]
  rw [← trapAccess, ← ha]
  simp only [State.addAccess, drop_append_new hnew]

/-! ### TRAP (R209) -/

/-- The registers TRAP names. -/
def trapOpds (g : Arg) : List Opd := if trapVal g then [.v g.a] else []

section
variable {s : State} {g : Arg} (hc : s.Clear g rolesAll (trapOpds g))
include hc

/-- A small number is no fault. -/
theorem semTrap_fault_small (hn : trapNum g < 128) : (semTrap g).fault s = none := by
  obtain ⟨-, hr, hw, hl⟩ := hc
  exact Sem.fault_none (State.static_none hr hw) (State.check_none hl (onceFault_none (by simp [hn])))

/-- A number of 128 or more is one. -/
theorem semTrap_fault_large (ha : s.Active g) (hn : 128 ≤ trapNum g) : (semTrap g).fault s =
    some { cls := .trap, info := trapInfo s.ctx (s.ctx.act g.m) g, addr := 0#64, lanes := s.ctx.act g.m } := by
  obtain ⟨-, hr, hw, hl⟩ := hc
  have hstatic : (semTrap g).static s = none := State.static_none hr hw
  have hcheck : (semTrap g).check s =
      some { cls := .trap, info := trapInfo s.ctx (s.ctx.act g.m) g, addr := 0#64, lanes := s.ctx.act g.m } := by
    have hinflight : inflightFault s.ctx (s.ctx.act g.m) (if trapVal g then [.v g.a] else []) = none := hl.none
    simp [semTrap, Sem.simple, hinflight, onceFault, ha, hn]
  simp [Sem.fault, hstatic, hcheck]

omit hc in
/-- The fault of a TRAP follows the accesses of its fibres. -/
theorem State.meetFault_trap {c : Cursor} {p : Precise} (h : p.cls = .trap) : s.meetFault c p =
    if (s.catchUpLanes c.wave p.lanes).quietLanes c.wave p.lanes then (s.catchUpLanes c.wave p.lanes).takeFault c p 0#32
    else (s.catchUpLanes c.wave p.lanes).trapLater c p := by
  simp [State.meetFault, h]

/-- A TRAP that stops the gang meets its fault at the cursor. -/
theorem exec_trap_large {f : Ext} (hg : f.arg = g) (ha : s.Active g) (hn : 128 ≤ trapNum g) : exec (.trap f) s = .next (s.meetFault s.ctx.cur
    { cls := .trap, info := trapInfo s.ctx (s.ctx.act g.m) g, addr := 0#64, lanes := s.ctx.act g.m }) := by
  obtain ⟨c, hcur⟩ := hc.1.cur
  have hsem : (Instr.trap f).sem = some (semTrap g) := hg ▸ rfl
  have hctx : s.ctx.cur = s.cur.getD Cursor.nil := by simp [State.ctx, State.ctxOf, hcur]
  rw [exec_of_sem s hsem, runSem_of_cur hcur, Sem.step_fault (semTrap_fault_large hc ha hn), hctx]

end

/-- Settles O36: the record of a small number once nothing is left to release, the fault of a large one, and the number in INFO. -/
theorem trapResult : Obligations.TrapResult := by
  intro f s g act info hclear ha t
  obtain ⟨c, hcur⟩ := hclear.1.cur
  have hc : s.Clear f.arg rolesAll (trapOpds f.arg) := hclear
  refine ⟨fun hn hfree hnew => ?_, fun hn => ⟨_, exec_go (m := semTrap f.arg) rfl hcur (semTrap_fault_small hc hn) rfl⟩,
    fun hn hq => ?_, fun hn hq => ?_, ?_⟩
  · rw [exec_go (m := semTrap f.arg) rfl hcur (semTrap_fault_small hc hn) rfl]
    have ha' : s.ctx.act f.arg.m ≠ 0#32 := ha
    simp only [semTrap, Sem.simple, beq_iff_eq, if_neg ha']
    exact congrArg (fun u : State => Host.Outcome.next (u.advance 3)) (State.issueAccess_trap hnew hfree)
  · rw [exec_trap_large hc rfl ha hn, State.meetFault_trap rfl]
    exact congrArg Host.Outcome.next (if_pos hq)
  · rw [exec_trap_large hc rfl ha hn, State.meetFault_trap rfl]
    exact congrArg Host.Outcome.next (if_neg (Bool.eq_false_iff.mp hq))
  · exact BitVec.extractLsb'_append_eq_right

end Sys2Proof.Machine
end

section
/-!
Slices, tenants and quotas (O48).
-/
namespace Sys2Proof.Machine

/-! ### When a tenant is not at rest (R207, R324) -/

/-- A crew of a gang of a tenant that is stopped. -/
def State.crewStopped (s : State) (part tenant crew : Nat) : Bool :=
  ((s.launch (s.gang (s.crew crew).gang).launch).part == part && (s.launch (s.gang (s.crew crew).gang).launch).tenant == tenant) &&
    (s.gang (s.crew crew).gang).phase == .stopped

section
variable {s : State} {part t gang : Nat}

/-- Its gang says so. -/
theorem State.crewStopped_of_gang {crew : Nat} (hg : (s.crew crew).gang = gang) (hphase : (s.gang gang).phase = .stopped)
    (hpart : (s.launch (s.gang gang).launch).part = part) (htenant : (s.launch (s.gang gang).launch).tenant = t) :
    s.crewStopped part t crew = true := by
  simp [State.crewStopped, hg, hphase, hpart, htenant]

theorem State.not_atRest_of_trap (h : ∃ w ∈ s.waitingRecs, w.rec'.cls = .trap ∧ w.rec'.part = part ∧ w.rec'.tenant = t) :
    s.atRest part t = false := by
  obtain ⟨w, hw, hcls, hpart, htenant⟩ := h
  have : s.trapWaits part t = true := List.any_eq_true.mpr ⟨w, hw, by simp [hcls, hpart, htenant]⟩
  simp [State.atRest, this]

/-- A copy of a stopped gang runs on to its end first. -/
theorem State.not_atRest_of_copy (hphase : (s.gang gang).phase = .stopped) (hpart : (s.launch (s.gang gang).launch).part = part)
    (htenant : (s.launch (s.gang gang).launch).tenant = t) (h : ∃ c ∈ s.copies, (s.crew c.2.crew).gang = gang) :
    s.atRest part t = false := by
  obtain ⟨c, hc, hg⟩ := h
  have hany : s.copies.any (fun e => s.crewStopped part t e.2.crew) = true :=
    List.any_eq_true.mpr ⟨c, hc, State.crewStopped_of_gang hg hphase hpart htenant⟩
  simp only [State.crewStopped] at hany
  simp only [State.atRest, hany, Bool.not_true, Bool.and_false, Bool.false_and]

/-- So does an operation of one. -/
theorem State.not_atRest_of_flight (hphase : (s.gang gang).phase = .stopped) (hpart : (s.launch (s.gang gang).launch).part = part)
    (htenant : (s.launch (s.gang gang).launch).tenant = t) (h : ∃ f ∈ s.flights, (s.crew (s.wave f.2.wave).crew).gang = gang) :
    s.atRest part t = false := by
  obtain ⟨f, hf, hg⟩ := h
  have hany : s.flights.any (fun e => s.crewStopped part t (s.wave e.2.wave).crew) = true :=
    List.any_eq_true.mpr ⟨f, hf, State.crewStopped_of_gang hg hphase hpart htenant⟩
  simp only [State.crewStopped] at hany
  simp only [State.atRest, hany, Bool.not_true, Bool.and_false, Bool.false_and]

/-- A tenant that is not at rest is not saved yet. -/
theorem State.contextSave_waits {e : Ebb} (hres : (s.part part).resident = some t) (hebb : (s.part part).ebb = some e)
    (h : s.atRest part t = false) : s.contextSave part = s := by
  simp [State.contextSave, hres, hebb, h]

end

/-! ### Settling -/

/-- Settles O48, one event after the other. -/
theorem sliceEvents : Obligations.SliceEvents := by
  refine ⟨fun part t s hres hebb => ⟨congrArg Host.Outcome.next ?_, congrArg Host.Outcome.next ?_, fun u hu => congrArg Host.Outcome.next ?_⟩,
    fun part t e s hebb => congrArg Host.Outcome.next ?_, fun part s hres hebb hconf => congrArg Host.Outcome.next ?_,
    fun part t e s hres hebb hrest => congrArg Host.Outcome.next ?_, fun part t e s hres hebb htrap => congrArg Host.Outcome.next ?_,
    fun part t gang e s hres hebb hphase hpart htenant hwork => congrArg Host.Outcome.next ?_,
    fun part q s hup hlt hres hebb => ⟨fun hq => congrArg Host.Outcome.next ?_, fun hq => congrArg Host.Outcome.next ?_⟩,
    fun part t s hup hlt hid hroom hnew hshadow => congrArg Host.Outcome.next ?_, fun part tenant bits s => rfl⟩
  · simp [State.sliceExpiry, hres, hebb]
  · simp [State.stopRequest, hres, hebb]
  · simp [State.stopRequest, hres, hebb, hu.symm]
  · simp [State.stopRequest, hebb]
  · simp [State.contextSave, hres, hebb, hconf]
  · simp [State.contextSave, hres, hebb, hrest]
  · exact State.contextSave_waits hres hebb (State.not_atRest_of_trap htrap)
  · exact State.contextSave_waits hres hebb (hwork.elim (State.not_atRest_of_copy hphase hpart htenant)
      (State.not_atRest_of_flight hphase hpart htenant))
  · simp [State.quotaWrite, hup, hlt, hres, hebb, hq]
  · simp [State.quotaWrite, hup, hres, hebb, hq]
  · have hany : (s.part part).tenants.any (fun x => x.id == t.id) = false := List.any_eq_false.mpr fun x hx => by simp [hnew x hx]
    simp [State.createTenant, hup, Nat.not_le_of_lt hlt, Nat.not_le_of_lt hid, Nat.not_le_of_lt hroom, hany, hshadow]

end Sys2Proof.Machine
end

section
/-!
LDL and LDS (O9): what makes a load wait, how the loads of a clause are sent, and the words read at issue.
-/
namespace Sys2Proof.Machine

/-! ### With nothing under way (R110, R112, R118) -/

section
variable {s : State}

/-- Nothing is left that an access of some lanes must follow, so nothing performs first. -/
theorem State.catchUp_idle (hq : s.NothingQueued) (wave : Nat) (m : Lanes) (fs : List Nat) (a : VAddr) (n : Nat) :
    s.catchUp wave m fs a n = s := by
  obtain ⟨hacc, hfl⟩ := hq
  simp [State.catchUp, State.blocked, State.requestsToLine, hacc, hfl, names, inOrder, State.performAll]

/-- A load finds its word. -/
theorem State.loadNow_idle (hq : s.NothingQueued) (crew wave fibre uid : Nat) (y : LaneLoad) :
    s.loadNow crew wave fibre y uid = s.taskWord? crew y.addr := by
  obtain ⟨hacc, hfl⟩ := hq
  simp [State.loadNow, State.blocked, State.behindCore, hacc, hfl]

end

/-! ### Loads that wait move no fibre (R108) -/

theorem State.faultFor_sameFibres (s : State) (crew wave : Nat) (a : VAddr) : s.SameFibres (s.faultFor crew wave a).2 := by
  unfold State.faultFor
  dsimp only
  split
  · exact .refl s
  · exact s.openFault_sameFibres _ _ _ _

theorem State.parkLoad_waves (s : State) (op crew wave fibre : Nat) (flag : Option Nat) (y : LaneLoad) :
    (s.parkLoad op crew wave fibre flag y).waves = s.waves := by
  unfold State.parkLoad
  dsimp only
  split
  · rfl
  · exact (s.faultFor_sameFibres crew wave y.addr).waves

/-- The loads that could not be read yet, one after the other. -/
theorem parkLoads_waves (s : State) (op crew wave : Nat) (fibre : LaneLoad → Nat) (flag : Option Nat) (ys : List LaneLoad) :
    (ys.foldl (fun u y => u.parkLoad op crew wave (fibre y) flag y) s).waves = s.waves := by
  induction ys generalizing s with
  | nil => rfl
  | cons y ys ih => exact (ih _).trans (s.parkLoad_waves _ _ _ _ _ _)

/-! ### Sending the loads (R278) -/

/-- The load of each lane, with its place. -/
def laneLoads (x : Ctx) (g : Arg) (ls : List (Nat × VAddr)) : List LaneLoad :=
  ls.map (fun e => { lane := e.1, phys := (x.wave.lane e.1).wb + g.d, addr := e.2, tag := tagOf (g.b / 16) })

/-- The words found now land together. -/
def State.sendReady (s : State) (x : Ctx) (g : Arg) (op : Nat) (ready : List LaneLoad) (ds : List Dest) : State :=
  if ds.isEmpty then s else s.addFlight
    { op := op, wave := x.cur.wave, flag := x.cur.flagOf g.m.fsel, txns := 0, lines := lsLines (ready.map (fun y => (y.lane, y.addr))),
      payload := .regs ds, fault := none }

/-- What a lane's load finds once the operation is counted. -/
def State.loadWord (s : State) (x : Ctx) (y : LaneLoad) : Option Word :=
  s.loadNow x.crewId x.cur.wave (x.wave.lane y.lane).fibre y s.nextUid

/-- Sending, step by step: what must perform first, the count, the pending registers, the words found, the loads that wait. -/
theorem sendLoads_eq (s : State) (x : Ctx) (g : Arg) (ls : List (Nat × VAddr)) : sendLoads s x g ls =
    let t := ls.foldl (fun t e => t.catchUp x.cur.wave (laneBit e.1) [(x.wave.lane e.1).fibre] e.2 4) s
    let c := t.countOp x.cur.wave (x.cur.flagOf g.m.fsel)
    let ready := (laneLoads x g ls).filter (fun y => (c.2.loadWord x y).isSome)
    let ds := ready.filterMap (fun y => (c.2.loadWord x y).map (fun w => Dest.lane y.lane y.phys w (tagOf (g.b / 16))))
    ((laneLoads x g ls).filter (fun y => (c.2.loadWord x y).isNone)).foldl
      (fun u y => u.parkLoad c.1 x.crewId x.cur.wave (x.wave.lane y.lane).fibre (x.cur.flagOf g.m.fsel) y)
      ((c.2.modWave x.cur.wave (fun w => w.mapLanes (x.act g.m) (fun _ ln => ln.pendV g.d))).sendReady x g c.1 ready ds) := rfl

theorem State.sendReady_waves (s : State) (x : Ctx) (g : Arg) (op : Nat) (ready : List LaneLoad) (ds : List Dest) :
    (s.sendReady x g op ready ds).waves = s.waves := by
  unfold State.sendReady
  split <;> rfl

/-- Counting a flag raises it in its wave. -/
theorem State.countOp_modWave_waves (s : State) (wave : Nat) (flag : Option Nat) (f : Wave → Wave) :
    ((s.countOp wave flag).2.modWave wave f).waves =
      (((match flag with | some n => s.modWave wave (fun w => w.flagUp n) | none => s) : State).modWave wave f).waves := by
  cases flag <;> rfl

/-- The operation is counted: what a task reads stays. -/
theorem State.taskWord?_countOp (s : State) (wave : Nat) (flag : Option Nat) (crew : Nat) (a : VAddr) :
    (s.countOp wave flag).2.taskWord? crew a = s.taskWord? crew a := by
  cases flag <;> rfl

theorem State.countOp_nothingQueued {s : State} (hq : s.NothingQueued) (wave : Nat) (flag : Option Nat) :
    (s.countOp wave flag).2.NothingQueued := by
  rw [State.countOp_waves]
  exact hq

/-- With nothing queued and every word there, all words are read at once and land together (log 23). -/
theorem sendLoads_idle {s : State} {x : Ctx} {g : Arg} {ls : List (Nat × VAddr)} (hq : s.NothingQueued)
    (hls : ∀ e ∈ ls, (s.taskWord? x.crewId e.2).isSome = true) (hne : ls ≠ []) : sendLoads s x g ls =
    ((s.countOp x.cur.wave (x.cur.flagOf g.m.fsel)).2.modWave x.cur.wave (fun w => w.mapLanes (x.act g.m) (fun _ ln =>
      ln.pendV g.d))).addFlight
        { op := s.nextUid, wave := x.cur.wave, flag := x.cur.flagOf g.m.fsel, txns := 0, lines := lsLines ls,
          payload := .regs (ls.map (fun e =>
            .lane e.1 ((x.wave.lane e.1).wb + g.d) ((s.taskWord? x.crewId e.2).getD 0#32) (tagOf (g.b / 16)))),
          fault := none } := by
  have hcatch : ls.foldl (fun t e => t.catchUp x.cur.wave (laneBit e.1) [(x.wave.lane e.1).fibre] e.2 4) s = s :=
    List.foldl_fixed' (fun e => State.catchUp_idle hq _ _ _ _ _) ls
  have hword (y : LaneLoad) : (s.countOp x.cur.wave (x.cur.flagOf g.m.fsel)).2.loadWord x y = s.taskWord? x.crewId y.addr :=
    (State.loadNow_idle (State.countOp_nothingQueued hq _ _) _ _ _ _ y).trans (s.taskWord?_countOp _ _ _ _)
  have hready : (laneLoads x g ls).filter (fun y => (s.taskWord? x.crewId y.addr).isSome) = laneLoads x g ls :=
    List.filter_eq_self.mpr fun y hy => by
      obtain ⟨e, he, rfl⟩ := List.mem_map.mp hy
      exact hls e he
  have hlate : (laneLoads x g ls).filter (fun y => (s.taskWord? x.crewId y.addr).isNone) = [] :=
    List.filter_eq_nil_iff.mpr fun y hy => by
      obtain ⟨e, he, rfl⟩ := List.mem_map.mp hy
      simpa [Option.isSome_iff_ne_none] using hls e he
  have hlines : (laneLoads x g ls).map (fun y => (y.lane, y.addr)) = ls := by simp [laneLoads, Function.comp_def]
  have hds : (laneLoads x g ls).filterMap (fun y =>
      (s.taskWord? x.crewId y.addr).map (fun w => Dest.lane y.lane y.phys w (tagOf (g.b / 16)))) =
      ls.map (fun e => .lane e.1 ((x.wave.lane e.1).wb + g.d) ((s.taskWord? x.crewId e.2).getD 0#32) (tagOf (g.b / 16))) := by
    rw [laneLoads, List.filterMap_map, ← List.filterMap_eq_map]
    refine List.filterMap_congr fun e he => ?_
    obtain ⟨w, hw⟩ := Option.isSome_iff_exists.mp (hls e he)
    simp [hw]
  have hsome : (ls.map (fun e => Dest.lane e.1 ((x.wave.lane e.1).wb + g.d) ((s.taskWord? x.crewId e.2).getD 0#32)
      (tagOf (g.b / 16)))).isEmpty = false := by simpa using hne
  rw [sendLoads_eq, hcatch]
  simp only [hword, hready, hlate, hds, State.sendReady, hsome, hlines, List.foldl_nil, Bool.false_eq_true, if_false]
  rfl

/-! ### LDL and LDS at issue (R277, R95, R109, R51) -/

theorem Instr.sem_of_loadOf {i : Instr} {g : Arg} {shelf : Bool} (h : loadOf i = some (g, shelf)) :
    i.sem = some (loadSem g shelf) ∧ i.size = g.size := by
  cases i <;> dsimp only [loadOf] at h <;> cases h <;> exact ⟨rfl, rfl⟩

section
variable {s : State} {act : Lanes} {lines : List (Nat × Nat)}

/-- An access to shelf parks for absent lines first. -/
theorem State.SomeAbsent.park (h : s.SomeAbsent lines) : shelfWait s s.ctx act lines = .park act (.absent lines) :=
  if_pos (List.any_eq_true.mpr h)

/-- Then for its transactions. -/
theorem shelfWait_txns (h : ¬ s.SomeAbsent lines) (hfull : s.txnsFree s.ctx.crew.core lines.length = false) :
    shelfWait s s.ctx act lines = .park act (.txns lines.length) := by
  rw [shelfWait, if_neg (mt List.any_eq_true.mp h), if_pos (by simp [hfull])]

end

section
variable {g : Arg} {shelf : Bool} {s : State}

theorem loadSem_fault (hc : s.Clear g rolesAll (g.srcA.opds ++ [.v g.d])) (hr : s.Reachable g shelf) : (loadSem g shelf).fault s = none := by
  obtain ⟨-, hrole, hwin, hl⟩ := hc
  exact Sem.fault_none (State.static_none hrole hwin) (firstFault_eq_none (List.forall_mem_cons.mpr ⟨hl.none, fun _ => hr.none⟩))

/-- A load waits for its lines, then for its flag. -/
theorem loadSem_wait (ha : s.Active g) : (loadSem g shelf).wait s =
    (if shelf then shelfWait s s.ctx (s.ctx.act g.m) (lsLines (lsLanes s s.ctx g shelf)) else .go).andThen
      (if s.ctx.flagFull g.m.fsel then .hold s else .go) := by
  simp only [loadSem, beq_iff_eq, if_neg ha]
  rfl

theorem loadSem_wait_ready (ha : s.Active g) (hready : shelf = true → s.LinesReady (lsLines (lsLanes s s.ctx g shelf))) :
    (loadSem g shelf).wait s = if s.ctx.flagFull g.m.fsel then .hold s else .go := by
  rw [loadSem_wait ha]
  cases shelf with
  | false => rfl
  | true => rw [if_pos rfl, (hready rfl).go, Wait.go_andThen]

/-- An LDS parks where its lines make it. -/
theorem loadSem_wait_lines {r : ParkReason} (ha : s.Active g) (hshelf : shelf = true)
    (hpark : shelfWait s s.ctx (s.ctx.act g.m) (lsLines (lsLanes s s.ctx g shelf)) = .park (s.ctx.act g.m) r) :
    (loadSem g shelf).wait s = .park (s.ctx.act g.m) r := by
  rw [loadSem_wait ha, if_pos hshelf, hpark]
  rfl

theorem loadSem_idle {t : State} (h : t.ctx.act g.m = 0#32) : (loadSem g shelf).eff t = t := by
  simp [loadSem, h]

end

/-- Settles O9: at issue by what a load waits for, then the waves of loads sent, then the words read at once. -/
theorem loadIssues : Obligations.LoadIssues := by
  refine ⟨fun i g shelf s h hc hr ha => ?_, fun g ls s => ⟨fun hq => ?_, ?_⟩, fun g shelf s hq _ hls hne => sendLoads_idle hq hls hne⟩
  · have hi : s.Issuing := hc.1
    obtain ⟨c, hcur⟩ := hi.cur
    obtain ⟨hsem, hsize⟩ := Instr.sem_of_loadOf h
    have hf := loadSem_fault hc hr
    rw [hsize]
    refine ⟨fun hfree hready => ?_, fun hfull hready => ?_, fun hshelf habsent => ?_, fun hshelf hpresent hfull => ?_⟩
    · rw [exec_go hsem hcur hf ((loadSem_wait_ready ha hready).trans (if_neg (by simp [hfree])))]
      simp only [loadSem, beq_iff_eq, if_neg ha]
    · rw [exec_holdFree hsem hcur hf rfl ((loadSem_wait_ready ha hready).trans (if_pos (by simpa using hfull))), State.holdClause_eq hcur]
    · exact exec_parkActive (m := loadSem g shelf) hsem hi hf (loadSem_wait_lines ha hshelf habsent.park) (by simp) fun _ => loadSem_idle
    · exact exec_parkActive (m := loadSem g shelf) hsem hi hf (loadSem_wait_lines ha hshelf (shelfWait_txns hpresent hfull)) (by simp)
        fun _ => loadSem_idle
  · exact List.foldl_fixed' (fun e => State.catchUp_idle hq _ _ _ _ _) ls
  · rw [sendLoads_eq]
    exact (parkLoads_waves _ _ _ _ _ _ _).trans ((State.sendReady_waves _ _ _ _ _ _).trans (State.countOp_modWave_waves _ _ _ _))

end Sys2Proof.Machine
end

section
/-!
STL and STS (O10): where they park and stop, and the word each home is left with.
-/
namespace Sys2Proof.Machine

/-! ### Homes of aligned words (R88) -/

/-- Where the aligned word that holds a byte begins. -/
def Home.wordBase : Home → Home
  | .phys a => .phys (a / 4 * 4)
  | .loc c o => .loc c (o / 4 * 4)

theorem Home.wordBase_of_mem_word {h x : Home} (ha : h.Aligned) (hx : x ∈ h.word) : x.wordBase = h := by
  simp only [Home.word, List.mem_cons, List.not_mem_nil, or_false] at hx
  cases h <;> simp only [Home.Aligned] at ha <;> obtain rfl | rfl | rfl | rfl := hx <;> simp [Home.wordBase, Home.plus] <;> omega

/-- Two aligned words at different places share no byte. -/
theorem Home.not_mem_word_of_ne {h j y : Home} (hh : h.Aligned) (hj : j.Aligned) (hne : j ≠ h) (hy : y ∈ h.word) : y ∉ j.word :=
  fun hmem => hne ((Home.wordBase_of_mem_word hj hmem).symm.trans (Home.wordBase_of_mem_word hh hy))

/-! ### A store leaves the crews' names and the DET regions alone (R127) -/

section
variable {s t : State}

theorem State.Has.of_regionTables (h : t.regionTables = s.regionTables) {x : Home} (hx : s.Has x) : t.Has x := by
  simp only [State.regionTables, Prod.mk.injEq] at h
  obtain ⟨hcrews, -, -⟩ := h
  intro c o e
  have hs := hx c o e
  rwa [← Option.isSome_map (f := Crew.gang), ← look_shown, ← hcrews, look_shown, Option.isSome_map] at hs

@[simp] theorem State.regionTables_addAccess (s : State) (a : Access) : (s.addAccess a).regionTables = s.regionTables := rfl

theorem State.regionTables_putStore {crew : Nat} {a : VAddr} {v : Word} (h : s.putStore crew a v = some t) :
    t.regionTables = s.regionTables := by
  unfold State.putStore at h
  split at h
  · cases h
    simp
  · obtain ⟨x, -, rfl⟩ := Option.map_eq_some_iff.mp h
    simp

@[simp] theorem State.regionTables_storeLane (s : State) (op crew wave : Nat) (m : Lanes) (fs : List Nat) (a : VAddr) (v : Word) :
    (s.storeLane op crew wave m fs a v).regionTables = s.regionTables := by
  unfold State.storeLane
  dsimp only
  split
  · simp
  · split
    · next ht => simp [State.regionTables_putStore ht]
    · simp

@[simp] theorem State.regionTables_storeUnsafe (s : State) (x : Ctx) (a : VAddr) : (s.storeUnsafe x a).regionTables = s.regionTables := by
  unfold State.storeUnsafe
  split
  · rfl
  · rfl
  · exact s.regionTables_modGang _ fun _ => rfl

@[simp] theorem regionTables_storeOne (s : State) (x : Ctx) (op lane : Nat) (a : VAddr) (v : Word) :
    (storeOne s x op lane a v).regionTables = s.regionTables := by
  simp [storeOne]

end

/-! ### One lane's store, buffered or at its home (R127, R319) -/

/-- A place outside DET regions is sound for a store. -/
def State.StoresOutside (s : State) (crew : Nat) (a : VAddr) : Prop := s.detAt crew a = none → s.StoresAt crew a

/-- The byte is in no word that a store at the place puts in memory. -/
def State.Outside (s : State) (crew : Nat) (a : VAddr) (y : Home) : Prop :=
  s.detAt crew a = none → ∀ h, s.home? (s.spaceOfCrew crew).1 (s.spaceOfCrew crew).2 a = some h → y ∉ h.word

section
variable {s : State} {x : Ctx} {a : VAddr} (v : Word) (hq : s.NothingQueued) (op lane : Nat)
include hq

/-- In a DET region a store goes to the write buffer alone. -/
theorem storeOne_buffers {r : Nat × Nat} (hd : s.detAt x.crewId a = some r) :
    storeOne s x op lane a v = s.buffer x.crewId (plainEntries r.1 r.2 none 4 v.toNat) [] := by
  have hsafe : s.storeUnsafe x a = s := by
    unfold State.storeUnsafe
    split
    · rfl
    · rfl
    · next hn => exact absurd (hn.symm.trans hd) (by simp)
  rw [storeOne, hsafe]
  exact State.storeLane_now hq (by simp only [State.putStore, hd])

/-- Either way, what a lane does not store to stays. -/
theorem storeOne_stays (ha : s.StoresOutside x.crewId a) (hw : s.memoriesWf = true) :
    s.StoreKeeps (storeOne s x op lane a v) ∧ ∀ y, s.Outside x.crewId a y → (storeOne s x op lane a v).readHome y = s.readHome y := by
  cases hd : s.detAt x.crewId a with
  | some r =>
    rw [storeOne_buffers v hq op lane hd]
    exact ⟨s.buffer_keeps _ _ _, fun y _ => s.buffer_readHome _ _ _ y⟩
  | none =>
    obtain ⟨h, hh, hal, hb⟩ := ha hd
    obtain ⟨hk, hread⟩ := storeOne_keeps v hh hal hb hw (x := x) rfl hq op lane
    exact ⟨hk, fun y hy => hread y (hy hd h hh)⟩

/-- Outside DET regions its home holds the value then. -/
theorem storeOne_homeWord {h : Home} (hd : s.detAt x.crewId a = none)
    (hh : s.home? (s.spaceOfCrew x.crewId).1 (s.spaceOfCrew x.crewId).2 a = some h) (hb : s.barLive h.object = false)
    (hw : s.memoriesWf = true) (hhas : s.Has h) : (storeOne s x op lane a v).homeWord h = v := by
  have hkeeps : s.StoreKeeps (s.storeUnsafe x a) := by
    unfold State.storeUnsafe
    split
    · exact .refl s
    · exact .refl s
    · exact s.notReplayable_keeps _
  have hregion := s.regionTables_storeUnsafe x a
  have hput : (s.storeUnsafe x a).putStore x.crewId a v = some (((s.storeUnsafe x a).storeWord h v).markDirty
      (s.spaceOfCrew x.crewId).1 (s.spaceOfCrew x.crewId).2 a) := by
    have hd' : (s.storeUnsafe x a).detAt x.crewId a = none := (State.detAt_of_regionTables hregion _ _).trans hd
    simp only [State.putStore, hd', hkeeps.home, hkeeps.spaceOfCrew, hh, Option.map_some]
  rw [storeOne, State.storeLane_now (hkeeps.nothingQueued hq) hput, State.storeWord_data v (hkeeps.barLive hb)]
  exact State.homeWord_putHomeWord v (hkeeps.wf hw) (State.Has.of_regionTables hregion hhas)

end

/-! ### The lanes' stores (R319) -/

section
variable {x : Ctx} (op : Nat) (val : Nat → Word)

/-- The stores of some lanes, one after the other. -/
def storeAll (x : Ctx) (op : Nat) (val : Nat → Word) (s : State) (ls : List (Nat × VAddr)) : State :=
  ls.foldl (fun u e => storeOne u x op e.1 e.2 (val e.1)) s

theorem regionTables_storeAll (s : State) (ls : List (Nat × VAddr)) : (storeAll x op val s ls).regionTables = s.regionTables := by
  induction ls generalizing s with
  | nil => rfl
  | cons e ls ih => exact (ih _).trans (regionTables_storeOne s x op e.1 e.2 _)

/-- What no lane stores to stays. -/
theorem storeAll_stays {s : State} {ls : List (Nat × VAddr)} (hq : s.NothingQueued) (hw : s.memoriesWf = true)
    (hls : ∀ e ∈ ls, s.StoresOutside x.crewId e.2) :
    s.StoreKeeps (storeAll x op val s ls) ∧
      ∀ y, (∀ e ∈ ls, s.Outside x.crewId e.2 y) → (storeAll x op val s ls).readHome y = s.readHome y := by
  induction ls generalizing s with
  | nil => exact ⟨.refl s, fun _ _ => rfl⟩
  | cons e ls ih =>
    obtain ⟨he, hls⟩ := List.forall_mem_cons.mp hls
    obtain ⟨hk, hread⟩ := storeOne_stays (val e.1) hq op e.1 he hw
    have hdet (a : VAddr) : (storeOne s x op e.1 e.2 (val e.1)).detAt x.crewId a = s.detAt x.crewId a :=
      State.detAt_of_regionTables (regionTables_storeOne s x op e.1 e.2 _) _ _
    obtain ⟨hk', hread'⟩ := ih (hk.nothingQueued hq) (hk.wf hw) fun f hf hd => hk.storesAt (hls f hf ((hdet f.2).symm.trans hd))
    refine ⟨hk.trans hk', fun y hy => ?_⟩
    obtain ⟨hy0, hy⟩ := List.forall_mem_cons.mp hy
    refine (hread' y fun f hf => ?_).trans (hread y hy0)
    simpa only [State.Outside, hdet, hk.home, hk.spaceOfCrew] using hy f hf

/-- A home keeps the value of a lane, where no later lane stores there. -/
theorem storeAll_homeWord {s : State} {pre post : List (Nat × VAddr)} {l : Nat} {a : VAddr} {h : Home} (hq : s.NothingQueued)
    (hw : s.memoriesWf = true) (hls : ∀ e ∈ pre ++ (l, a) :: post, s.StoresOutside x.crewId e.2) (hd : s.detAt x.crewId a = none)
    (hh : s.home? (s.spaceOfCrew x.crewId).1 (s.spaceOfCrew x.crewId).2 a = some h) (hhas : s.Has h)
    (hpost : ∀ e ∈ post, ∀ y ∈ h.word, s.Outside x.crewId e.2 y) :
    (storeAll x op val s (pre ++ (l, a) :: post)).homeWord h = val l := by
  obtain ⟨hpre, hlast⟩ := List.forall_mem_append.mp hls
  obtain ⟨hl, hlater⟩ := List.forall_mem_cons.mp hlast
  obtain ⟨hk, -⟩ := storeAll_stays op val hq hw hpre
  have hregion := regionTables_storeAll (x := x) op val s pre
  simp only [storeAll, List.foldl_append, List.foldl_cons]
  rw [← storeAll, ← storeAll]
  generalize storeAll x op val s pre = u at hk hregion
  have hdet (b : VAddr) : u.detAt x.crewId b = s.detAt x.crewId b := State.detAt_of_regionTables hregion _ _
  have hstores (b : VAddr) (hb : s.StoresOutside x.crewId b) : u.StoresOutside x.crewId b :=
    fun hn => hk.storesAt (hb ((hdet b).symm.trans hn))
  obtain ⟨j, hj, -, hb⟩ := hl hd
  obtain rfl : j = h := by simpa [hj] using hh
  have hword : (storeOne u x op l a (val l)).homeWord j = val l :=
    storeOne_homeWord (val l) (hk.nothingQueued hq) op l ((hdet a).trans hd) (by rw [hk.home, hk.spaceOfCrew]; exact hh)
      (hk.barLive hb) (hk.wf hw) (State.Has.of_regionTables hregion hhas)
  obtain ⟨hk', -⟩ := storeOne_stays (val l) (hk.nothingQueued hq) op l (hstores a hl) (hk.wf hw)
  have hdet' (b : VAddr) : (storeOne u x op l a (val l)).detAt x.crewId b = s.detAt x.crewId b :=
    (State.detAt_of_regionTables (regionTables_storeOne u x op l a _) _ _).trans (hdet b)
  obtain ⟨-, hread⟩ := storeAll_stays (x := x) (ls := post) op val (hk'.nothingQueued (hk.nothingQueued hq)) (hk'.wf (hk.wf hw))
    fun e he hn => hk'.storesAt (hk.storesAt (hlater e he ((hdet' e.2).symm.trans hn)))
  refine (State.homeWord_of_readHome fun y hy => hread y fun e he => ?_).trans hword
  simpa only [State.Outside, hdet', (hk.trans hk').home, (hk.trans hk').spaceOfCrew] using hpost e he y hy

end

/-! ### STL and STS at issue (R318, R95, R97, R109, R127) -/

/-- The lanes stand in ascending order. -/
theorem lsLanes_ascending (s : State) (x : Ctx) (g : Arg) (shelf : Bool) : (lsLanes s x g shelf).Pairwise (fun e f => e.1 < f.1) := by
  have hlanes : (laneList (x.act g.m)).Pairwise (· < ·) := List.Pairwise.filter _ List.pairwise_lt_range
  refine hlanes.filterMap _ fun l k hlt e he f hf => ?_
  obtain ⟨a, -, rfl⟩ := Option.map_eq_some_iff.mp he
  obtain ⟨b, -, rfl⟩ := Option.map_eq_some_iff.mp hf
  exact hlt

section
variable {s : State} {cs : List Charge} {act : Lanes}

/-- Charges that fit, or none. -/
theorem overflowWait_fits (h : cs = [] ∨ s.ctx.crew.overflows cs = none) : overflowWait s s.ctx act cs = .go := by
  obtain rfl | hfits := h
  · exact overflowWait_nil
  · exact overflowWait_go hfits

/-- Charges that do not fit need all their bytes beyond what is charged already. -/
theorem Crew.overflows_some {c : Crew} {need : Nat} (h : c.overflows cs = some need) :
    need = (cs.map (·.bytes)).sum ∧ c.wbufCap < c.charged + need := by
  unfold Crew.overflows at h
  dsimp only at h
  split at h
  · cases h
  · next hcap =>
    cases h
    exact ⟨rfl, Nat.lt_of_not_le hcap⟩

end

section
variable {s : State} {g : Arg} {shelf : Bool} (ha : s.Active g)
include ha

/-- STL waits for its rows. -/
theorem storeSem_wait_local : (storeSem g false).wait s =
    if s.anyPinned (lsRows (lsLanes s s.ctx g false)) then .park (s.ctx.act g.m) (.pinned (lsRows (lsLanes s s.ctx g false))) else .go := by
  simp [storeSem, ha]

/-- STS waits for its lines, then for room in the write buffer. -/
theorem storeSem_wait_shelf : (storeSem g true).wait s = (shelfWait s s.ctx (s.ctx.act g.m) (lsLines (lsLanes s s.ctx g true))).andThen
    (overflowWait s s.ctx (s.ctx.act g.m) (storeCharges s s.ctx (lsLanes s s.ctx g true))) := by
  simp only [storeSem, beq_iff_eq, if_neg ha]
  rfl

theorem storeSem_wait_free (hshelf : shelf = true → s.LinesReady (lsLines (lsLanes s s.ctx g shelf)) ∧
      (storeCharges s s.ctx (lsLanes s s.ctx g shelf) = [] ∨
        s.ctx.crew.overflows (storeCharges s s.ctx (lsLanes s s.ctx g shelf)) = none))
    (hlocal : shelf = false → s.anyPinned (lsRows (lsLanes s s.ctx g shelf)) = false) : (storeSem g shelf).wait s = .go := by
  cases shelf with
  | false => exact (storeSem_wait_local ha).trans (if_neg (Bool.eq_false_iff.mp (hlocal rfl)))
  | true =>
    obtain ⟨hlines, hfits⟩ := hshelf rfl
    rw [storeSem_wait_shelf ha, hlines.go, Wait.go_andThen, overflowWait_fits hfits]

theorem storeSem_eff : (storeSem g shelf).eff s =
    let b := s.buffer s.ctx.crewId [] (storeCharges s s.ctx (lsLanes s s.ctx g shelf))
    storeAll s.ctx b.nextUid (fun l => ((s.ctx.wave.lane l).readV g.d).val) { b with nextUid := b.nextUid + 1 } (lsLanes s s.ctx g shelf) := by
  simp only [storeSem, beq_iff_eq, if_neg ha]
  rfl

omit ha in
theorem storeSem_idle {t : State} (h : t.ctx.act g.m = 0#32) : (storeSem g shelf).eff t = t := by
  simp [storeSem, h]

/-- With nothing queued before it a home outside DET regions holds the value of the highest lane that stores there. -/
theorem storeSem_homeWord (hr : s.Reachable g shelf) (hq : s.NothingQueued) (hw : s.memoriesWf = true)
    (hplain : ∀ e ∈ lsLanes s s.ctx g shelf, s.detAt s.ctx.crewId e.2 = none → s.PlainHome e.2) {l : Nat} {a : VAddr} {h : Home}
    (hmem : (l, a) ∈ lsLanes s s.ctx g shelf) (hd : s.detAt s.ctx.crewId a = none)
    (hh : s.home? s.ctx.launch.part s.ctx.launch.tenant a = some h)
    (hlast : ∀ k b j, (k, b) ∈ lsLanes s s.ctx g shelf → l < k → s.detAt s.ctx.crewId b = none →
      s.home? s.ctx.launch.part s.ctx.launch.tenant b = some j → j ≠ h) :
    ((storeSem g shelf).eff s).homeWord h = ((s.ctx.wave.lane l).readV g.d).val := by
  have hstores : ∀ e ∈ lsLanes s s.ctx g shelf, s.StoresOutside s.ctx.crewId e.2 :=
    fun e he hn => storesAt_of_lsLanes hr he (hplain e he hn)
  have halign : ∀ e ∈ lsLanes s s.ctx g shelf, s.detAt s.ctx.crewId e.2 = none → ∀ j,
      s.home? s.ctx.launch.part s.ctx.launch.tenant e.2 = some j → j.Aligned := fun e he hn j hj => by
    obtain ⟨i, hi, hal, -⟩ := hstores e he hn
    obtain rfl : i = j := Option.some.inj (hi.symm.trans hj)
    exact hal
  have hhas : s.Has h := by
    obtain ⟨j, hj, -, -, hlook⟩ := hplain _ hmem hd
    obtain rfl : j = h := Option.some.inj (hj.symm.trans hh)
    exact hlook
  have hasc := lsLanes_ascending s s.ctx g shelf
  rw [storeSem_eff ha]
  obtain ⟨pre, post, hsplit⟩ := List.append_of_mem hmem
  have hpost : ∀ e ∈ post, e ∈ lsLanes s s.ctx g shelf ∧ l < e.1 := fun e he => by
    rw [hsplit] at hasc ⊢
    obtain ⟨-, hasc, -⟩ := List.pairwise_append.mp hasc
    exact ⟨by simp [he], (List.pairwise_cons.mp hasc).1 e he⟩
  have hkeeps := (s.buffer_keeps s.ctx.crewId [] (storeCharges s s.ctx (lsLanes s s.ctx g shelf))).trans (State.fresh_keeps _)
  have hregion : (s.buffer s.ctx.crewId [] (storeCharges s s.ctx (lsLanes s s.ctx g shelf))).fresh.2.regionTables = s.regionTables :=
    s.regionTables_buffer _ _ _
  have hdet (b : VAddr) := State.detAt_of_regionTables hregion s.ctx.crewId b
  have hspace := hkeeps.spaceOfCrew s.ctx.crewId
  have hout : ∀ e ∈ post, ∀ y ∈ h.word, s.Outside s.ctx.crewId e.2 y := fun e he y hy hn j hj => by
    obtain ⟨hin, hlt⟩ := hpost e he
    exact Home.not_mem_word_of_ne (halign _ hmem hd h hh) (halign e hin hn j hj) (hlast e.1 e.2 j hin hlt hn hj) hy
  generalize storeCharges s s.ctx (lsLanes s s.ctx g shelf) = cs at *
  rw [hsplit] at hstores ⊢
  refine storeAll_homeWord (x := s.ctx) _ (fun l => ((s.ctx.wave.lane l).readV g.d).val)
    (s := (s.buffer s.ctx.crewId [] cs).fresh.2) (hkeeps.nothingQueued hq) (hkeeps.wf hw)
    (fun e he hn => hkeeps.storesAt (hstores e he ((hdet e.2).symm.trans hn))) ((hdet a).trans hd) ?_
    (State.Has.of_regionTables hregion hhas) fun e he y hy => ?_
  · rw [hkeeps.home, hspace]
    exact hh
  · simpa only [State.Outside, hdet, hkeeps.home, hspace] using hout e he y hy

end

/-- The move to the next instruction changes no word. -/
theorem State.homeWord_advance (s : State) (n : Nat) (h : Home) : (s.advance n).homeWord h = s.homeWord h :=
  State.homeWord_of_readHome fun y _ => by cases y <;> simp [State.readHome, State.crew]

/-- Settles O10: by what a store waits for, and by the word each home is left with. -/
theorem storeResult : Obligations.StoreResult := by
  intro i g shelf s h hc ht hr ha lines rows charges b
  have hi : s.Issuing := hc.1
  obtain ⟨c, hcur⟩ := hi.cur
  have hsem := Instr.sem_of_storeOf h
  have hsize : i.size = (storeSem g shelf).size := by
    cases i <;> dsimp only [storeOf] at h <;> cases h <;> rfl
  have hf := storeSem_fault hc ht hr
  rw [hsize]
  refine ⟨fun hshelf hlocal => ?_, fun hshelf hpin => ?_, fun hshelf habsent => ?_, fun hshelf hpresent hfull => ?_,
    fun need hshelf hlines hne ho => ?_, fun hshelf hlocal hq hw hplain => ⟨_, exec_go hsem hcur hf (storeSem_wait_free ha hshelf hlocal),
      fun l a j hmem hd hh hlast => ?_⟩⟩
  · rw [exec_go hsem hcur hf (storeSem_wait_free ha hshelf hlocal), storeSem_eff ha]
    rfl
  · subst hshelf
    exact exec_parkActive (m := storeSem g false) hsem hi hf ((storeSem_wait_local ha).trans (if_pos hpin)) (by simp)
      fun _ => storeSem_idle
  · subst hshelf
    have hw := storeSem_wait_shelf ha
    rw [habsent.park] at hw
    exact exec_parkActive (m := storeSem g true) hsem hi hf hw (by simp) fun _ => storeSem_idle
  · subst hshelf
    have hw := storeSem_wait_shelf ha
    rw [shelfWait_txns hpresent hfull] at hw
    exact exec_parkActive (m := storeSem g true) hsem hi hf hw (by simp) fun _ => storeSem_idle
  · subst hshelf
    obtain ⟨hneed, hcap⟩ := Crew.overflows_some ho
    have hw := storeSem_wait_shelf ha
    rw [hlines.go, Wait.go_andThen, overflowWait_stop hne ho] at hw
    exact ⟨hneed, hcap, exec_stop hsem hcur hf hw⟩
  · rw [State.homeWord_advance]
    exact storeSem_homeWord ha hr hq hw hplain hmem hd hh hlast

end Sys2Proof.Machine
end

section
/-!
ATOM and ATOMC (O11): what the checks let pass, what makes them wait, and what each lane sends.
-/
namespace Sys2Proof.Machine

theorem Instr.sem_of_atomOf {i : Instr} {a : AtomArg} (h : atomOf i = some a) : i.sem = some (atomSem a) ∧ i.size = (atomSem a).size := by
  cases i <;> dsimp only [atomOf] at h <;> cases h <;> exact ⟨rfl, rfl⟩

/-! ### At issue (R236, R97, R109, R127, R51) -/

section
variable {s : State} {a : AtomArg}

/-- Aligned, in bounds, within the scope, outside DET regions where a value comes back: an atomic meets no fault. -/
theorem atomSem_fault (hc : s.Clear a.g rolesAll a.opds) (hr : s.AtomReachable a) : (atomSem a).fault s = none := by
  obtain ⟨-, hrole, hwin, hl⟩ := hc
  have hplace : ∀ l, l < 32 → (s.ctx.act a.g.m).getLsbD l = true → ∃ p,
      a.place s s.ctx (a.addr s.ctx.crew (s.ctx.wave.lane l)) = some p ∧ a.outOfScope s.ctx p = false ∧
        ((a.cas || !a.noret) = true → s.detAt s.ctx.crewId p = none) := fun l hl32 hm => by
    obtain ⟨-, -, h⟩ := hr l hl32 hm
    split at h
    · next p hp => exact ⟨p, hp, h⟩
    · exact h.elim
  refine Sem.fault_none (State.static_none hrole hwin) (firstFault_eq_none ?_)
  simp only [List.mem_cons, List.not_mem_nil, or_false, forall_eq_or_imp, forall_eq]
  refine ⟨hl.none, formatFault_none fun l hl32 hm => (hr l hl32 hm).1, laneFault_none fun l hl32 hm => ?_,
    laneFault_none fun l hl32 hm => ?_, laneFault_none fun l hl32 hm => ?_, laneFault_none fun l hl32 hm => ?_⟩
  · simp [(hr l hl32 hm).2.1]
  all_goals obtain ⟨p, hp, hscope, hdet⟩ := hplace l hl32 hm
  · simp [hp]
  · simp [hp, hscope]
  · cases hret : a.cas || !a.noret with
    | false => simp
    | true => simp [hp, hdet hret]

variable (ha : s.Active a.g)
include ha

/-- The rows first, then the transactions, then room in the write buffer, then the flag. -/
theorem AtomArg.wait_eq : a.wait s =
    if a.scope < 2 ∧ s.anyPinned (a.rows s s.ctx) = true then .park (s.ctx.act a.g.m) (.pinned (a.rows s s.ctx))
    else if 2 ≤ a.scope ∧ s.txnsFree s.ctx.crew.core (laneList (s.ctx.act a.g.m)).length = false then
      .park (s.ctx.act a.g.m) (.txns (laneList (s.ctx.act a.g.m)).length)
    else (overflowWait s s.ctx (s.ctx.act a.g.m) (a.charges s s.ctx)).andThen
      (if a.noret = false ∧ s.ctx.flagFull a.g.m.fsel = true then .hold s else .go) := by
  simp only [AtomArg.wait, beq_iff_eq, if_neg ha, Bool.and_eq_true, decide_eq_true_eq, Bool.not_eq_true']
  rfl

theorem AtomArg.wait_pinned (hs : a.scope < 2) (hp : s.anyPinned (a.rows s s.ctx) = true) :
    a.wait s = .park (s.ctx.act a.g.m) (.pinned (a.rows s s.ctx)) := by
  rw [AtomArg.wait_eq ha, if_pos ⟨hs, hp⟩]

theorem AtomArg.wait_txns (hs : 2 ≤ a.scope) (ht : s.txnsFree s.ctx.crew.core (laneList (s.ctx.act a.g.m)).length = false) :
    a.wait s = .park (s.ctx.act a.g.m) (.txns (laneList (s.ctx.act a.g.m)).length) := by
  rw [AtomArg.wait_eq ha, if_neg (by omega), if_pos ⟨hs, ht⟩]

variable (hmay : (a.scope < 2 → s.anyPinned (a.rows s s.ctx) = false) ∧
  (2 ≤ a.scope → s.txnsFree s.ctx.crew.core (laneList (s.ctx.act a.g.m)).length = true))
include hmay

/-- With its rows and transactions there, an atomic waits for room in the write buffer, then for its flag. -/
theorem AtomArg.wait_may : a.wait s = (overflowWait s s.ctx (s.ctx.act a.g.m) (a.charges s s.ctx)).andThen
    (if a.noret = false ∧ s.ctx.flagFull a.g.m.fsel = true then .hold s else .go) := by
  obtain ⟨hrows, htxns⟩ := hmay
  rw [AtomArg.wait_eq ha, if_neg (fun h => by simp [hrows h.1] at h), if_neg (fun h => by simp [htxns h.1] at h)]

theorem AtomArg.wait_fits (hfits : a.charges s s.ctx = [] ∨ s.ctx.crew.overflows (a.charges s s.ctx) = none) :
    a.wait s = if a.noret = false ∧ s.ctx.flagFull a.g.m.fsel = true then .hold s else .go := by
  rw [AtomArg.wait_may ha hmay, overflowWait_fits hfits, Wait.go_andThen]

end

/-! ### What a lane sends (R237, R127, R128) -/

/-- The access of a lane. -/
def AtomArg.access (a : AtomArg) (x : Ctx) (op : Nat) (flag : Option Nat) (l : Nat) (p : VAddr) (what : AccessOp) : Access :=
  { op := op, wave := x.cur.wave, crew := x.crewId, lane := l, lanes := laneBit l, fibres := [(x.wave.lane l).fibre], flag := flag,
    scope := a.scope, rel := a.g.m.rel, acq := a.g.m.acq, what := what, addr := p,
    ret := if a.noret then none else some ((x.wave.lane l).wb + a.g.d), txns := if a.scope < 2 then 0 else 1, fault := none }

/-- The lanes' sends, one after the other. -/
def AtomArg.sendAll (a : AtomArg) (x : Ctx) (op : Nat) (flag : Option Nat) (s : State) (ls : List (Nat × VAddr)) : State :=
  ls.foldl (fun s e => a.send x op flag s e.1 e.2) s

/-- The state in which the lanes send: charged, counted, the destinations pending. -/
def AtomArg.named (a : AtomArg) (s : State) (flag : Option Nat) : State :=
  let c := (s.buffer s.ctx.crewId [] (a.charges s s.ctx)).countOp s.ctx.cur.wave flag
  if a.noret then c.2 else c.2.modWave s.ctx.cur.wave (fun w => w.mapLanes (s.ctx.act a.g.m) (fun _ ln =>
    if a.wide then (ln.pendV a.g.d).pendV (a.g.d + 1) else ln.pendV a.g.d))

/-- The flag an atomic counts on. -/
def AtomArg.flag (a : AtomArg) (s : State) : Option Nat := if a.noret then none else s.ctx.cur.flagOf a.g.m.fsel

/-- The name of its operation. -/
def AtomArg.opName (a : AtomArg) (s : State) : Nat := (s.buffer s.ctx.crewId [] (a.charges s s.ctx)).nextUid

theorem atomSem_eff {s : State} {a : AtomArg} (ha : s.Active a.g) :
    (atomSem a).eff s = a.sendAll s.ctx (a.opName s) (a.flag s) (a.named s (a.flag s)) (a.lanes s s.ctx) := by
  simp only [atomSem, beq_iff_eq, if_neg ha]
  rfl

theorem atomSem_idle {t : State} {a : AtomArg} (h : t.ctx.act a.g.m = 0#32) : (atomSem a).eff t = t := by
  simp [atomSem, h]

theorem AtomArg.regionTables_named (a : AtomArg) (s : State) (flag : Option Nat) : (a.named s flag).regionTables = s.regionTables := by
  have hcount : ((s.buffer s.ctx.crewId [] (a.charges s s.ctx)).countOp s.ctx.cur.wave flag).2.regionTables = s.regionTables := by
    rw [State.countOp_waves]
    exact s.regionTables_buffer _ _ _
  unfold AtomArg.named
  dsimp only
  split <;> exact hcount

section
variable {a : AtomArg} {x : Ctx} {op : Nat} {flag : Option Nat}

/-- Outside DET regions a lane's access is on its way. -/
theorem AtomArg.send_outside {s : State} {l : Nat} {p : VAddr} (h : s.detAt x.crewId p = none) :
    a.send x op flag s l p = (s.notReplayable x.gangId).addAccess (a.access x op flag l p (a.what x.crew (x.wave.lane l))) := by
  simp only [AtomArg.send, h]
  rfl

theorem State.detAt_notReplayable (s : State) (gang k : Nat) (p : VAddr) : (s.notReplayable gang).detAt k p = s.detAt k p :=
  State.detAt_of_regionTables (s.regionTables_modGang (f := fun g => { g with replayable := false }) gang fun _ => rfl) k p

/-- The accesses of all lanes are on their way, and what was on its way still is. -/
theorem AtomArg.sendAll_outside {s : State} {ls : List (Nat × VAddr)} (h : ∀ e ∈ ls, s.detAt x.crewId e.2 = none) :
    (∀ e ∈ s.accesses, e ∈ (a.sendAll x op flag s ls).accesses) ∧
    ∀ e ∈ ls, ∃ k, (k, a.access x op flag e.1 e.2 (a.what x.crew (x.wave.lane e.1))) ∈ (a.sendAll x op flag s ls).accesses := by
  induction ls generalizing s with
  | nil => exact ⟨fun _ => id, fun _ h => nomatch h⟩
  | cons e ls ih =>
    obtain ⟨he, hls⟩ := List.forall_mem_cons.mp h
    have hsend := AtomArg.send_outside (a := a) (op := op) (flag := flag) (l := e.1) he
    obtain ⟨hkept, hsent⟩ := ih (s := a.send x op flag s e.1 e.2) fun f hf => by
      rw [hsend]
      exact (s.detAt_notReplayable x.gangId _ _).trans (hls f hf)
    have hmem : ∀ z ∈ s.accesses ++ [(s.nextUid, a.access x op flag e.1 e.2 (a.what x.crew (x.wave.lane e.1)))],
        z ∈ (a.sendAll x op flag s (e :: ls)).accesses := fun z hz => hkept z (by rw [hsend]; exact hz)
    exact ⟨fun z hz => hmem z (List.mem_append_left _ hz), List.forall_mem_cons.mpr
      ⟨⟨s.nextUid, hmem _ (List.mem_append_right _ (List.mem_singleton_self _))⟩, hsent⟩⟩

/-- The fibre's next sequence number is taken. -/
def State.takeDetSeq (s : State) (wave l : Nat) : State :=
  s.modWave wave (fun w => w.mapLanes (laneBit l) (fun _ y => { y with detSeq := y.detSeq + 1 }))

/-- The entry that a lane's reduction leaves at a place of a region. -/
def AtomArg.entry (a : AtomArg) (x : Ctx) (s : State) (l : Nat) (r : Nat × Nat) : WEntry :=
  .red r.1 r.2 a.op a.wide (a.x x.crew (x.wave.lane l)) (a.tag x.crew (x.wave.lane l)) (x.wave.idx * 32 + l)
    ((s.wave x.cur.wave).lane l).detSeq

/-- The buffer does not look at what is on its way. -/
theorem State.buffer_addAccess (s : State) (b : Access) (k : Nat) (es : List WEntry) :
    ({ (s.addAccess b).buffer k es [] with accesses := s.accesses } : State) = { s.buffer k es [] with nextUid := s.nextUid + 1 } := by
  have hgang : (s.addAccess b).gang ((s.addAccess b).crew k).gang = s.gang (s.crew k).gang := rfl
  unfold State.buffer
  rw [hgang]
  split <;> rfl

/-- A buffered access with nothing before it is ready. -/
theorem State.accessReady_buffered {s : State} {b : Access} {r : Nat × Nat} (hq : s.NothingQueued) (hb : (s.addAccess b).buffersAt b = some r)
    (hf : b.fault = none) : (s.addAccess b).accessReady s.nextUid b = true := by
  obtain ⟨hacc, hfl⟩ := hq
  have hblocked (m : Lanes) (fs : List Nat) (p : VAddr) (n : Nat) : (s.addAccess b).blocked s.nextUid b.wave m fs p n = false := by
    simp [State.blocked, State.addAccess, hacc, hfl]
  have hreleased (m : Lanes) (fs : List Nat) (n : Nat) : (s.addAccess b).unreleased s.nextUid b.wave m fs n = false := by
    simp [State.unreleased, State.addAccess, hacc, hfl]
  have hlane (p : VAddr) (n : Nat) : (s.addAccess b).behindLane s.nextUid b.op p n = false := by
    simp [State.behindLane, State.addAccess, hacc]
  have hcore (p : VAddr) : (s.addAccess b).behindCore s.nextUid b.op b.crew p = false := by
    simp [State.behindCore, State.addAccess, hacc, hfl]
  have hturn := State.not_inTurn_of_buffersAt hb
  have hslack : (s.addAccess b).atSlack b = false := by
    unfold State.atSlack
    cases hw : b.what with
    | atom | cas => simp [hw, AccessOp.inTurn] at hturn
    | _ => rfl
  simp [State.accessReady, State.accessMay, State.sent, hf, hblocked, hreleased, hlane, hcore, hslack, hb,
    State.overHost_of_not_inTurn hturn]

/-- In a DET region, with nothing queued before it, a reduction is an entry of the write buffer. -/
theorem AtomArg.send_red {s : State} {l : Nat} {p : VAddr} {r : Nat × Nat} (hq : s.NothingQueued) (hn : a.noret = true)
    (hd : s.detAt x.crewId p = some r) : a.send x op none s l p =
      { (s.takeDetSeq x.cur.wave l).buffer x.crewId [a.entry x s l r] [] with nextUid := s.nextUid + 1 } := by
  have hcatch : (s.takeDetSeq x.cur.wave l).catchUp x.cur.wave (laneBit l) [(x.wave.lane l).fibre] p a.bytes = s.takeDetSeq x.cur.wave l :=
    State.catchUp_idle (s := s.takeDetSeq x.cur.wave l) hq _ _ _ _ _
  set b := a.access x op none l p (a.red x s l) with hb
  have hbuf : ((s.takeDetSeq x.cur.wave l).addAccess b).buffersAt b = some r := hd
  have hlook : look s.nextUid ((s.takeDetSeq x.cur.wave l).addAccess b).accesses = some b :=
    look_append_new (by rw [show (s.takeDetSeq x.cur.wave l).accesses = [] from hq.1]; exact fun _ h => nomatch h)
  have hready : ((s.takeDetSeq x.cur.wave l).addAccess b).accessReady s.nextUid b = true :=
    State.accessReady_buffered (s := s.takeDetSeq x.cur.wave l) hq hbuf rfl
  have hsend : a.send x op none s l p = (s.takeDetSeq x.cur.wave l).issueAccess b := by
    simp only [AtomArg.send, hd]
    rw [← State.takeDetSeq, hcatch]
    rfl
  have hanswer (u : State) : u.answerAccess s.nextUid b 0 = { u with accesses := drop s.nextUid u.accesses } := by
    simp [State.answerAccess, hb, AtomArg.access, hn, State.lowerFlag]
  rw [hsend, State.issueAccess, show (s.takeDetSeq x.cur.wave l).nextUid = s.nextUid from rfl, State.performAccess_ready hlook hready,
    State.overHost_of_not_inTurn rfl]
  refine (State.performDue_buffers hbuf).trans ((hanswer _).trans ?_)
  obtain ⟨crews, hcrews⟩ := ((s.takeDetSeq x.cur.wave l).addAccess b).buffer_crews x.crewId [a.entry x s l r] []
  have hdrop : drop s.nextUid (((s.takeDetSeq x.cur.wave l).addAccess b).buffer x.crewId [a.entry x s l r] []).accesses =
      (s.takeDetSeq x.cur.wave l).accesses := by
    rw [hcrews]
    exact drop_append_new (by rw [show (s.takeDetSeq x.cur.wave l).accesses = [] from hq.1]; exact fun _ h => nomatch h)
  have hput := (s.takeDetSeq x.cur.wave l).buffer_addAccess b x.crewId [a.entry x s l r]
  rw [← hdrop] at hput
  exact hput

/-- A lane's reduction leaves the sequence numbers of other lanes alone. -/
theorem State.takeDetSeq_other (s : State) (wave : Nat) {l k : Nat} (hk : k < 32) (hne : l ≠ k) :
    (((s.takeDetSeq wave l).wave wave).lane k) = (s.wave wave).lane k := by
  obtain h | ⟨-, h⟩ := s.wave_modWave_cases wave wave (fun w => w.mapLanes (laneBit l) (fun _ y => { y with detSeq := y.detSeq + 1 }))
  · exact congrArg (Wave.lane · k) h
  · exact (congrArg (Wave.lane · k) h).trans (Wave.lane_mapLanes_out (by simp [getLsbD_laneBit l hk, hne]))

/-- The buffer of a crew whose gang runs takes an entry. -/
theorem State.look_buffer {s : State} {k : Nat} {c : Crew} (hc : look k s.crews = some c) (hrun : (s.gang c.gang).phase ≠ .stopped)
    (es : List WEntry) (cs : List Charge) :
    look k (s.buffer k es cs).crews = some { c with wbuf := c.wbuf ++ es, charges := c.charges ++ cs } := by
  have hcrew : s.crew k = c := by simp [State.crew, hc]
  simp [State.buffer, hcrew, hrun, State.modCrew, hc]

/-- The reductions of lanes stand in the buffer in their order. -/
theorem AtomArg.sendAll_red {s : State} {ls : List (Nat × VAddr)} {c : Crew} (hq : s.NothingQueued) (hn : a.noret = true)
    (hd : ∀ e ∈ ls, s.detAt x.crewId e.2 ≠ none) (hlt : ∀ e ∈ ls, e.1 < 32) (hasc : ls.Pairwise (fun e f => e.1 < f.1))
    (hc : look x.crewId s.crews = some c) (hrun : (s.gang c.gang).phase ≠ .stopped) :
    ((a.sendAll x op none s ls).crew x.crewId).wbuf =
      c.wbuf ++ ls.filterMap (fun e => (s.detAt x.crewId e.2).map (a.entry x s e.1)) := by
  induction ls generalizing s c with
  | nil => simp [AtomArg.sendAll, State.crew, hc]
  | cons e ls ih =>
    obtain ⟨he, hd⟩ := List.forall_mem_cons.mp hd
    obtain ⟨hl, hlt⟩ := List.forall_mem_cons.mp hlt
    obtain ⟨hfirst, hasc⟩ := List.pairwise_cons.mp hasc
    obtain ⟨r, hr⟩ := Option.ne_none_iff_exists'.mp he
    have hsend := AtomArg.send_red (a := a) (op := op) (l := e.1) hq hn hr
    obtain ⟨crews, hcrews⟩ := (s.takeDetSeq x.cur.wave e.1).buffer_crews x.crewId [a.entry x s e.1 r] []
    have hlook := State.look_buffer (s := s.takeDetSeq x.cur.wave e.1) hc hrun [a.entry x s e.1 r] []
    have hregion : (a.send x op none s e.1 e.2).regionTables = s.regionTables := by
      rw [hsend]
      exact (s.takeDetSeq x.cur.wave e.1).regionTables_buffer _ _ _
    have hdet (p : VAddr) := State.detAt_of_regionTables hregion x.crewId p
    have hentry : ∀ f ∈ ls, a.entry x (a.send x op none s e.1 e.2) f.1 = a.entry x s f.1 := fun f hf => by
      have hlane : ((a.send x op none s e.1 e.2).wave x.cur.wave).lane f.1 = (s.wave x.cur.wave).lane f.1 := by
        rw [hsend, hcrews]
        exact s.takeDetSeq_other _ (hlt f hf) (Nat.ne_of_lt (hfirst f hf))
      funext q
      simp only [AtomArg.entry, hlane]
    have hrest := ih (s := a.send x op none s e.1 e.2) (c := { c with wbuf := c.wbuf ++ [a.entry x s e.1 r], charges := c.charges ++ [] })
      (by rw [hsend, hcrews]; exact hq) (fun f hf => by rw [hdet]; exact hd f hf) hlt hasc (by rw [hsend]; exact hlook)
      (by rw [hsend, hcrews]; exact hrun)
    have hmap : ls.filterMap (fun f => ((a.send x op none s e.1 e.2).detAt x.crewId f.2).map
        (a.entry x (a.send x op none s e.1 e.2) f.1)) = ls.filterMap (fun f => (s.detAt x.crewId f.2).map (a.entry x s f.1)) :=
      List.filterMap_congr fun f hf => by rw [hdet, hentry f hf]
    rw [hmap] at hrest
    simp only [List.filterMap_cons, hr, Option.map_some]
    exact hrest.trans (List.append_assoc _ _ _)

end

/-! ### ATOM and ATOMC -/

/-- The lanes that send are the active ones, each at its place. -/
theorem AtomArg.mem_lanes {a : AtomArg} {s : State} {x : Ctx} {e : Nat × VAddr} : e ∈ a.lanes s x ↔
    (e.1 < 32 ∧ (x.act a.g.m).getLsbD e.1 = true) ∧ a.place s x (a.addr x.crew (x.wave.lane e.1)) = some e.2 := by
  obtain ⟨l, p⟩ := e
  simp only [AtomArg.lanes, List.mem_filterMap, Option.map_eq_some_iff, Prod.mk.injEq, mem_laneList]
  constructor
  · rintro ⟨l, hl, p, hp, rfl, rfl⟩
    exact ⟨hl, hp⟩
  · exact fun ⟨hl, hp⟩ => ⟨l, hl, p, hp, rfl, rfl⟩

/-- They stand in ascending order. -/
theorem AtomArg.lanes_ascending (a : AtomArg) (s : State) (x : Ctx) : (a.lanes s x).Pairwise (fun e f => e.1 < f.1) := by
  have hlanes : (laneList (x.act a.g.m)).Pairwise (· < ·) := List.Pairwise.filter _ List.pairwise_lt_range
  refine hlanes.filterMap _ fun l k hlt e he f hf => ?_
  obtain ⟨p, -, rfl⟩ := Option.map_eq_some_iff.mp he
  obtain ⟨q, -, rfl⟩ := Option.map_eq_some_iff.mp hf
  exact hlt

/-- An atomic all of whose lanes are in DET regions returns nothing. -/
theorem AtomArg.noret_of_det {a : AtomArg} {s : State} (ha : s.Active a.g) (hr : s.AtomReachable a)
    (hd : ∀ e ∈ a.lanes s s.ctx, s.detAt s.ctx.crewId e.2 ≠ none) : a.noret = true := by
  obtain ⟨hlt, hm⟩ := lowestLane_spec ha
  obtain ⟨-, -, h⟩ := hr _ hlt hm
  split at h
  · next p hp =>
    obtain ⟨-, hret⟩ := h
    by_contra hn
    have hmem : (lowestLane (s.ctx.act a.g.m), p) ∈ a.lanes s s.ctx := AtomArg.mem_lanes.mpr ⟨⟨hlt, hm⟩, hp⟩
    exact hd _ hmem (hret (by simp [hn]))
  · exact h.elim

/-- Settles O11: by what an atomic waits for, and by what its lanes send outside and inside DET regions. -/
theorem atomicIssues : Obligations.AtomicIssues := by
  intro i a s h hc hr ha n charges may free flag c named
  have hi : s.Issuing := hc.1
  obtain ⟨cur, hcur⟩ := hi.cur
  obtain ⟨hsem, hsize⟩ := Instr.sem_of_atomOf h
  have hf := atomSem_fault hc hr
  have hgo (hfree : free) (hflag : a.noret = false → s.FlagFree a.g.m.fsel) : exec i s =
      .next ((a.sendAll s.ctx (a.opName s) (a.flag s) (a.named s (a.flag s)) (a.lanes s s.ctx)).advance i.size) := by
    obtain ⟨hmay, hfits⟩ := hfree
    have hw : (atomSem a).wait s = .go := (AtomArg.wait_fits ha hmay hfits).trans (if_neg fun ⟨hn, hfull⟩ => by simp [hflag hn] at hfull)
    rw [exec_go hsem hcur hf hw, atomSem_eff ha, hsize]
  refine ⟨hgo, fun ⟨hmay, hfits⟩ hn hfull => ?_, fun hs hp => ?_, fun hs ht => ?_, fun need hmay hne ho => ?_, fun hfree hflag hd => ?_,
    fun k0 hfree hq hd hlook hrun => ?_⟩
  · have hw : (atomSem a).wait s = .hold s := (AtomArg.wait_fits ha hmay hfits).trans (if_pos ⟨hn, by simpa using hfull⟩)
    rw [exec_holdFree hsem hcur hf rfl hw, State.holdClause_eq hcur]
  · rw [hsize]
    exact exec_parkActive (m := atomSem a) hsem hi hf (AtomArg.wait_pinned ha hs hp) (by simp) fun _ => atomSem_idle
  · rw [hsize]
    exact exec_parkActive (m := atomSem a) hsem hi hf (AtomArg.wait_txns ha hs ht) (by simp) fun _ => atomSem_idle
  · obtain ⟨hneed, hcap⟩ := Crew.overflows_some ho
    have hw := AtomArg.wait_may ha hmay
    rw [overflowWait_stop hne ho] at hw
    exact ⟨hneed, hcap, exec_stop (m := atomSem a) hsem hcur hf hw⟩
  · obtain ⟨-, hsent⟩ := AtomArg.sendAll_outside (a := a) (op := a.opName s) (flag := a.flag s) (x := s.ctx)
      (s := a.named s (a.flag s)) (ls := a.lanes s s.ctx) fun e he =>
        (State.detAt_of_regionTables (a.regionTables_named s _) _ _).trans (hd e he)
    refine ⟨_, hgo hfree hflag, fun l p hmem => ?_⟩
    obtain ⟨k, hk⟩ := hsent _ hmem
    exact ⟨k, by rw [State.advance_accesses]; exact hk⟩
  · have hn := AtomArg.noret_of_det ha hr hd
    have hflag : a.flag s = none := by simp [AtomArg.flag, hn]
    obtain ⟨crews, hcrews⟩ := s.buffer_crews s.ctx.crewId [] (a.charges s s.ctx)
    have hnamed : a.named s none = { s.buffer s.ctx.crewId [] (a.charges s s.ctx) with
        nextUid := (s.buffer s.ctx.crewId [] (a.charges s s.ctx)).nextUid + 1 } := by
      simp only [AtomArg.named, hn, if_true]
      rfl
    have hcrew : s.ctx.crew = k0 := by
      have : s.crew s.ctx.crewId = k0 := by simp [State.crew, hlook]
      exact this
    have hrun' : (s.gang k0.gang).phase ≠ .stopped := hcrew ▸ hrun
    have hbuf := AtomArg.sendAll_red (a := a) (op := a.opName s) (x := s.ctx) (s := a.named s none) (ls := a.lanes s s.ctx)
      (by rw [hnamed, hcrews]; exact hq) hn (fun e he => by
        rw [State.detAt_of_regionTables (a.regionTables_named s _)]; exact hd e he)
      (fun e he => (AtomArg.mem_lanes.mp he).1.1) (a.lanes_ascending s s.ctx)
      (by rw [hnamed]; exact State.look_buffer hlook hrun' [] _) (by rw [hnamed, hcrews]; exact hrun')
    refine ⟨_, hgo hfree fun hret => by simp [hn] at hret, ?_⟩
    rw [hflag]
    simp only [State.crew, State.advance_crews]
    refine hbuf.trans ?_
    rw [List.append_nil]
    refine congrArg (k0.wbuf ++ ·) (List.filterMap_congr fun e he => ?_)
    rw [State.detAt_of_regionTables (a.regionTables_named s _)]
    have hwave : (a.named s none).wave s.ctx.cur.wave = s.ctx.wave := by rw [hnamed, hcrews]; rfl
    exact congrArg (fun f => (s.detAt s.ctx.crewId e.2).map f) (funext fun r => by simp only [AtomArg.entry, hwave])


end Sys2Proof.Machine
end

section
/-!
BARINIT, BARARR and BAREXP (O18): refuted at a state with an access that already bears the name the operation is about to take.
-/
namespace Sys2Proof.Machine

/-! ### An access that bears a name not yet given out

The obligation has every access of `t` under a name below `t.nextUid`, and says nothing of the instruction that an access names (`op`).
Where an access of other fibres to the object names `t.nextUid`, it counts as one of a lower lane of the same instruction (R107), and the
operation waits behind it. An access is issued under the name of an instruction that has its name already, so no run reaches such a state;
the obligation has no premise that leaves it out. -/

/-- BARINIT of a local object, its address in U0, one arrival. -/
def clashInit : Ext := { d := 0#8, a := 0#8, b := 0#8, m := Mods.zero, w2 := 0x10002#32 }

/-- A store of fibre 5 to the object, under the name 0, which names instruction 1. -/
def clashStore : Access :=
  { op := 1, wave := 0, crew := 0, lane := 1, lanes := 2#32, fibres := [5], flag := none, scope := 4, rel := false, acq := false,
    what := .store 0#32, addr := .loc 0 0, ret := none, txns := 0, fault := none }

/-- Lane 0 of a wave stands at the BARINIT; the next name is 1. -/
def clashState : State :=
  { State.reset with
    crews := [(0, { Crew.nil with lmemSize := 16, unis := [Reg.zero] })], waves := [(0, Wave.nil)], accesses := [(0, clashStore)],
    cur := some { Cursor.nil with lanes := 1#32 }, nextUid := 1 }

/-- Once what must perform first has performed: nothing has, the store being of another fibre. -/
def clashCaught : State :=
  (clashState.catchUpLanes clashState.ctx.cur.wave (clashState.ctx.act clashInit.arg.m)).catchUp clashState.ctx.cur.wave
    (clashState.ctx.act clashInit.arg.m) (clashState.ctx.wave.fibres (clashState.ctx.act clashInit.arg.m)) (.loc 0 0) 16

theorem clashState_ready : clashState.Ready clashInit.arg rolesAll (barOpds clashInit.arg) := by decide +kernel

theorem clashState_object : clashState.BarrierAt clashInit.arg (.loc 0 0) (.loc 0 0) := by decide +kernel

/-- Nothing that the operation must follow is left. -/
theorem clashCaught_free :
    clashCaught.blocked clashCaught.nextUid clashState.ctx.cur.wave (clashState.ctx.act clashInit.arg.m)
      (clashState.ctx.wave.fibres (clashState.ctx.act clashInit.arg.m)) (.loc 0 0) 16 = false ∧
    clashCaught.behindCore clashCaught.nextUid clashCaught.nextUid clashState.ctx.crewId (.loc 0 0) = false ∧
    (∀ e ∈ clashCaught.accesses, e.1 < clashCaught.nextUid) ∧
    clashCaught.home? (clashCaught.spaceOfCrew clashState.ctx.crewId).1 (clashCaught.spaceOfCrew clashState.ctx.crewId).2 (.loc 0 0) =
      some (.loc 0 0) := by decide +kernel

/-- Sent, the operation waits behind the store; done at its home, it would be on its way no more. -/
theorem clash_accesses :
    (clashState.barSend clashState.ctx (clashState.ctx.act clashInit.arg.m) (.loc 0 0) (.init 1) none).accesses.length = 2 ∧
    (({ clashCaught with nextUid := clashCaught.nextUid + 1 } : State).barOp (.loc 0 0) (.init 1)).accesses.length = 1 := by decide +kernel

/-- Refutes O18: BARINIT stays on its way behind a store that bears its instruction's name, where the obligation has it performed. -/
theorem not_barrierResult : ¬ Obligations.BarrierResult := by
  rintro ⟨hsend, -, -⟩
  obtain ⟨hblocked, hcore, hnew, hhome⟩ := clashCaught_free
  obtain ⟨hsent, hdone⟩ := hsend (.barinit clashInit) clashInit.arg (.init 1) none (.loc 0 0) (.loc 0 0) clashState rfl clashState_ready
    (by decide) clashState_object
  have heq := hsent.symm.trans (hdone hblocked hcore (fun _ h => nomatch h) hnew hhome)
  have hlen := congrArg (fun u : State => u.accesses.length) (Host.Outcome.next.inj heq)
  simp only [State.advance_accesses] at hlen
  exact absurd (clash_accesses.1.symm.trans (hlen.trans clash_accesses.2)) (by decide)

end Sys2Proof.Machine
end

section
/-!
BARWAIT and BARTEST (O19): refuted at a state whose gang a late fault stops while BARWAIT looks for its object.
-/
namespace Sys2Proof.Machine

/-! ### A gang stopped by its own fibres' access

The obligation asks whether a fault on the object's page is fatal for the tenant of the clause in `s`. BARWAIT asks it of the clause in
`u`, the state in which its fibres' own accesses have performed where they can. Where one of them ends by a fatal fault and the gang's
crews count as ended (R108), that fault stops the gang there: no clause is being issued any more, and the question is put for a tenant
of another launch. A gang that issues a clause does not count as finished, so no run reaches such a state; the obligation has no premise
that leaves it out. -/

/-- BARWAIT of an object in shelf, its address in U0. -/
def lateWait : Ext := { d := 0#8, a := 0#8, b := 0#8, m := Mods.zero, w2 := 0#32 }

/-- The object's place. -/
def lateObject : VAddr := .shelf 0 0

/-- An atomic of the waiting fibre, of a scope that does not reach its page: it ends by a fatal fault. -/
def lateAtomic : Access :=
  { op := 0, wave := 1, crew := 1, lane := 0, lanes := 1#32, fibres := [0], flag := none, scope := 4, rel := false, acq := true,
    what := .atom 0 false 0#64 .n32, addr := .glob 0, ret := none, txns := 0, fault := none }

/-- The tenant of the clause has the atomic's page and not the object's. -/
def lateTenant : Tenant :=
  { id := 1, slice := 0, status := 0, shadow := [], ebbs := 0, runnable := true, allow := 0,
    pages := [{ shelfDie := none, base := 0, size := 65536, phys := 0, target := .hbm, dirty := false }] }

/-- Lane 0 of wave 1 stands at the BARWAIT, its gang counts as finished; tenant 0 has a fatal fault on the page of the object. -/
def lateState : State :=
  { State.reset with
    parts := [{ Partition.reset with tenants := [lateTenant] }],
    launches := [(1, { Launch.nil with tenant := 1 })], gangs := [(1, { Gang.nil with launch := 1, phase := .finished })],
    crews := [(1, { Crew.nil with gang := 1, unis := [Reg.zero] })], waves := [(1, { Wave.nil with crew := 1 })],
    accesses := [(0, lateAtomic)], tfaults := [(1, { part := 0, tenant := 0, addr := lateObject, fatal := true })],
    cur := some { Cursor.nil with wave := 1, lanes := 1#32 }, nextUid := 2 }

theorem lateState_ready : lateState.Ready lateWait.arg rolesAll (barOpds lateWait.arg) := by decide +kernel

/-- The object is sound, its page is missing, and no fault on it is fatal for the tenant of the clause. -/
theorem lateState_object : (lateState.ctx.crew.uni lateWait.arg.a).val.extractLsb' 0 4 = 0#4 ∧
    barPlace lateState lateState.ctx lateWait.arg = some lateObject ∧
    barHome (lateState.atBarrier lateWait.arg lateObject) lateState.ctx lateWait.arg = none ∧
    (lateState.atBarrier lateWait.arg lateObject).faultOn lateState.ctx.launch.part lateState.ctx.launch.tenant lateObject true = false := by
  decide +kernel

/-- What the waiting fibre is parked on. -/
def latePark (s : State) : Option ParkReason := ((s.wave 1).lane 0).park

/-- BARWAIT leaves the fibre before it, neither parked nor held; the obligation has it park for the object's page. -/
theorem latePark_differs : latePark ((semBarwait lateWait.arg).step lateState) = none ∧
    latePark (((lateState.askFor (.object lateObject)).parkLanes (lateState.ctx.act lateWait.arg.m) (.object lateObject)).advance 3) =
      some (.object lateObject) := by decide +kernel

/-- Refutes O19: the fibre is not parked for the page of its object, which the obligation has it wait for. -/
theorem not_barrierWaitResult : ¬ Obligations.BarrierWaitResult := by
  rintro ⟨-, hmissing, -⟩
  obtain ⟨halign, hplace, hhome, hfault⟩ := lateState_object
  obtain ⟨hparks, -⟩ := hmissing lateWait lateObject lateState lateState_ready halign hplace hhome
  have hstep : exec (.barwait lateWait) lateState = .next ((semBarwait lateWait.arg).step lateState) :=
    (exec_of_sem lateState rfl).trans (runSem_of_cur rfl)
  have heq := congrArg latePark (Host.Outcome.next.inj (hstep.symm.trans (hparks hfault)))
  exact absurd (latePark_differs.1.symm.trans (heq.trans latePark_differs.2)) (by decide)

end Sys2Proof.Machine
end

section
/-!
FORK (O14), the end of fibres (O15), and the position a wave chooses (O52).
-/
namespace Sys2Proof.Machine

/-! ### FORK (R14, R266) -/

theorem Instr.sem_of_forkOf {i : Instr} {g : Arg} {pd n : Nat} {off : Word} (h : forkOf i = some (g, pd, n, off)) :
    i.sem = some (semFork g pd n off) ∧ i.size = g.size := by
  cases i <;> dsimp only [forkOf] at h <;> cases h <;> exact ⟨rfl, rfl⟩

/-- FORK and FEND are for crews that belong to no keyed node (R186). -/
theorem forkRole_none {s : State} (hr : s.HasRole rolesAll) (hk : s.keyedCrew s.ctx = false) : forkRole s = none := by
  simp only [forkRole, hk, hr.none]

/-- The argument registers of every active fibre lie in its register file. -/
theorem State.OnLanes.arguments {s : State} {act : Lanes} {a n : Nat} (h : s.OnLanes act (fun ln => ln.wb + a + n ≤ s.ctx.crew.nreg)) :
    laneFault .bounds s.ctx act (fun _ ln => if s.ctx.crew.nreg < ln.wb + a + n then some (0#64, 0#64) else none) = none :=
  laneFault_none fun l hl ha => if_neg (Nat.not_lt.mpr (h l hl ha))

/-- Settles O14: the checks of FORK find nothing, and its effect is what is said of it. -/
theorem forkResult : Obligations.ForkResult := by
  intro i g pd n off s h ⟨hi, hr, hw, hl⟩ hk hroom
  obtain ⟨c, hcur⟩ := hi.cur
  obtain ⟨hsem, hsize⟩ := Instr.sem_of_forkOf h
  rw [hsize]
  exact exec_simple hsem hcur (by rw [forkRole_none hr hk, hw.none]; rfl) (by dsimp only; rw [hroom.arguments, hl.none]; rfl)

/-! ### FEND, KSUSP and KRET (R15, R272, R273) -/

theorem Instr.sem_of_fendOf {i : Instr} {g : Arg} (h : fendOf i = some g) : i.sem = some (semFend g) ∧ i.size = g.size := by
  cases i <;> dsimp only [fendOf] at h <;> cases h <;> exact ⟨rfl, rfl⟩

/-- KSUSP and KRET are for crews of keyed nodes (R186). -/
theorem keyedRole_none {s : State} {sub : Nat} (hr : s.HasRole rolesAll) (hk : s.keyedCrew s.ctx = true) : keyedRole s sub = none := by
  simp only [keyedRole, hk, Bool.not_true, hr.none]

/-- Settles O15, one instruction after the other. -/
theorem endResult : Obligations.EndResult := by
  refine ⟨fun i g s h hi hr hk => ?_, fun f s ⟨hi, hr, hw, hl⟩ hk => ?_, fun f s hi hr hk => ?_⟩ <;> obtain ⟨c, hcur⟩ := hi.cur
  · obtain ⟨hsem, hsize⟩ := Instr.sem_of_fendOf h
    rw [hsize]
    exact exec_simple hsem hcur (forkRole_none hr hk) rfl
  · exact exec_simple (i := .ksusp f) rfl hcur (by rw [keyedRole_none hr hk, hw.none]; rfl) hl.none
  · exact exec_simple (i := .kret f) rfl hcur (keyedRole_none hr hk) rfl

/-! ### The position a wave chooses (R18) -/

/-- With an aged fibre the choice is among the aged ones. -/
theorem choosePosition_aged {xs : List Lane} {a : Lane} {as : List Lane} (h : xs.filter (fun y => 64 ≤ y.age) = a :: as) :
    choosePosition xs = some ((as.foldl agedFirst a).pc, (as.foldl agedFirst a).pos) := by
  cases xs with
  | nil => cases h
  | cons x xs => simp only [choosePosition, h]

/-- With none it is among all. -/
theorem choosePosition_young {x : Lane} {xs : List Lane} (h : ∀ y ∈ x :: xs, y.age < 64) :
    choosePosition (x :: xs) = some ((xs.foldl lowFirst x).pc, (xs.foldl lowFirst x).pos) := by
  have hnone : (x :: xs).filter (fun y => 64 ≤ y.age) = [] := List.filter_eq_nil_iff.mpr fun y hy => by simpa using h y hy
  simp only [choosePosition, hnone]

/-- The fibre chosen among the aged ones goes before every fibre, one that is not aged being younger. -/
theorem choosePosition_aged_greatest {xs : List Lane} (h : ∃ y ∈ xs, 64 ≤ y.age) :
    ∃ x ∈ xs, choosePosition xs = some (x.pc, x.pos) ∧ 64 ≤ x.age ∧
      ∀ y ∈ xs, y.age ≤ x.age ∧ (y.age = x.age → x.pc ≤ y.pc ∧ (y.pc = x.pc → y.pos ≤ x.pos)) := by
  obtain ⟨y₀, hy₀, hage⟩ := h
  have hmem {y : Lane} : y ∈ xs.filter (fun y => 64 ≤ y.age) ↔ y ∈ xs ∧ 64 ≤ y.age := by simp
  cases hf : xs.filter (fun y => 64 ≤ y.age) with
  | nil => exact absurd (hmem.mpr ⟨hy₀, hage⟩) (hf ▸ List.not_mem_nil)
  | cons a as =>
    obtain ⟨x, hx, hfold, hbest⟩ := agedFirst_greatest as a
    obtain ⟨hxs, hx64⟩ := hmem.mp (hf ▸ hx)
    refine ⟨x, hxs, hfold ▸ choosePosition_aged hf, hx64, fun y hy => ?_⟩
    by_cases hy64 : 64 ≤ y.age
    · exact hbest y (hf ▸ hmem.mpr ⟨hy, hy64⟩)
    · exact ⟨by omega, fun heq => by omega⟩

/-- Settles O52, by whether a fibre is aged. -/
theorem positionChoice : Obligations.PositionChoice := by
  intro xs hne
  by_cases h : ∃ y ∈ xs, 64 ≤ y.age
  · obtain ⟨x, hx, hc, hx64, hbest⟩ := choosePosition_aged_greatest h
    exact ⟨x, hx, hc, fun _ => hbest, fun hyoung => absurd (hyoung x hx) (Nat.not_lt.mpr hx64)⟩
  · have hyoung : ∀ y ∈ xs, y.age < 64 := fun y hy => Nat.lt_of_not_le fun hy64 => h ⟨y, hy, hy64⟩
    obtain ⟨a, as, rfl⟩ := List.exists_cons_of_ne_nil hne
    obtain ⟨x, hx, hfold, hbest⟩ := lowFirst_least as a
    exact ⟨x, hx, hfold ▸ choosePosition_young hyoung, fun haged => absurd haged h, fun _ => hbest⟩

end Sys2Proof.Machine
end

section
/-!
Precise faults (O60): what the record of a fault leaves alone, which gang it stops, the role an instruction asks for, and misaligned
addresses.
-/
namespace Sys2Proof.Machine

/-! ### What the addresses of a gang depend on (R91) -/

/-- The gang of a crew, its index there, and the size of its local memory. -/
def Crew.addressKey (c : Crew) : Nat × Nat × Nat := (c.gang, c.idx, c.lmemSize)

/-- The launch of a gang, and the node whose crew it is. -/
def Gang.addressKey (g : Gang) : Nat × Option Nat := (g.launch, g.node)

/-- These of every crew and gang, and the descriptor of every launch. -/
def State.addressTables (s : State) : List (Nat × Nat × Nat × Nat) × List (Nat × Nat × Option Nat) × List (Nat × Desc) :=
  (shown Crew.addressKey s.crews, shown Gang.addressKey s.gangs, shown Launch.desc s.launches)

section
variable (s : State)

@[simp] theorem State.addressTables_modCrew (k : Nat) {f : Crew → Crew} (hf : ∀ c, (f c).addressKey = c.addressKey) :
    (s.modCrew k f).addressTables = s.addressTables := by
  simp only [State.addressTables, State.modCrew, shown_change hf]

@[simp] theorem State.addressTables_writeHome (h : Home) (b : Byte) : (s.writeHome h b).addressTables = s.addressTables := by
  cases h with
  | phys a => rfl
  | loc c o => exact s.addressTables_modCrew c fun _ => rfl

@[simp] theorem State.addressTables_putNat (hs : List Home) (v : Nat) : (s.putNat hs v).addressTables = s.addressTables := by
  induction hs generalizing s v with
  | nil => rfl
  | cons h hs ih => exact (ih _ _).trans (s.addressTables_writeHome h _)

end

/-! ### What a record leaves alone (R206) -/

/-- Posting a record changes what memory holds, which pages are dirty, the numbers and the waiting records of queues, the faults on
their pages, and the next name; all else is as it was, and of crews what addresses depend on. -/
structure State.RecordsOnly (s t : State) : Prop where
  rest : ∃ m cs ps qs ws fs n, t = { s with
    mem := m, crews := cs, parts := ps, queueSeq := qs, waitingRecs := ws, tfaults := fs, nextUid := n }
  tables : t.addressTables = s.addressTables

theorem State.RecordsOnly.refl (s : State) : s.RecordsOnly s := ⟨⟨_, _, _, _, _, _, _, rfl⟩, rfl⟩

theorem State.RecordsOnly.trans {s t u : State} (h : s.RecordsOnly t) (k : t.RecordsOnly u) : s.RecordsOnly u := by
  obtain ⟨⟨_, _, _, _, _, _, _, rfl⟩, ht⟩ := h
  obtain ⟨⟨_, _, _, _, _, _, _, rfl⟩, kt⟩ := k
  exact ⟨⟨_, _, _, _, _, _, _, rfl⟩, kt.trans ht⟩

theorem State.writeNat?_recordsOnly {s t : State} {part tenant n v : Nat} {a : VAddr} (h : s.writeNat? part tenant a n v = some t) :
    s.RecordsOnly t := by
  obtain ⟨hs, -, rfl⟩ := Option.map_eq_some_iff.mp h
  have htables := s.addressTables_putNat hs v
  obtain ⟨⟨m, cs, hput⟩, -⟩ := s.putNat_memoryOnly hs v
  rw [hput] at htables ⊢
  dsimp only
  split <;> exact ⟨⟨_, _, _, _, _, _, _, rfl⟩, htables⟩

/-- Where bytes are written, or else left. -/
theorem State.writeNat?_getD_recordsOnly (s : State) (part tenant : Nat) (a : VAddr) (n v : Nat) :
    s.RecordsOnly ((s.writeNat? part tenant a n v).getD s) := by
  cases h : s.writeNat? part tenant a n v with
  | none => exact .refl s
  | some t => exact State.writeNat?_recordsOnly h

theorem State.takeSeq_recordsOnly (s : State) (pa : Nat) : s.RecordsOnly (s.takeSeq pa).2 := by
  unfold State.takeSeq
  split <;> exact ⟨⟨_, _, _, _, _, _, _, rfl⟩, rfl⟩

theorem State.dropRecord_recordsOnly (s : State) (part tenant : Nat) (hdr : VAddr) : s.RecordsOnly (s.dropRecord part tenant hdr) := by
  unfold State.dropRecord
  split
  · exact s.writeNat?_getD_recordsOnly _ _ _ _ _
  · exact .refl s

theorem State.writeRecord_recordsOnly (s : State) (q : Dword) (tenant : Nat) (r : FaultRec) : s.RecordsOnly (s.writeRecord q tenant r) := by
  unfold State.writeRecord
  split
  · next pa _ =>
    have hseq := s.takeSeq_recordsOnly pa
    generalize s.takeSeq pa = e at hseq ⊢
    obtain ⟨seq, t⟩ := e
    refine hseq.trans ?_
    dsimp only
    split
    · split
      · split
        · next hw =>
          obtain ⟨_, -, hw⟩ := Option.bind_eq_some_iff.mp hw
          exact (State.writeNat?_recordsOnly hw).trans (State.writeNat?_getD_recordsOnly _ _ _ _ _ _)
        · exact t.dropRecord_recordsOnly _ _ _
      · exact t.dropRecord_recordsOnly _ _ _
    · exact .refl t
  · exact .refl s

theorem State.putRecord_recordsOnly (s : State) (q : Dword) (tenant : Nat) (r : FaultRec) : s.RecordsOnly (s.putRecord q tenant r).2 := by
  unfold State.putRecord
  dsimp only
  split
  · exact ⟨⟨_, _, _, _, _, _, _, rfl⟩, rfl⟩
  · split
    · exact s.writeRecord_recordsOnly q tenant r
    · split <;> exact ⟨⟨_, _, _, _, _, _, _, rfl⟩, rfl⟩

theorem State.postTo_recordsOnly (s : State) (q : Dword) (tenant : Nat) (r : FaultRec) : s.RecordsOnly (s.postTo q tenant r) := by
  unfold State.postTo
  have hput := s.putRecord_recordsOnly q tenant r
  generalize s.putRecord q tenant r = e at hput ⊢
  obtain ⟨_ | a, t⟩ := e
  · exact hput
  · dsimp only
    split
    · exact hput
    · exact hput.trans (t.putRecord_recordsOnly _ _ _)

theorem State.postLaunch_recordsOnly (s : State) (k : Nat) (r : FaultRec) : s.RecordsOnly (s.postLaunch k r) := by
  unfold State.postLaunch
  dsimp only
  split <;> exact s.postTo_recordsOnly _ _ _

/-! ### A gang that stops alone (R207, R30) -/

theorem names_eq_nil {α : Type} {p : α → Bool} {t : List (Nat × α)} (h : ∀ e ∈ t, p e.2 = false) : names p t = [] := by
  simpa [names] using h

section
variable {s : State} {g : Nat} {x : Gang}

/-- A gang that had not retired is stopped, and none of its commands is left. -/
theorem State.stopGang_stops (hg : look g s.gangs = some x) (hx : x.phase ≠ .retired) :
    ((s.stopGang g).gang g).phase = .stopped ∧ ∀ e ∈ (s.stopGang g).cmds, e.2.gang ≠ g := by
  refine ⟨?_, fun e he => ?_⟩
  · simp only [State.stopGang, State.gang, State.modGang, look_change_self, hg]
    simp [hx]
  · simpa using (List.mem_filter.mp he).2

/-- Where no launch of its own runs, it stops alone. -/
theorem State.stopGangs_childless (ancestor : Word) (n : Nat) (hkids : ∀ e ∈ s.launches, e.2.phase = .running → e.2.parent ≠ some g) :
    s.stopGangs ancestor (n + 1) [g] = s.stopGang g := by
  have hnone : ∀ e ∈ (s.stopGang g).launches, (e.2.phase == .running && (match e.2.parent with | some h => [g].contains h | none => false)) = false := by
    intro e he
    cases hp : e.2.parent with
    | none => simp
    | some h =>
      refine Bool.eq_false_iff.mpr fun hkid => ?_
      simp only [Bool.and_eq_true, beq_iff_eq, List.contains_eq_mem, List.mem_singleton, decide_eq_true_eq] at hkid
      exact hkids e he hkid.1 (hkid.2 ▸ hp)
  unfold State.stopGangs
  dsimp only
  split
  · next h =>
    rw [List.isEmpty_iff.mp h]
    rfl
  · next h => exact absurd (List.isEmpty_iff.mpr (names_eq_nil hnone)) h

/-- Under POLICY 0 a fault stops the gang alone then. -/
theorem State.faultGang_alone (hpolicy : (s.launch (s.gang g).launch).desc.policy = false)
    (hkids : ∀ e ∈ s.launches, e.2.phase = .running → e.2.parent ≠ some g) :
    s.faultGang g = (s.stopGang g).modLaunch (s.gang g).launch (fun l => { l with status := 1 }) := by
  simp only [State.faultGang, hpolicy, State.stopGangs_childless _ 11 hkids]
  rfl

end

/-- A precise fault stops the gang of the clause, where its launch goes on and none that it started runs. -/
theorem State.takeFault_stops {s : State} {c : Cursor} (p : Precise) (xpc : Word) {x : Gang} (hc : s.cur = some c)
    (hpolicy : s.ctx.launch.desc.policy = false) (hg : look s.ctx.gangId s.gangs = some x) (hx : x.phase ≠ .retired)
    (hkids : ∀ e ∈ s.launches, e.2.phase = .running → e.2.parent ≠ some s.ctx.gangId) :
    (s.takeFault c p xpc).cur = none ∧ ((s.takeFault c p xpc).gang s.ctx.gangId).phase = .stopped ∧
      ∀ e ∈ (s.takeFault c p xpc).cmds, e.2.gang ≠ s.ctx.gangId := by
  have hctx : s.ctxOf c = s.ctx := by rw [State.ctx, hc]; rfl
  refine ⟨rfl, ?_⟩
  simp only [State.takeFault, hctx]
  generalize ({ s.recOfCrew p.cls s.ctx.crewId with
    stop := true, lstop := s.ctx.launch.desc.policy, wave := s.ctx.wave.idx, slot := c.idx, lanes := p.lanes, pc := c.pc,
    xpc := xpc, addr := p.addr, info := p.info } : FaultRec) = r
  obtain ⟨⟨_, _, _, _, _, _, _, ht⟩, -⟩ := s.postLaunch_recordsOnly s.ctx.launchId r
  generalize s.postLaunch s.ctx.launchId r = t at ht ⊢
  have hgangs : t.gangs = s.gangs := by rw [ht]
  have hlaunches : t.launches = s.launches := by rw [ht]
  have hgang : t.gang s.ctx.gangId = s.ctx.gang := by simp only [State.gang, hgangs]; rfl
  have hlaunch : t.launch (t.gang s.ctx.gangId).launch = s.ctx.launch := by simp only [hgang, State.launch, hlaunches]; rfl
  rw [State.faultGang_alone (by rw [hlaunch]; exact hpolicy) (by rw [hlaunches]; exact hkids)]
  exact State.stopGang_stops (by rw [hgangs]; exact hg) hx

/-! ### When the check step finds a fault (R58) -/

/-- The fault is taken; a TRAP's comes after what its record releases (R209). -/
theorem exec_fault {i : Instr} {m : Sem} {s : State} {c : Cursor} {p : Precise} (hi : i.sem = some m) (hc : s.cur = some c)
    (hf : m.fault s = some p) (hp : p.cls ≠ .trap) : exec i s = .next (s.takeFault c p 0#32) := by
  rw [exec_of_sem s hi, runSem_of_cur hc, Sem.step_fault hf, hc]
  simp [State.meetFault, hp]

theorem Sem.fault_static {m : Sem} {s : State} {p : Precise} (h : m.static s = some p) : m.fault s = some p := by
  simp [Sem.fault, h]

/-! ### ROLE (R25, R204) -/

/-- What a ROLE fault says of an instruction. -/
def State.rolePrecise (s : State) (op sub : Nat) : Precise :=
  { cls := .role, info := BitVec.ofNat 64 (op + sub * 256), addr := 0#64, lanes := s.ctx.cur.lanes }

section
variable {s : State} {roles : List Nat} {op sub : Nat}

theorem roleFault_extra {extra : Bool} (h : extra = true) : roleFault s.ctx roles op sub extra = some (s.rolePrecise op sub) := by
  simp [roleFault, State.rolePrecise, h]

theorem roleFault_barred {extra : Bool} (h : ¬ s.HasRole roles) : roleFault s.ctx roles op sub extra = some (s.rolePrecise op sub) := by
  simp [roleFault, State.rolePrecise, h]

/-- The role comes before the register window (R59). -/
theorem roleFault_barred_first {t : List (Option Precise)} (h : ¬ s.HasRole roles) :
    firstFault (roleFault s.ctx roles op sub false :: t) = some (s.rolePrecise op sub) := by
  rw [roleFault_barred h]
  rfl

/-- The crew has not the array that a matrix instruction needs (R138). -/
theorem matRole_barred {leader : Bool} (h : ¬ s.HasArray roles leader) : matRole s.ctx roles sub leader = some (s.rolePrecise 24 sub) := by
  by_cases hr : s.HasRole roles
  · refine roleFault_extra (Bool.not_eq_false _ ▸ fun hextra => h ?_)
    simp only [Bool.or_eq_false_iff, Bool.not_eq_eq_eq_not, Bool.not_false, Option.isSome_eq_false_iff, Option.isNone_iff_eq_none,
      Bool.and_eq_false_imp, beq_eq_false_iff_ne] at hextra
    exact ⟨hr, hextra.1.1, hextra.1.2, hextra.2⟩
  · exact roleFault_barred hr

theorem matRole_barred_first {leader : Bool} {t : List (Option Precise)} (h : ¬ s.HasArray roles leader) :
    firstFault (matRole s.ctx roles sub leader :: t) = some (s.rolePrecise 24 sub) := by
  rw [matRole_barred h]
  rfl

/-- FORK and FEND in a keyed-node crew (R186). -/
theorem forkRole_keyed (h : s.keyedCrew s.ctx = true) : forkRole s = some (s.rolePrecise 19 0) := roleFault_extra h

/-- KSUSP and KRET elsewhere. -/
theorem keyedRole_unkeyed (h : s.keyedCrew s.ctx = false) : keyedRole s sub = some (s.rolePrecise 28 sub) :=
  roleFault_extra (by rw [h]; rfl)

end

/-- An instruction that the crew may not run finds ROLE before anything else. -/
theorem Instr.static_of_roleOf {s : State} {i : Instr} {op sub : Nat} {barred : Prop} (h : roleOf s i = some (op, sub, barred))
    (hb : barred) : ∃ m, i.sem = some m ∧ m.static s = some (s.rolePrecise op sub) := by
  cases i with
  | sfu f | sfuExt f | perm f | permExt f | shfl f | shflExt f | reduce f | reduceExt f | scan f | scanExt f | welf f | welfExt f
  | vpix f | rayq f | trd f | twr f | bxunion f | sahcost f | nodepack f | remit f =>
    cases h
    exact ⟨_, rfl, roleFault_barred_first hb⟩
  | copy f | copyb f | copyg f | copys f | view f | vstat f | tld f | tst f | hld f | hst f | hbind f | hperm f | hbund f | hclr f
  | hthr f | hdist f | hnear f | hgen f =>
    cases h
    exact ⟨_, rfl, roleFault_barred hb⟩
  | mma f | mmaq f | mcommit f | mwait f | mzero f =>
    cases h
    exact ⟨_, rfl, matRole_barred hb⟩
  | mrd f | mwr f =>
    cases h
    exact ⟨_, rfl, matRole_barred_first hb⟩
  | smv f =>
    cases h
    exact ⟨_, rfl, hb.elim roleFault_barred fun hodd => roleFault_extra (by simp [hodd])⟩
  | fork _ _ | forkExt f =>
    cases h
    exact ⟨_, rfl, by simp only [semFork, Sem.simple, forkRole_keyed hb]; rfl⟩
  | fend | fendExt f =>
    cases h
    exact ⟨_, rfl, forkRole_keyed hb⟩
  | ksusp f =>
    cases h
    exact ⟨_, rfl, by simp only [semKsusp, Sem.simple, keyedRole_unkeyed hb]; rfl⟩
  | kret f =>
    cases h
    exact ⟨_, rfl, keyedRole_unkeyed hb⟩
  | launch f =>
    cases h
    exact ⟨_, rfl, roleFault_extra (by simpa [Option.isSome_iff_ne_none] using hb)⟩
  | _ => cases h

/-! ### ALIGN (R88) -/

/-- The lowest lane of a set comes first in its list. -/
theorem laneList_eq_cons {m : Lanes} (h : m ≠ 0#32) : ∃ ls, laneList m = lowestLane m :: ls := by
  cases hls : laneList m with
  | nil => exact absurd (mem_laneList.mpr (lowestLane_spec h)) (hls ▸ List.not_mem_nil)
  | cons l ls => exact ⟨ls, by simp [lowestLane, hls]⟩

/-- A fault of some active lanes names them, with INFO and ADDR of the lowest. -/
theorem laneFault_some {cls : FaultClass} {x : Ctx} {act hit : Lanes} {f : Nat → Lane → Option (Dword × Dword)} {info addr : Dword}
    (hhit : hit = laneSet (fun l => act.getLsbD l && (f l (x.wave.lane l)).isSome)) (hne : hit ≠ 0#32)
    (hlow : f (lowestLane hit) (x.wave.lane (lowestLane hit)) = some (info, addr)) :
    laneFault cls x act f = some { cls := cls, info := info, addr := addr, lanes := hit } := by
  obtain ⟨ls, hls⟩ := laneList_eq_cons hne
  simp only [laneFault, ← hhit, hls, hlow]

section
variable {s : State} {g : Arg}

/-- The misaligned addresses of a load or store. -/
theorem lsFaults_align (shelf : Bool) (h : s.misaligned g ≠ 0#32) :
    firstFault (lsFaults s s.ctx (s.ctx.act g.m) g shelf) = some
      { cls := .align, info := 0#64, addr := lsTagged shelf (lsAddr g s.ctx.crew (s.ctx.wave.lane (lowestLane (s.misaligned g)))),
        lanes := s.misaligned g } := by
  obtain ⟨hl, hm⟩ := lowestLane_spec h
  have hodd := (getLsbD_laneSet _ hl).symm.trans hm
  have hlanes : s.misaligned g = laneSet (fun l => (s.ctx.act g.m).getLsbD l &&
      (if (lsAddr g s.ctx.crew (s.ctx.wave.lane l)).extractLsb' 0 2 != 0#2 then
        some (0#64, lsTagged shelf (lsAddr g s.ctx.crew (s.ctx.wave.lane l))) else none).isSome) := by
    refine congrArg laneSet (funext fun l => congrArg _ ?_)
    split <;> simp_all
  have hfault := laneFault_some (cls := .align) (x := s.ctx) (f := fun _ ln =>
      if (lsAddr g s.ctx.crew ln).extractLsb' 0 2 != 0#2 then some (0#64, lsTagged shelf (lsAddr g s.ctx.crew ln)) else none)
    hlanes h (if_pos (Bool.and_eq_true_iff.mp hodd).2)
  simp only [lsFaults, hfault, firstFault_some]

/-- Behind the checks that every instruction makes, a load finds them first. -/
theorem loadSem_align {shelf : Bool} (hc : s.Clear g rolesAll (g.srcA.opds ++ [.v g.d])) (h : s.misaligned g ≠ 0#32) :
    (loadSem g shelf).fault s = firstFault (lsFaults s s.ctx (s.ctx.act g.m) g shelf) := by
  obtain ⟨_, hrole, hwin, hland⟩ := hc
  simp only [Sem.fault, loadSem, State.static_none hrole hwin, hland.none, firstFault_none, lsFaults_align shelf h, firstFault_some]

/-- A store does so behind its tags. -/
theorem storeSem_align {shelf : Bool} (hc : s.Clear g rolesAll (g.srcA.opds ++ [.v g.d]))
    (ht : s.OnLanes (s.ctx.act g.m) (fun ln => tagOf (g.b / 16) = .raw ∨ (ln.readV g.d).tag = tagOf (g.b / 16)))
    (h : s.misaligned g ≠ 0#32) : (storeSem g shelf).fault s = firstFault (lsFaults s s.ctx (s.ctx.act g.m) g shelf) := by
  obtain ⟨_, hrole, hwin, hland⟩ := hc
  have hformat : formatFault s.ctx (s.ctx.act g.m)
      (fun ln => if tagOf (g.b / 16) == .raw then none else oneTag (tagOf (g.b / 16)) (ln.readV g.d).tag) = none :=
    formatFault_none fun l hl hm => by
      obtain h | h := ht l hl hm <;> simp [h, oneTag]
  simp only [Sem.fault, storeSem, State.static_none hrole hwin, hland.none, hformat, List.cons_append, List.nil_append,
    firstFault_none, lsFaults_align shelf h, firstFault_some]

end

/-- Settles O60: the fault taken, the gang it stops, then ROLE and ALIGN. -/
theorem faultTaken : Obligations.FaultTaken := by
  refine ⟨fun i m p c s hi hc hf hp => ?_, fun c p x s hc hpolicy hg hrun hkids => ?_, fun i op sub barred c s h hc hb => ?_,
    fun i g shelf c s hi hc hclear htags hodd => ?_⟩
  · have hctx : s.ctxOf c = s.ctx := by rw [State.ctx, hc]; rfl
    rw [exec_fault hi hc hf hp, State.takeFault, hctx]
  · exact s.takeFault_stops p 0#32 hc hpolicy hg (by simp [hrun]) hkids
  · obtain ⟨m, hsem, hstatic⟩ := Instr.static_of_roleOf h hb
    have hlanes : s.ctx.cur.lanes = c.lanes := by rw [State.ctx, hc]; rfl
    rw [exec_fault hsem hc (Sem.fault_static hstatic) (by simp [State.rolePrecise]), State.rolePrecise, hlanes]
  · have hfault : ∃ m, i.sem = some m ∧ m.fault s = firstFault (lsFaults s s.ctx (s.ctx.act g.m) g shelf) := by
      obtain hl | hst := hi
      · exact ⟨_, (Instr.sem_of_loadOf hl).1, loadSem_align hclear hodd⟩
      · exact ⟨_, Instr.sem_of_storeOf hst, storeSem_align hclear (htags hst) hodd⟩
    obtain ⟨m, hsem, hf⟩ := hfault
    exact exec_fault hsem hc (hf.trans (lsFaults_align shelf hodd)) (by simp)

end Sys2Proof.Machine
end

section
/-!
The issue of clauses (O39): issue opportunities, held clauses, the position issued, and the check step of a clause.
-/
namespace Sys2Proof.Machine

/-! ### ISSUE_OPPORTUNITY (R20) -/

/-- The wave chosen comes first after the slot, of all that could be. -/
theorem nextSlot_first {rr wave slot : Nat} {es : List (Nat × Nat)} (h : nextSlot rr es = some (wave, slot)) :
    ∀ e ∈ es, (slot + 47 - rr) % 48 ≤ (e.2 + 47 - rr) % 48 := by
  cases es with
  | nil => cases h
  | cons e es =>
    have hfold := Option.some.inj h
    obtain ⟨hhead, htail⟩ := nextSlot_least rr es e
    rw [hfold] at hhead htail
    exact List.forall_mem_cons.mpr ⟨hhead, htail⟩

/-- Between clauses the core's clocks advance, and the wave chosen is served. -/
theorem State.issueOpportunity_serves {s : State} {core wave slot : Nat} (hcur : s.cur = none) :
    let u := s.freeNext.2.modCore core (fun c => { c with cycles := (c.cycles + Config.freeClocks s.freeNext.1) % 2 ^ 64 })
    nextSlot (u.core core).rr (((u.readyOn core).filter (fun k => !u.passedOver (u.readyOn core) k)).map (fun k => (k, (u.wave k).slot))) =
      some (wave, slot) →
    s.issueOpportunity core = ((u.modCore core (fun c => { c with rr := slot })).serve wave).issueWave wave := by
  intro u h
  simp only [u] at h
  simp only [State.issueOpportunity, hcur, Option.isSome_none, Bool.false_eq_true, if_false, h]
  rfl

/-! ### What follows the check step -/

/-- The clause goes on from the state that passed the check step, and meets the fault of one that did not. -/
def State.checked (s : State) (is : List Instr) : State :=
  match checkAll is s with
  | some (d, p) => s.meetFault d p
  | none => s

theorem State.checked_passed {s : State} {is : List Instr} (h : checkAll is s = none) : s.checked is = s := by
  simp only [State.checked, h]

theorem State.checked_fault {s : State} {is : List Instr} {d : Cursor} {p : Precise} (h : checkAll is s = some (d, p)) :
    s.checked is = s.meetFault d p := by
  simp only [State.checked, h]

/-! ### CLAUSE_CONTINUE (R58, R269) -/

section
variable {s : State} {wave : Nat} {c : Cursor}

/-- A clause that is held, of a wave whose gang runs in its places while no other clause is being issued. -/
structure State.HeldClause (s : State) (wave : Nat) (c : Cursor) : Prop where
  cur : s.cur = none
  hold : (s.wave wave).hold = some c
  ended : (s.wave wave).ended = false
  awake : s.awake (s.wave wave).crew = true
  running : (s.gang (s.crew (s.wave wave).crew).gang).phase = .running

/-- The state in which it is taken up again. -/
def State.resumed (s : State) (wave : Nat) (c : Cursor) : State :=
  { (s.modWave wave (fun w => { w with hold := none })) with cur := some { c with ebbed := false } }

/-- Outside an ebb a clause that still decodes holds on where its instruction does, or what is left of it is checked. -/
theorem State.HeldClause.resume (h : s.HeldClause wave c) {cl : Clause} {i : Instr} {m : Sem}
    (hres : s.resides (s.gang (s.crew (s.wave wave).crew).gang).launch = true)
    (hcl : (s.resumed wave c).decodeClause (s.gang (s.crew (s.wave wave).crew).gang).launch c.pc = .ok cl)
    (hi : (cl.instrs.drop c.idx).head? = some i) (hm : i.sem = some m) :
    (∀ t, (s.resumed wave c).holdsOn (m.wait (s.resumed wave c)) = some t → s.clauseContinue wave = t.holdClause) ∧
    ((s.resumed wave c).holdsOn (m.wait (s.resumed wave c)) = none →
      s.clauseContinue wave = (s.resumed wave c).checked (cl.instrs.drop c.idx)) := by
  obtain ⟨hcur, hhold, hended, hawake, hrun⟩ := h
  simp only [State.resumed] at hcl
  refine ⟨fun t ht => ?_, fun ht => ?_⟩ <;> simp only [State.resumed] at ht
  all_goals
    simp only [State.clauseContinue, hhold, hcur, hended, hawake, hrun, hres, hcl, hi, hm, ht, Option.bind_some, Option.isSome_none,
      bne_self_eq_false, Bool.not_true, Bool.or_self, Bool.false_eq_true, if_false]
  rfl

/-- In an ebb nothing but an HLD or HST that has begun goes on. -/
theorem State.HeldClause.ebb (h : s.HeldClause wave c)
    (hres : s.resides (s.gang (s.crew (s.wave wave).crew).gang).launch = false) :
    s.clauseContinue wave = if c.ebbed = false ∧ (s.fetchInstr c).any isHyperMove = true then s.finishMove c else s := by
  obtain ⟨hcur, hhold, hended, hawake, hrun⟩ := h
  simp only [State.clauseContinue, hhold, hcur, hended, hawake, hrun, hres, State.moving, Option.isSome_none, bne_self_eq_false,
    Bool.not_true, Bool.or_self, Bool.false_eq_true, if_false, Bool.not_false, Bool.true_and, if_true, beq_self_eq_true, Bool.and_true,
    Bool.and_eq_true, Bool.not_eq_eq_eq_not]

end

/-- The instruction holds the clause again where it has served no lane meanwhile. -/
theorem State.holdsOn_hold {s t : State} (h : t.ctx.cur.served = s.ctx.cur.served) : s.holdsOn (.hold t) = some t := by
  simp [State.holdsOn, h]

theorem State.holdsOn_none {s : State} {w : Wait} (h : ∀ t, w = .hold t → t.ctx.cur.served ≠ s.ctx.cur.served) : s.holdsOn w = none := by
  cases w with
  | hold t => simp [State.holdsOn, h t rfl]
  | _ => rfl

/-- The move that has begun ends, and the clause stays before the next instruction. -/
theorem State.finishMove_eq {s : State} {c : Cursor} {i : Instr} {m : Sem} (hi : s.fetchInstr c = some i) (hm : i.sem = some m) :
    let t := m.step { (s.modWave c.wave (fun w => { w with hold := none })) with cur := some c }
    (t.cur = none → s.finishMove c = t) ∧
    ∀ d, t.cur = some d → s.finishMove c = { (t.modWave d.wave (fun w => { w with hold := some { d with ebbed := true } })) with
      cur := none } := by
  intro t
  have hmove : s.finishMove c = match t.cur with
      | some d => ({ t with cur := some { d with ebbed := true } } : State).holdClause
      | none => t := by
    simp only [State.finishMove, hi, hm, Option.bind_some]
    rfl
  exact ⟨fun h => by rw [hmove, h], fun d h => by rw [hmove, h]; rfl⟩

/-- A gang with a crew whose place another partition has taken stands still (R23). -/
theorem State.unseated_stands {s : State} {wave : Nat} (h : s.gangSeated (s.crew (s.wave wave).crew).gang = false) :
    s.clauseContinue wave = s ∧ s.waveReady wave = false := by
  have hawake : s.awake (s.wave wave).crew = false := by simp [State.awake, h]
  refine ⟨?_, by simp [State.waveReady, State.waveMayIssue, h]⟩
  unfold State.clauseContinue
  dsimp only
  split
  · rfl
  · simp [hawake]

/-! ### The clause issued (R18, R61, R108) -/

/-- A clause that does not decode stops the gang. -/
theorem State.issueClause_illegal {s : State} {wave : Nat} {pc : Word} {k : Nat} (cohort : Lanes) (pos : Nat)
    (h : s.decodeClause (s.gang (s.crew (s.wave wave).crew).gang).launch pc = .error (.illegal, k)) :
    s.issueClause wave cohort pc pos = s.takeFault { Cursor.nil with wave := wave, lanes := cohort, pc := pc, addr := pc }
      { cls := .illegal, info := BitVec.ofNat 64 k, addr := 0#64, lanes := cohort } 0#32 := by
  simp only [State.issueClause, h]
  rfl

/-- One that does is checked whole, once no flag that its WAIT names brings a deferred fault. -/
theorem State.issueClause_decoded {s : State} {wave : Nat} {pc : Word} {pos : Nat} {cl : Clause} (cohort : Lanes)
    (h : s.decodeClause (s.gang (s.crew (s.wave wave).crew).gang).launch pc = .ok cl)
    (hflags : ∀ f < 12, cl.head.wait.getLsbD f = true → pos = 0 → s.deferredAt (s.wave wave).crew (.flag wave f) = none) :
    let u := ({ s with cur := some { Cursor.nil with
        wave := wave, lanes := cohort, pc := pc,
        idx := pos - 1, addr := pc + BitVec.ofNat 32 (offsetOf cl.instrs (pos - 1)), count := cl.head.count,
        setA := cl.head.setA, setB := cl.head.setB,
        yielded := (laneList cohort).any (fun l => ((s.wave wave).lane l).yielded) } } : State).modWave
      wave (fun w => w.mapLanes cohort (fun _ x =>
        { x with park := none, yielded := false, temps := if pos = 0 then List.replicate 4 Reg.zero else x.temps }))
    s.issueClause wave cohort pc pos = u.checked (cl.instrs.drop (pos - 1)) := by
  have hnone : ((List.range 12).filter (fun f => pos == 0 && cl.head.wait.getLsbD f)).findSome?
      (fun f => s.deferredAt (s.wave wave).crew (.flag wave f)) = none := by
    refine List.findSome?_eq_none_iff.mpr fun f hf => ?_
    obtain ⟨hlt, hnamed⟩ := List.mem_filter.mp hf
    simp only [Bool.and_eq_true, beq_iff_eq] at hnamed
    exact hflags f (List.mem_range.mp hlt) hnamed.2 hnamed.1
  simp only [State.issueClause, h, hnone, beq_iff_eq]
  rfl

/-! ### The check step (R58, R59) -/

section
variable {i : Instr} {is : List Instr} {m : Sem} {s : State}

theorem checkAll_cons (hi : i.sem = some m) (hf : m.fault s = none) : checkAll (i :: is) s =
    if m.doubtful s then checkBehind is (m.doubt Doubt.nil s) (m.passed s) else checkAll is (m.passed s) := by
  simp only [checkAll, hi, hf]

theorem checkBehind_cons {d : Doubt} (hi : i.sem = some m) (hf : m.faultBehind d s = none) :
    checkBehind (i :: is) d s = checkBehind is (m.doubt d s) (m.passed s) := by
  simp only [checkBehind, hi, hf]

/-- A fault found ends the check: the first in the clause's order is reported. -/
theorem checkAll_fault {p : Precise} (hi : i.sem = some m) (hf : m.fault s = some p) : checkAll (i :: is) s = some (s.ctx.cur, p) := by
  simp only [checkAll, hi, hf]
  rfl

theorem checkBehind_fault {d : Doubt} {p : Precise} (hi : i.sem = some m) (hf : m.faultBehind d s = some p) :
    checkBehind (i :: is) d s = some (s.ctx.cur, p) := by
  simp only [checkBehind, hi, hf]
  rfl

theorem Sem.passed_known (h : m.unknown s = false) : m.passed s = (m.eff s).advance m.size := by
  simp [Sem.passed, h]

theorem Sem.passed_unknown (h : m.unknown s = true) : m.passed s = (m.guess s).advance m.size := by
  simp [Sem.passed, h]

theorem Wait.isGo_eq_false {w : Wait} (h : w ≠ .go) : w.isGo = false := by
  cases w with
  | go => exact absurd rfl h
  | _ => rfl

/-- Behind an instruction that waits, what memory holds is in doubt. -/
theorem Sem.doubt_of_wait (d : Doubt) (h : m.wait s ≠ .go) : Spot.mem ∈ (m.doubt d s).spots := by
  simp only [Sem.doubt, Wait.isGo_eq_false h, Bool.false_eq_true, if_false]
  exact List.mem_cons_self

end

/-- Settles O39: the wave served, the held clause outside an ebb and in one, then the clause issued and its check step. -/
theorem issueEvents : Obligations.IssueEvents := by
  refine ⟨?_, ?_, ?_, ?_, ?_, ?_, ?_⟩
  · intro core wave slot s u hcur h
    exact ⟨congrArg _ (State.issueOpportunity_serves hcur h), fun k hk => nextSlot_first h _ (List.mem_map_of_mem hk)⟩
  · intro wave c cl i m s b t hcur hhold hended hawake hrun hres hcl hi hm
    obtain ⟨hholds, hchecks⟩ := State.HeldClause.resume ⟨hcur, hhold, hended, hawake, hrun⟩ hres hcl hi hm
    refine ⟨fun u hw hserved => congrArg _ (hholds u ?_), fun hserved => ?_⟩
    · rw [show m.wait (s.resumed wave c) = .hold u from hw]
      exact State.holdsOn_hold hserved
    · have hchecked := hchecks (State.holdsOn_none hserved)
      exact ⟨fun hcheck => congrArg _ (hchecked.trans (State.checked_passed hcheck)),
        fun d p hcheck => congrArg _ (hchecked.trans (State.checked_fault hcheck))⟩
  · intro wave c s hcur hhold hended hawake hrun hres
    have hebb := State.HeldClause.ebb ⟨hcur, hhold, hended, hawake, hrun⟩ hres
    refine ⟨fun hstay => ?_, fun i m hebbed hi hmove hm => ?_⟩
    · rw [if_neg (by rintro ⟨he, hm⟩; simp [he, hm] at hstay)] at hebb
      exact congrArg _ hebb
    · rw [if_pos ⟨hebbed, by simp [hi, hmove]⟩] at hebb
      obtain ⟨hgone, hstands⟩ := State.finishMove_eq hi hm
      exact ⟨fun h => congrArg _ (hebb.trans (hgone h)), fun d h => congrArg _ (hebb.trans (hstands d h))⟩
  · exact fun wave s h => ⟨congrArg _ (State.unseated_stands h).1, (State.unseated_stands h).2⟩
  · intro wave pc pos s w ready cohort h
    simp only [State.issueWave, w, ready] at h ⊢
    rw [h]
  · intro wave cohort pc pos s w l c
    refine ⟨fun k h => s.issueClause_illegal cohort pos h, fun cl h hflags => ?_⟩
    have hissue := s.issueClause_decoded cohort h hflags
    exact ⟨fun hcheck => hissue.trans (State.checked_passed hcheck), fun d p hcheck => hissue.trans (State.checked_fault hcheck)⟩
  · intro i is m s hi
    refine ⟨fun p => checkAll_fault hi, fun hf hknown hgo => ?_, fun hf hknown hwait => ?_, fun hf hunknown => ?_,
      fun d => ⟨fun p => checkBehind_fault hi, fun hf hknown => ?_, fun hf hunknown => ?_, m.doubt_of_wait d⟩⟩
    · rw [checkAll_cons hi hf, Sem.passed_known hknown, if_neg (by simp [Sem.doubtful, hknown, hgo, Wait.isGo])]
    · rw [checkAll_cons hi hf, Sem.passed_known hknown, if_pos (by simp [Sem.doubtful, Wait.isGo_eq_false hwait])]
    · rw [checkAll_cons hi hf, Sem.passed_unknown hunknown, if_pos (by simp [Sem.doubtful, hunknown])]
    · rw [checkBehind_cons hi hf, Sem.passed_known hknown]
    · rw [checkBehind_cons hi hf, Sem.passed_unknown hunknown]

end Sys2Proof.Machine
end

section
/-!
Where gangs and node crews are placed, and what a gang that is done leaves (O45).
-/
namespace Sys2Proof.Machine

/-! ### The head of a cluster's queues (R34) -/

/-- A maximum taken along a list reaches every value. -/
theorem le_foldl_max {α : Type} (f : α → Nat) (xs : List α) (m : Nat) :
    m ≤ xs.foldl (fun m x => max m (f x)) m ∧ ∀ x ∈ xs, f x ≤ xs.foldl (fun m x => max m (f x)) m := by
  induction xs generalizing m with
  | nil => exact ⟨Nat.le_refl m, fun _ h => nomatch h⟩
  | cons a xs ih =>
    obtain ⟨hstart, hall⟩ := ih (max m (f a))
    exact ⟨(Nat.le_max_left ..).trans hstart, List.forall_mem_cons.mpr ⟨(Nat.le_max_right ..).trans hstart, hall⟩⟩

section
variable {s : State} {part cluster g : Nat}

/-- The head waits there, and no gang that does has a higher priority. -/
theorem State.clusterHead_spec (h : s.clusterHead cluster = some g) :
    ∃ x, (g, x) ∈ s.gangs ∧ s.queuesAt cluster x = true ∧ ∀ e ∈ s.gangs, s.queuesAt cluster e.2 = true →
      (s.launch e.2.launch).desc.prio ≤ (s.launch x.launch).desc.prio := by
  obtain ⟨⟨k, x⟩, hfind, rfl⟩ := Option.map_eq_some_iff.mp h
  obtain ⟨hmem, hqueues⟩ := List.mem_filter.mp (List.mem_of_find?_eq_some hfind)
  have htop := List.find?_some hfind
  rw [beq_iff_eq] at htop
  refine ⟨x, hmem, hqueues, fun e he hq => ?_⟩
  have hin : e ∈ s.gangs.filter (fun e => s.queuesAt cluster e.2) := List.mem_filter.mpr ⟨he, hq⟩
  exact htop ▸ (le_foldl_max (fun e => (s.launch e.2.launch).desc.prio) _ 0).2 e hin

/-- It is of the partition that places it. -/
theorem State.queueHead_iff : s.queueHead part cluster = some g ↔
    s.clusterHead cluster = some g ∧ (s.launch (s.gang g).launch).part = part := by
  simp [State.queueHead, Option.filter_eq_some_iff]

/-- So no other partition has a head there. -/
theorem State.queueHead_other (h : s.queueHead part cluster = some g) {q : Nat} (hq : q ≠ part) : s.queueHead q cluster = none := by
  obtain ⟨hhead, hpart⟩ := State.queueHead_iff.mp h
  refine Option.eq_none_iff_forall_ne_some.mpr fun k hk => ?_
  obtain ⟨hhead', hpart'⟩ := State.queueHead_iff.mp hk
  exact hq (hpart'.symm.trans (Option.some.inj (hhead'.symm.trans hhead) ▸ hpart))

/-! ### GANG_PLACEMENT (R34, R35, R193, R199) -/

theorem State.gangPlacement_no_head (h : s.queueHead part cluster = none) : s.gangPlacement part cluster = s := by
  simp only [State.gangPlacement, h]

variable (h : s.queueHead part cluster = some g)
include h

/-- A gang that is neither fixed nor of a unit goes to the lowest core of the cluster that it fits. -/
theorem State.gangPlacement_free (hunit : (s.launch (s.gang g).launch).unit = false)
    (hfixed : (s.launch (s.gang g).launch).desc.fixed = false) {i : Nat} (hfit : (List.range 16).find? (fun i => s.fitsAt g cluster i) = some i) :
    s.gangPlacement part cluster = s.placeGang g (16 * cluster + i) := by
  simp [State.gangPlacement, h, hunit, hfixed, hfit]

/-- A fixed one goes to its own core, in the order of the ranks under MCAST. -/
theorem State.gangPlacement_fixed (hunit : (s.launch (s.gang g).launch).unit = false)
    (hfixed : (s.launch (s.gang g).launch).desc.fixed = true) :
    s.gangPlacement part cluster =
      if s.fitsAt g cluster ((s.gang g).start % 16) = true ∧
        ((s.launch (s.gang g).launch).desc.mcast = true → s.ranksPlaced (s.gang g) = true) then s.placeGang g (s.gang g).start else s := by
  simp [State.gangPlacement, h, hunit, hfixed, ← Bool.not_eq_true, or_iff_not_imp_left]

/-- All gangs of a unit are placed at once, where it heads the queues of every usable cluster. -/
theorem State.gangPlacement_unit (hunit : (s.launch (s.gang g).launch).unit = true) :
    ((∀ c ∈ s.usableClusters part, ∃ k, s.queueHead part c = some k ∧ (s.gang k).launch = (s.gang g).launch) →
      s.gangPlacement part cluster = (s.placeAll part (s.waitingOf (s.gang g).launch)).getD s) ∧
    (¬ (∀ c ∈ s.usableClusters part, ∃ k, s.queueHead part c = some k ∧ (s.gang k).launch = (s.gang g).launch) →
      s.gangPlacement part cluster = s) := by
  have hall : (s.usableClusters part).all (fun c => match s.queueHead part c with
        | some k => (s.gang k).launch == (s.gang g).launch
        | none => false) = true ↔
      ∀ c ∈ s.usableClusters part, ∃ k, s.queueHead part c = some k ∧ (s.gang k).launch = (s.gang g).launch := by
    refine List.all_eq_true.trans (forall₂_congr fun c _ => ?_)
    cases s.queueHead part c <;> simp
  refine ⟨fun hhead => ?_, fun hhead => ?_⟩ <;> simp only [State.gangPlacement, h, hunit, if_true]
  · exact if_pos (hall.mpr hhead)
  · exact if_neg fun hb => hhead (hall.mp hb)

end

/-! ### NODE_CREW_PLACEMENT (R166, R182) -/

section
variable {s : State} {n : Node} {cluster core level : Nat}

/-- While the cluster has a reserved slot of the level free, a crew goes to one. -/
theorem State.nodeCrewFits_reserved (h : ∃ i < 16, s.reservedFree n.part (16 * cluster + i) level n.shape = true) :
    s.nodeCrewFits n cluster core level = s.reservedFree n.part core level n.shape := by
  obtain ⟨i, hi, hfree⟩ := h
  exact if_pos (List.any_eq_true.mpr ⟨i, List.mem_range.mpr hi, hfree⟩)

/-- Otherwise to an ordinary one. -/
theorem State.nodeCrewFits_ordinary (h : ∀ i < 16, s.reservedFree n.part (16 * cluster + i) level n.shape = false) :
    s.nodeCrewFits n cluster core level = s.roomOn n.part core (shapeCost n.shape) := by
  refine if_neg fun hany => ?_
  obtain ⟨i, hi, hfree⟩ := List.any_eq_true.mp hany
  exact absurd hfree (by simp [h i (List.mem_range.mp hi)])

/-- The gang of a node crew (R182). -/
def nodeGang (node cluster core : Nat) (n : Node) : Gang :=
  { launch := n.launch, lin := 0, node := some node, attempt := 0, start := core, cluster := some cluster, phase := .running,
    replayable := true, pairs := [] }

/-- A crew starts for the first level that the node needs and that has a place on the core. -/
theorem State.nodeCrewPlacement_starts {node : Nat} (hn : look node s.nodes = some n) (hopen : n.opened = true)
    (hres : s.resides n.launch = true) (hcore : clusterOfCore core = cluster) (hhome : n.home = 16 ∨ n.home = cluster)
    (hlevel : (s.nodeNeed node cluster n).find? (s.nodeCrewFits n cluster core) = some level) :
    s.nodeCrewPlacement node cluster core =
      ({ s with gangs := s.gangs ++ [(s.nextUid, nodeGang node cluster core n)], nextUid := s.nextUid + 1 } : State).seatCrew s.nextUid 0 core
        { role := n.crole, nreg := n.shape.nreg, ntile := n.shape.ntile, nhyp := n.shape.nhyp, nbun := n.shape.nbun, fibres := 32,
          lmem := n.shape.lmem, wins := [], vlevel := level,
          reserved := if s.reservedFree n.part core level n.shape then some level else none } := by
  have hmay : (n.home == 16 || n.home == cluster) = true := by simpa using hhome
  simp only [State.nodeCrewPlacement, hn, hopen, hres, hcore, hmay, hlevel, beq_self_eq_true, Bool.and_self, Bool.not_true,
    Bool.false_eq_true, if_false]
  rfl

end

/-- Settles O45: the head, the three ways a gang is placed, node crews, retirement. -/
theorem gangEvents : Obligations.GangEvents := by
  refine ⟨fun part cluster g s h => ⟨s.clusterHead_spec (State.queueHead_iff.mp h).1, fun q hq => ?_⟩,
    fun part cluster g i s h hunit hfixed hfit => congrArg _ (State.gangPlacement_free h hunit hfixed hfit),
    fun part cluster g s h hunit hfixed => ⟨fun hmay => ?_, fun hmay => ?_⟩,
    fun part cluster g s h hunit => ⟨fun t hhead hplaced => ?_, fun hstays => ?_⟩,
    fun n cluster core level s => ⟨State.nodeCrewFits_reserved, State.nodeCrewFits_ordinary⟩,
    fun node cluster core level n s hn hopen hres hcore hhome hlevel => ?_, fun g s hdone => ?_⟩
  · exact congrArg _ (State.gangPlacement_no_head (State.queueHead_other h hq))
  · exact congrArg _ ((State.gangPlacement_fixed h hunit hfixed).trans (if_pos hmay))
  · exact congrArg _ ((State.gangPlacement_fixed h hunit hfixed).trans (if_neg hmay))
  · refine congrArg _ (((State.gangPlacement_unit h hunit).1 hhead).trans ?_)
    rw [hplaced]
    rfl
  · by_cases hhead : ∀ c ∈ s.usableClusters part, ∃ k, s.queueHead part c = some k ∧ (s.gang k).launch = (s.gang g).launch
    · refine congrArg _ (((State.gangPlacement_unit h hunit).1 hhead).trans ?_)
      rw [hstays.resolve_left (not_not.mpr hhead)]
      rfl
    · exact congrArg _ ((State.gangPlacement_unit h hunit).2 hhead)
  · exact ⟨nodeGang node cluster core n, rfl, rfl, rfl, rfl,
      congrArg _ (State.nodeCrewPlacement_starts hn hopen hres hcore hhome hlevel)⟩
  · have hretires : exec (.gangRetirement g) s = .next (s.gangRetirement g) := rfl
    refine ⟨_, hretires, ?_⟩
    simp only [State.gangRetirement, hdone, Bool.not_true, Bool.false_eq_true, if_false, true_and]
    exact fun hnode => by simp [hnode]

end Sys2Proof.Machine
end

section
/-!
LAUNCH and the acceptance of a device launch (O35). An address of the gang leads where it led whatever accesses perform before the
request is sent.
-/
namespace Sys2Proof.Machine

/-! ### Accesses that perform move no address of a gang (R91)

One lemma per operation that an access can lead to, as `regionTables` has them for DET regions. -/

namespace State
variable (s : State)

@[simp] theorem addressTables_modGang (k : Nat) {f : Gang → Gang} (hf : ∀ g, (f g).addressKey = g.addressKey) :
    (s.modGang k f).addressTables = s.addressTables := by
  simp only [addressTables, modGang, shown_change hf]

@[simp] theorem addressTables_modLaunch (k : Nat) {f : Launch → Launch} (hf : ∀ l, (f l).desc = l.desc) :
    (s.modLaunch k f).addressTables = s.addressTables := by
  simp only [addressTables, modLaunch, shown_change hf]

/-- One operation after another, each of which leaves them. -/
@[simp] theorem addressTables_foldl {α : Type} {f : State → α → State} (hf : ∀ t x, (f t x).addressTables = t.addressTables) (xs : List α) :
    (xs.foldl f s).addressTables = s.addressTables := by
  induction xs generalizing s with
  | nil => rfl
  | cons x xs ih => exact (ih _).trans (hf s x)

@[simp] theorem addressTables_putHomeWord (h : Home) (v : Word) : (s.putHomeWord h v).addressTables = s.addressTables :=
  s.addressTables_putNat _ _

@[simp] theorem addressTables_putHomeDword (h : Home) (v : Dword) : (s.putHomeDword h v).addressTables = s.addressTables := by
  simp [putHomeDword]

@[simp] theorem addressTables_markDirty (p q : Nat) (a : VAddr) : (s.markDirty p q a).addressTables = s.addressTables := rfl

@[simp] theorem addressTables_buffer (k : Nat) (es : List WEntry) (cs : List Charge) : (s.buffer k es cs).addressTables = s.addressTables := by
  unfold buffer
  split
  · rfl
  · exact s.addressTables_modCrew k fun _ => rfl

@[simp] theorem addressTables_postLaunch (k : Nat) (r : FaultRec) : (s.postLaunch k r).addressTables = s.addressTables :=
  (s.postLaunch_recordsOnly k r).tables

@[simp] theorem addressTables_postHost (r : FaultRec) : (s.postHost r).addressTables = s.addressTables :=
  (s.postTo_recordsOnly _ _ r).tables

/-! ### Gangs that stop (R207) -/

@[simp] theorem addressTables_stopGang (g : Nat) : (s.stopGang g).addressTables = s.addressTables := by
  simp only [stopGang, addressTables, modGang, Prod.mk.injEq, and_true]
  refine ⟨shown_map (fun e => ?_) _, shown_change (fun x => ?_) _ _⟩
  · split <;> exact ⟨rfl, rfl⟩
  · rfl

@[simp] theorem addressTables_stopNodes (k : Nat) : (s.stopNodes k).addressTables = s.addressTables := rfl

@[simp] theorem addressTables_stopGangs (ancestor : Word) (fuel : Nat) (gs : List Nat) :
    (s.stopGangs ancestor fuel gs).addressTables = s.addressTables := by
  induction fuel generalizing s gs with
  | zero => rfl
  | succ fuel ih =>
    simp only [stopGangs]
    split <;> simp [ih]

@[simp] theorem addressTables_stopLaunch (k status : Nat) : (s.stopLaunch k status).addressTables = s.addressTables := by
  simp [stopLaunch]

@[simp] theorem addressTables_faultGang (g : Nat) : (s.faultGang g).addressTables = s.addressTables := by
  unfold faultGang
  dsimp only
  split <;> simp

@[simp] theorem addressTables_defer (d : Deferred) : (s.defer d).addressTables = s.addressTables := by
  unfold defer
  split
  · rfl
  · exact (addressTables_faultGang _ _).trans (addressTables_postLaunch _ _ _)
  · rfl

/-! ### Barrier objects (R106, R128, R240 to R245) -/

@[simp] theorem addressTables_wakeAt (h : Home) (q : Bool) : (s.wakeAt h q).addressTables = s.addressTables := rfl

@[simp] theorem addressTables_modDetBar (k pa : Nat) (f : DetBar → DetBar) : (s.modDetBar k pa f).addressTables = s.addressTables :=
  s.addressTables_modLaunch k fun _ => rfl

@[simp] theorem addressTables_enterSlack (k : Nat) (b : DetBar) : (s.enterSlack k b).addressTables = s.addressTables := by
  refine (addressTables_modDetBar _ _ _ _).trans ?_
  simp only [addressTables, Prod.mk.injEq, and_true]
  refine shown_map (fun e => ?_) _
  split <;> exact ⟨rfl, rfl⟩

@[simp] theorem addressTables_testPhase (h : Home) : (s.testPhase h).addressTables = s.addressTables := by
  unfold testPhase
  split
  · split <;> simp [completePhase]
  · rfl

@[simp] theorem addressTables_markBarrier (h : Home) : (s.markBarrier h).addressTables = s.addressTables := by
  unfold markBarrier
  split <;> rfl

@[simp] theorem addressTables_barOp (h : Home) (op : BarOp) : (s.barOp h op).addressTables = s.addressTables := by
  unfold barOp
  dsimp only
  split
  · cases op <;> simp [barInit, barArrive, barExpect, barCredit]
  · split
    · simp
    · cases op <;> simp [barInit, barArrive, barExpect, barCredit]

@[simp] theorem addressTables_scramble (h : Home) : (s.scramble h).addressTables = s.addressTables := by
  simp only [scramble, addressTables_putHomeWord]
  rfl

@[simp] theorem addressTables_unmarkBarrier (h : Home) : (s.unmarkBarrier h).addressTables = s.addressTables := rfl

@[simp] theorem addressTables_storeWord (h : Home) (v : Word) : (s.storeWord h v).addressTables = s.addressTables := by
  unfold storeWord plainOver
  split
  · simp
  · split <;> simp

@[simp] theorem addressTables_performAt (h : Home) (o : AccessOp) : (s.performAt h o).2.addressTables = s.addressTables := by
  unfold performAt
  dsimp only
  split <;> dsimp only <;> split <;> simp

/-! ### Accesses and loads that perform (R107, R108, R112) -/

@[simp] theorem addressTables_openFault (crew wave : Nat) (a : VAddr) (addr : Dword) :
    (s.openFault crew wave a addr).2.addressTables = s.addressTables :=
  addressTables_postHost _ _

@[simp] theorem addressTables_faultFor (crew wave : Nat) (a : VAddr) : (s.faultFor crew wave a).2.addressTables = s.addressTables := by
  unfold faultFor
  dsimp only
  split
  · rfl
  · simp

@[simp] theorem addressTables_answerAccess (k : Nat) (a : Access) (old : Nat) : (s.answerAccess k a old).addressTables = s.addressTables := by
  unfold answerAccess lowerFlag
  dsimp only
  split
  · rfl
  · split
    · split <;> rfl
    · rfl

@[simp] theorem addressTables_trapRecord (crew wave : Nat) (info : Dword) (slot : Nat) (lanes pc : Word) (stop : Option Bool) :
    (s.trapRecord crew wave info slot lanes pc stop).addressTables = s.addressTables :=
  addressTables_postLaunch _ _ _

@[simp] theorem addressTables_performHere (k : Nat) (a : Access) (p q : Nat) (h : Home) :
    (s.performHere k a p q h).addressTables = s.addressTables := by
  have hdropped : ({ s with accesses := drop k s.accesses } : State).addressTables = s.addressTables := rfl
  unfold performHere
  split <;> simp [hdropped]

@[simp] theorem addressTables_performDue (k : Nat) (a : Access) : (s.performDue k a).addressTables = s.addressTables := by
  have hdropped : ({ s with accesses := drop k s.accesses } : State).addressTables = s.addressTables := rfl
  unfold performDue
  dsimp only
  split
  · simp
  · simp [hdropped]
  · exact s.addressTables_faultFor _ _ _
  · split <;> simp [failAccess, deferTranslate]

@[simp] theorem addressTables_performAccess (k : Nat) : (s.performAccess k).addressTables = s.addressTables := by
  unfold performAccess
  split
  · rfl
  · split
    · rfl
    · unfold hostServed
      split
      · exact addressTables_performDue _ _ _
      · exact addressTables_performDue _ _ _

@[simp] theorem addressTables_performLoad (k : Nat) (f : Flight) : (s.performLoad k f).addressTables = s.addressTables := by
  unfold performLoad
  split
  · dsimp only
    split
    · rfl
    · split
      · rfl
      · exact s.addressTables_faultFor _ _ _
  · rfl

@[simp] theorem addressTables_performAll (ks : List Nat) : (s.performAll ks).addressTables = s.addressTables := by
  induction ks generalizing s with
  | nil => rfl
  | cons k ks ih =>
    refine (ih _).trans ?_
    unfold performOne
    split <;> simp

end State

/-- A crew is found by its gang and index in the table. -/
theorem State.crewAt_of_addressTables {s t : State} (h : t.addressTables = s.addressTables) (gang idx : Nat) :
    t.crewAt gang idx = s.crewAt gang idx := by
  have hshown (u : State) : u.crewAt gang idx =
      ((shown Crew.addressKey u.crews).find? (fun e => e.2.1 == gang && e.2.2.1 == idx)).map (·.1) := by
    simp only [State.crewAt, shown, List.find?_map, Option.map_map]
    rfl
  have hcrews : shown Crew.addressKey t.crews = shown Crew.addressKey s.crews := congrArg (·.1) h
  rw [hshown, hshown, hcrews]

/-- The tables say where a tagged address leads. -/
theorem State.tagged_of_addressTables {s t : State} (h : t.addressTables = s.addressTables) (crew : Nat) (a : Dword) (n : Nat) :
    t.tagged crew a n = s.tagged crew a n := by
  have hat := State.crewAt_of_addressTables h
  simp only [State.addressTables, Prod.mk.injEq] at h
  obtain ⟨hcrews, hgangs, hlaunches⟩ := h
  have hcrew (j : Nat) : (t.crew j).addressKey = (s.crew j).addressKey := by
    simp only [State.crew, ← Option.getD_map Crew.addressKey, ← look_shown, hcrews]
  have hgang (j : Nat) : (t.gang j).addressKey = (s.gang j).addressKey := by
    simp only [State.gang, ← Option.getD_map Gang.addressKey, ← look_shown, hgangs]
  have hdesc (j : Nat) : (t.launch j).desc = (s.launch j).desc := by
    simp only [State.launch, ← Option.getD_map Launch.desc, ← look_shown, hlaunches]
  simp only [Crew.addressKey, Gang.addressKey, Prod.mk.injEq, forall_and] at hcrew hgang
  obtain ⟨hof, -, hsize⟩ := hcrew
  obtain ⟨hlaunch, hnode⟩ := hgang
  have hncrew (j k : Nat) : ncrewOf (t.gang j) (t.launch k) = ncrewOf (s.gang j) (s.launch k) := by
    simp only [ncrewOf, hnode, hdesc]
  have hlocal (w : Word) : t.localAddr crew w n = s.localAddr crew w n := by
    simp only [State.localAddr, hncrew, hat, hof, hsize, hlaunch]
  unfold State.tagged
  split
  · rfl
  · rfl
  · simp only [hlocal]
  · rfl

/-- What performs before a release leaves where a tagged address leads. -/
theorem State.tagged_catchUpLanes (s : State) (wave : Nat) (m : Lanes) (crew : Nat) (a : Dword) (n : Nat) :
    (s.catchUpLanes wave m).tagged crew a n = s.tagged crew a n :=
  State.tagged_of_addressTables (s.addressTables_performAll _) crew a n

/-! ### LAUNCH (R275, R28) -/

section
variable {s : State} {g : Arg}

/-- A LAUNCH of the first crew of a gang, of an aligned descriptor in bounds, meets no fault. -/
theorem semLaunch_fault (hr : s.Ready g rolesAll [.u g.a, .u (g.a + 1), .u g.d, .u (g.d + 1)]) (hidx : s.ctx.crew.idx = 0)
    (hnode : s.ctx.gang.node = none) (hspace : spaceOf (launchAddr s.ctx g) ≠ 3) (halign : (launchAddr s.ctx g).extractLsb' 0 4 = 0#4)
    (hplace : (s.tagged s.ctx.crewId (launchAddr s.ctx g) launchBytes).isSome = true) : (semLaunch g).fault s = none := by
  obtain ⟨_, hrole, hland, _⟩ := hr
  have hbounds : (s.tagged s.ctx.crewId (launchAddr s.ctx g) launchBytes).isNone = false := by simpa [← Option.not_isSome] using hplace
  refine Sem.fault_none ?_ (firstFault_eq_none ?_)
  · simp only [semLaunch, hidx, hnode, Option.isSome_none, bne_self_eq_false, Bool.or_self, hrole.none]
  · simp only [List.mem_cons, List.not_mem_nil, or_false, forall_eq_or_imp, forall_eq]
    exact ⟨hland.none, onceFault_none (by simpa using hspace), onceFault_none (by simp [halign]), onceFault_none hbounds⟩

/-- Active fibres that no answer has woken. -/
def State.unanswered (s : State) (g : Arg) : Lanes := laneSet (fun l => (s.ctx.act g.m).getLsbD l && !(s.ctx.wave.lane l).woken)

/-- All of them, or none. -/
theorem State.OnLanes.unanswered (h : s.OnLanes (s.ctx.act g.m) (fun ln => ln.woken = false)) : s.unanswered g = s.ctx.act g.m := by
  refine BitVec.eq_of_getLsbD_eq fun l hl => ?_
  rw [State.unanswered, getLsbD_laneSet _ hl]
  cases ha : (s.ctx.act g.m).getLsbD l with
  | false => rfl
  | true => simp [h l hl ha]

theorem State.OnLanes.answered (h : s.OnLanes (s.ctx.act g.m) (fun ln => ln.woken = true)) : s.unanswered g = 0#32 :=
  laneSet_none fun l hl => by
    cases ha : (s.ctx.act g.m).getLsbD l with
    | false => rfl
    | true => simp [h l hl ha]

theorem semLaunch_wait : (semLaunch g).wait s =
    if s.ctx.launch.level == 10 || s.unanswered g == 0#32 then .go else .park (s.unanswered g) (.launch s.nextUid) := rfl

/-- Where no fibre has parked at it, it writes status 1 at level 10, and lets fibres that have been answered go on elsewhere. -/
theorem semLaunch_eff_go (ha : s.Active g) (hparked : launchParked s s.ctx.wave = 0#32) : (semLaunch g).eff s =
    if s.ctx.launch.level = 10 then (s.setUni s.ctx.crewId g.d (Reg.done 1#32 .n32)).setUni s.ctx.crewId (g.d + 1) (Reg.done 0#32 .n32)
    else s.modWave s.ctx.cur.wave (fun w => w.mapLanes (s.ctx.act g.m) (fun _ ln => { ln with woken := false })) := by
  simp [semLaunch, hparked, ha]

end

/-! ### The request that is sent (R275) -/

/-- The request of the active fibres. -/
def State.launchReq (s : State) (g : Arg) : LaunchReq :=
  { wave := s.ctx.cur.wave, crew := s.ctx.crewId, lanes := s.ctx.act g.m, d := g.d, desc := launchAddr s.ctx g,
    local_ := s.tagged s.ctx.crewId (launchAddr s.ctx g) launchBytes }

/-- The state in which the active fibres have parked at the LAUNCH. -/
def State.atLaunch (s : State) (g : Arg) : State := s.parkLanes (s.ctx.act g.m) (.launch s.nextUid)

/-- The fibres park by standing before the LAUNCH. -/
theorem State.parkLanes_eq {s : State} {c : Cursor} (hc : s.cur = some c) (m : Lanes) (r : ParkReason) :
    ∃ p, s.parkLanes m r = { s with cur := some p, waves := change c.wave (fun w => w.mapLanes m (fun _ x =>
      { x with park := some r, pos := c.idx + 1, pc := c.pc, woken := false, yielded := c.yielded })) s.waves } ∧ p.wave = c.wave := by
  simp only [State.parkLanes, State.standLanes, hc]
  exact ⟨_, rfl, rfl⟩

section
variable {s : State} {g : Arg} (hi : s.Issuing) (hw : look s.ctx.cur.wave s.waves = some s.ctx.wave)
include hi hw

/-- There the clause is of the same crew, and its wave holds the parked fibres. -/
theorem State.atLaunch_ctx : (s.atLaunch g).ctx.cur.wave = s.ctx.cur.wave ∧ (s.atLaunch g).ctx.crewId = s.ctx.crewId ∧
    (s.atLaunch g).ctx.crew = s.ctx.crew ∧
    (s.atLaunch g).ctx.wave = s.ctx.wave.mapLanes (s.ctx.act g.m) (fun _ x => { x with
      park := some (.launch s.nextUid), pos := s.ctx.cur.idx + 1, pc := s.ctx.cur.pc, woken := false, yielded := s.ctx.cur.yielded }) := by
  obtain ⟨c, hc⟩ := hi.cur
  have hcur : s.ctx.cur = c := by rw [State.ctx, hc]; rfl
  have hcrew : s.ctx.crew = s.crew s.ctx.wave.crew := rfl
  have hcrewId : s.ctx.crewId = s.ctx.wave.crew := rfl
  rw [hcrew, hcrewId]
  rw [hcur] at hw ⊢
  generalize s.ctx.wave = w at hw ⊢
  obtain ⟨p, hpark, hpw⟩ := State.parkLanes_eq hc (s.ctx.act g.m) (.launch s.nextUid)
  rw [State.atLaunch, hpark]
  generalize s.ctx.act g.m = m
  simp only [State.ctx, State.ctxOf, State.wave, Option.getD_some, hpw, look_change_self, hw, Option.map_some]
  exact ⟨trivial, rfl, rfl, trivial⟩

end

theorem State.atLaunch_rest {s : State} {g : Arg} (hi : s.Issuing) :
    (s.atLaunch g).nextUid = s.nextUid ∧ (s.atLaunch g).addressTables = s.addressTables := by
  obtain ⟨c, hc⟩ := hi.cur
  obtain ⟨p, hpark, -⟩ := State.parkLanes_eq hc (s.ctx.act g.m) (.launch s.nextUid)
  rw [State.atLaunch, hpark]
  exact ⟨rfl, rfl⟩

section
variable {s : State} {g : Arg}

/-- The fibres that have parked there are the active ones, where none had parked before. -/
theorem launchParked_atLaunch (hi : s.Issuing) (hw : look s.ctx.cur.wave s.waves = some s.ctx.wave) (hlen : s.ctx.wave.lanes.length = 32)
    (hnone : launchParked s s.ctx.wave = 0#32) : launchParked (s.atLaunch g) (s.atLaunch g).ctx.wave = s.ctx.act g.m := by
  obtain ⟨-, -, -, hwave⟩ := State.atLaunch_ctx (g := g) hi hw
  refine BitVec.eq_of_getLsbD_eq fun l hl => ?_
  rw [launchParked, getLsbD_laneSet _ hl, hwave, (State.atLaunch_rest hi).1]
  cases hm : (s.ctx.act g.m).getLsbD l with
  | true => simp [Wave.lane_mapLanes (hlen ▸ hl) hm]
  | false =>
    rw [Wave.lane_mapLanes_out hm]
    have hbit := congrArg (fun b : Lanes => b.getLsbD l) hnone
    simpa [launchParked, getLsbD_laneSet _ hl] using hbit

/-- One request is sent, under the name that the fibres parked with, once what must perform first has (R275). -/
theorem semLaunch_eff_sends (hi : s.Issuing) (ha : s.Active g) (hw : look s.ctx.cur.wave s.waves = some s.ctx.wave)
    (hlen : s.ctx.wave.lanes.length = 32) (hnone : launchParked s s.ctx.wave = 0#32) :
    let u := (s.atLaunch g).catchUpLanes s.ctx.cur.wave (s.ctx.act g.m)
    (semLaunch g).eff (s.atLaunch g) =
      { u with lreqs := u.lreqs ++ [(s.nextUid, s.launchReq g)], nextUid := max u.nextUid (s.nextUid + 1) } := by
  obtain ⟨hcur, hcrewId, hcrew, hwave⟩ := State.atLaunch_ctx (g := g) hi hw
  obtain ⟨huid, htables⟩ := State.atLaunch_rest (g := g) hi
  have hact : (s.atLaunch g).ctx.act g.m = 0#32 := State.act_parkLanes hi g.m _
  have hparked := launchParked_atLaunch (g := g) hi hw hlen hnone
  have haddr : launchAddr (s.atLaunch g).ctx g = launchAddr s.ctx g := by rw [launchAddr, hcrew]; rfl
  have hlocal (a : Dword) : ((s.atLaunch g).catchUpLanes s.ctx.cur.wave (s.ctx.act g.m)).tagged s.ctx.crewId a launchBytes =
      s.tagged s.ctx.crewId a launchBytes :=
    (State.tagged_catchUpLanes _ _ _ _ a _).trans (State.tagged_of_addressTables htables _ a _)
  obtain ⟨ls, hls⟩ := laneList_eq_cons ha
  obtain ⟨hlow, hmem⟩ := lowestLane_spec ha
  have hpark : ((s.atLaunch g).ctx.wave.lane (lowestLane (s.ctx.act g.m))).park = some (.launch s.nextUid) := by
    rw [hwave, Wave.lane_mapLanes (hlen ▸ hlow) hmem]
  have hsome : (s.ctx.act g.m == 0#32) = false := by simpa using ha
  simp only [semLaunch, hparked, hact, hsome, hcur, hcrewId, haddr, hlocal, hls, List.head?_cons, Option.bind_some, hpark,
    Option.getD_some, beq_self_eq_true, Bool.false_eq_true, if_false, if_true]
  rfl

end

/-! ### The acceptance of a device launch (R275) -/

section
variable {s : State} {k : Nat} {r : LaunchReq}

/-- Who asks by a request: a launch one level below the gang's own. -/
def State.asker (s : State) (r : LaunchReq) : Asker :=
  let c := s.crew r.crew
  let l := s.launch (s.gang c.gang).launch
  { part := l.part, tenant := l.tenant, level := l.level + 1, da := r.desc, place := r.local_, tag := 0#32, firing := 0,
    parent := some c.gang, pref := taskPath c (s.gang c.gang) l }

/-- Once the earlier writes of its fibres have performed, the request is answered as its acceptance ends. -/
theorem State.acceptDevice_ready (hk : look k s.lreqs = some r) (hquiet : s.quietLanes r.wave r.lanes = true)
    (hawake : s.awake r.crew = true) :
    (∀ ident u, s.acceptance (s.asker r) = .accepted ident u →
      s.acceptDevice k = (u.notReplayable (s.crew r.crew).gang).answerLaunch k r 0 ident) ∧
    (∀ off u, s.acceptance (s.asker r) = .rejected off u → s.acceptDevice k = u.answerLaunch k r 2 (BitVec.ofNat 32 off)) ∧
    (∀ u, s.acceptance (s.asker r) = .unreadable u → s.acceptDevice k = u.answerLaunch k r 3 0#32) ∧
    (∀ u, s.acceptance (s.asker r) = .waiting u → s.acceptDevice k = u) := by
  simp only [State.acceptDevice, hk, hquiet, hawake, Bool.not_true, Bool.or_self, Bool.false_eq_true, if_false]
  exact ⟨fun ident u h => by rw [State.asker] at h; simp only [h], fun off u h => by rw [State.asker] at h; simp only [h],
    fun u h => by rw [State.asker] at h; simp only [h], fun u h => by rw [State.asker] at h; simp only [h]⟩

end

section
variable {s : State} {a : Asker} {p : VAddr} {ws : List Word} {qok : Bool} (hplace : a.place = some p)
  (hwords : s.readWords? a.part a.tenant p 64 = some ws) (hqueue : s.faultqOk a.part a.tenant (dwordAt ws 104) = .ok qok)
  (hsignal : s.signalMiss a.part a.tenant (dwordAt ws 120) = none)
include hplace hwords hqueue hsignal

/-- A block that meets a fatal fault ends the acceptance of a device launch, whatever else offends. -/
theorem State.acceptance_unread {g off : Nat} {b : VAddr} (hparent : a.parent = some g)
    (hblocks : s.readBlocks a.part a.tenant ws = .error (.unread off b)) :
    s.acceptance a = .unreadable (s.dropFatal a.part a.tenant b) := by
  simp only [State.acceptance, hplace, State.fetch, hwords, hqueue, hsignal, hblocks, State.endBy, hparent, Option.isSome_some,
    Bool.true_or, if_true]

/-- The payload has been copied when a field is found to offend. -/
theorem State.acceptance_rejected {b : LaunchBlocks} {u : State} {off : Nat} {addr : Dword}
    (hblocks : s.readBlocks a.part a.tenant ws = .ok b) (hcopy : s.copyPayload a.part a.tenant ws = .ok u)
    (hplan : u.plan a.part a.tenant a.da ws qok b = .error (.reject off addr)) (haddr : addr ≠ 0#64) :
    s.acceptance a = .rejected off (u.rejectLaunch a ws qok off addr) := by
  have hne : (addr == 0#64) = false := by simpa using haddr
  simp only [State.acceptance, hplace, State.fetch, hwords, hqueue, hsignal, hblocks, hcopy, hplan, State.endBy, hne, Bool.false_eq_true,
    if_false]

end

/-- Settles O35: LAUNCH at level 10, once answered, and where it asks; then how the acceptance of the request ends. -/
theorem launchResult : Obligations.LaunchResult := by
  refine ⟨?_, ?_⟩
  · intro f s g da act hready hidx hnode hspace halign hplace hnone
    have hf := semLaunch_fault hready hidx hnode hspace halign hplace
    obtain ⟨hi, -, -, ha⟩ := hready
    obtain ⟨c, hcur⟩ := hi.cur
    refine ⟨fun hlevel => ?_, fun hlevel hwoken => ?_, fun hlevel hasleep hwave hlen => ?_⟩
    · have hgo : (semLaunch g).wait s = .go := by rw [semLaunch_wait, if_pos (by simp [hlevel])]
      rw [exec_go (i := .launch f) rfl hcur hf hgo, semLaunch_eff_go ha hnone, if_pos hlevel]
      rfl
    · have hgo : (semLaunch g).wait s = .go := by rw [semLaunch_wait, if_pos (by simp [hwoken.answered])]
      rw [exec_go (i := .launch f) rfl hcur hf hgo, semLaunch_eff_go ha hnone, if_neg hlevel]
      rfl
    · have hpark : (semLaunch g).wait s = .park (s.ctx.act g.m) (.launch s.nextUid) := by
        rw [semLaunch_wait, hasleep.unanswered, if_neg (by simpa using ⟨hlevel, ha⟩)]
      rw [exec_park (i := .launch f) rfl hcur hf hpark, s.askFor_other (by simp)]
      exact congrArg (fun t : State => Host.Outcome.next (t.advance 3)) (semLaunch_eff_sends hi ha hwave hlen hnone)
  · intro k r s hk hquiet hawake c g l a answered
    have hasker : a = s.asker r := rfl
    have hexec : exec (.launchAcceptance (.device k)) s = .next (s.acceptDevice k) := rfl
    obtain ⟨haccepted, hrejected, hunreadable, hwaiting⟩ := State.acceptDevice_ready hk hquiet hawake
    rw [← hasker] at haccepted hrejected hunreadable hwaiting
    rw [hexec]
    refine ⟨fun ident u h => ?_, fun off u h => ?_, fun u h => ?_, fun u h => ?_, fun p ws qok hplace hwords hqueue hsignal =>
      ⟨fun off b hblocks => ?_, fun b u off addr hblocks hcopy hplan haddr => ?_⟩⟩
    · rw [haccepted ident u h]
      rfl
    · rw [hrejected off u h]
      rfl
    · rw [hunreadable u h]
      rfl
    · rw [hwaiting u h]
    · rw [hunreadable _ (State.acceptance_unread (a := a) hplace hwords hqueue hsignal rfl hblocks)]
      rfl
    · rw [hrejected _ _ (State.acceptance_rejected (a := a) hplace hwords hqueue hsignal hblocks hcopy hplan haddr)]
      rfl

end Sys2Proof.Machine
end
